-- ==== Sys2Proof/Word.lean ====
section
/-! DEFINITION. The word types of the Haljo 24 and the plainest data they need: bytes, 32-bit registers, DT64 device
times (01_line.md R31), WP48 positions (R34), 16-bit epochs (R42), and sparse tables of instances. -/

namespace Sys2Proof

/-- One byte of a record, a frame or memory. -/
abbrev Byte := BitVec 8
/-- A setup register (00_scope.md R14). -/
abbrev Word := BitVec 32
/-- A DT64 device time: seconds in bits 63..32, fraction in bits 31..0 (01_line.md R31). -/
abbrev DT64 := BitVec 64
/-- A WP48 along-web position in 1/16 µm, modulo 2^48 (01_line.md R34, R35). -/
abbrev WP48 := BitVec 48
/-- An epoch: FRAME in bits 15..13, SEQ in bits 12..0 (01_line.md R42). -/
abbrev Epoch := BitVec 16

/-- A sparse table: instances by number, in rising order. A number that is not listed has the instance's reset value,
which `Tab.get` is given. -/
abbrev Tab (α : Type) := List (Nat × α)

/-- The entry of number `k`, or `d` when none is listed. -/
def Tab.get {α : Type} (d : α) (k : Nat) : Tab α → α
  | [] => d
  | (j, x) :: t => if j = k then x else Tab.get d k t

/-- The table with the entry of number `k` replaced by `v`, kept in rising order. -/
def Tab.set {α : Type} (k : Nat) (v : α) : Tab α → Tab α
  | [] => [(k, v)]
  | (j, x) :: t => if k = j then (k, v) :: t else if k < j then (k, v) :: (j, x) :: t else (j, x) :: Tab.set k v t

/-- The table with the entry of number `k` changed by `f`. -/
def Tab.mod {α : Type} (d : α) (k : Nat) (f : α → α) (t : Tab α) : Tab α := Tab.set k (f (Tab.get d k t)) t

/-- The table without any entry of number `k`: that instance is back at its reset value. -/
def Tab.erase {α : Type} (k : Nat) (t : Tab α) : Tab α := t.filter (fun e => e.1 ≠ k)

end Sys2Proof
end

