-- ==== Sys2Proof/Syntax.lean ====
section
/-! DEFINITION. The commands of the block: one constructor of `Instr` per row of spec/opcode_table.json, with the row's
operands, and the data that arrives with them (frames, packets, messages, records). -/

namespace Sys2Proof

/-- The address a frame came from, or goes to: an IP address and a UDP port (12_imcel.md R435, R451). -/
structure Peer where
  v6 : Bool
  addr : BitVec 128
  udp : BitVec 16
  deriving DecidableEq, Repr

/-- What the Ethernet and IP headers around a datagram or a request say beyond its addresses (12_imcel.md R434): the VLAN IDs of its
802.1Q tags, outermost first, whether it is a fragment or has IP options or extension headers, and the address at the device, to which it
was sent or from which it leaves; without one it is sent to the port's own address of its sender's IP version. Log 26 (DESIGN CHOICE). -/
structure Envelope where
  tags : List (BitVec 12) := []
  odd : Bool := false
  addr : Option (BitVec 128) := none
  deriving DecidableEq, Repr

/-- An Imcel frame as it lies in a UDP datagram: the header of 12_imcel.md R435 and the payload. Log 26 (DESIGN CHOICE). -/
structure Frame where
  magic : BitVec 16
  version : Byte
  kind : Byte
  session : Byte
  fflags : Byte
  plen : BitVec 16
  token : BitVec 64
  seq : BitVec 32
  reserved : BitVec 32
  payload : List Byte
  via : Envelope := {}
  deriving DecidableEq, Repr

/-- A record: the fields of the header of 01_line.md R37 but LENGTH, and the bytes after the header. -/
structure Rec where
  type : Byte
  source : Byte
  baton : Byte
  flags : Byte
  epoch : Epoch
  time : DT64
  body : List Byte
  deriving DecidableEq, Repr

/-- A PTP timestamp: 48-bit seconds and nanoseconds. -/
structure PtpStamp where
  sec : Nat
  ns : Nat
  deriving DecidableEq, Repr

/-- The PTP message types the device processes (02_timekeeper.md R63), and the others the transparent clock forwards. -/
inductive PtpKind where
  | sync | delayReq | pdelayReq | pdelayResp | followUp | delayResp | pdelayRespFollowUp | announce | other
  deriving DecidableEq, Repr

/-- What an Announce says of its grandmaster (02_timekeeper.md R79, R83, R100): the members that the best clock
algorithm of IEEE 1588 compares, and the UTC offset. -/
structure PtpGm where
  priority1 : Nat
  clockClass : Nat
  accuracy : Nat
  variance : Nat
  priority2 : Nat
  identity : BitVec 64
  stepsRemoved : Nat
  utcOffset : BitVec 16
  utcValid : Bool
  /-- The Announce interval in ms. -/
  intervalMs : Nat
  deriving DecidableEq, Repr

/-- A PTP or 802.1AS message. `clock` and `portNo` are the sourcePortIdentity, `correction` the correctionField in
2^-16 ns, `stamp` the timestamp the message carries, `reqClock` and `reqPort` the requesting port of a response,
`rateRatio` the cumulative scaled rate offset of a Follow_Up information TLV, `logInterval` the interval field. Log 26 (DESIGN CHOICE). -/
structure PtpMsg where
  kind : PtpKind
  domain : Nat
  /-- 0 layer 2, 1 IPv4, 2 IPv6 (TK.CTRL.TRANSPORT). -/
  transport : Nat
  seq : BitVec 16
  clock : BitVec 64
  portNo : BitVec 16
  twoStep : Bool
  correction : Int
  stamp : PtpStamp
  reqClock : BitVec 64
  reqPort : BitVec 16
  logInterval : Int
  rateRatio : Int
  gm : PtpGm
  deriving DecidableEq, Repr

/-- A piece of a CoaXPress stream packet (03_sensor_ports.md R122, R124): an image header with its frame number, size and
PFNC pixel format, a line marker with its line number, or pixel bytes. -/
inductive CxpItem where
  | header (frame : BitVec 32) (width height : Nat) (pfnc : BitVec 32)
  | line (number : BitVec 32)
  | pixels (data : List Byte)
  deriving DecidableEq, Repr

/-- A CoaXPress stream packet (R124): the stream ID, the packet tag, whether its CRC holds, and its contents. -/
structure CxpPacket where
  streamId : Nat
  tag : Nat
  crcOk : Bool
  items : List CxpItem
  deriving DecidableEq, Repr

/-- A camera's acknowledgment (R123). -/
inductive CxpAck where
  | ok (data : List Byte)
  | error (code : Nat)
  | wait (ms : Nat)
  deriving DecidableEq, Repr

/-- What a UDP datagram of a sensor Ethernet port carries (R130, R131). -/
inductive SenData where
  | leader (block : BitVec 32) (image : Bool) (stamp : Nat) (width height : Nat) (pfnc : BitVec 32)
  | payload (block : BitVec 32) (packet : Nat) (data : List Byte)
  | trailer (block : BitVec 32) (packet : Nat)
  | profile (data : List Byte)
  deriving DecidableEq, Repr

/-- A datagram at a sensor Ethernet port (R129). An IPv4 address is in the form ::ffff:a.b.c.d. -/
structure Datagram where
  dst : BitVec 128
  src : BitVec 128
  dport : BitVec 16
  sport : BitVec 16
  sumOk : Bool
  data : SenData
  deriving DecidableEq, Repr

/-- How an I2C transfer ends at the pins (R135): all bytes acknowledged, a byte not acknowledged, or SDA found low.
`sdaLow` is the number of SCL pulses after which SDA is high again, when a bus clear follows (R149). -/
inductive I2cEnd where
  | ok (data : List Byte)
  | nack (byte : Nat)
  | busError (sdaLow : Nat)
  deriving DecidableEq, Repr

/-- The two command streams of a program (06_aurik_machine.md R226). -/
inductive Stream where
  | access | execute
  deriving DecidableEq, Repr

/-- The requests a host or sensor Ethernet port answers besides Imcel and PTP (12_imcel.md R434, 03_sensor_ports.md
R128): ARP, neighbour discovery, ICMP and ICMPv6 echo, IGMP and MLD queries. -/
inductive NetKind where
  | arp | nd | echo4 | echo6 | igmp | mld | other
  deriving DecidableEq, Repr

/-- Such a request: at a sensor port or a host port, the address it asks for or is sent to, where it comes from, and the
data of an echo. -/
structure NetRequest where
  sensor : Bool
  kind : NetKind
  target : BitVec 128
  src : BitVec 128
  data : List Byte
  via : Envelope := {}
  deriving DecidableEq, Repr

/-- A word of a memory that an error hits, by the number that its row gives it, and whether the error cannot be corrected.
Log 167 (DESIGN CHOICE). -/
structure EccErr where
  at_ : Nat
  ue : Bool
  deriving DecidableEq, Repr

/-- An error in a program slot, ACTIVE or STANDBY, and whether it cannot be corrected. -/
structure ProgErr where
  active : Bool
  ue : Bool
  deriving DecidableEq, Repr

/-- A CoaXPress link that comes up: its port, its rate, and whether its camera has the high-speed uplink. -/
structure CxpLink where
  port : Nat
  rate : Nat
  hs : Bool
  deriving DecidableEq, Repr

/-- Where an ECC error falls (14_faults.md R504 to R508): in DRAM, in the collector's own memory, in the state of a KV sequence, in the
memory of a problem unit, in a held request or a post-buffer record of a session index, or in the link key. Log 168 (DESIGN CHOICE). -/
inductive EccAt where
  | dram (addr : Nat)
  | collector
  | kvSeq (a : Nat)
  | slvUnit (unit : Nat)
  | hlHold (index k : Nat)
  | hlPost (index k : Nat)
  | linkKey
  deriving DecidableEq, Repr

/-- The commands of the block, one for each row of spec/opcode_table.json. `dt` is the interval time, in ticks of
0.25 ns, by which an event from outside follows what came before it. Log 26 (DESIGN CHOICE). -/
inductive Instr where
  /-- SETUP_REGISTER_WRITE: A setup register with no row of its own is written: the value is clamped, takes effect between two uses,
  and dependent fields are re-clamped (R51). -/
  | setupRegisterWrite (off : Nat) (v : Word)
  /-- LOW_HALF_READ: A host read of the low half of a 64-bit register latches its high half (R15). -/
  | lowHalfRead (off : Nat)
  /-- LOW_HALF_WRITE: A write of the low half of a 64-bit register stores it in the holding register (R15). -/
  | lowHalfWrite (off : Nat) (v : Word)
  /-- HIGH_HALF_WRITE: A write of the high half makes the whole 64-bit value take effect with the held low half (R15). -/
  | highHalfWrite (off : Nat) (v : Word)
  /-- ERA_WRAP: SEC passes from 0xFFFF_FFFF to 0 and the era increments (R32). -/
  | eraWrap
  /-- SYNC_RECEIVE: A PTP Sync is received and stamped on the receiver port (R71). -/
  | syncReceive (dt port : Nat) (m : PtpMsg)
  /-- FOLLOW_UP_RECEIVE: A Follow_Up completes a Sync, an offset is computed and passed through the state rules (R71). -/
  | followUpReceive (dt port : Nat) (m : PtpMsg)
  /-- DELAY_RESP_RECEIVE: A Delay_Resp gives one raw path delay that updates the mean delay (R71). -/
  | delayRespReceive (dt port : Nat) (m : PtpMsg)
  /-- DELAY_REQ_SEND: The receiver sends a Delay_Req paced by the parent's interval (R71). -/
  | delayReqSend
  /-- PDELAY_REQ_SEND: The device sends Pdelay_Req at its logMinPdelayReqInterval (R65). -/
  | pdelayReqSend (port : Nat)
  /-- PDELAY_REQ_RECEIVE: A Pdelay_Req is answered by the device as peer-delay responder (R65). -/
  | pdelayReqReceive (dt port : Nat) (m : PtpMsg)
  /-- PDELAY_RESP_RECEIVE: A Pdelay_Resp or its follow-up completes a peer-delay measurement (R65). -/
  | pdelayRespReceive (dt port : Nat) (m : PtpMsg)
  /-- ANNOUNCE_RECEIVE: An Announce is taken into the BMCA and may choose the receiver port and parent (R79). -/
  | announceReceive (dt port : Nat) (m : PtpMsg)
  /-- TC_FORWARD: A PTP event message is forwarded between HL.0 and HL.1 with its residence time corrected (R65). -/
  | tcForward (dt port residence : Nat) (m : PtpMsg)
  /-- TC_FOLLOWER_FORWARD: A follower message is forwarded with the residence time of its matched event message added (R65). -/
  | tcFollowerForward (dt port : Nat) (m : PtpMsg)
  /-- AS_RELAY_SYNC: In 802.1AS mode a received Sync and Follow_Up pair is retransmitted as a new pair on the other port (R67). -/
  | asRelaySync (dt port residence : Nat) (m : PtpMsg)
  /-- TC_ORPHAN_TIMEOUT: A held message whose follower has not arrived within 1 s is discarded and counted (R89). -/
  | tcOrphanTimeout
  /-- HOLD_TIMEOUT: No offset accepted for the hold timeout moves the Timekeeper to HOLDOVER (R73). -/
  | holdTimeout
  /-- ANNOUNCE_TIMEOUT: announceReceiptTimeout expires with no qualified parent and the Timekeeper enters HOLDOVER (R73). -/
  | announceTimeout
  /-- RX_LINK_DROP: The receiver port's link drops and another port takes over or HOLDOVER is entered at once (R79). -/
  | rxLinkDrop (dt : Nat)
  /-- HOLD_LIMIT: TK.HOLD_UNC exceeds the hold limit and HOLD_LIMIT is raised once per entry (R98). -/
  | holdLimit
  /-- SERVO_RAIL: adj stays at the rail for 64 consecutive updates and SERVO_RAIL is raised (R98). -/
  | servoRail
  /-- COPY_SLIP: A local time copy differs by more than 4 ns and is reloaded (R98). -/
  | copySlip (unit : Nat)
  /-- ACCEPT_STEP: A write to TK.ACCEPT_STEP arms a step while a refused step is pending (R76). -/
  | acceptStep (v : Word)
  /-- SOURCE_WRITE: A write of TK.CTRL.SOURCE changes state, clears a pending step and applies the AS clamps (R76). -/
  | sourceWrite (v : Word)
  /-- SET_TIME: A write of TK.SET_TIME while SOURCE is FREE steps device time and establishes it (R75). -/
  | setTime (v : DT64)
  /-- ERA_WRITE: A write of TK.ERA changes the era without a step (R32). -/
  | eraWrite (v : Word)
  /-- CAP_EDGE: An edge at a CAP pin is stamped by its photo-finish unit (R69). -/
  | capEdge (dt n : Nat) (level : Bool)
  /-- CAP_FILTER_VALIDATE: The glitch filter time elapses and a kept edge updates the level and writes its CAP_EDGE record (R81). -/
  | capFilterValidate (n : Nat)
  /-- CAP_STALL: No kept edge for the stall time declares the CAP input absent (R96). -/
  | capStall (n : Nat)
  /-- CAP_DISABLE: Writing TK.CAP_CFG.n.EN to 0 with the detector enabled declares the input absent (R96). -/
  | capDisable (n : Nat) (v : Word)
  /-- WORD_ARRIVE: A word arriving at a slot is written or dropped, opening or closing a gap marker (R108). -/
  | wordArrive (slot : Nat) (m : Bool) (d : BitVec 64)
  /-- SLOT_ENABLE_WRITE: IOC.SLOT_CFG.n.EN is written, allocating or discarding and freeing the slot's FIFO units (R107). -/
  | slotEnableWrite (n : Nat) (v : Word)
  /-- SSP_ENABLE_WRITE: SSP.n.CTRL.EN is written, enabling or disabling a camera port or group and starting its quad settle (R122). -/
  | sspEnableWrite (n : Nat) (v : Word)
  /-- SEN_ENABLE_WRITE: SEN.p.CTRL.EN is written, enabling or disabling a sensor Ethernet port (R128). -/
  | senEnableWrite (p : Nat) (v : Word)
  /-- SEN_STREAM_ENABLE_WRITE: SEN.p.STREAM.s.CFG.EN is written, attaching or detaching a SEN stream (R129). -/
  | senStreamEnableWrite (p q : Nat) (v : Word)
  /-- ENC_ENABLE_WRITE: MP.n.ENC_CFG.EN is written, enabling or disabling an encoder channel (R133). -/
  | encEnableWrite (n : Nat) (v : Word)
  /-- SPI_ENABLE_WRITE: MP.n.SPI_CFG.EN is written, enabling or disabling an inertial channel (R134). -/
  | spiEnableWrite (n : Nat) (v : Word)
  /-- CXP_LINK_UP: A CoaXPress link or aggregation group comes up through discovery and LINK_UP is posted (R122). -/
  | cxpLinkUp (dt : Nat) (l : CxpLink)
  /-- CXP_LINK_DOWN: A member link drops, the partial record is discarded behind a SOURCE_GAP and the slot declared absent (R141). -/
  | cxpLinkDown (dt n : Nat)
  /-- CXP_STREAM_PACKET: A CoaXPress stream packet is taken and completed lines or frames are written as IMAGE records (R124). -/
  | cxpStreamPacket (dt n : Nat) (p : CxpPacket)
  /-- CXP_EVENT_PACKET: A CoaXPress event packet is written as a CXP_EVT record or dropped if oversized (R120). -/
  | cxpEventPacket (dt n : Nat) (data : List Byte)
  /-- PORT_XACT_CXP_WRITE: A port transaction descriptor writes a camera register over CoaXPress Device Control (R123). -/
  | portXactCxpWrite
  /-- PORT_XACT_CXP_READ: A port transaction descriptor reads a camera register over CoaXPress Device Control (R123). -/
  | portXactCxpRead
  /-- PORT_XACT_I2C: A port transaction descriptor runs an I2C write and read transfer (R135). -/
  | portXactI2c
  /-- CXP_ACK_RECEIVE: A camera acknowledgment completes or extends a CXP transaction (R123). -/
  | cxpAckReceive (dt n : Nat) (a : CxpAck)
  /-- CXP_XACT_TIMEOUT: No acknowledgment within the wait completes the transaction with TIMEOUT (R123). -/
  | cxpXactTimeout (n : Nat)
  /-- TRIGGER_DUE: A trigger falls due by time, position, CAP edge or one-shot and is held or dropped (R125). -/
  | triggerDue (n : Nat)
  /-- TRIGGER_LAUNCH: A held trigger packet is launched at the next uplink boundary with its stamp and late check (R126). -/
  | triggerLaunch (n : Nat)
  /-- HELD_TRIGGER_LATE: A trigger held during settling passes due + TOL and becomes late (R143). -/
  | heldTriggerLate (n : Nat)
  /-- TRIG_ONE: A TRIG_ONE descriptor schedules a one-shot trigger at a DT64 or WP48 (R125). -/
  | trigOne
  /-- POCXP_ENABLE_WRITE: SSP.n.POCXP.EN is written and device detection starts or power is removed (R127). -/
  | pocxpEnableWrite (n : Nat) (v : Word)
  /-- POCXP_TRIP: A port drawing 10 % over budget for 2 ms, or shorted, removes power and sets POCXP_TRIP (R127). -/
  | pocxpTrip (dt n : Nat)
  /-- SEN_DATAGRAM: A UDP datagram is matched to a SEN stream and assembled as GVSP or profile data (R129). -/
  | senDatagram (dt p : Nat) (d : Datagram)
  /-- PROFILE_CLOSE_TIMEOUT: 1 ms after its first packet an incomplete profile is closed and written (R132). -/
  | profileCloseTimeout (p q : Nat)
  /-- SEN_LINK_DOWN: A SEN link drops and every stream discards staged data and is declared absent (R142). -/
  | senLinkDown (dt p : Nat)
  /-- SEN_LINK_UP: A SEN link comes up and LINK_UP is posted (R142). -/
  | senLinkUp (dt p speed : Nat)
  /-- ENC_EDGE: An encoder line transition at the pin is stamped (R133). -/
  | encEdge (dt n line : Nat) (level : Bool)
  /-- ENC_FILTER_VALIDATE: The filter time elapses and a kept transition is decoded and counted or marked illegal (R133). -/
  | encFilterValidate (n line : Nat)
  /-- ENC_BATCH_CLOSE: Every BATCH_US the encoder batch closes and its ENC records are written (R118). -/
  | encBatchClose (n : Nat)
  /-- ENC_LINE_FAULT: An invalid RS-422 pair for 1 µs sets LINE_FAULT and posts ENC_LINE_FAULT (R148). -/
  | encLineFault (dt n line : Nat)
  /-- ENC_LINE_FAULT_CLEAR: A pair valid again for 1 µs clears its LINE_FAULT bit (R148). -/
  | encLineFaultClear (dt n line : Nat)
  /-- ENC_STALL_TIMEOUT: No count edge for STALL_MS declares the encoder channel absent (R147). -/
  | encStallTimeout (n : Nat)
  /-- SPI_DATA_READY: A data-ready edge is stamped and starts an SPI transaction or is an overrun (R134). -/
  | spiDataReady (dt n : Nat)
  /-- SPI_TIMER: In timer mode an SPI transaction starts every SPI_PERIOD (R134). -/
  | spiTimer (n : Nat)
  /-- SPI_XACT_DONE: An SPI transaction ends and its IMU record is written (R119). -/
  | spiXactDone (dt n : Nat) (data : List Byte)
  /-- SPI_STALL_TIMEOUT: No data-ready edge for STALL_MS declares the inertial channel absent (R147). -/
  | spiStallTimeout (n : Nat)
  /-- I2C_XFER_DONE: An I2C transfer ends with OK, NACK, BUS_ERROR, BUS_HELD or TIMEOUT (R135). -/
  | i2cXferDone (dt n : Nat) (e : I2cEnd)
  /-- I2C_STRETCH_TIMEOUT: A target holds SCL low past STRETCH_MS and the transfer ends with TIMEOUT (R135). -/
  | i2cStretchTimeout (dt n sdaLow : Nat)
  /-- I2C_SCL_HELD_IDLE: SCL low for STRETCH_MS with no transfer declares the bus held (R149). -/
  | i2cSclHeldIdle (dt n : Nat)
  /-- I2C_REENABLE: A write of REENABLE runs the bus clear again (R149). -/
  | i2cReenable (n : Nat) (v : Word)
  /-- SLOT_STALL: A camera or SEN slot delivers no record for STALL_MS and is declared absent (R147). -/
  | slotStall (n : Nat)
  /-- QUAD_LOCK: A quad's synthesiser locks and held work is released in acceptance order (R143). -/
  | quadLock (dt q : Nat)
  /-- QUAD_SETTLE_LIMIT: A quad not locked by the settle limit is contained and its held work dropped (R143). -/
  | quadSettleLimit (q : Nat)
  /-- QUAD_RETRY: A write of IOC.QUAD_RETRY starts a new settle of a contained quad (R144). -/
  | quadRetry (v : Word)
  /-- FUSION_TICK: A fusion tick of a frame is processed once its encoder batch is in, updating p, v and a (R155). -/
  | fusionTick (f : Nat)
  /-- MOTION_REPORT: Every DIV × 10 ticks a MOTION record is issued (R158). -/
  | motionReport (f : Nat)
  /-- MOT_FRAME_ENABLE: MOT.f.CTRL.EN is set and the frame's position takes ORIGIN (R154). -/
  | motFrameEnable (f : Nat) (v : Word)
  /-- MOT_FRAME_DISABLE: MOT.f.CTRL.EN is cleared and the frame becomes absent (R189). -/
  | motFrameDisable (f : Nat) (v : Word)
  /-- FRAME_ABSENT: A frame's encoder slot goes absent, motion freezes, and the Pan recalls and releases its bands final with
  MABSENT (R187). -/
  | frameAbsent (f : Nat)
  /-- PAN_SAMPLE_READ: The Pan takes a record from a slot and projects it or attaches it unplaced (R163). -/
  | panSampleRead (slot : Nat)
  /-- SAMPLE_PLACE: A sample is placed once P(t) exists for all its row times and joins its bands (R167). -/
  | samplePlace (stream : Nat)
  /-- SAMPLE_REPLACE: A sample on predicted motion is placed afresh once T_conf reaches its row times (R169). -/
  | sampleReplace (stream : Nat)
  /-- STREAM_FORFEIT: A stream's wait limit since the band's due instant expires and it forfeits the band (R168). -/
  | streamForfeit (f stream : Nat)
  /-- BAND_RELEASE: The Pan releases a band in order once its release conditions hold, writing its records (R168). -/
  | bandRelease (f : Nat)
  /-- SLUICE_TOKEN_PLACE: The Sluice places a band token or notice in the Relay's band queue once it has room (R170). -/
  | sluiceTokenPlace
  /-- BAND_DONE_CREDIT: A band-done credit returns and the Pan frees the release's storage when its epoch settles (R171). -/
  | bandDoneCredit
  /-- EPOCH_DECIDE: T_conf reaches a provisional release's latest row time and the Pan compares predicted and confirmed positions (R175). -/
  | epochDecide (f : Nat)
  /-- SEAL_ISSUE: A confirmable epoch's SEAL is issued once every earlier epoch of its frame has its notice (R43). -/
  | sealIssue (f : Nat)
  /-- RE_RELEASE: After a RECALL each affected band is placed again and re-released with REREL (R176). -/
  | reRelease (f : Nat)
  /-- PAN_LOAD: A PAN_LOAD descriptor copies DRAM into the shadow bank or the lookup area (R178). -/
  | panLoad
  /-- PAN_SWAP: A PAN_SWAP descriptor makes the shadow bank active frame by frame (R178). -/
  | panSwap
  /-- PAN_SWAP_COPY_DONE: Once every frame has changed over, the bank copy ends and PAN_SWAP completes (R178). -/
  | panSwapCopyDone
  /-- PAN_FRAME_ENABLE: PAN.FRAME.f.CFG.EN is set and band formation starts afresh (R166). -/
  | panFrameEnable (f : Nat) (v : Word)
  /-- PAN_FRAME_DISABLE: PAN.FRAME.f.CFG.EN is cleared, the oldest provisional epoch is recalled and unreleased bands discarded (R189). -/
  | panFrameDisable (f : Nat) (v : Word)
  /-- PAN_SRAM_UE: An uncorrectable Pan SRAM error invalidates the entry and discards the samples concerned (R190); one that was corrected
  when `ue` is false. -/
  | panSramUe (dt : Nat) (w : EccErr)
  /-- TRK_NOTICE: A SEAL or RECALL notice enters the Track Engine intake and is merged (R199). -/
  | trkNotice
  /-- TRACK_BATCH_PROCESS: The Track Engine takes the next hand-off, applies preceding notices, associates, updates and writes a
  TRACK_BATCH (R216). -/
  | trackBatchProcess
  /-- TRK_TOKEN_PLACE: The Track Engine places a record or notice token in the track queue once it and the output area have room (R209). -/
  | trkTokenPlace
  /-- TRK_CLEAR: A TRK_CLEAR descriptor clears the named classes at the next intake place (R220). -/
  | trkClear
  /-- TRK_SRAM_UE: An uncorrectable track table error frees the slot, listed as DELETED in the next batch (R223); one that was corrected
  (`ue` false) is only reported. -/
  | trkSramUe (dt : Nat) (w : EccErr)
  /-- LOAD: LOAD copies rows from device memory to scratchpad (R243). -/
  | load (lane : Nat)
  /-- STORE: STORE copies scratchpad rows to DRAM (R243). -/
  | store (lane : Nat)
  /-- PUSH: PUSH pushes one tile from scratchpad onto an inbound queue, waiting for room (R237). -/
  | push (lane : Nat)
  /-- POP: POP takes one tile from an outbound queue into scratchpad and merges its tag (R237). -/
  | pop (lane : Nat)
  /-- LDA: LDA loads an address register from memory plus ADD (R243). -/
  | lda (lane : Nat)
  /-- SETA: SETA sets an address register's VALUE, BASE, STEP and MOD (R243). -/
  | seta (lane : Nat)
  /-- ADDA: ADDA adds an immediate, or a counter times it, to an address register (R243). -/
  | adda (lane : Nat)
  /-- SETC: SETC sets a counter from a scalar source plus an immediate (R243). -/
  | setc (lane : Nat) (st : Stream)
  /-- ADDC: ADDC adds an immediate and optionally a scalar source to a counter (R243). -/
  | addc (lane : Nat) (st : Stream)
  /-- CMP: CMP sets a comparator from a source compared with a limit (R243). -/
  | cmp (lane : Nat) (st : Stream)
  /-- BR: BR branches always, on a comparator across Lanes, on a loop counter, or on the decision queue (R244). -/
  | br (st : Stream)
  /-- DECIDE: DECIDE combines a comparator across Lanes and pushes the result onto the decision queue (R244). -/
  | decide
  /-- RSCALAR: RSCALAR reduces a tensor to a counter, optionally across Lanes (R245). -/
  | rscalar (lane : Nat)
  /-- BAND_OPEN: BAND_OPEN takes the first non-void band token, fixes the Lane set and opens the band context (R250). -/
  | bandOpen
  /-- BAND_END: BAND_END closes the band context, resets WE and returns the band-done credit (R254). -/
  | bandEnd
  /-- TAKEB: TAKEB waits for a FREE baton and takes the next one in order (R246). -/
  | takeb
  /-- HANDOFF: HANDOFF lends a baton and gives a record to the Track Engine or the Solver intake (R247). -/
  | handoff
  /-- WAITB: WAITB waits until a baton is RETURNED and merges its record's epoch (R248). -/
  | waitb
  /-- FREEB: FREEB frees a baton and returns its Track Engine credit (R248). -/
  | freeb
  /-- EMIT: EMIT stamps a record with WE and sends it to the Actuation Unit, a report ring, or both (R251). -/
  | emit (lane : Nat)
  /-- NOP: NOP does nothing (R243). -/
  | nop (lane : Nat) (st : Stream)
  /-- TRACK_TOKEN_TAKE: The Relay front end takes a track queue token, returning a baton or updating the epoch tracker (R249). -/
  | trackTokenTake
  /-- BANDQ_RECALL_ENTER: A RECALL entering the band queue voids tokens ahead of it and may void the open context (R252). -/
  | bandqRecallEnter
  /-- NOTICE_PASS: With no context open the Relay takes a notice from the band queue and passes it on (R253). -/
  | noticePass
  /-- WATCHDOG_EXPIRE: A stream wait lasts RLY.WATCH.US, RLY_STALL is raised and the band abandoned (R261). -/
  | watchdogExpire
  /-- LANE_FAIL: A Lane fails its check and is fenced, abandoning the band (R263). -/
  | laneFail (dt lane : Nat)
  /-- LANE_SP_UE: An uncorrectable scratchpad error abandons the band and zeroes the word (R263); one that was corrected (`ue` false) is
  counted and reported. -/
  | laneSpUe (dt lane : Nat) (w : EccErr)
  /-- LANE_REJOIN: Writing 1 to a FENCED bit runs the Lane's self-test and it rejoins at the next BAND_OPEN (R263). -/
  | laneRejoin (v : Word) (failing : Nat)
  /-- MATMUL: MATMUL computes a batched matrix product with optional C and requantisation (R283). -/
  | matmul (lane : Nat)
  /-- CONV2D: CONV2D computes a two-dimensional convolution (R285). -/
  | conv2d (lane : Nat)
  /-- WARP: WARP resamples a source image through a mesh or projective map (R287). -/
  | warp (lane : Nat)
  /-- MESHI: MESHI interpolates a control-point mesh to every pixel (R286). -/
  | meshi (lane : Nat)
  /-- REDUCE: REDUCE reduces a tensor along one axis (R289). -/
  | reduce (lane : Nat)
  /-- ELTWISE: ELTWISE computes an elementwise operation of A and B (R290). -/
  | eltwise (lane : Nat)
  /-- HIST: HIST counts elements into bins (R292). -/
  | hist (lane : Nat)
  /-- GATHER: GATHER copies table rows named by an index tensor (R293). -/
  | gather (lane : Nat)
  /-- SCATTER: SCATTER writes, adds or maxes rows into a table at indexed rows (R294). -/
  | scatter (lane : Nat)
  /-- CONVERT: CONVERT writes a tensor into another format (R295). -/
  | convert (lane : Nat)
  /-- NORM: NORM applies layer, RMS or affine normalisation per row (R296). -/
  | norm (lane : Nat)
  /-- ATTEND: ATTEND computes masked attention over a cached sequence (R319). -/
  | attend (lane : Nat)
  /-- KV_APPEND: KV_APPEND appends tokens to one layer of a sequence (R312). -/
  | kvAppend (lane : Nat)
  /-- KV_RESET: KV_RESET frees a sequence's pages and sets its TAG and NGLOB (R314). -/
  | kvReset (lane : Nat)
  /-- KV_TRIM: KV_TRIM raises a sequence's TRIMPOS (R315). -/
  | kvTrim (lane : Nat)
  /-- KV_LEN: KV_LEN returns a sequence's length, TAG, TRIMPOS or the free page count (R316). -/
  | kvLen (lane : Nat)
  /-- KV_TRACKER_UPDATE: A SEAL or RECALL recorded by the tracker finalises or rebuilds logged mutations (R323). -/
  | kvTrackerUpdate
  /-- KV_REBUILD_DONE: A rebuild of affected sequences completes and waiting commands proceed (R323). -/
  | kvRebuildDone
  /-- KVP_CLEAR: A KVP_CLEAR descriptor names caches to reset at the next BAND_OPEN (R329). -/
  | kvpClear
  /-- SLV_NOTICE: A notice reaches the Solver intake and updates its epoch view at once (R334). -/
  | slvNotice
  /-- HEAT_START: The Solver takes the next heat from its intake, checks it and begins dealing (R351). -/
  | heatStart
  /-- PROBLEM_DEAL: A free unit takes the next problem of the running heat (R351). -/
  | problemDeal (unit : Nat)
  /-- PROBLEM_DONE: A unit finishes assembly, factorisation, solve and refinement and writes the result (R354). -/
  | problemDone (unit : Nat)
  /-- HEAT_DEADLINE: Device time reaches the heat's deadline and unstarted problems get CODE 2 (R355). -/
  | heatDeadline
  /-- SLV_UNIT_FAIL: A problem unit fails its check, is fenced, and its problem restarts elsewhere (R363). -/
  | slvUnitFail (dt unit : Nat)
  /-- SLV_SCHED_UE: An uncorrectable schedule memory error empties the slot (R363); one that was corrected (`ue` false) is only reported. -/
  | slvSchedUe (dt : Nat) (w : EccErr)
  /-- UNIT_REJOIN: Writing 1 to a FENCED unit bit runs its self-test and it rejoins (R364). -/
  | unitRejoin (v : Word) (failing : Nat)
  /-- SLV_LOAD: An SLV_LOAD descriptor copies and verifies a schedule into a slot (R340). -/
  | slvLoad
  /-- SCHED_VERIFY_DONE: Schedule verification ends, filling or emptying the slot and completing the load (R376). -/
  | schedVerifyDone
  /-- PROG_LOAD: A PROG_LOAD descriptor sets STANDBY to LOADING and copies an image (R371). -/
  | progLoad
  /-- PROG_VERIFY_DONE: Verification ends, leaving STANDBY READY or EMPTY with REASON and INDEX (R374). -/
  | progVerifyDone
  /-- EXCHANGE: An EXCHANGE descriptor is accepted with fences or refused (R377). -/
  | exchange
  /-- EXCHANGE_ABORT: A write of RLY.PROG.ABORT aborts a pending exchange (R377). -/
  | exchangeAbort (v : Word)
  /-- PROGRAM_CHANGE: Once the leaving program rests, the Relay frees its batons and starts the entering program (R381). -/
  | programChange
  /-- PROGRAM_RETIRE: Every frame has reached its fence with nothing pending and the old program retires (R385). -/
  | programRetire
  /-- BREAK_HIT: A break unit's tag or count matches and its stream stops (R388). -/
  | breakHit (b : Nat)
  /-- DBG_HALT: HALT stops both streams at their next command boundary (R388). -/
  | dbgHalt (v : Word)
  /-- DBG_STEP_A: STEP_A issues one further command of the stopped access stream (R389). -/
  | dbgStepA (v : Word)
  /-- DBG_STEP_E: STEP_E issues one further command of the stopped execute stream (R389). -/
  | dbgStepE (v : Word)
  /-- DBG_RESUME: RESUME restarts both streams and clears HIT (R389). -/
  | dbgResume (v : Word)
  /-- PROG_MEM_UE: An uncorrectable error in a program slot empties STANDBY or abandons the band in ACTIVE (R395); one that was corrected
  (`ue` false) is only reported. -/
  | progMemUe (dt : Nat) (w : ProgErr)
  /-- VERDICT_INTAKE: The Actuation intake takes a record and binds or creates an entry for each request (R406). -/
  | verdictIntake
  /-- ACT_ARM: An ACT_ARM descriptor creates or binds up to three host actions (R405). -/
  | actArm
  /-- EXPECT_CREATE: An expectation generator creates a POSITION entry at each pitch or confirmed CAP edge (R407). -/
  | expectCreate (n : Nat)
  /-- ACT_NOTICE: A SEAL or RECALL arms or voids the provisional bindings of its frame (R408). -/
  | actNotice
  /-- ENTRY_COMMIT: An entry reaches its guard point and its decision is fixed (R409). -/
  | entryCommit (no : Nat)
  /-- EDGE_START: A FIRE's edge starts at max(now, tc − LEAD) (R411). -/
  | edgeStart (no : Nat)
  /-- FULL_DRIVE_END: After WIDTH the output goes to the hold phase or IDLE, merging with a pulse due within MIN_GAP (R411). -/
  | fullDriveEnd (n : Nat)
  /-- HOLD_END: The hold phase ends, the output returns to IDLE and the entry is freed (R411). -/
  | holdEnd (n : Nat)
  /-- ENTRY_TRIGGER_POINT: A PASS entry reaches its trigger point and is freed with an ACTION record (R401). -/
  | entryTriggerPoint (no : Nat)
  /-- LSTOP_RELEASE: A write of ACT.LSTOP.RELEASE releases LINE_STOP_N outside the safe state (R413). -/
  | lstopRelease (v : Word)
  /-- ACT_RUN: A write of ACT.CTRL.RUN after the safe state brings enabled outputs to IDLE (R428). -/
  | actRun (v : Word)
  /-- ACT_UNIT_ENABLE: ACT.CTRL.EN is set and enabled outputs go to IDLE within 2 µs (R432). -/
  | actUnitEnable (v : Word)
  /-- ACT_UNIT_DISABLE: ACT.CTRL.EN is cleared and every entry of every output is resolved and freed (R430). -/
  | actUnitDisable (v : Word)
  /-- ACT_OUTPUT_DISABLE: ACT.n.CFG.EN is cleared and every entry of the output is resolved and freed (R430). -/
  | actOutputDisable (n : Nat) (v : Word)
  /-- ACT_CLEAR: An ACT_CLEAR descriptor removes uncommitted entries of the named outputs (R427). -/
  | actClear
  /-- ACT_OVERCURRENT: A high-side output in current limit for 2 ms trips off (R429). -/
  | actOvercurrent (dt n : Nat)
  /-- ACT_READBACK: A pin differs from its commanded level for the readback time and FAULT is set (R431). -/
  | actReadback (dt n : Nat)
  /-- ACT_SCHED_UE: An uncorrectable schedule error drops the entry and may hold its output for 100 ms (R431). -/
  | actSchedUe (dt : Nat) (w : EccErr) (known : Bool)
  /-- SAFE_PATH_TEST: The once-per-second test of the latch's redundant channel runs (R525). -/
  | safePathTest (dt : Nat) (ok : Bool)
  /-- HELLO: A HELLO is answered by CHALLENGE or REFUSE (R439). -/
  | hello (dt port : Nat) (peer : Peer) (f : Frame)
  /-- OPEN: An OPEN is checked and answered by OPENED or REFUSE (R441). -/
  | openSession (dt port : Nat) (peer : Peer) (f : Frame)
  /-- CHALLENGE_TIMEOUT: No OPEN within 1 s frees the CHALLENGED index (R439). -/
  | challengeTimeout (ix : Nat)
  /-- WRITE: A WRITE is sequenced and writes data to device memory through the window (R453). -/
  | write (dt port : Nat) (peer : Peer) (f : Frame)
  /-- READ: A READ returns device memory or setup space through the window (R454). -/
  | read (dt port : Nat) (peer : Peer) (f : Frame)
  /-- REGWRITE: A CONFIG REGWRITE writes setup register pairs in order and returns their values (R455). -/
  | regwrite (dt port : Nat) (peer : Peer) (f : Frame)
  /-- WINDOW: A CONFIG WINDOW moves the session's SLIDE aperture (R455). -/
  | window (dt port : Nat) (peer : Peer) (f : Frame)
  /-- KEYSET: A CONFIG KEYSET replaces the link key in non-volatile memory (R445). -/
  | keyset (dt port : Nat) (peer : Peer) (f : Frame)
  /-- CLOSE: A CONFIG CLOSE closes the session after its RESP (R450). -/
  | close (dt port : Nat) (peer : Peer) (f : Frame)
  /-- PING: A PING is answered by a RESP (R466). -/
  | ping (dt port : Nat) (peer : Peer) (f : Frame)
  /-- NUDGE: A NUDGE delivers doorbell values and starts descriptor fetches (R460). -/
  | nudge (dt port : Nat) (peer : Peer) (f : Frame)
  /-- PROBE: A PROBE is answered by one STATUS frame (R462). -/
  | probe (dt port : Nat) (peer : Peer) (f : Frame)
  /-- FDATA: An FDATA answers a FETCH with doorbell words or descriptors (R458). -/
  | fdata (dt port : Nat) (peer : Peer) (f : Frame)
  /-- PACK: A PACK acknowledges a POST (R458). -/
  | pack (dt port : Nat) (peer : Peer) (f : Frame)
  /-- DEVICE_RETX_TIMEOUT: A device request without response is retransmitted, or the session is lost (R448). -/
  | deviceRetxTimeout (ix : Nat)
  /-- KEEPALIVE_EXPIRE: No valid host frame for the keepalive loses the session (R450). -/
  | keepaliveExpire (ix : Nat)
  /-- STATUS_BEACON: A periodic STATUS frame is sent by the beacon or the Host Link (R462). -/
  | statusBeacon (port : Nat) (lock : Bool)
  /-- HL_PORT_LOCK: A host port's synthesiser locks and held frames leave in order (R470). -/
  | hlPortLock (dt port : Nat)
  /-- HL_SETTLE_LIMIT: A host port not locked by the settle limit is contained (R470). -/
  | hlSettleLimit (port : Nat)
  /-- HL_PORT_RETRY: A contained host port retries a settle every 1 s (R470). -/
  | hlPortRetry (port : Nat)
  /-- HL_SPEED_SEARCH: A searching port moves to the next rate after 400 ms (R472). -/
  | hlSpeedSearch (port : Nat)
  /-- HL_LINK_DOWN: A host port's link drops and its frames are discarded until recovery (R473). -/
  | hlLinkDown (dt port : Nat)
  /-- DOORBELL_POLL: Each poll interval the device fetches a submission ring's doorbell word (R495). -/
  | doorbellPoll (r : Nat)
  /-- DESCRIPTOR_DISPATCH: The head staged descriptor is dispatched once its engine has room (R491). -/
  | descriptorDispatch (r : Nat)
  /-- RECORD_POST: A waiting record is posted once its ring has free entries (R490). -/
  | recordPost (r : Nat)
  /-- JSW_UPDATE: The Job Status Word is rewritten at each state change and at least every 100 µs (R493). -/
  | jswUpdate (ring : Nat) (didx : BitVec 32)
  /-- RING_ENABLE_WRITE: HL.RING.r.CFG.EN is written, resetting or enabling the ring (R501). -/
  | ringEnableWrite (r : Nat) (v : Word)
  /-- NOP_DESCRIPTOR: A NOP descriptor completes OK (R482). -/
  | nopDescriptor
  /-- SLV_HEAT: An SLV_HEAT descriptor submits a host heat (R483). -/
  | slvHeat
  /-- INJECT_REPORT: An INJECT with DEST 0 posts a host record to a report ring (R484). -/
  | injectReport
  /-- INJECT_ACTUATION: An INJECT with DEST 1 delivers a host record to the Actuation intake (R484). -/
  | injectActuation
  /-- FLT_ACK: An FLT_ACK acknowledges fault classes up to a serial (R512). -/
  | fltAck
  /-- PROFILE_READ: A PROFILE READ copies a profile slot to DRAM (R540). -/
  | profileRead
  /-- PROFILE_WRITE: A PROFILE WRITE stores a valid profile whole into a slot (R540). -/
  | profileWrite
  /-- PROFILE_ERASE: A PROFILE ERASE empties a slot (R540). -/
  | profileErase
  /-- PROFILE_SELECT_BOOT: A PROFILE SELECT_BOOT selects or clears the boot slot (R540). -/
  | profileSelectBoot
  /-- FAULT_CLASSIFY: The Fault Collector classifies a coded message, escalates it and records it (R510). -/
  | faultClassify
  /-- FATAL_LINE: An island's fatal line reaches the safe-state latch (R507). -/
  | fatalLine (dt island code unit arg : Nat)
  /-- FORCE_FAULT: A write of FLT.CTRL.FORCE raises HOST_FORCE (R505). -/
  | forceFault (v : Word)
  /-- ISLAND_TIMEOUT: A core island does not answer a handshake within 10 µs (R505). -/
  | islandTimeout (dt island : Nat)
  /-- DRAM_ERROR: The scrubber or a host READ finds a corrected or uncorrectable DRAM error (R505), or another memory of the device has
  one that no row of its own names. -/
  | dramError (dt : Nat) (at_ : EccAt) (ue : Bool)
  /-- DRAM_LINK_FAIL: A DRAM channel fails its link check and is failed until reset (R542). -/
  | dramLinkFail (dt chan : Nat)
  /-- AUTO_ACK: FLT.AUTO.MS after the latest class C fault, class C is acknowledged (R511). -/
  | autoAck
  /-- FLT_HEARTBEAT_MISS: The always-on island misses the heartbeat for 300 µs and enters a sticky safe state (R524). -/
  | fltHeartbeatMiss
  /-- SAFE_STATE_RELEASE: The safe state is released once it is not sticky, unack[F] is 0 and reinitialisation is done (R517). -/
  | safeStateRelease
  /-- ALIVE_TOGGLE: ALIVE toggles every 1 ms while its conditions hold (R518). -/
  | aliveToggle
  /-- POWER_GOOD: The input holds power-good for 10 ms and PoCXP may be restored (R528). -/
  | powerGood (dt : Nat)
  /-- LOW_VIN: The input below 18 V for 1 ms sets LOW_VIN (R528). -/
  | lowVin (dt : Nat)
  /-- POCXP_CUT: The input below 17.5 V removes PoCXP from every port (R528). -/
  | pocxpCut (dt : Nat)
  /-- BROWNOUT: The input below 16.5 V for 20 µs takes a supply reset (R528). -/
  | brownout (dt : Nat)
  /-- OVERVOLT: The input above 34 V for 1 ms takes a supply reset (R528). -/
  | overvolt (dt : Nat)
  /-- OVERTEMP: The die above 125 °C takes a supply reset (R528). -/
  | overtemp (dt : Nat)
  /-- SUPPLY_RESET_RELEASE: A supply reset's release condition holds (R528). -/
  | supplyResetRelease (dt : Nat)
  /-- RESET_N_CHANGE: A change at RESET_N held for 10 ms is taken (R531). -/
  | resetNChange (dt : Nat) (level : Bool)
  /-- BUTTON_CHANGE: A change at the front pushbutton held for 10 ms is taken (R531). -/
  | buttonChange (dt : Nat) (pressed : Bool)
  /-- SWRESET: Writing 0x0000_D00D to AON.SWRESET takes a software reset after the RESP (R532). -/
  | swreset (v : Word)
  /-- SWRESET_RELEASE: The software reset ends after 10 ms (R532). -/
  | swresetRelease
  /-- RESET_RELEASE: No source holds reset any longer and start-up begins (R531). -/
  | resetRelease (otp : Bool)
  /-- BOOT_IMAGE_LOADED: A link engine boot image passes its check and is loaded (R536). -/
  | bootImageLoaded (dt : Nat) (image : Option Bool)
  /-- BOOT_PROFILE_APPLY: The selected boot profile's entries are applied in order (R539). -/
  | bootProfileApply
  /-- PROFILE_WAIT_EXPIRE: A profile wait entry's time elapses and the next entry is applied (R538). -/
  | profileWaitExpire
  /-- DRAM_TRAINING_DONE: DRAM training ends with each channel trained or failed, and zeroing starts (R547). -/
  | dramTrainingDone (dt trained : Nat)
  /-- ZEROING_DONE: Zeroing and self-tests finish and the state of R57 holds (R547). -/
  | zeroingDone (dt failing lanes units : Nat)
  /-- HL_SIGNAL_REGAINED: A host port that had lost signal regains it and starts a settle of its synthesiser, holding frames and
  pausing retransmission timers (R470). -/
  | hlSignalRegained (dt port : Nat)
  /-- ARP_ND_ECHO_REQUEST: An ARP, neighbour discovery, ICMP or ICMPv6 echo, or IGMP/MLD query frame arrives at a host or sensor
  Ethernet port and is answered (R434). -/
  | arpNdEchoRequest (dt port : Nat) (r : NetRequest)
  /-- POCXP_DETECTION_DONE: The CoaXPress device detection of a PoCXP-enabled port completes and the port starts supplying power
  within its budget (R127). -/
  | pocxpDetectionDone (dt n : Nat) (ok : Bool)
  /-- AON_POWER_LOSS: The input falls below 9 V, or the always-on island's hold-up runs out, so every ACT output goes off,
  LINE_STOP_N opens and the next power-good is a power-on (R530). -/
  | aonPowerLoss (dt : Nat)
  /-- AON_POWER_UP: The input reaches 9 V, the always-on rail comes up, and the pins take their reset states before power-good (R582). -/
  | aonPowerUp (dt : Nat)
  /-- ACT_SCHED_UE_HOLD_END: The 100 ms hold of an output after an uncorrectable schedule error ends, and the output is driven by
  its entries again (R431). -/
  | actSchedUeHoldEnd (n : Nat)
  /-- PROFILE_COMPLETE: A PROFILE READ, WRITE, ERASE or SELECT_BOOT finishes its non-volatile memory work and posts its completion
  and final Job Status Word (R540). -/
  | profileComplete
  deriving DecidableEq, Repr

end Sys2Proof
end

