-- ==== Sys2Proof/WellFormed.lean ====
section
/-! DEFINITION. Which commands are well formed: every instance number names an instance of the spec (01_line.md R27, R28 and the
register tables of each chapter), and an offset of setup space is that of a word. -/

namespace Sys2Proof

/-- The number of an error lies below a bound. -/
def EccErr.below : EccErr → Nat → Bool
  | ⟨a, _⟩, n => Nat.blt a n

/-- An error falls in a memory that the device has (01_line.md R28, 08_attention.md R304, 12_imcel.md R438, R463). -/
def EccAt.wf : EccAt → Bool
  | .dram addr => Nat.blt addr 0x800000000
  | .collector => true
  | .kvSeq a => Nat.blt a 4096
  | .slvUnit u => Nat.blt u 16
  | .hlHold i k => Nat.blt i 8 && Nat.blt k 16
  | .hlPost i _ => Nat.blt i 8
  | .linkKey => true

/-- A command's operands name instances that exist. -/
def Instr.wf : Instr → Bool
  | .setupRegisterWrite off _ => Nat.beq (off % 4) 0
  | .lowHalfRead off => Nat.beq (off % 4) 0
  | .lowHalfWrite off _ => Nat.beq (off % 4) 0
  | .highHalfWrite off _ => Nat.beq (off % 4) 0
  | .eraWrap => true
  | .syncReceive _ port _ => Nat.blt port 2
  | .followUpReceive _ port _ => Nat.blt port 2
  | .delayRespReceive _ port _ => Nat.blt port 2
  | .delayReqSend => true
  | .pdelayReqSend port => Nat.blt port 2
  | .pdelayReqReceive _ port _ => Nat.blt port 2
  | .pdelayRespReceive _ port _ => Nat.blt port 2
  | .announceReceive _ port _ => Nat.blt port 2
  | .tcForward _ port _ _ => Nat.blt port 2
  | .tcFollowerForward _ port _ => Nat.blt port 2
  | .asRelaySync _ port _ _ => Nat.blt port 2
  | .tcOrphanTimeout => true
  | .holdTimeout => true
  | .announceTimeout => true
  | .rxLinkDrop _ => true
  | .holdLimit => true
  | .servoRail => true
  | .copySlip _ => true
  | .acceptStep _ => true
  | .sourceWrite _ => true
  | .setTime _ => true
  | .eraWrite _ => true
  | .capEdge _ n _ => Nat.blt n 32
  | .capFilterValidate n => Nat.blt n 32
  | .capStall n => Nat.blt n 32
  | .capDisable n _ => Nat.blt n 32
  | .wordArrive slot _ _ => Nat.blt slot 48
  | .slotEnableWrite n _ => Nat.blt n 48
  | .sspEnableWrite n _ => Nat.blt n 16
  | .senEnableWrite p _ => Nat.blt p 4
  | .senStreamEnableWrite p q _ => Nat.blt p 4 && Nat.blt q 4
  | .encEnableWrite n _ => Nat.blt n 8
  | .spiEnableWrite n _ => Nat.blt n 8
  | .cxpLinkUp _ l => Nat.blt l.port 16 && Nat.blt l.rate 7
  | .cxpLinkDown _ n => Nat.blt n 16
  | .cxpStreamPacket _ n _ => Nat.blt n 16
  | .cxpEventPacket _ n _ => Nat.blt n 16
  | .portXactCxpWrite => true
  | .portXactCxpRead => true
  | .portXactI2c => true
  | .cxpAckReceive _ n _ => Nat.blt n 16
  | .cxpXactTimeout n => Nat.blt n 16
  | .triggerDue n => Nat.blt n 16
  | .triggerLaunch n => Nat.blt n 16
  | .heldTriggerLate n => Nat.blt n 16
  | .trigOne => true
  | .pocxpEnableWrite n _ => Nat.blt n 16
  | .pocxpTrip _ n => Nat.blt n 16
  | .senDatagram _ p _ => Nat.blt p 4
  | .profileCloseTimeout p q => Nat.blt p 4 && Nat.blt q 4
  | .senLinkDown _ p => Nat.blt p 4
  | .senLinkUp _ p _ => Nat.blt p 4
  | .encEdge _ n line _ => Nat.blt n 8 && Nat.blt line 3
  | .encFilterValidate n line => Nat.blt n 8 && Nat.blt line 3
  | .encBatchClose n => Nat.blt n 8
  | .encLineFault _ n line => Nat.blt n 8 && Nat.blt line 3
  | .encLineFaultClear _ n line => Nat.blt n 8 && Nat.blt line 3
  | .encStallTimeout n => Nat.blt n 8
  | .spiDataReady _ n => Nat.blt n 8
  | .spiTimer n => Nat.blt n 8
  | .spiXactDone _ n _ => Nat.blt n 8
  | .spiStallTimeout n => Nat.blt n 8
  | .i2cXferDone _ n _ => Nat.blt n 9
  | .i2cStretchTimeout _ n _ => Nat.blt n 9
  | .i2cSclHeldIdle _ n => Nat.blt n 9
  | .i2cReenable n _ => Nat.blt n 9
  | .slotStall n => Nat.blt n 48
  | .quadLock _ q => Nat.blt q 5
  | .quadSettleLimit q => Nat.blt q 5
  | .quadRetry _ => true
  | .fusionTick f => Nat.blt f 8
  | .motionReport f => Nat.blt f 8
  | .motFrameEnable f _ => Nat.blt f 8
  | .motFrameDisable f _ => Nat.blt f 8
  | .frameAbsent f => Nat.blt f 8
  | .panSampleRead slot => Nat.blt slot 48
  | .samplePlace stream => Nat.blt stream 48
  | .sampleReplace stream => Nat.blt stream 48
  | .streamForfeit f stream => Nat.blt f 8 && Nat.blt stream 48
  | .bandRelease f => Nat.blt f 8
  | .sluiceTokenPlace => true
  | .bandDoneCredit => true
  | .epochDecide f => Nat.blt f 8
  | .sealIssue f => Nat.blt f 8
  | .reRelease f => Nat.blt f 8
  | .panLoad => true
  | .panSwap => true
  | .panSwapCopyDone => true
  | .panFrameEnable f _ => Nat.blt f 8
  | .panFrameDisable f _ => Nat.blt f 8
  | .panSramUe _ w => w.below 0x600000
  | .trkNotice => true
  | .trackBatchProcess => true
  | .trkTokenPlace => true
  | .trkClear => true
  | .trkSramUe _ w => w.below 4096
  | .load lane => Nat.blt lane 16
  | .store lane => Nat.blt lane 16
  | .push lane => Nat.blt lane 16
  | .pop lane => Nat.blt lane 16
  | .lda lane => Nat.blt lane 16
  | .seta lane => Nat.blt lane 16
  | .adda lane => Nat.blt lane 16
  | .setc lane _ => Nat.blt lane 16
  | .addc lane _ => Nat.blt lane 16
  | .cmp lane _ => Nat.blt lane 16
  | .br _ => true
  | .decide => true
  | .rscalar lane => Nat.blt lane 16
  | .bandOpen => true
  | .bandEnd => true
  | .takeb => true
  | .handoff => true
  | .waitb => true
  | .freeb => true
  | .emit lane => Nat.blt lane 16
  | .nop lane _ => Nat.blt lane 16
  | .trackTokenTake => true
  | .bandqRecallEnter => true
  | .noticePass => true
  | .watchdogExpire => true
  | .laneFail _ lane => Nat.blt lane 16
  | .laneSpUe _ lane w => Nat.blt lane 16 && w.below 0x200000
  | .laneRejoin _ failing => Nat.blt failing 65536
  | .matmul lane => Nat.blt lane 16
  | .conv2d lane => Nat.blt lane 16
  | .warp lane => Nat.blt lane 16
  | .meshi lane => Nat.blt lane 16
  | .reduce lane => Nat.blt lane 16
  | .eltwise lane => Nat.blt lane 16
  | .hist lane => Nat.blt lane 16
  | .gather lane => Nat.blt lane 16
  | .scatter lane => Nat.blt lane 16
  | .convert lane => Nat.blt lane 16
  | .norm lane => Nat.blt lane 16
  | .attend lane => Nat.blt lane 16
  | .kvAppend lane => Nat.blt lane 16
  | .kvReset lane => Nat.blt lane 16
  | .kvTrim lane => Nat.blt lane 16
  | .kvLen lane => Nat.blt lane 16
  | .kvTrackerUpdate => true
  | .kvRebuildDone => true
  | .kvpClear => true
  | .slvNotice => true
  | .heatStart => true
  | .problemDeal unit => Nat.blt unit 16
  | .problemDone unit => Nat.blt unit 16
  | .heatDeadline => true
  | .slvUnitFail _ unit => Nat.blt unit 16
  | .slvSchedUe _ w => w.below 64
  | .unitRejoin _ failing => Nat.blt failing 65536
  | .slvLoad => true
  | .schedVerifyDone => true
  | .progLoad => true
  | .progVerifyDone => true
  | .exchange => true
  | .exchangeAbort _ => true
  | .programChange => true
  | .programRetire => true
  | .breakHit b => Nat.blt b 2
  | .dbgHalt _ => true
  | .dbgStepA _ => true
  | .dbgStepE _ => true
  | .dbgResume _ => true
  | .progMemUe _ _ => true
  | .verdictIntake => true
  | .actArm => true
  | .expectCreate n => Nat.blt n 32
  | .actNotice => true
  | .entryCommit _ => true
  | .edgeStart _ => true
  | .fullDriveEnd n => Nat.blt n 32
  | .holdEnd n => Nat.blt n 32
  | .entryTriggerPoint _ => true
  | .lstopRelease _ => true
  | .actRun _ => true
  | .actUnitEnable _ => true
  | .actUnitDisable _ => true
  | .actOutputDisable n _ => Nat.blt n 32
  | .actClear => true
  | .actOvercurrent _ n => Nat.blt n 32
  | .actReadback _ n => Nat.blt n 32
  | .actSchedUe _ _ _ => true
  | .safePathTest _ _ => true
  | .hello _ port _ _ => Nat.blt port 2
  | .openSession _ port _ _ => Nat.blt port 2
  | .challengeTimeout ix => Nat.blt ix 8
  | .write _ port _ _ => Nat.blt port 2
  | .read _ port _ _ => Nat.blt port 2
  | .regwrite _ port _ _ => Nat.blt port 2
  | .window _ port _ _ => Nat.blt port 2
  | .keyset _ port _ _ => Nat.blt port 2
  | .close _ port _ _ => Nat.blt port 2
  | .ping _ port _ _ => Nat.blt port 2
  | .nudge _ port _ _ => Nat.blt port 2
  | .probe _ port _ _ => Nat.blt port 2
  | .fdata _ port _ _ => Nat.blt port 2
  | .pack _ port _ _ => Nat.blt port 2
  | .deviceRetxTimeout ix => Nat.blt ix 8
  | .keepaliveExpire ix => Nat.blt ix 8
  | .statusBeacon port _ => Nat.blt port 2
  | .hlPortLock _ port => Nat.blt port 2
  | .hlSettleLimit port => Nat.blt port 2
  | .hlPortRetry port => Nat.blt port 2
  | .hlSpeedSearch port => Nat.blt port 2
  | .hlLinkDown _ port => Nat.blt port 2
  | .doorbellPoll r => Nat.blt r 64
  | .descriptorDispatch r => Nat.blt r 64
  | .recordPost r => Nat.blt r 64
  | .jswUpdate ring _ => Nat.blt ring 64
  | .ringEnableWrite r _ => Nat.blt r 64
  | .nopDescriptor => true
  | .slvHeat => true
  | .injectReport => true
  | .injectActuation => true
  | .fltAck => true
  | .profileRead => true
  | .profileWrite => true
  | .profileErase => true
  | .profileSelectBoot => true
  | .faultClassify => true
  | .fatalLine _ _ _ unit _ => Nat.blt unit 16
  | .forceFault _ => true
  | .islandTimeout _ _ => true
  | .dramError _ at_ _ => at_.wf
  | .dramLinkFail _ chan => Nat.blt chan 4
  | .autoAck => true
  | .fltHeartbeatMiss => true
  | .safeStateRelease => true
  | .aliveToggle => true
  | .powerGood _ => true
  | .lowVin _ => true
  | .pocxpCut _ => true
  | .brownout _ => true
  | .overvolt _ => true
  | .overtemp _ => true
  | .supplyResetRelease _ => true
  | .resetNChange _ _ => true
  | .buttonChange _ _ => true
  | .swreset _ => true
  | .swresetRelease => true
  | .resetRelease _ => true
  | .bootImageLoaded _ _ => true
  | .bootProfileApply => true
  | .profileWaitExpire => true
  | .dramTrainingDone _ trained => Nat.blt trained 16
  | .zeroingDone _ failing lanes units => Nat.blt failing 65536 && Nat.blt lanes 65536 && Nat.blt units 65536
  | .hlSignalRegained _ port => Nat.blt port 2
  | .arpNdEchoRequest _ port r => Nat.blt port (if r.sensor then 4 else 2)
  | .pocxpDetectionDone _ n _ => Nat.blt n 16
  | .aonPowerLoss _ => true
  | .aonPowerUp _ => true
  | .actSchedUeHoldEnd n => Nat.blt n 32
  | .profileComplete => true

end Sys2Proof
end

