-- ==== Sys2Proof/Decode.lean ====
section
/-! DEFINITION. The commands that words spell. spec/opcode_table.json gives no row any bits: the block has no encoding of its
commands, so no word spells one. -/

namespace Sys2Proof

/-- The command that a word of `nbits` bits spells by the bits of spec/opcode_table.json: none, as no row has bits.
Log 4 (DESIGN CHOICE). -/
def decodeTableWord (_nbits _w : Nat) : Option Instr := none

end Sys2Proof
end

