-- ==== Sys2Proof/Config.lean ====
section
/-! DEFINITION. What spec/ leaves open and an implementation fixes: free values, each an opaque constant without a body,
so that nothing can be proved of a particular value (notes/assumptions/ names each). -/

namespace Sys2Proof.Config

/-- A free value: an argument that tells the use apart, and the count of free values used before it. Log 9 (DESIGN CHOICE). -/
opaque free : Nat → Nat → Nat

/-- A random byte of a nonce (12_imcel.md R439): the count of free values used before it. -/
opaque random : Nat → Nat

/-- The serial number in OTP (15_startup.md R535, 12_imcel.md R461). Log 11 (DESIGN CHOICE). -/
opaque serial : Nat

/-- The MAC address of a host port in OTP, 48 bits, its first octet the most significant one (12_imcel.md R434). Log 11 (DESIGN CHOICE). -/
opaque mac : Nat → Nat

/-- The identifier of a boot image copy, B for true (12_imcel.md R461, 15_startup.md R536). Log 11 (DESIGN CHOICE). -/
opaque imageId : Bool → Nat

/-- Byte i of the factory link key in OTP (12_imcel.md R440, R445). Log 11 (DESIGN CHOICE). -/
opaque factoryKey : Nat → Nat

/-- A measurement that a read-only field reports (00_scope.md R19), by offset of its register and interval time. Log 10 (DESIGN CHOICE). -/
opaque measure : Nat → Nat → Nat

/-- A point of a mesh that 07_aurik_ops.md R286 or R287 leaves without a value: the count of free values used before it,
the component, and the pixel. Log 77 (DESIGN CHOICE). -/
opaque meshPoint : Nat → Nat → Nat → Nat → Int

/-- The bytes of a journal segment (05_track.md R211), by the number of entries it saves. Log 81 (DESIGN CHOICE). -/
opaque segmentBytes : Nat → Nat

/-- Which high-side outputs with SAFE 1 the falling input still holds on below brown-out, one a bit, by interval time (15_startup.md R530).
Log 190 (DESIGN CHOICE). -/
opaque sagHold : Nat → Nat

end Sys2Proof.Config
end

