-- ==== Sys2Proof/Machine/Bits.lean ====
section
/-! DEFINITION. Bit fields, byte order, sign extension, saturation and rounding: the helpers every chapter's formats use
(00_scope.md R7, R8, R9; 01_line.md R33, R35, R36). -/

namespace Sys2Proof.Machine

open Sys2Proof

/-- Bits hi..lo of a number. -/
def bits (v hi lo : Nat) : Nat := (v >>> lo) % 2 ^ (hi + 1 - lo)

/-- Bit `i` of a number. -/
def bit (v i : Nat) : Bool := v.testBit i

/-- A number with its bits hi..lo replaced by the low bits of `x`. -/
def putBits (v hi lo x : Nat) : Nat :=
  let w := hi + 1 - lo
  v - ((v >>> lo) % 2 ^ w) <<< lo + (x % 2 ^ w) <<< lo

/-- 1 for true, 0 for false. -/
def b2n (b : Bool) : Nat := if b then 1 else 0

/-- The number of 1 bits among the low `n` bits. -/
def popcount (v : Nat) : Nat → Nat
  | 0 => 0
  | n + 1 => b2n (v.testBit n) + popcount v n

/-- The low `w` bits of a number read as two's complement (R9). -/
def signed (w v : Nat) : Int :=
  let u := v % 2 ^ w
  if u < 2 ^ (w - 1) then (u : Int) else (u : Int) - (2 ^ w : Nat)

/-- An integer as `w` bits, modulo 2^w (R9). -/
def wrapU (w : Nat) (i : Int) : Nat := (i % ((2 ^ w : Nat) : Int)).toNat

/-- An integer wrapped into the signed range of `w` bits. -/
def wrapS (w : Nat) (i : Int) : Int := signed w (wrapU w i)

/-- The nearest end of lo..hi. -/
def clampI (lo hi x : Int) : Int := if x < lo then lo else if hi < x then hi else x

/-- The nearest end of lo..hi. -/
def clampN (lo hi x : Nat) : Nat := if x < lo then lo else if hi < x then hi else x

/-- A counter that saturates at `cap`, advanced by `k`. -/
def satAdd (cap n k : Nat) : Nat := min cap (n + k)

/-- `n` bytes of a number, least significant first (R7). -/
def leBytes : Nat → Nat → List Byte
  | 0, _ => []
  | n + 1, v => BitVec.ofNat 8 v :: leBytes n (v / 256)

/-- The number that a list of bytes holds, least significant first (R7). -/
def leNat : List Byte → Nat
  | [] => 0
  | b :: t => b.toNat + 256 * leNat t

/-- `n` bytes from offset `o` of a list; bytes past its end read 0. -/
def sub (l : List Byte) (o n : Nat) : List Byte :=
  let x := (l.drop o).take n
  x ++ List.replicate (n - x.length) 0

/-- The byte at offset `o`. -/
def u8 (l : List Byte) (o : Nat) : Nat := leNat ((l.drop o).take 1)
/-- The 16-bit field at offset `o`. -/
def u16 (l : List Byte) (o : Nat) : Nat := leNat ((l.drop o).take 2)
/-- The 32-bit field at offset `o`. -/
def u32 (l : List Byte) (o : Nat) : Nat := leNat ((l.drop o).take 4)
/-- The 64-bit field at offset `o`. -/
def u64 (l : List Byte) (o : Nat) : Nat := leNat ((l.drop o).take 8)
/-- The signed 32-bit field at offset `o`. -/
def s32 (l : List Byte) (o : Nat) : Int := signed 32 (u32 l o)
/-- The signed 64-bit field at offset `o`. -/
def s64 (l : List Byte) (o : Nat) : Int := signed 64 (u64 l o)
/-- The signed 16-bit field at offset `o`. -/
def s16 (l : List Byte) (o : Nat) : Int := signed 16 (u16 l o)

/-- One byte of a number. -/
def by1 (v : Nat) : List Byte := leBytes 1 v
/-- Two bytes of a number. -/
def by2 (v : Nat) : List Byte := leBytes 2 v
/-- Four bytes of a number. -/
def by4 (v : Nat) : List Byte := leBytes 4 v
/-- Eight bytes of a number. -/
def by8 (v : Nat) : List Byte := leBytes 8 v
/-- Four bytes of a signed number. -/
def by4i (v : Int) : List Byte := leBytes 4 (wrapU 32 v)
/-- Eight bytes of a signed number. -/
def by8i (v : Int) : List Byte := leBytes 8 (wrapU 64 v)
/-- `n` zero bytes (R10). -/
def zeros (n : Nat) : List Byte := List.replicate n 0

/-- A list with the bytes from offset `o` replaced by `x`; the list keeps its length. -/
def patch (l : List Byte) (o : Nat) (x : List Byte) : List Byte :=
  (l.take o ++ x ++ l.drop (o + x.length)).take l.length

/-- An address register of `n` bytes, first octet in byte 0, as a number with the first octet on top. Log 54 (DEDUCED). -/
def netOrder (n v : Nat) : Nat := leNat (leBytes n v).reverse

/-- An IPv4 address in the form ::ffff:a.b.c.d. Log 54 (DEDUCED). -/
def mapped (a : Nat) : BitVec 128 := BitVec.ofNat 128 (0xFFFF00000000 + a)

/-- Numbers 0 to n - 1 in rising order. -/
def upTo : Nat → List Nat
  | 0 => []
  | n + 1 => upTo n ++ [n]

/-- The signed difference of two DT64 values (01_line.md R33). -/
def dtSub (a b : DT64) : Int := (a - b).toInt

/-- a is later than b, or the same (01_line.md R33). -/
def dtGe (a b : DT64) : Bool := 0 ≤ dtSub a b

/-- The signed difference of two WP48 positions (01_line.md R35). -/
def wpSub (p q : WP48) : Int := (p - q).toInt

/-- A WP48 from an integer position. -/
def wpOf (i : Int) : WP48 := BitVec.ofInt 48 i

/-- The signed difference of two 32-bit indices or serials. -/
def ixSub (a b : BitVec 32) : Int := (a - b).toInt

/-- Nanoseconds as a DT64 duration, rounded (01_line.md R33). -/
def nsToDt (ns : Nat) : Nat := (ns * 4294967296 + 500000000) / 1000000000

/-- A DT64 duration as nanoseconds, rounded (01_line.md R33). -/
def dtToNs (d : Nat) : Nat := (d * 1000000000 + 2147483648) / 4294967296

/-- Round a/b (b > 0) to the nearest integer, ties to even. -/
def rneDiv (a : Int) (b : Nat) : Int :=
  let q := a / (b : Int)
  let r := a % (b : Int)
  if 2 * r < b then q else if (b : Int) < 2 * r then q + 1 else if q % 2 = 0 then q else q + 1

/-- Round a/b (b > 0) to the nearest integer, ties away from zero. -/
def rhaDiv (a : Int) (b : Nat) : Int :=
  if 0 ≤ a then (2 * a + b) / (2 * b) else -((2 * (-a) + b) / (2 * b))

/-- The smallest of a list of numbers, or `d` for an empty one. -/
def minOf (d : Nat) (l : List Nat) : Nat := l.foldl min d

/-- Replace the first element that satisfies `p` by its image under `f`. -/
def modFirst {α : Type} (p : α → Bool) (f : α → α) : List α → List α
  | [] => []
  | x :: t => if p x then f x :: t else x :: modFirst p f t

/-- Drop the first element that satisfies `p`. -/
def dropFirst {α : Type} (p : α → Bool) : List α → List α
  | [] => []
  | x :: t => if p x then t else x :: dropFirst p t

/-- Replace every element that satisfies `p` by its image under `f`. -/
def modAll {α : Type} (p : α → Bool) (f : α → α) (l : List α) : List α := l.map (fun x => if p x then f x else x)

/-- Apply a state change once for each element, in order. -/
def eachOf {α σ : Type} (l : List α) (f : α → σ → σ) (s : σ) : σ := l.foldl (fun s x => f x s) s

end Sys2Proof.Machine
end

