-- ==== Sys2Proof/Machine/RegTable.lean ====
section
/-! DEFINITION. The setup registers of the Haljo 24: one name per register of the field tables of spec/ (00_scope.md
R14 to R20), its offset in setup space (01_line.md R28), and its fields with access, reset value and legal range. -/

namespace Sys2Proof.Machine

open Sys2Proof

/-- How a field answers reads and writes (00_scope.md R16). -/
inductive Access where
  | rw | ro | wo | w1c | w1s
  deriving DecidableEq, Repr

/-- The kind of a field's legal range (01_line.md R47). `dep` is a range that another field, or the register's own rule,
sets: Machine/RegClamp.lean gives it. -/
inductive Range where
  /-- Every bit pattern is legal. -/
  | any
  /-- An interval of unsigned values. -/
  | span (lo hi : Nat)
  /-- An interval of signed values. -/
  | sspan (lo hi : Int)
  /-- Listed codes; the fallback is the reset value. -/
  | codes (l : List Nat)
  | dep
  deriving DecidableEq, Repr

/-- One row of a field table: bits hi..lo, access, reset value, legal range, and whether the field is idle only (R52). -/
structure Field where
  hi : Nat
  lo : Nat
  acc : Access
  reset : Nat
  range : Range
  idle : Bool
  deriving DecidableEq, Repr

/-- A register's place and fields: the first offset from 0x18_0000_0000, its width in bits, and the distance and number
of its instances in one or two directions. -/
structure RegInfo where
  base : Nat
  width : Nat
  step1 : Nat
  count1 : Nat
  step2 : Nat
  count2 : Nat
  fields : List Field
  deriving DecidableEq, Repr

/-- Every register of the setup tables. -/
inductive Reg where
  /-- TK.CTRL (02_timekeeper.md R100). -/
  | tkCtrl
  /-- TK.STATUS (02_timekeeper.md R100). -/
  | tkStatus
  /-- TK.EVENTS (02_timekeeper.md R100). -/
  | tkEvents
  /-- TK.ACCEPT_STEP (02_timekeeper.md R100). -/
  | tkAcceptStep
  /-- TK.FS_LIMIT (02_timekeeper.md R100). -/
  | tkFsLimit
  /-- TK.FS_COUNT (02_timekeeper.md R100). -/
  | tkFsCount
  /-- TK.PACER_GAIN (02_timekeeper.md R100). -/
  | tkPacerGain
  /-- TK.PACER_LIMIT (02_timekeeper.md R100). -/
  | tkPacerLimit
  /-- TK.LOCK_CFG (02_timekeeper.md R100). -/
  | tkLockCfg
  /-- TK.HOLD_CFG (02_timekeeper.md R100). -/
  | tkHoldCfg
  /-- TK.TIME (02_timekeeper.md R100). -/
  | tkTime
  /-- TK.SET_TIME (02_timekeeper.md R100). -/
  | tkSetTime
  /-- TK.ERA (02_timekeeper.md R100). -/
  | tkEra
  /-- TK.UTC_OFFSET (02_timekeeper.md R100). -/
  | tkUtcOffset
  /-- TK.OFFSET (02_timekeeper.md R100). -/
  | tkOffset
  /-- TK.PATH_DELAY (02_timekeeper.md R100). -/
  | tkPathDelay
  /-- TK.FREQ_ADJ (02_timekeeper.md R100). -/
  | tkFreqAdj
  /-- TK.HOLD_UNC (02_timekeeper.md R100). -/
  | tkHoldUnc
  /-- TK.PTP_CFG (02_timekeeper.md R100). -/
  | tkPtpCfg
  /-- TK.REPORT (02_timekeeper.md R100). -/
  | tkReport
  /-- TK.PORT_LAT (02_timekeeper.md R100). -/
  | tkPortLat
  /-- TK.ASYM (02_timekeeper.md R100). -/
  | tkAsym
  /-- TK.GM_ID (02_timekeeper.md R100). -/
  | tkGmId
  /-- TK.TC_COUNT (02_timekeeper.md R100). -/
  | tkTcCount
  /-- TK.CAP_CFG (02_timekeeper.md R100). -/
  | tkCapCfg
  /-- TK.CAP_COMP (02_timekeeper.md R100). -/
  | tkCapComp
  /-- TK.CAP_STALL (02_timekeeper.md R100). -/
  | tkCapStall
  /-- TK.CAP_LEVEL (02_timekeeper.md R100). -/
  | tkCapLevel
  /-- TK.CAP_ABSENT (02_timekeeper.md R100). -/
  | tkCapAbsent
  /-- HL.CTRL (12_imcel.md R476). -/
  | hlCtrl
  /-- HL.STAT (12_imcel.md R476). -/
  | hlStat
  /-- HL.SETTLE (12_imcel.md R476). -/
  | hlSettle
  /-- HL.RETX (12_imcel.md R476). -/
  | hlRetx
  /-- HL.KEEPALIVE (12_imcel.md R476). -/
  | hlKeepalive
  /-- HL.POLICY (12_imcel.md R476). -/
  | hlPolicy
  /-- HL.AUTH (12_imcel.md R476). -/
  | hlAuth
  /-- HL.DROP (12_imcel.md R476). -/
  | hlDrop
  /-- HL.POLL (13_rings.md R503). -/
  | hlPoll
  /-- HL.P_CFG (12_imcel.md R476). -/
  | hlPCfg
  /-- HL.P_STAT (12_imcel.md R476). -/
  | hlPStat
  /-- HL.P_MAC (12_imcel.md R476). -/
  | hlPMac
  /-- HL.P_ADDR4 (12_imcel.md R476). -/
  | hlPAddr4
  /-- HL.P_PREFIX (12_imcel.md R476). -/
  | hlPPrefix
  /-- HL.P_ADDR6 (12_imcel.md R476). -/
  | hlPAddr6
  /-- HL.SESS_STAT (12_imcel.md R476). -/
  | hlSessStat
  /-- HL.SESS_WIN (12_imcel.md R476). -/
  | hlSessWin
  /-- HL.SESS_RETX (12_imcel.md R476). -/
  | hlSessRetx
  /-- HL.SESS_POSTBUF (12_imcel.md R476). -/
  | hlSessPostbuf
  /-- HL.SESS_DROP (12_imcel.md R476). -/
  | hlSessDrop
  /-- HL.RING_CFG (13_rings.md R503). -/
  | hlRingCfg
  /-- HL.RING_BASE (13_rings.md R503). -/
  | hlRingBase
  /-- HL.RING_DBADDR (13_rings.md R503). -/
  | hlRingDbaddr
  /-- HL.RING_DIADDR (13_rings.md R503). -/
  | hlRingDiaddr
  /-- HL.RING_GEN (13_rings.md R503). -/
  | hlRingGen
  /-- HL.RING_STAT (13_rings.md R503). -/
  | hlRingStat
  /-- HL.RING_HIDX (13_rings.md R503). -/
  | hlRingHidx
  /-- HL.RING_DIDX (13_rings.md R503). -/
  | hlRingDidx
  /-- HL.RING_LOSS (13_rings.md R503). -/
  | hlRingLoss
  /-- SSP.CTRL (03_sensor_ports.md R152). -/
  | sspCtrl
  /-- SSP.STATUS (03_sensor_ports.md R152). -/
  | sspStatus
  /-- SSP.POCXP (03_sensor_ports.md R152). -/
  | sspPocxp
  /-- SSP.LAT (03_sensor_ports.md R152). -/
  | sspLat
  /-- SSP.TRIG_CFG (03_sensor_ports.md R152). -/
  | sspTrigCfg
  /-- SSP.TRIG_PITCH (03_sensor_ports.md R152). -/
  | sspTrigPitch
  /-- SSP.TRIG_DELAY (03_sensor_ports.md R152). -/
  | sspTrigDelay
  /-- SSP.TRIG_COUNT (03_sensor_ports.md R152). -/
  | sspTrigCount
  /-- SSP.RX_COUNT (03_sensor_ports.md R152). -/
  | sspRxCount
  /-- SEN.CTRL (03_sensor_ports.md R152). -/
  | senCtrl
  /-- SEN.STATUS (03_sensor_ports.md R152). -/
  | senStatus
  /-- SEN.ADDR4 (03_sensor_ports.md R152). -/
  | senAddr4
  /-- SEN.ADDR6 (03_sensor_ports.md R152). -/
  | senAddr6
  /-- SEN.LAT (03_sensor_ports.md R152). -/
  | senLat
  /-- SEN.DROP (03_sensor_ports.md R152). -/
  | senDrop
  /-- SEN.STREAM_CFG (03_sensor_ports.md R152). -/
  | senStreamCfg
  /-- SEN.STREAM_PORTS (03_sensor_ports.md R152). -/
  | senStreamPorts
  /-- SEN.STREAM_GROUP4 (03_sensor_ports.md R152). -/
  | senStreamGroup4
  /-- SEN.STREAM_SRC (03_sensor_ports.md R152). -/
  | senStreamSrc
  /-- SEN.STREAM_COUNT (03_sensor_ports.md R152). -/
  | senStreamCount
  /-- MP.ENC_CFG (03_sensor_ports.md R152). -/
  | mpEncCfg
  /-- MP.ENC_STALL (03_sensor_ports.md R152). -/
  | mpEncStall
  /-- MP.ENC_COUNT (03_sensor_ports.md R152). -/
  | mpEncCount
  /-- MP.ENC_STAT (03_sensor_ports.md R152). -/
  | mpEncStat
  /-- MP.SPI_CFG (03_sensor_ports.md R152). -/
  | mpSpiCfg
  /-- MP.SPI_XACT (03_sensor_ports.md R152). -/
  | mpSpiXact
  /-- MP.SPI_CMD (03_sensor_ports.md R152). -/
  | mpSpiCmd
  /-- MP.SPI_PERIOD (03_sensor_ports.md R152). -/
  | mpSpiPeriod
  /-- MP.SPI_STALL (03_sensor_ports.md R152). -/
  | mpSpiStall
  /-- MP.SPI_STAT (03_sensor_ports.md R152). -/
  | mpSpiStat
  /-- MP.I2C_CFG (03_sensor_ports.md R152). -/
  | mpI2cCfg
  /-- MP.I2C_STAT (03_sensor_ports.md R152). -/
  | mpI2cStat
  /-- MP.I2C_CTRL (03_sensor_ports.md R152). -/
  | mpI2cCtrl
  /-- MOT.CTRL (04_motion_pan.md R192). -/
  | motCtrl
  /-- MOT.SCALE (04_motion_pan.md R192). -/
  | motScale
  /-- MOT.IMU_FMT (04_motion_pan.md R192). -/
  | motImuFmt
  /-- MOT.IMU_SCALE (04_motion_pan.md R192). -/
  | motImuScale
  /-- MOT.GAIN_A (04_motion_pan.md R192). -/
  | motGainA
  /-- MOT.GAIN_B (04_motion_pan.md R192). -/
  | motGainB
  /-- MOT.HORIZON (04_motion_pan.md R192). -/
  | motHorizon
  /-- MOT.RESID (04_motion_pan.md R192). -/
  | motResid
  /-- MOT.ORIGIN (04_motion_pan.md R192). -/
  | motOrigin
  /-- MOT.POS (04_motion_pan.md R192). -/
  | motPos
  /-- MOT.TCONF (04_motion_pan.md R192). -/
  | motTconf
  /-- MOT.VEL (04_motion_pan.md R192). -/
  | motVel
  /-- MOT.STAT (04_motion_pan.md R192). -/
  | motStat
  /-- MOT.REPORT (04_motion_pan.md R192). -/
  | motReport
  /-- PAN.CTRL (04_motion_pan.md R192). -/
  | panCtrl
  /-- PAN.STAT (04_motion_pan.md R192). -/
  | panStat
  /-- PAN.REPORT (04_motion_pan.md R192). -/
  | panReport
  /-- PAN.FRAME_CFG (04_motion_pan.md R192). -/
  | panFrameCfg
  /-- PAN.FRAME_BAND_LEN (04_motion_pan.md R192). -/
  | panFrameBandLen
  /-- PAN.FRAME_BAND_ORIGIN (04_motion_pan.md R192). -/
  | panFrameBandOrigin
  /-- PAN.FRAME_DUE_OFF (04_motion_pan.md R192). -/
  | panFrameDueOff
  /-- PAN.FRAME_RECALL_TOL (04_motion_pan.md R192). -/
  | panFrameRecallTol
  /-- PAN.FRAME_NEXT (04_motion_pan.md R192). -/
  | panFrameNext
  /-- PAN.FRAME_STAT (04_motion_pan.md R192). -/
  | panFrameStat
  /-- PAN.FRAME_COUNT (04_motion_pan.md R192). -/
  | panFrameCount
  /-- PAN.STREAM_CFG (04_motion_pan.md R192). -/
  | panStreamCfg
  /-- PAN.STREAM_MESH (04_motion_pan.md R192). -/
  | panStreamMesh
  /-- PAN.STREAM_WAIT (04_motion_pan.md R192). -/
  | panStreamWait
  /-- PAN.STREAM_STAT (04_motion_pan.md R192). -/
  | panStreamStat
  /-- PAN.STREAM_DROP (04_motion_pan.md R192). -/
  | panStreamDrop
  /-- TRK.CTRL (05_track.md R225). -/
  | trkCtrl
  /-- TRK.STAT (05_track.md R225). -/
  | trkStat
  /-- TRK.REPORT (05_track.md R225). -/
  | trkReport
  /-- TRK.OUT_BASE (05_track.md R225). -/
  | trkOutBase
  /-- TRK.OUT_SIZE (05_track.md R225). -/
  | trkOutSize
  /-- TRK.JBASE (05_track.md R225). -/
  | trkJbase
  /-- TRK.JSIZE (05_track.md R225). -/
  | trkJsize
  /-- TRK.JSTAT (05_track.md R225). -/
  | trkJstat
  /-- TRK.CLASS_CFG (05_track.md R225). -/
  | trkClassCfg
  /-- TRK.CLASS_LIFE (05_track.md R225). -/
  | trkClassLife
  /-- TRK.CLASS_GATE_A (05_track.md R225). -/
  | trkClassGateA
  /-- TRK.CLASS_GATE_C (05_track.md R225). -/
  | trkClassGateC
  /-- TRK.CLASS_WEIGHT (05_track.md R225). -/
  | trkClassWeight
  /-- TRK.CLASS_GATE_COST (05_track.md R225). -/
  | trkClassGateCost
  /-- TRK.CLASS_GAIN (05_track.md R225). -/
  | trkClassGain
  /-- TRK.CLASS_REPEAT (05_track.md R225). -/
  | trkClassRepeat
  /-- TRK.CLASS_STAT (05_track.md R225). -/
  | trkClassStat
  /-- TRK.CLASS_COUNT (05_track.md R225). -/
  | trkClassCount
  /-- TRK.CLASS_RAKE (05_track.md R225). -/
  | trkClassRake
  /-- TRK.CLASS_DROP (05_track.md R225). -/
  | trkClassDrop
  /-- RLY.CTRL (06_aurik_machine.md R265). -/
  | rlyCtrl
  /-- RLY.STAT (06_aurik_machine.md R265). -/
  | rlyStat
  /-- RLY.LANES (06_aurik_machine.md R265). -/
  | rlyLanes
  /-- RLY.WATCH (06_aurik_machine.md R265). -/
  | rlyWatch
  /-- RLY.REPORT (06_aurik_machine.md R265). -/
  | rlyReport
  /-- RLY.QSTAT (06_aurik_machine.md R265). -/
  | rlyQstat
  /-- RLY.BATONS (06_aurik_machine.md R265). -/
  | rlyBatons
  /-- RLY.COUNT (06_aurik_machine.md R265). -/
  | rlyCount
  /-- RLY.CUR (06_aurik_machine.md R265). -/
  | rlyCur
  /-- RLY.PROG (10_programs.md R398). -/
  | rlyProg
  /-- RLY.ACTIVE_ID (10_programs.md R398). -/
  | rlyActiveId
  /-- RLY.STANDBY_ID (10_programs.md R398). -/
  | rlyStandbyId
  /-- RLY.LOAD (10_programs.md R398). -/
  | rlyLoad
  /-- RLY.LOAD_INDEX (10_programs.md R398). -/
  | rlyLoadIndex
  /-- RLY.XCOUNT (10_programs.md R398). -/
  | rlyXcount
  /-- RLY.FENCE (10_programs.md R398). -/
  | rlyFence
  /-- RLY.BRK_CTRL (10_programs.md R398). -/
  | rlyBrkCtrl
  /-- RLY.BRK_COUNT (10_programs.md R398). -/
  | rlyBrkCount
  /-- RLY.DBG (10_programs.md R398). -/
  | rlyDbg
  /-- RLY.DBG_CMD (10_programs.md R398). -/
  | rlyDbgCmd
  /-- RLY.CTX (10_programs.md R398). -/
  | rlyCtx
  /-- LANE.STAT (06_aurik_machine.md R265). -/
  | laneStat
  /-- LANE.SP_ERR (06_aurik_machine.md R265). -/
  | laneSpErr
  /-- LANE.ACNT (06_aurik_machine.md R265). -/
  | laneAcnt
  /-- LANE.ECNT (06_aurik_machine.md R265). -/
  | laneEcnt
  /-- LANE.PC (10_programs.md R398). -/
  | lanePc
  /-- LANE.QS (10_programs.md R398). -/
  | laneQs
  /-- LANE.KS (10_programs.md R398). -/
  | laneKs
  /-- LANE.C (10_programs.md R398). -/
  | laneC
  /-- LANE.A_VALUE (10_programs.md R398). -/
  | laneAValue
  /-- LANE.A_BASE (10_programs.md R398). -/
  | laneABase
  /-- LANE.A_STEP (10_programs.md R398). -/
  | laneAStep
  /-- LANE.A_MOD (10_programs.md R398). -/
  | laneAMod
  /-- KVP.CTRL (08_attention.md R332). -/
  | kvpCtrl
  /-- KVP.STAT (08_attention.md R332). -/
  | kvpStat
  /-- KVP.PT_BASE (08_attention.md R332). -/
  | kvpPtBase
  /-- KVP.COUNT (08_attention.md R332). -/
  | kvpCount
  /-- KVP.CACHE_CFG (08_attention.md R332). -/
  | kvpCacheCfg
  /-- KVP.CACHE_SEQS (08_attention.md R332). -/
  | kvpCacheSeqs
  /-- KVP.CACHE_BASE (08_attention.md R332). -/
  | kvpCacheBase
  /-- KVP.CACHE_NPAGES (08_attention.md R332). -/
  | kvpCacheNpages
  /-- KVP.CACHE_STAT (08_attention.md R332). -/
  | kvpCacheStat
  /-- KVP.CACHE_COUNT (08_attention.md R332). -/
  | kvpCacheCount
  /-- SLV.CTRL (09_solver.md R366). -/
  | slvCtrl
  /-- SLV.STAT (09_solver.md R366). -/
  | slvStat
  /-- SLV.REPORT (09_solver.md R366). -/
  | slvReport
  /-- SLV.UNITS (09_solver.md R366). -/
  | slvUnits
  /-- SLV.COUNT (09_solver.md R366). -/
  | slvCount
  /-- SLV.PCOUNT (09_solver.md R366). -/
  | slvPcount
  /-- SLV.CUTS (09_solver.md R366). -/
  | slvCuts
  /-- SLV.HOST (09_solver.md R366). -/
  | slvHost
  /-- SLV.SCHED_MAP (09_solver.md R366). -/
  | slvSchedMap
  /-- SLV.REFUSE_BASE (09_solver.md R366). -/
  | slvRefuseBase
  /-- ACT.CTRL (11_actuation.md R433). -/
  | actCtrl
  /-- ACT.STAT (11_actuation.md R433). -/
  | actStat
  /-- ACT.REPORT (11_actuation.md R433). -/
  | actReport
  /-- ACT.COUNT (11_actuation.md R433). -/
  | actCount
  /-- ACT.DROP (11_actuation.md R433). -/
  | actDrop
  /-- ACT.LATE (11_actuation.md R433). -/
  | actLate
  /-- ACT.LSTOP (11_actuation.md R433). -/
  | actLstop
  /-- ACT.CFG (11_actuation.md R433). -/
  | actCfg
  /-- ACT.WIDTH (11_actuation.md R433). -/
  | actWidth
  /-- ACT.HOLD (11_actuation.md R433). -/
  | actHold
  /-- ACT.GAP (11_actuation.md R433). -/
  | actGap
  /-- ACT.LEAD (11_actuation.md R433). -/
  | actLead
  /-- ACT.GUARD (11_actuation.md R433). -/
  | actGuard
  /-- ACT.GUARD_T (11_actuation.md R433). -/
  | actGuardT
  /-- ACT.MATCH (11_actuation.md R433). -/
  | actMatch
  /-- ACT.EXP (11_actuation.md R433). -/
  | actExp
  /-- ACT.EXP_PITCH (11_actuation.md R433). -/
  | actExpPitch
  /-- ACT.EXP_PHASE (11_actuation.md R433). -/
  | actExpPhase
  /-- ACT.EXP_OFF (11_actuation.md R433). -/
  | actExpOff
  /-- ACT.ASTAT (11_actuation.md R433). -/
  | actAstat
  /-- IOC.SLOT_CFG (03_sensor_ports.md R152). -/
  | iocSlotCfg
  /-- IOC.SLOT_STAT (03_sensor_ports.md R152). -/
  | iocSlotStat
  /-- IOC.SLOT_DROP (03_sensor_ports.md R152). -/
  | iocSlotDrop
  /-- IOC.POOL (03_sensor_ports.md R152). -/
  | iocPool
  /-- IOC.SETTLE (03_sensor_ports.md R152). -/
  | iocSettle
  /-- IOC.QUAD_STAT (03_sensor_ports.md R152). -/
  | iocQuadStat
  /-- IOC.QUAD_RETRY (03_sensor_ports.md R152). -/
  | iocQuadRetry
  /-- IOC.NOTIFY (03_sensor_ports.md R152). -/
  | iocNotify
  /-- IOC.ACC_I2C_CFG (03_sensor_ports.md R152). -/
  | iocAccI2cCfg
  /-- IOC.ACC_I2C_STAT (03_sensor_ports.md R152). -/
  | iocAccI2cStat
  /-- IOC.ACC_I2C_CTRL (03_sensor_ports.md R152). -/
  | iocAccI2cCtrl
  /-- FLT.CTRL (14_faults.md R527). -/
  | fltCtrl
  /-- FLT.STAT (14_faults.md R527). -/
  | fltStat
  /-- FLT.REPORT (14_faults.md R527). -/
  | fltReport
  /-- FLT.UNACK (14_faults.md R527). -/
  | fltUnack
  /-- FLT.SERIAL (14_faults.md R527). -/
  | fltSerial
  /-- FLT.LATEST (14_faults.md R527). -/
  | fltLatest
  /-- FLT.SAFE_SERIAL (14_faults.md R527). -/
  | fltSafeSerial
  /-- FLT.LOST (14_faults.md R527). -/
  | fltLost
  /-- FLT.ESC (14_faults.md R527). -/
  | fltEsc
  /-- FLT.LOG_HEAD (14_faults.md R527). -/
  | fltLogHead
  /-- FLT.SAFE_TIME (14_faults.md R527). -/
  | fltSafeTime
  /-- FLT.AUTO (14_faults.md R527). -/
  | fltAuto
  /-- FLT.LOG_W0 (14_faults.md R527). -/
  | fltLogW0
  /-- FLT.LOG_W1 (14_faults.md R527). -/
  | fltLogW1
  /-- FLT.LOG_W2 (14_faults.md R527). -/
  | fltLogW2
  /-- FLT.LOG_TIME (14_faults.md R527). -/
  | fltLogTime
  /-- FLT.COUNT (14_faults.md R527). -/
  | fltCount
  /-- AON.STATUS (15_startup.md R556). -/
  | aonStatus
  /-- AON.RESET (15_startup.md R556). -/
  | aonReset
  /-- AON.SUPPLY (15_startup.md R556). -/
  | aonSupply
  /-- AON.TEMP (15_startup.md R556). -/
  | aonTemp
  /-- AON.EVENTS (15_startup.md R556). -/
  | aonEvents
  /-- AON.HEALTH (15_startup.md R556). -/
  | aonHealth
  /-- AON.BOOT (15_startup.md R556). -/
  | aonBoot
  /-- AON.SWRESET (15_startup.md R556). -/
  | aonSwreset
  /-- AON.SERIAL (15_startup.md R556). -/
  | aonSerial
  /-- MEM.STAT (15_startup.md R556). -/
  | memStat
  /-- MEM.SCRUB (15_startup.md R556). -/
  | memScrub
  /-- MEM.CHAN (15_startup.md R556). -/
  | memChan
  deriving DecidableEq, Repr

/-- A register's row. -/
def Reg.info : Reg → RegInfo
  | .tkCtrl => ⟨0x10000, 32, 0x0, 1, 0x0, 1, [
      ⟨23, 16, .rw, 0, .dep, true⟩, ⟨9, 8, .rw, 0, .dep, true⟩, ⟨7, 7, .rw, 0, .dep, true⟩,
      ⟨6, 6, .rw, 0, .any, false⟩, ⟨5, 5, .rw, 0, .any, false⟩, ⟨4, 3, .rw, 0, (.codes [0, 1, 2]), false⟩,
      ⟨1, 0, .rw, 0, (.codes [0, 1, 2]), false⟩]⟩
  | .tkStatus => ⟨0x10004, 32, 0x0, 1, 0x0, 1, [
      ⟨15, 12, .ro, 0, .any, false⟩, ⟨9, 8, .ro, 3, .any, false⟩, ⟨6, 6, .ro, 0, .any, false⟩,
      ⟨5, 5, .ro, 0, .any, false⟩, ⟨4, 4, .ro, 0, .any, false⟩, ⟨3, 3, .ro, 0, .any, false⟩,
      ⟨2, 0, .ro, 0, .any, false⟩]⟩
  | .tkEvents => ⟨0x10008, 32, 0x0, 1, 0x0, 1, [⟨6, 0, .w1c, 0, .any, false⟩]⟩
  | .tkAcceptStep => ⟨0x1000c, 32, 0x0, 1, 0x0, 1, [⟨0, 0, .wo, 0, .any, false⟩]⟩
  | .tkFsLimit => ⟨0x10010, 32, 0x0, 1, 0x0, 1, [⟨29, 0, .rw, 50000, (.span 1000 1000000000), false⟩]⟩
  | .tkFsCount => ⟨0x10014, 32, 0x0, 1, 0x0, 1, [⟨31, 0, .ro, 0, .any, false⟩]⟩
  | .tkPacerGain => ⟨0x10018, 32, 0x0, 1, 0x0, 1, [
      ⟨31, 16, .rw, 8192, (.span 1 65535), false⟩, ⟨15, 0, .rw, 2048, .any, false⟩]⟩
  | .tkPacerLimit => ⟨0x1001c, 32, 0x0, 1, 0x0, 1, [⟨19, 0, .rw, 200000, (.span 1000 500000), false⟩]⟩
  | .tkLockCfg => ⟨0x10020, 32, 0x0, 1, 0x0, 1, [⟨16, 0, .rw, 1000, .dep, false⟩]⟩
  | .tkHoldCfg => ⟨0x10024, 32, 0x0, 1, 0x0, 1, [
      ⟨31, 16, .rw, 100, (.span 1 65535), false⟩, ⟨15, 0, .rw, 1000, (.span 100 60000), false⟩]⟩
  | .tkTime => ⟨0x10028, 64, 0x0, 1, 0x0, 1, [⟨63, 0, .ro, 0, .any, false⟩]⟩
  | .tkSetTime => ⟨0x10030, 64, 0x0, 1, 0x0, 1, [⟨63, 0, .wo, 0, .any, false⟩]⟩
  | .tkEra => ⟨0x10038, 32, 0x0, 1, 0x0, 1, [⟨15, 0, .rw, 0, .any, true⟩]⟩
  | .tkUtcOffset => ⟨0x1003c, 32, 0x0, 1, 0x0, 1, [⟨16, 16, .ro, 0, .any, false⟩, ⟨15, 0, .ro, 0, .any, false⟩]⟩
  | .tkOffset => ⟨0x10040, 64, 0x0, 1, 0x0, 1, [⟨63, 0, .ro, 0, .any, false⟩]⟩
  | .tkPathDelay => ⟨0x10048, 64, 0x0, 1, 0x0, 1, [⟨63, 0, .ro, 0, .any, false⟩]⟩
  | .tkFreqAdj => ⟨0x10050, 64, 0x0, 1, 0x0, 1, [⟨63, 0, .ro, 0, .any, false⟩]⟩
  | .tkHoldUnc => ⟨0x10058, 32, 0x0, 1, 0x0, 1, [⟨31, 0, .ro, 4294967295, .any, false⟩]⟩
  | .tkPtpCfg => ⟨0x1005c, 32, 0x0, 1, 0x0, 1, [
      ⟨15, 12, .rw, 3, (.span 2 10), false⟩, ⟨7, 0, .rw, 0, (.sspan (-4) 4), false⟩]⟩
  | .tkReport => ⟨0x10060, 32, 0x0, 1, 0x0, 1, [⟨8, 8, .rw, 0, .any, false⟩, ⟨5, 0, .rw, 56, (.span 56 63), false⟩]⟩
  | .tkPortLat => ⟨0x10064, 32, 0x4, 2, 0x0, 1, [⟨31, 16, .rw, 0, .any, false⟩, ⟨15, 0, .rw, 0, .any, false⟩]⟩
  | .tkAsym => ⟨0x1006c, 32, 0x4, 2, 0x0, 1, [⟨31, 0, .rw, 0, (.sspan (-16000000) 16000000), false⟩]⟩
  | .tkGmId => ⟨0x10078, 64, 0x0, 1, 0x0, 1, [⟨63, 0, .ro, 0, .any, false⟩]⟩
  | .tkTcCount => ⟨0x10080, 32, 0x0, 1, 0x0, 1, [⟨31, 16, .ro, 0, .any, false⟩, ⟨15, 0, .ro, 0, .any, false⟩]⟩
  | .tkCapCfg => ⟨0x10100, 32, 0x4, 32, 0x0, 1, [
      ⟨21, 16, .rw, 0, (.span 0 47), true⟩, ⟨11, 4, .rw, 0, .any, false⟩,
      ⟨2, 1, .rw, 1, (.codes [1, 2, 3]), false⟩, ⟨0, 0, .rw, 0, .any, false⟩]⟩
  | .tkCapComp => ⟨0x10180, 32, 0x4, 32, 0x0, 1, [⟨15, 0, .rw, 0, .any, false⟩]⟩
  | .tkCapStall => ⟨0x10200, 32, 0x4, 32, 0x0, 1, [
      ⟨22, 20, .rw, 0, .any, false⟩, ⟨17, 17, .rw, 0, .any, false⟩, ⟨16, 16, .rw, 0, .any, false⟩,
      ⟨13, 0, .rw, 50, (.span 1 10000), false⟩]⟩
  | .tkCapLevel => ⟨0x10280, 32, 0x0, 1, 0x0, 1, [⟨31, 0, .ro, 0, .any, false⟩]⟩
  | .tkCapAbsent => ⟨0x10284, 32, 0x0, 1, 0x0, 1, [⟨31, 0, .ro, 0, .any, false⟩]⟩
  | .hlCtrl => ⟨0x20000, 32, 0x0, 1, 0x0, 1, [⟨15, 8, .rw, 1, (.span 0 60), false⟩, ⟨1, 0, .rw, 3, .dep, false⟩]⟩
  | .hlStat => ⟨0x20004, 32, 0x0, 1, 0x0, 1, [⟨15, 8, .ro, 0, .any, false⟩, ⟨1, 0, .ro, 0, .any, false⟩]⟩
  | .hlSettle => ⟨0x20008, 32, 0x0, 1, 0x0, 1, [⟨15, 0, .rw, 2000, (.span 100 50000), false⟩]⟩
  | .hlRetx => ⟨0x2000c, 32, 0x0, 1, 0x0, 1, [
      ⟨31, 16, .rw, 200, (.span 20 50000), false⟩, ⟨3, 0, .rw, 8, (.span 1 15), false⟩]⟩
  | .hlKeepalive => ⟨0x20010, 32, 0x0, 1, 0x0, 1, [⟨15, 0, .rw, 1000, (.span 10 60000), false⟩]⟩
  | .hlPolicy => ⟨0x20014, 32, 0x0, 1, 0x0, 1, [⟨15, 8, .rw, 255, .any, false⟩, ⟨7, 0, .rw, 255, .any, false⟩]⟩
  | .hlAuth => ⟨0x20018, 32, 0x0, 1, 0x0, 1, [
      ⟨31, 16, .ro, 0, .any, false⟩, ⟨15, 8, .ro, 0, .any, false⟩, ⟨0, 0, .ro, 1, .any, false⟩]⟩
  | .hlDrop => ⟨0x2001c, 32, 0x0, 1, 0x0, 1, [⟨31, 16, .ro, 0, .any, false⟩, ⟨15, 0, .ro, 0, .any, false⟩]⟩
  | .hlPoll => ⟨0x20020, 32, 0x0, 1, 0x0, 1, [⟨13, 0, .rw, 50, (.span 5 10000), false⟩]⟩
  | .hlPCfg => ⟨0x20100, 32, 0x80, 2, 0x0, 1, [
      ⟨15, 4, .rw, 0, (.span 0 4094), false⟩, ⟨3, 3, .rw, 0, .any, false⟩, ⟨2, 2, .rw, 1, .any, false⟩,
      ⟨1, 0, .rw, 0, .any, false⟩]⟩
  | .hlPStat => ⟨0x20104, 32, 0x80, 2, 0x0, 1, [
      ⟨31, 16, .ro, 0, .any, false⟩, ⟨6, 6, .ro, 0, .any, false⟩, ⟨5, 5, .ro, 0, .any, false⟩,
      ⟨4, 4, .ro, 0, .any, false⟩, ⟨2, 0, .ro, 0, .any, false⟩]⟩
  | .hlPMac => ⟨0x20108, 64, 0x80, 2, 0x0, 1, [⟨47, 0, .ro, 0, .any, false⟩]⟩
  | .hlPAddr4 => ⟨0x20110, 32, 0x80, 2, 0x0, 1, [⟨31, 0, .rw, 0, .any, false⟩]⟩
  | .hlPPrefix => ⟨0x20114, 32, 0x80, 2, 0x0, 1, [
      ⟨13, 8, .rw, 24, (.span 0 32), false⟩, ⟨7, 0, .rw, 64, (.span 0 128), false⟩]⟩
  | .hlPAddr6 => ⟨0x20120, 128, 0x80, 2, 0x0, 1, [⟨31, 0, .rw, 0, .any, false⟩]⟩
  | .hlSessStat => ⟨0x20200, 32, 0x20, 8, 0x0, 1, [
      ⟨31, 28, .ro, 0, .any, false⟩, ⟨24, 24, .ro, 0, .any, false⟩, ⟨20, 20, .ro, 0, .any, false⟩,
      ⟨19, 19, .ro, 0, .any, false⟩, ⟨18, 18, .ro, 0, .any, false⟩]⟩
  | .hlSessWin => ⟨0x20204, 32, 0x20, 8, 0x0, 1, [⟨13, 0, .ro, 0, .any, false⟩]⟩
  | .hlSessRetx => ⟨0x20208, 32, 0x20, 8, 0x0, 1, [⟨31, 16, .ro, 0, .any, false⟩, ⟨15, 0, .ro, 0, .any, false⟩]⟩
  | .hlSessPostbuf => ⟨0x2020c, 32, 0x20, 8, 0x0, 1, [⟨18, 0, .ro, 0, .any, false⟩]⟩
  | .hlSessDrop => ⟨0x20210, 32, 0x20, 8, 0x0, 1, [⟨31, 16, .ro, 0, .any, false⟩, ⟨15, 0, .ro, 0, .any, false⟩]⟩
  | .hlRingCfg => ⟨0x21000, 32, 0x40, 64, 0x0, 1, [
      ⟨31, 31, .rw, 0, .any, false⟩, ⟨26, 24, .rw, 0, .any, true⟩, ⟨20, 16, .rw, 4, (.span 4 16), true⟩,
      ⟨13, 8, .rw, 0, .dep, true⟩]⟩
  | .hlRingBase => ⟨0x21008, 64, 0x40, 64, 0x0, 1, [⟨63, 0, .rw, 0, .dep, true⟩]⟩
  | .hlRingDbaddr => ⟨0x21010, 64, 0x40, 64, 0x0, 1, [⟨63, 0, .rw, 0, .dep, true⟩]⟩
  | .hlRingDiaddr => ⟨0x21018, 64, 0x40, 64, 0x0, 1, [⟨63, 0, .rw, 0, .dep, true⟩]⟩
  | .hlRingGen => ⟨0x21020, 32, 0x40, 64, 0x0, 1, [⟨15, 0, .rw, 0, .any, true⟩]⟩
  | .hlRingStat => ⟨0x21024, 32, 0x40, 64, 0x0, 1, [
      ⟨31, 16, .ro, 0, .any, false⟩, ⟨9, 9, .ro, 0, .any, false⟩, ⟨8, 8, .ro, 0, .any, false⟩,
      ⟨4, 0, .ro, 0, .any, false⟩]⟩
  | .hlRingHidx => ⟨0x21028, 32, 0x40, 64, 0x0, 1, [⟨31, 0, .ro, 0, .any, false⟩]⟩
  | .hlRingDidx => ⟨0x2102c, 32, 0x40, 64, 0x0, 1, [⟨31, 0, .ro, 0, .any, false⟩]⟩
  | .hlRingLoss => ⟨0x21030, 32, 0x40, 64, 0x0, 1, [⟨31, 0, .ro, 0, .any, false⟩]⟩
  | .sspCtrl => ⟨0x30000, 32, 0x1000, 16, 0x0, 1, [
      ⟨29, 24, .rw, 0, (.span 0 47), true⟩, ⟨23, 16, .rw, 0, .any, true⟩, ⟨13, 12, .rw, 0, .dep, true⟩,
      ⟨11, 8, .rw, 6, (.codes [0, 1, 2, 3, 4, 5, 6]), false⟩, ⟨5, 5, .rw, 1, .any, false⟩,
      ⟨4, 4, .rw, 0, .any, true⟩, ⟨0, 0, .rw, 0, .any, false⟩]⟩
  | .sspStatus => ⟨0x30004, 32, 0x1000, 16, 0x0, 1, [
      ⟨10, 8, .ro, 7, .any, false⟩, ⟨6, 6, .ro, 0, .any, false⟩, ⟨5, 5, .ro, 0, .any, false⟩,
      ⟨4, 4, .ro, 0, .any, false⟩, ⟨3, 3, .ro, 0, .any, false⟩, ⟨2, 2, .ro, 0, .any, false⟩,
      ⟨1, 1, .ro, 0, .any, false⟩, ⟨0, 0, .ro, 0, .any, false⟩]⟩
  | .sspPocxp => ⟨0x30008, 32, 0x1000, 16, 0x0, 1, [⟨8, 4, .rw, 0, .dep, false⟩, ⟨0, 0, .rw, 0, .dep, false⟩]⟩
  | .sspLat => ⟨0x3000c, 32, 0x1000, 16, 0x0, 1, [⟨23, 0, .rw, 0, .any, false⟩]⟩
  | .sspTrigCfg => ⟨0x30010, 32, 0x1000, 16, 0x0, 1, [
      ⟨31, 22, .rw, 10, (.span 1 1000), false⟩, ⟨20, 16, .rw, 0, .any, false⟩, ⟨14, 12, .rw, 0, .any, false⟩,
      ⟨2, 0, .rw, 0, (.codes [0, 1, 2, 3]), false⟩]⟩
  | .sspTrigPitch => ⟨0x30014, 32, 0x1000, 16, 0x0, 1, [⟨31, 0, .rw, 65536, .dep, false⟩]⟩
  | .sspTrigDelay => ⟨0x30018, 32, 0x1000, 16, 0x0, 1, [⟨23, 0, .rw, 0, .any, false⟩]⟩
  | .sspTrigCount => ⟨0x3001c, 32, 0x1000, 16, 0x0, 1, [
      ⟨31, 24, .ro, 0, .any, false⟩, ⟨23, 16, .ro, 0, .any, false⟩, ⟨15, 0, .ro, 0, .any, false⟩]⟩
  | .sspRxCount => ⟨0x30020, 32, 0x1000, 16, 0x0, 1, [⟨31, 16, .ro, 0, .any, false⟩, ⟨15, 0, .ro, 0, .any, false⟩]⟩
  | .senCtrl => ⟨0x40000, 32, 0x400, 4, 0x0, 1, [
      ⟨3, 1, .rw, 0, (.codes [0, 1, 2, 3, 4]), false⟩, ⟨0, 0, .rw, 0, .any, false⟩]⟩
  | .senStatus => ⟨0x40004, 32, 0x400, 4, 0x0, 1, [
      ⟨4, 4, .ro, 0, .any, false⟩, ⟨3, 1, .ro, 0, .any, false⟩, ⟨0, 0, .ro, 0, .any, false⟩]⟩
  | .senAddr4 => ⟨0x40008, 32, 0x400, 4, 0x0, 1, [⟨31, 0, .rw, 0, .any, false⟩]⟩
  | .senAddr6 => ⟨0x40010, 128, 0x400, 4, 0x0, 1, [⟨31, 0, .rw, 0, .any, false⟩]⟩
  | .senLat => ⟨0x40020, 32, 0x400, 4, 0x0, 1, [⟨23, 0, .rw, 0, .any, false⟩]⟩
  | .senDrop => ⟨0x40024, 32, 0x400, 4, 0x0, 1, [⟨31, 16, .ro, 0, .any, false⟩, ⟨15, 0, .ro, 0, .any, false⟩]⟩
  | .senStreamCfg => ⟨0x40100, 32, 0x400, 4, 0x40, 4, [
      ⟨13, 8, .rw, 0, (.span 0 47), true⟩, ⟨3, 3, .rw, 0, .any, true⟩, ⟨2, 2, .rw, 0, .any, false⟩,
      ⟨1, 1, .rw, 0, .any, true⟩, ⟨0, 0, .rw, 0, .any, false⟩]⟩
  | .senStreamPorts => ⟨0x40104, 32, 0x400, 4, 0x40, 4, [
      ⟨31, 16, .rw, 0, .any, false⟩, ⟨15, 0, .rw, 1, (.span 1 65535), false⟩]⟩
  | .senStreamGroup4 => ⟨0x40108, 32, 0x400, 4, 0x40, 4, [⟨31, 0, .rw, 0, .dep, false⟩]⟩
  | .senStreamSrc => ⟨0x40110, 128, 0x400, 4, 0x40, 4, [⟨31, 0, .rw, 0, .any, false⟩]⟩
  | .senStreamCount => ⟨0x40120, 32, 0x400, 4, 0x40, 4, [⟨31, 16, .ro, 0, .any, false⟩, ⟨15, 0, .ro, 0, .any, false⟩]⟩
  | .mpEncCfg => ⟨0x50000, 32, 0x400, 8, 0x0, 1, [
      ⟨29, 24, .rw, 0, (.span 0 47), true⟩, ⟨19, 12, .rw, 0, .any, false⟩, ⟨10, 4, .rw, 10, (.span 5 100), false⟩,
      ⟨3, 3, .rw, 0, .any, false⟩, ⟨2, 2, .rw, 0, .any, false⟩, ⟨1, 1, .rw, 0, .any, true⟩,
      ⟨0, 0, .rw, 0, .any, false⟩]⟩
  | .mpEncStall => ⟨0x50004, 32, 0x400, 8, 0x0, 1, [
      ⟨22, 20, .rw, 0, .any, false⟩, ⟨17, 17, .rw, 0, .any, false⟩, ⟨16, 16, .rw, 1, .any, false⟩,
      ⟨13, 0, .rw, 50, (.span 1 10000), false⟩]⟩
  | .mpEncCount => ⟨0x50008, 64, 0x400, 8, 0x0, 1, [⟨63, 0, .ro, 0, .any, false⟩]⟩
  | .mpEncStat => ⟨0x50010, 32, 0x400, 8, 0x0, 1, [
      ⟨31, 16, .ro, 0, .any, false⟩, ⟨6, 4, .ro, 0, .any, false⟩, ⟨0, 0, .ro, 0, .any, false⟩]⟩
  | .mpSpiCfg => ⟨0x50020, 32, 0x400, 8, 0x0, 1, [
      ⟨31, 31, .rw, 0, .any, false⟩, ⟨29, 24, .rw, 0, (.span 0 47), true⟩, ⟨21, 16, .rw, 0, .any, false⟩,
      ⟨15, 15, .rw, 0, .any, true⟩, ⟨14, 0, .rw, 10000, (.span 100 20000), false⟩]⟩
  | .mpSpiXact => ⟨0x50024, 32, 0x400, 8, 0x0, 1, [
      ⟨17, 16, .rw, 0, (.codes [0, 1, 2]), false⟩, ⟨13, 8, .rw, 12, (.span 1 32), false⟩,
      ⟨2, 0, .rw, 1, (.span 0 4), false⟩]⟩
  | .mpSpiCmd => ⟨0x50028, 32, 0x400, 8, 0x0, 1, [⟨31, 0, .rw, 0, .any, false⟩]⟩
  | .mpSpiPeriod => ⟨0x5002c, 32, 0x400, 8, 0x0, 1, [⟨26, 0, .rw, 1000000, (.span 31250 100000000), false⟩]⟩
  | .mpSpiStall => ⟨0x50030, 32, 0x400, 8, 0x0, 1, [
      ⟨16, 16, .rw, 1, .any, false⟩, ⟨13, 0, .rw, 50, (.span 1 10000), false⟩]⟩
  | .mpSpiStat => ⟨0x50034, 32, 0x400, 8, 0x0, 1, [⟨31, 16, .ro, 0, .any, false⟩, ⟨0, 0, .ro, 0, .any, false⟩]⟩
  | .mpI2cCfg => ⟨0x50040, 32, 0x400, 8, 0x0, 1, [
      ⟨15, 8, .rw, 25, (.span 1 255), false⟩, ⟨1, 1, .rw, 0, .any, false⟩, ⟨0, 0, .rw, 0, .any, false⟩]⟩
  | .mpI2cStat => ⟨0x50044, 32, 0x400, 8, 0x0, 1, [
      ⟨31, 16, .ro, 0, .any, false⟩, ⟨2, 2, .ro, 0, .any, false⟩, ⟨1, 1, .ro, 0, .any, false⟩,
      ⟨0, 0, .ro, 0, .any, false⟩]⟩
  | .mpI2cCtrl => ⟨0x50048, 32, 0x400, 8, 0x0, 1, [⟨0, 0, .wo, 0, .any, false⟩]⟩
  | .motCtrl => ⟨0x60000, 32, 0x80, 8, 0x0, 1, [
      ⟨29, 24, .rw, 0, (.span 0 47), true⟩, ⟨21, 16, .rw, 0, (.span 0 47), true⟩, ⟨3, 3, .rw, 0, .any, false⟩,
      ⟨2, 2, .rw, 0, .any, true⟩, ⟨1, 1, .rw, 0, .any, false⟩, ⟨0, 0, .rw, 0, .any, false⟩]⟩
  | .motScale => ⟨0x60004, 32, 0x80, 8, 0x0, 1, [⟨31, 0, .rw, 1048576, (.span 1 4294967295), false⟩]⟩
  | .motImuFmt => ⟨0x60008, 32, 0x80, 8, 0x0, 1, [
      ⟨9, 9, .rw, 0, .any, false⟩, ⟨8, 8, .rw, 0, .any, false⟩, ⟨4, 0, .rw, 0, (.span 0 30), false⟩]⟩
  | .motImuScale => ⟨0x6000c, 32, 0x80, 8, 0x0, 1, [⟨31, 0, .rw, 0, .any, false⟩]⟩
  | .motGainA => ⟨0x60010, 32, 0x80, 8, 0x0, 1, [
      ⟨31, 16, .rw, 16384, (.span 1 65535), false⟩, ⟨15, 0, .rw, 2048, .any, false⟩]⟩
  | .motGainB => ⟨0x60014, 32, 0x80, 8, 0x0, 1, [⟨31, 16, .rw, 128, .any, false⟩, ⟨15, 0, .rw, 8192, .any, false⟩]⟩
  | .motHorizon => ⟨0x60018, 32, 0x80, 8, 0x0, 1, [⟨10, 0, .rw, 500, (.span 10 2000), false⟩]⟩
  | .motResid => ⟨0x6001c, 32, 0x80, 8, 0x0, 1, [⟨23, 0, .rw, 16000, (.span 16 16000000), false⟩]⟩
  | .motOrigin => ⟨0x60020, 64, 0x80, 8, 0x0, 1, [⟨63, 0, .rw, 0, (.sspan (-140737488355328) 140737488355327), true⟩]⟩
  | .motPos => ⟨0x60028, 64, 0x80, 8, 0x0, 1, [⟨63, 0, .ro, 0, .any, false⟩]⟩
  | .motTconf => ⟨0x60030, 64, 0x80, 8, 0x0, 1, [⟨63, 0, .ro, 0, .any, false⟩]⟩
  | .motVel => ⟨0x60038, 32, 0x80, 8, 0x0, 1, [⟨31, 0, .ro, 0, .any, false⟩]⟩
  | .motStat => ⟨0x6003c, 32, 0x80, 8, 0x0, 1, [
      ⟨31, 16, .ro, 0, .any, false⟩, ⟨1, 1, .ro, 0, .any, false⟩, ⟨0, 0, .ro, 0, .any, false⟩]⟩
  | .motReport => ⟨0x60400, 32, 0x0, 1, 0x0, 1, [
      ⟨23, 16, .rw, 10, (.span 1 255), false⟩, ⟨8, 8, .rw, 0, .any, false⟩, ⟨5, 0, .rw, 56, (.span 56 63), false⟩]⟩
  | .panCtrl => ⟨0x70000, 32, 0x0, 1, 0x0, 1, [
      ⟨13, 8, .rw, 0, (.span 0 32), true⟩, ⟨4, 4, .ro, 0, .any, false⟩, ⟨0, 0, .rw, 0, .any, false⟩]⟩
  | .panStat => ⟨0x70004, 32, 0x0, 1, 0x0, 1, [
      ⟨26, 16, .ro, 1504, .any, false⟩, ⟨1, 1, .ro, 0, .any, false⟩, ⟨0, 0, .ro, 0, .any, false⟩]⟩
  | .panReport => ⟨0x70008, 32, 0x0, 1, 0x0, 1, [⟨8, 8, .rw, 0, .any, false⟩, ⟨5, 0, .rw, 56, (.span 56 63), false⟩]⟩
  | .panFrameCfg => ⟨0x70100, 32, 0x40, 8, 0x0, 1, [
      ⟨21, 16, .rw, 16, (.span 1 64), true⟩, ⟨8, 8, .rw, 0, .any, false⟩, ⟨0, 0, .rw, 0, .any, false⟩]⟩
  | .panFrameBandLen => ⟨0x70104, 32, 0x40, 8, 0x0, 1, [⟨23, 0, .rw, 128000, (.span 1600 16000000), true⟩]⟩
  | .panFrameBandOrigin => ⟨0x70108, 64, 0x40, 8, 0x0, 1, [
      ⟨63, 0, .rw, 0, (.sspan (-140737488355328) 140737488355327), true⟩]⟩
  | .panFrameDueOff => ⟨0x70110, 32, 0x40, 8, 0x0, 1, [⟨27, 0, .rw, 0, (.span 0 160000000), false⟩]⟩
  | .panFrameRecallTol => ⟨0x70114, 32, 0x40, 8, 0x0, 1, [⟨19, 0, .rw, 160, (.span 0 1000000), false⟩]⟩
  | .panFrameNext => ⟨0x70118, 32, 0x40, 8, 0x0, 1, [⟨31, 0, .ro, 0, .any, false⟩]⟩
  | .panFrameStat => ⟨0x7011c, 32, 0x40, 8, 0x0, 1, [⟨22, 16, .ro, 0, .any, false⟩, ⟨6, 0, .ro, 0, .any, false⟩]⟩
  | .panFrameCount => ⟨0x70120, 32, 0x40, 8, 0x0, 1, [⟨31, 16, .ro, 0, .any, false⟩, ⟨15, 0, .ro, 0, .any, false⟩]⟩
  | .panStreamCfg => ⟨0x70400, 32, 0x20, 48, 0x0, 1, [
      ⟨31, 31, .rw, 0, .any, false⟩, ⟨26, 24, .rw, 0, .any, true⟩, ⟨22, 16, .rw, 1, .dep, true⟩,
      ⟨8, 0, .rw, 0, .any, true⟩]⟩
  | .panStreamMesh => ⟨0x70404, 32, 0x20, 48, 0x0, 1, [
      ⟨31, 16, .rw, 16, (.span 1 4096), false⟩, ⟨15, 0, .rw, 64, (.span 1 16384), false⟩]⟩
  | .panStreamWait => ⟨0x70408, 32, 0x20, 48, 0x0, 1, [⟨19, 0, .rw, 2000, (.span 10 1000000), false⟩]⟩
  | .panStreamStat => ⟨0x7040c, 32, 0x20, 48, 0x0, 1, [⟨31, 16, .ro, 0, .any, false⟩]⟩
  | .panStreamDrop => ⟨0x70410, 32, 0x20, 48, 0x0, 1, [⟨31, 16, .ro, 0, .any, false⟩, ⟨15, 0, .ro, 0, .any, false⟩]⟩
  | .trkCtrl => ⟨0x80000, 32, 0x0, 1, 0x0, 1, [⟨0, 0, .rw, 0, .any, false⟩]⟩
  | .trkStat => ⟨0x80004, 32, 0x0, 1, 0x0, 1, [
      ⟨24, 16, .ro, 0, .any, false⟩, ⟨14, 14, .ro, 0, .any, false⟩, ⟨12, 0, .ro, 0, .any, false⟩]⟩
  | .trkReport => ⟨0x80008, 32, 0x0, 1, 0x0, 1, [⟨8, 8, .rw, 0, .any, false⟩, ⟨5, 0, .rw, 56, (.span 56 63), false⟩]⟩
  | .trkOutBase => ⟨0x80010, 64, 0x0, 1, 0x0, 1, [⟨63, 0, .rw, 0, .dep, true⟩]⟩
  | .trkOutSize => ⟨0x80018, 32, 0x0, 1, 0x0, 1, [⟨9, 0, .rw, 16, .dep, true⟩]⟩
  | .trkJbase => ⟨0x80020, 64, 0x0, 1, 0x0, 1, [⟨63, 0, .rw, 0, .dep, true⟩]⟩
  | .trkJsize => ⟨0x80028, 32, 0x0, 1, 0x0, 1, [⟨8, 0, .rw, 16, (.span 1 256), true⟩]⟩
  | .trkJstat => ⟨0x8002c, 32, 0x0, 1, 0x0, 1, [⟨24, 16, .ro, 0, .any, false⟩, ⟨15, 0, .ro, 0, .any, false⟩]⟩
  | .trkClassCfg => ⟨0x80100, 32, 0x40, 16, 0x0, 1, [
      ⟨31, 31, .rw, 0, .any, false⟩, ⟨30, 28, .rw, 0, .any, true⟩, ⟨27, 27, .rw, 0, .any, true⟩,
      ⟨24, 16, .rw, 0, .dep, true⟩]⟩
  | .trkClassLife => ⟨0x80104, 32, 0x40, 16, 0x0, 1, [
      ⟨31, 28, .rw, 1, .dep, false⟩, ⟨27, 24, .rw, 1, (.span 1 15), false⟩, ⟨23, 16, .rw, 3, (.span 1 255), false⟩,
      ⟨15, 8, .rw, 5, (.span 1 255), false⟩]⟩
  | .trkClassGateA => ⟨0x80108, 32, 0x40, 16, 0x0, 1, [⟨27, 0, .rw, 16000, (.span 1 160000000), false⟩]⟩
  | .trkClassGateC => ⟨0x8010c, 32, 0x40, 16, 0x0, 1, [⟨27, 0, .rw, 16000, (.span 1 160000000), false⟩]⟩
  | .trkClassWeight => ⟨0x80110, 32, 0x40, 16, 0x0, 1, [
      ⟨31, 16, .rw, 4096, .any, false⟩, ⟨15, 0, .rw, 4096, .any, false⟩]⟩
  | .trkClassGateCost => ⟨0x80114, 32, 0x40, 16, 0x0, 1, [⟨15, 0, .rw, 1000, (.span 1 65535), false⟩]⟩
  | .trkClassGain => ⟨0x80118, 32, 0x40, 16, 0x0, 1, [
      ⟨31, 16, .rw, 32768, .any, false⟩, ⟨15, 0, .rw, 2048, .any, false⟩]⟩
  | .trkClassRepeat => ⟨0x8011c, 32, 0x40, 16, 0x0, 1, [⟨27, 0, .rw, 0, .dep, false⟩]⟩
  | .trkClassStat => ⟨0x80120, 32, 0x40, 16, 0x0, 1, [
      ⟨29, 29, .ro, 0, .any, false⟩, ⟨28, 16, .ro, 0, .any, false⟩, ⟨12, 0, .ro, 0, .any, false⟩]⟩
  | .trkClassCount => ⟨0x80124, 32, 0x40, 16, 0x0, 1, [
      ⟨31, 16, .ro, 0, .any, false⟩, ⟨15, 8, .ro, 0, .any, false⟩, ⟨7, 0, .ro, 0, .any, false⟩]⟩
  | .trkClassRake => ⟨0x80128, 32, 0x40, 16, 0x0, 1, [⟨31, 0, .ro, 0, .any, false⟩]⟩
  | .trkClassDrop => ⟨0x8012c, 32, 0x40, 16, 0x0, 1, [⟨31, 16, .ro, 0, .any, false⟩, ⟨15, 0, .ro, 0, .any, false⟩]⟩
  | .rlyCtrl => ⟨0x90000, 32, 0x0, 1, 0x0, 1, [⟨0, 0, .rw, 0, .any, false⟩]⟩
  | .rlyStat => ⟨0x90004, 32, 0x0, 1, 0x0, 1, [
      ⟨20, 16, .ro, 0, .any, false⟩, ⟨2, 2, .ro, 0, .any, false⟩, ⟨1, 0, .ro, 0, .any, false⟩]⟩
  | .rlyLanes => ⟨0x90008, 32, 0x0, 1, 0x0, 1, [⟨31, 16, .w1c, 0, .any, false⟩, ⟨15, 0, .rw, 65535, .dep, false⟩]⟩
  | .rlyWatch => ⟨0x9000c, 32, 0x0, 1, 0x0, 1, [⟨19, 0, .rw, 10000, (.span 100 1000000), false⟩]⟩
  | .rlyReport => ⟨0x90010, 32, 0x0, 1, 0x0, 1, [⟨8, 8, .rw, 0, .any, false⟩, ⟨5, 0, .rw, 56, (.span 56 63), false⟩]⟩
  | .rlyQstat => ⟨0x90014, 32, 0x0, 1, 0x0, 1, [⟨25, 16, .ro, 0, .any, false⟩, ⟨6, 0, .ro, 0, .any, false⟩]⟩
  | .rlyBatons => ⟨0x90018, 32, 0x0, 1, 0x0, 1, [⟨24, 16, .ro, 0, .any, false⟩, ⟨8, 0, .ro, 256, .any, false⟩]⟩
  | .rlyCount => ⟨0x9001c, 32, 0x0, 1, 0x0, 1, [
      ⟨31, 16, .ro, 0, .any, false⟩, ⟨15, 8, .ro, 0, .any, false⟩, ⟨7, 0, .ro, 0, .any, false⟩]⟩
  | .rlyCur => ⟨0x90020, 32, 0x0, 1, 0x0, 1, [⟨31, 16, .ro, 0, .any, false⟩, ⟨7, 0, .ro, 255, .any, false⟩]⟩
  | .rlyProg => ⟨0x90040, 32, 0x0, 1, 0x0, 1, [
      ⟨31, 31, .ro, 0, .any, false⟩, ⟨29, 28, .ro, 0, .any, false⟩, ⟨24, 24, .ro, 0, .any, false⟩,
      ⟨23, 16, .ro, 0, .any, false⟩, ⟨15, 8, .ro, 0, .any, false⟩, ⟨1, 1, .ro, 0, .any, false⟩,
      ⟨0, 0, .wo, 0, .any, false⟩]⟩
  | .rlyActiveId => ⟨0x90044, 32, 0x0, 1, 0x0, 1, [⟨31, 0, .ro, 0, .any, false⟩]⟩
  | .rlyStandbyId => ⟨0x90048, 32, 0x0, 1, 0x0, 1, [⟨31, 0, .ro, 0, .any, false⟩]⟩
  | .rlyLoad => ⟨0x9004c, 32, 0x0, 1, 0x0, 1, [
      ⟨31, 31, .ro, 0, .any, false⟩, ⟨16, 16, .ro, 0, .any, false⟩, ⟨7, 0, .ro, 0, .any, false⟩]⟩
  | .rlyLoadIndex => ⟨0x90050, 32, 0x0, 1, 0x0, 1, [⟨31, 0, .ro, 0, .any, false⟩]⟩
  | .rlyXcount => ⟨0x90054, 32, 0x0, 1, 0x0, 1, [⟨31, 16, .ro, 0, .any, false⟩, ⟨15, 0, .ro, 0, .any, false⟩]⟩
  | .rlyFence => ⟨0x90060, 32, 0x4, 8, 0x0, 1, [⟨31, 0, .ro, 0, .any, false⟩]⟩
  | .rlyBrkCtrl => ⟨0x90080, 32, 0x10, 2, 0x0, 1, [
      ⟨31, 31, .rw, 0, .any, true⟩, ⟨30, 30, .rw, 0, .any, true⟩, ⟨29, 29, .rw, 0, .any, true⟩,
      ⟨19, 16, .rw, 0, .any, true⟩, ⟨15, 0, .rw, 0, .any, true⟩]⟩
  | .rlyBrkCount => ⟨0x90088, 64, 0x10, 2, 0x0, 1, [⟨63, 0, .rw, 0, .any, true⟩]⟩
  | .rlyDbg => ⟨0x900a0, 32, 0x0, 1, 0x0, 1, [
      ⟨9, 8, .ro, 0, .any, false⟩, ⟨1, 1, .ro, 0, .any, false⟩, ⟨0, 0, .ro, 0, .any, false⟩]⟩
  | .rlyDbgCmd => ⟨0x900a4, 32, 0x0, 1, 0x0, 1, [
      ⟨3, 3, .wo, 0, .any, false⟩, ⟨2, 2, .wo, 0, .any, false⟩, ⟨1, 1, .wo, 0, .any, false⟩,
      ⟨0, 0, .wo, 0, .any, false⟩]⟩
  | .rlyCtx => ⟨0x900a8, 32, 0x0, 1, 0x0, 1, [⟨31, 0, .ro, 0, .any, false⟩]⟩
  | .laneStat => ⟨0xa0000, 32, 0x1000, 16, 0x0, 1, [
      ⟨9, 9, .ro, 0, .any, false⟩, ⟨8, 8, .ro, 0, .any, false⟩, ⟨4, 0, .ro, 31, .any, false⟩]⟩
  | .laneSpErr => ⟨0xa0010, 32, 0x1000, 16, 0x0, 1, [⟨31, 16, .ro, 0, .any, false⟩, ⟨15, 0, .ro, 0, .any, false⟩]⟩
  | .laneAcnt => ⟨0xa0020, 64, 0x1000, 16, 0x0, 1, [⟨63, 0, .ro, 0, .any, false⟩]⟩
  | .laneEcnt => ⟨0xa0028, 64, 0x1000, 16, 0x0, 1, [⟨63, 0, .ro, 0, .any, false⟩]⟩
  | .lanePc => ⟨0xa0030, 32, 0x1000, 16, 0x0, 1, [⟨31, 16, .ro, 0, .any, false⟩, ⟨15, 0, .ro, 0, .any, false⟩]⟩
  | .laneQs => ⟨0xa0034, 32, 0x1000, 16, 0x0, 1, [
      ⟨30, 24, .ro, 0, .any, false⟩, ⟨22, 16, .ro, 0, .any, false⟩, ⟨14, 8, .ro, 0, .any, false⟩,
      ⟨6, 0, .ro, 0, .any, false⟩]⟩
  | .laneKs => ⟨0xa0038, 32, 0x1000, 16, 0x0, 1, [⟨12, 8, .ro, 0, .any, false⟩, ⟨3, 0, .ro, 0, .any, false⟩]⟩
  | .laneC => ⟨0xa0040, 32, 0x1000, 16, 0x4, 8, [⟨31, 0, .ro, 0, .any, false⟩]⟩
  | .laneAValue => ⟨0xa0080, 64, 0x1000, 16, 0x20, 8, [⟨39, 0, .ro, 0, .any, false⟩]⟩
  | .laneABase => ⟨0xa0088, 64, 0x1000, 16, 0x20, 8, [⟨39, 0, .ro, 0, .any, false⟩]⟩
  | .laneAStep => ⟨0xa0090, 32, 0x1000, 16, 0x20, 8, [⟨31, 0, .ro, 0, .any, false⟩]⟩
  | .laneAMod => ⟨0xa0094, 32, 0x1000, 16, 0x20, 8, [⟨31, 0, .ro, 0, .any, false⟩]⟩
  | .kvpCtrl => ⟨0xb0000, 32, 0x0, 1, 0x0, 1, [⟨0, 0, .rw, 0, .any, false⟩]⟩
  | .kvpStat => ⟨0xb0004, 32, 0x0, 1, 0x0, 1, [⟨30, 16, .ro, 16384, .any, false⟩, ⟨0, 0, .ro, 0, .any, false⟩]⟩
  | .kvpPtBase => ⟨0xb0008, 64, 0x0, 1, 0x0, 1, [⟨63, 0, .rw, 0, .dep, true⟩]⟩
  | .kvpCount => ⟨0xb0010, 32, 0x0, 1, 0x0, 1, [⟨31, 16, .ro, 0, .any, false⟩, ⟨15, 0, .ro, 0, .any, false⟩]⟩
  | .kvpCacheCfg => ⟨0xb0100, 32, 0x20, 4, 0x0, 1, [
      ⟨31, 31, .rw, 0, .any, true⟩, ⟨30, 28, .rw, 0, .any, true⟩, ⟨27, 24, .rw, 10, (.codes [8, 9, 10, 11]), true⟩,
      ⟨21, 20, .rw, 1, (.codes [0, 1, 2]), true⟩, ⟨18, 16, .rw, 0, (.span 0 4), true⟩,
      ⟨13, 8, .rw, 1, (.span 1 32), true⟩]⟩
  | .kvpCacheSeqs => ⟨0xb0104, 32, 0x20, 4, 0x0, 1, [⟨12, 0, .rw, 0, .dep, true⟩]⟩
  | .kvpCacheBase => ⟨0xb0108, 64, 0x20, 4, 0x0, 1, [⟨63, 0, .rw, 0, .dep, true⟩]⟩
  | .kvpCacheNpages => ⟨0xb0110, 32, 0x20, 4, 0x0, 1, [⟨18, 0, .rw, 0, .dep, true⟩]⟩
  | .kvpCacheStat => ⟨0xb0114, 32, 0x20, 4, 0x0, 1, [⟨18, 0, .ro, 0, .any, false⟩]⟩
  | .kvpCacheCount => ⟨0xb0118, 32, 0x20, 4, 0x0, 1, [⟨31, 16, .ro, 0, .any, false⟩, ⟨15, 0, .ro, 0, .any, false⟩]⟩
  | .slvCtrl => ⟨0xc0000, 32, 0x0, 1, 0x0, 1, [⟨0, 0, .rw, 0, .any, false⟩]⟩
  | .slvStat => ⟨0xc0004, 32, 0x0, 1, 0x0, 1, [
      ⟨21, 16, .ro, 0, .any, false⟩, ⟨12, 8, .ro, 0, .any, false⟩, ⟨0, 0, .ro, 0, .any, false⟩]⟩
  | .slvReport => ⟨0xc0008, 32, 0x0, 1, 0x0, 1, [⟨8, 8, .rw, 0, .any, false⟩, ⟨5, 0, .rw, 56, (.span 56 63), false⟩]⟩
  | .slvUnits => ⟨0xc000c, 32, 0x0, 1, 0x0, 1, [⟨31, 16, .w1c, 0, .any, false⟩, ⟨15, 0, .rw, 65535, .dep, false⟩]⟩
  | .slvCount => ⟨0xc0010, 32, 0x0, 1, 0x0, 1, [
      ⟨31, 16, .ro, 0, .any, false⟩, ⟨15, 8, .ro, 0, .any, false⟩, ⟨7, 0, .ro, 0, .any, false⟩]⟩
  | .slvPcount => ⟨0xc0014, 32, 0x0, 1, 0x0, 1, [⟨31, 16, .ro, 0, .any, false⟩, ⟨15, 0, .ro, 0, .any, false⟩]⟩
  | .slvCuts => ⟨0xc0018, 32, 0x0, 1, 0x0, 1, [⟨31, 16, .ro, 0, .any, false⟩, ⟨15, 0, .ro, 0, .any, false⟩]⟩
  | .slvHost => ⟨0xc001c, 32, 0x0, 1, 0x0, 1, [⟨4, 0, .rw, 4, (.span 1 16), false⟩]⟩
  | .slvSchedMap => ⟨0xc0020, 64, 0x0, 1, 0x0, 1, [⟨63, 0, .ro, 0, .any, false⟩]⟩
  | .slvRefuseBase => ⟨0xc0028, 64, 0x0, 1, 0x0, 1, [⟨63, 0, .rw, 0, .dep, true⟩]⟩
  | .actCtrl => ⟨0xd0000, 32, 0x0, 1, 0x0, 1, [⟨1, 1, .wo, 0, .any, false⟩, ⟨0, 0, .rw, 0, .any, false⟩]⟩
  | .actStat => ⟨0xd0004, 32, 0x0, 1, 0x0, 1, [
      ⟨30, 28, .ro, 0, .any, false⟩, ⟨21, 16, .ro, 0, .any, false⟩, ⟨12, 0, .ro, 0, .any, false⟩]⟩
  | .actReport => ⟨0xd0008, 32, 0x0, 1, 0x0, 1, [⟨8, 8, .rw, 0, .any, false⟩, ⟨5, 0, .rw, 56, (.span 56 63), false⟩]⟩
  | .actCount => ⟨0xd000c, 32, 0x0, 1, 0x0, 1, [⟨31, 16, .ro, 0, .any, false⟩, ⟨15, 0, .ro, 0, .any, false⟩]⟩
  | .actDrop => ⟨0xd0010, 32, 0x0, 1, 0x0, 1, [
      ⟨31, 16, .ro, 0, .any, false⟩, ⟨15, 8, .ro, 0, .any, false⟩, ⟨7, 0, .ro, 0, .any, false⟩]⟩
  | .actLate => ⟨0xd0014, 32, 0x0, 1, 0x0, 1, [⟨31, 16, .ro, 0, .any, false⟩, ⟨15, 0, .ro, 0, .any, false⟩]⟩
  | .actLstop => ⟨0xd0018, 32, 0x0, 1, 0x0, 1, [
      ⟨8, 8, .wo, 0, .any, false⟩, ⟨4, 4, .rw, 0, .any, false⟩, ⟨2, 2, .ro, 1, .any, false⟩,
      ⟨1, 0, .ro, 1, .any, false⟩]⟩
  | .actCfg => ⟨0xd0100, 32, 0x40, 32, 0x0, 1, [
      ⟨31, 31, .rw, 0, .any, false⟩, ⟨8, 8, .rw, 0, .any, false⟩, ⟨7, 7, .rw, 1, .any, false⟩,
      ⟨6, 6, .rw, 1, .any, false⟩, ⟨5, 5, .rw, 0, .any, false⟩, ⟨4, 4, .rw, 0, .any, false⟩]⟩
  | .actWidth => ⟨0xd0104, 32, 0x40, 32, 0x0, 1, [⟨26, 0, .rw, 1000000, .dep, false⟩]⟩
  | .actHold => ⟨0xd0108, 32, 0x40, 32, 0x0, 1, [
      ⟨31, 24, .rw, 0, .dep, false⟩, ⟨19, 0, .rw, 0, (.span 0 1000000), false⟩]⟩
  | .actGap => ⟨0xd010c, 32, 0x40, 32, 0x0, 1, [⟨31, 16, .rw, 1000, .any, false⟩, ⟨15, 0, .rw, 0, .any, false⟩]⟩
  | .actLead => ⟨0xd0110, 32, 0x40, 32, 0x0, 1, [⟨16, 0, .rw, 0, (.span 0 100000), false⟩]⟩
  | .actGuard => ⟨0xd0114, 32, 0x40, 32, 0x0, 1, [⟨27, 0, .rw, 160000, (.span 0 160000000), false⟩]⟩
  | .actGuardT => ⟨0xd0118, 32, 0x40, 32, 0x0, 1, [⟨19, 0, .rw, 1000, (.span 0 1000000), false⟩]⟩
  | .actMatch => ⟨0xd011c, 32, 0x40, 32, 0x0, 1, [⟨23, 0, .rw, 0, (.span 0 16000000), false⟩]⟩
  | .actExp => ⟨0xd0120, 32, 0x40, 32, 0x0, 1, [
      ⟨31, 30, .rw, 0, (.codes [0, 1, 2]), true⟩, ⟨26, 24, .rw, 0, .any, true⟩, ⟨20, 16, .rw, 0, .any, true⟩]⟩
  | .actExpPitch => ⟨0xd0124, 32, 0x40, 32, 0x0, 1, [⟨27, 0, .rw, 1600000, (.span 1600 160000000), true⟩]⟩
  | .actExpPhase => ⟨0xd0128, 64, 0x40, 32, 0x0, 1, [
      ⟨63, 0, .rw, 0, (.sspan (-140737488355328) 140737488355327), true⟩]⟩
  | .actExpOff => ⟨0xd0130, 32, 0x40, 32, 0x0, 1, [⟨31, 0, .rw, 0, .any, true⟩]⟩
  | .actAstat => ⟨0xd0134, 32, 0x40, 32, 0x0, 1, [
      ⟨28, 16, .ro, 0, .any, false⟩, ⟨2, 2, .ro, 0, .any, false⟩, ⟨1, 1, .ro, 0, .any, false⟩,
      ⟨0, 0, .ro, 0, .any, false⟩]⟩
  | .iocSlotCfg => ⟨0xe0000, 32, 0x4, 48, 0x0, 1, [
      ⟨31, 20, .rw, 50, (.span 1 4095), false⟩, ⟨16, 16, .rw, 1, .any, false⟩, ⟨13, 4, .rw, 0, .dep, true⟩,
      ⟨1, 1, .rw, 0, .any, true⟩, ⟨0, 0, .rw, 0, .dep, false⟩]⟩
  | .iocSlotStat => ⟨0xe0100, 32, 0x4, 48, 0x0, 1, [
      ⟨25, 16, .ro, 0, .any, false⟩, ⟨2, 2, .ro, 0, .any, false⟩, ⟨1, 1, .ro, 0, .any, false⟩,
      ⟨0, 0, .ro, 0, .any, false⟩]⟩
  | .iocSlotDrop => ⟨0xe0200, 32, 0x4, 48, 0x0, 1, [⟨31, 0, .ro, 0, .any, false⟩]⟩
  | .iocPool => ⟨0xe0300, 32, 0x0, 1, 0x0, 1, [⟨9, 0, .ro, 512, .any, false⟩]⟩
  | .iocSettle => ⟨0xe0304, 32, 0x0, 1, 0x0, 1, [⟨15, 0, .rw, 2000, (.span 100 50000), false⟩]⟩
  | .iocQuadStat => ⟨0xe0308, 32, 0x0, 1, 0x0, 1, [⟨12, 8, .ro, 0, .any, false⟩, ⟨4, 0, .ro, 0, .any, false⟩]⟩
  | .iocQuadRetry => ⟨0xe030c, 32, 0x0, 1, 0x0, 1, [⟨4, 0, .w1s, 0, .any, false⟩]⟩
  | .iocNotify => ⟨0xe0310, 32, 0x0, 1, 0x0, 1, [⟨8, 8, .rw, 0, .any, false⟩, ⟨5, 0, .rw, 48, (.span 48 55), false⟩]⟩
  | .iocAccI2cCfg => ⟨0xe0800, 32, 0x0, 1, 0x0, 1, [
      ⟨15, 8, .rw, 25, (.span 1 255), false⟩, ⟨1, 1, .rw, 0, .any, false⟩, ⟨0, 0, .rw, 0, .any, false⟩]⟩
  | .iocAccI2cStat => ⟨0xe0804, 32, 0x0, 1, 0x0, 1, [
      ⟨31, 16, .ro, 0, .any, false⟩, ⟨2, 2, .ro, 0, .any, false⟩, ⟨1, 1, .ro, 0, .any, false⟩,
      ⟨0, 0, .ro, 0, .any, false⟩]⟩
  | .iocAccI2cCtrl => ⟨0xe0808, 32, 0x0, 1, 0x0, 1, [⟨0, 0, .wo, 0, .any, false⟩]⟩
  | .fltCtrl => ⟨0xf0000, 32, 0x0, 1, 0x0, 1, [⟨0, 0, .wo, 0, .any, false⟩]⟩
  | .fltStat => ⟨0xf0004, 32, 0x0, 1, 0x0, 1, [
      ⟨31, 31, .ro, 0, .any, false⟩, ⟨30, 30, .ro, 0, .any, false⟩, ⟨29, 29, .ro, 0, .any, false⟩,
      ⟨28, 28, .ro, 0, .any, false⟩, ⟨15, 8, .ro, 0, .any, false⟩]⟩
  | .fltReport => ⟨0xf0008, 32, 0x0, 1, 0x0, 1, [⟨8, 8, .rw, 0, .any, false⟩, ⟨5, 0, .rw, 56, (.span 56 63), false⟩]⟩
  | .fltUnack => ⟨0xf000c, 32, 0x0, 1, 0x0, 1, [
      ⟨29, 20, .ro, 0, .any, false⟩, ⟨19, 10, .ro, 0, .any, false⟩, ⟨9, 0, .ro, 0, .any, false⟩]⟩
  | .fltSerial => ⟨0xf0010, 32, 0x0, 1, 0x0, 1, [⟨31, 0, .ro, 0, .any, false⟩]⟩
  | .fltLatest => ⟨0xf0014, 32, 0x4, 3, 0x0, 1, [⟨31, 0, .ro, 0, .any, false⟩]⟩
  | .fltSafeSerial => ⟨0xf0020, 32, 0x0, 1, 0x0, 1, [⟨31, 0, .ro, 0, .any, false⟩]⟩
  | .fltLost => ⟨0xf0024, 32, 0x0, 1, 0x0, 1, [⟨31, 0, .ro, 0, .any, false⟩]⟩
  | .fltEsc => ⟨0xf0028, 32, 0x0, 1, 0x0, 1, [⟨31, 16, .ro, 0, .any, false⟩, ⟨15, 0, .ro, 0, .any, false⟩]⟩
  | .fltLogHead => ⟨0xf002c, 32, 0x0, 1, 0x0, 1, [⟨13, 8, .ro, 0, .any, false⟩, ⟨4, 0, .ro, 0, .any, false⟩]⟩
  | .fltSafeTime => ⟨0xf0030, 64, 0x0, 1, 0x0, 1, [⟨63, 0, .ro, 0, .any, false⟩]⟩
  | .fltAuto => ⟨0xf0038, 32, 0x0, 1, 0x0, 1, [⟨21, 0, .rw, 0, (.span 0 3600000), false⟩]⟩
  | .fltLogW0 => ⟨0xf0400, 32, 0x20, 32, 0x0, 1, [⟨31, 0, .ro, 0, .any, false⟩]⟩
  | .fltLogW1 => ⟨0xf0404, 32, 0x20, 32, 0x0, 1, [⟨31, 0, .ro, 0, .any, false⟩]⟩
  | .fltLogW2 => ⟨0xf0408, 32, 0x20, 32, 0x0, 1, [⟨31, 0, .ro, 0, .any, false⟩]⟩
  | .fltLogTime => ⟨0xf0410, 64, 0x20, 32, 0x0, 1, [⟨63, 0, .ro, 0, .any, false⟩]⟩
  | .fltCount => ⟨0xf0800, 32, 0x4, 256, 0x0, 1, [⟨31, 0, .ro, 0, .any, false⟩]⟩
  | .aonStatus => ⟨0x0, 32, 0x0, 1, 0x0, 1, [
      ⟨31, 28, .ro, 1, .any, false⟩, ⟨26, 26, .ro, 0, .any, false⟩, ⟨25, 25, .ro, 0, .any, false⟩,
      ⟨10, 8, .ro, 0, .any, false⟩, ⟨1, 0, .ro, 0, .any, false⟩]⟩
  | .aonReset => ⟨0x4, 32, 0x0, 1, 0x0, 1, [⟨31, 8, .ro, 0, .any, false⟩, ⟨3, 0, .ro, 1, .any, false⟩]⟩
  | .aonSupply => ⟨0x8, 32, 0x0, 1, 0x0, 1, [⟨31, 16, .ro, 0, .any, false⟩, ⟨15, 0, .ro, 0, .any, false⟩]⟩
  | .aonTemp => ⟨0xc, 32, 0x0, 1, 0x0, 1, [⟨15, 0, .ro, 0, .any, false⟩]⟩
  | .aonEvents => ⟨0x10, 32, 0x0, 1, 0x0, 1, [⟨31, 16, .ro, 0, .any, false⟩, ⟨2, 0, .w1c, 0, .any, false⟩]⟩
  | .aonHealth => ⟨0x14, 32, 0x0, 1, 0x0, 1, [
      ⟨31, 28, .ro, 0, .any, false⟩, ⟨27, 26, .ro, 0, .any, false⟩, ⟨25, 21, .ro, 0, .any, false⟩,
      ⟨20, 16, .ro, 0, .any, false⟩, ⟨15, 11, .ro, 0, .any, false⟩, ⟨7, 0, .ro, 0, .any, false⟩]⟩
  | .aonBoot => ⟨0x18, 32, 0x0, 1, 0x0, 1, [
      ⟨31, 16, .ro, 0, .any, false⟩, ⟨12, 8, .ro, 31, .any, false⟩, ⟨5, 4, .ro, 0, .any, false⟩,
      ⟨2, 0, .ro, 0, .any, false⟩]⟩
  | .aonSwreset => ⟨0x1c, 32, 0x0, 1, 0x0, 1, [⟨31, 0, .wo, 0, .any, false⟩]⟩
  | .aonSerial => ⟨0x20, 64, 0x0, 1, 0x0, 1, [⟨63, 0, .ro, 0, .any, false⟩]⟩
  | .memStat => ⟨0x100000, 32, 0x0, 1, 0x0, 1, [
      ⟨19, 16, .ro, 0, .any, false⟩, ⟨11, 8, .ro, 0, .any, false⟩, ⟨4, 4, .ro, 0, .any, false⟩,
      ⟨0, 0, .ro, 0, .any, false⟩]⟩
  | .memScrub => ⟨0x100004, 32, 0x0, 1, 0x0, 1, [
      ⟨16, 16, .rw, 1, .any, false⟩, ⟨7, 0, .rw, 24, (.span 1 168), false⟩]⟩
  | .memChan => ⟨0x100100, 32, 0x4, 4, 0x0, 1, [⟨31, 16, .ro, 0, .any, false⟩, ⟨15, 0, .ro, 0, .any, false⟩]⟩

/-- The registers of the block at offset `b` × 0x1_0000 of setup space (01_line.md R28). -/
def Reg.ofBlock (b : Nat) : List Reg :=
  match b with
  | 0 => [.aonStatus, .aonReset, .aonSupply, .aonTemp, .aonEvents, .aonHealth, .aonBoot, .aonSwreset, .aonSerial]
  | 1 => [.tkCtrl, .tkStatus, .tkEvents, .tkAcceptStep, .tkFsLimit, .tkFsCount, .tkPacerGain, .tkPacerLimit,
      .tkLockCfg, .tkHoldCfg, .tkTime, .tkSetTime, .tkEra, .tkUtcOffset, .tkOffset, .tkPathDelay, .tkFreqAdj,
      .tkHoldUnc, .tkPtpCfg, .tkReport, .tkPortLat, .tkAsym, .tkGmId, .tkTcCount, .tkCapCfg, .tkCapComp,
      .tkCapStall, .tkCapLevel, .tkCapAbsent]
  | 2 => [.hlCtrl, .hlStat, .hlSettle, .hlRetx, .hlKeepalive, .hlPolicy, .hlAuth, .hlDrop, .hlPoll, .hlPCfg,
      .hlPStat, .hlPMac, .hlPAddr4, .hlPPrefix, .hlPAddr6, .hlSessStat, .hlSessWin, .hlSessRetx, .hlSessPostbuf,
      .hlSessDrop, .hlRingCfg, .hlRingBase, .hlRingDbaddr, .hlRingDiaddr, .hlRingGen, .hlRingStat, .hlRingHidx,
      .hlRingDidx, .hlRingLoss]
  | 3 => [.sspCtrl, .sspStatus, .sspPocxp, .sspLat, .sspTrigCfg, .sspTrigPitch, .sspTrigDelay, .sspTrigCount,
      .sspRxCount]
  | 4 => [.senCtrl, .senStatus, .senAddr4, .senAddr6, .senLat, .senDrop, .senStreamCfg, .senStreamPorts,
      .senStreamGroup4, .senStreamSrc, .senStreamCount]
  | 5 => [.mpEncCfg, .mpEncStall, .mpEncCount, .mpEncStat, .mpSpiCfg, .mpSpiXact, .mpSpiCmd, .mpSpiPeriod,
      .mpSpiStall, .mpSpiStat, .mpI2cCfg, .mpI2cStat, .mpI2cCtrl]
  | 6 => [.motCtrl, .motScale, .motImuFmt, .motImuScale, .motGainA, .motGainB, .motHorizon, .motResid, .motOrigin,
      .motPos, .motTconf, .motVel, .motStat, .motReport]
  | 7 => [.panCtrl, .panStat, .panReport, .panFrameCfg, .panFrameBandLen, .panFrameBandOrigin, .panFrameDueOff,
      .panFrameRecallTol, .panFrameNext, .panFrameStat, .panFrameCount, .panStreamCfg, .panStreamMesh,
      .panStreamWait, .panStreamStat, .panStreamDrop]
  | 8 => [.trkCtrl, .trkStat, .trkReport, .trkOutBase, .trkOutSize, .trkJbase, .trkJsize, .trkJstat, .trkClassCfg,
      .trkClassLife, .trkClassGateA, .trkClassGateC, .trkClassWeight, .trkClassGateCost, .trkClassGain,
      .trkClassRepeat, .trkClassStat, .trkClassCount, .trkClassRake, .trkClassDrop]
  | 9 => [.rlyCtrl, .rlyStat, .rlyLanes, .rlyWatch, .rlyReport, .rlyQstat, .rlyBatons, .rlyCount, .rlyCur,
      .rlyProg, .rlyActiveId, .rlyStandbyId, .rlyLoad, .rlyLoadIndex, .rlyXcount, .rlyFence, .rlyBrkCtrl,
      .rlyBrkCount, .rlyDbg, .rlyDbgCmd, .rlyCtx]
  | 10 => [.laneStat, .laneSpErr, .laneAcnt, .laneEcnt, .lanePc, .laneQs, .laneKs, .laneC, .laneAValue, .laneABase,
      .laneAStep, .laneAMod]
  | 11 => [.kvpCtrl, .kvpStat, .kvpPtBase, .kvpCount, .kvpCacheCfg, .kvpCacheSeqs, .kvpCacheBase, .kvpCacheNpages,
      .kvpCacheStat, .kvpCacheCount]
  | 12 => [.slvCtrl, .slvStat, .slvReport, .slvUnits, .slvCount, .slvPcount, .slvCuts, .slvHost, .slvSchedMap,
      .slvRefuseBase]
  | 13 => [.actCtrl, .actStat, .actReport, .actCount, .actDrop, .actLate, .actLstop, .actCfg, .actWidth, .actHold,
      .actGap, .actLead, .actGuard, .actGuardT, .actMatch, .actExp, .actExpPitch, .actExpPhase, .actExpOff,
      .actAstat]
  | 14 => [.iocSlotCfg, .iocSlotStat, .iocSlotDrop, .iocPool, .iocSettle, .iocQuadStat, .iocQuadRetry, .iocNotify,
      .iocAccI2cCfg, .iocAccI2cStat, .iocAccI2cCtrl]
  | 15 => [.fltCtrl, .fltStat, .fltReport, .fltUnack, .fltSerial, .fltLatest, .fltSafeSerial, .fltLost, .fltEsc,
      .fltLogHead, .fltSafeTime, .fltAuto, .fltLogW0, .fltLogW1, .fltLogW2, .fltLogTime, .fltCount]
  | 16 => [.memStat, .memScrub, .memChan]
  | _ => []

/-- The offset of instance (i, j) of a register. -/
def Reg.off (r : Reg) (i j : Nat) : Nat := r.info.base + r.info.step1 * i + r.info.step2 * j

/-- Where an offset lies in a register: its instance numbers and which 32-bit word of it. -/
def Reg.place (r : Reg) (off : Nat) : Option (Nat × Nat × Nat) :=
  let x := r.info
  if off < x.base then none
  else
    let d := off - x.base
    let i := if x.step1 = 0 then 0 else min (d / x.step1) (x.count1 - 1)
    let d1 := d - x.step1 * i
    let j := if x.step2 = 0 then 0 else min (d1 / x.step2) (x.count2 - 1)
    let d2 := d1 - x.step2 * j
    if d2 < x.width / 8 then some (i, j, d2 / 4) else none

/-- One word of a register of an instance. -/
structure RegAt where
  reg : Reg
  i : Nat
  j : Nat
  word : Nat
  deriving DecidableEq, Repr

/-- The register that holds an offset of setup space, if a table lists it (00_scope.md R20). -/
def regAt (off : Nat) : Option RegAt :=
  (Reg.ofBlock (off / 0x10000)).findSome? (fun r => (r.place off).map (fun p => ⟨r, p.1, p.2.1, p.2.2⟩))

/-- The value of a register's fields of the accesses `p` picks, at reset. -/
def Reg.resetBits (r : Reg) (p : Access → Bool) : Nat :=
  r.info.fields.foldl (fun a f => if p f.acc then a + (f.reset % 2 ^ (f.hi + 1 - f.lo)) <<< f.lo else a) 0

/-- The stored fields of a register at reset (00_scope.md R19). The completion ring of a submission ring is 32, of the
others 0 (13_rings.md R503). -/
def Reg.resetValue (r : Reg) (i : Nat) : Nat :=
  let v := r.resetBits (fun a => a = .rw)
  if r = .hlRingCfg ∧ i < 32 then v + 32 * 256 else v

/-- The stored word at an offset at reset. -/
def resetWord (off : Nat) : Word :=
  match regAt off with
  | some p => BitVec.ofNat 32 (p.reg.resetValue p.i >>> (32 * p.word))
  | none => 0

end Sys2Proof.Machine
end

