-- ==== Sys2Proof/Machine/State.lean ====
section
/-! DEFINITION. The state of the block: every register, queue, counter, mode and pin that spec/ gives the Haljo 24, with
the queue of waiting commands, and the state right after reset. Types only: what the commands do to it stands in the
other files of Machine/. -/

namespace Sys2Proof.Machine

open Sys2Proof

/-- Why a command has no meaning. -/
inductive Refusal where
  /-- Raised by `exec`'s arm of a command whose meaning is not written yet. Safe: nothing is claimed about it. -/
  | notModelled (mnemonic : String)
  deriving DecidableEq, Repr

/-- Why the block stops. No command of the spec stops it (its faults are coded messages, 14_faults.md R504, and its
refusals are statuses), so no meaning answers a fault. -/
inductive Fault where
  /-- Never raised: the type must not be empty to be written out. Safe. -/
  | none
  deriving DecidableEq, Repr

/-- What the block puts on a wire. The list of these is the model's own: it shows an effect the spec sees at a port. -/
inductive Out where
  /-- An Imcel frame leaves host port `port` for `peer` (12_imcel.md R435). -/
  | frame (port : Nat) (peer : Peer) (f : Frame)
  /-- A PTP or 802.1AS message leaves host port `port` (02_timekeeper.md R63 to R67). -/
  | ptp (port : Nat) (m : PtpMsg)
  /-- An ARP, neighbour discovery, echo or membership answer leaves a host or sensor port (12_imcel.md R434,
  03_sensor_ports.md R128). -/
  | net (sensor : Bool) (port : Nat) (kind : NetKind) (dst : BitVec 128) (data : List Byte) (via : Envelope)
  /-- A CoaXPress device control command leaves port `port` (03_sensor_ports.md R123): a write of data, or a read. -/
  | cxpWrite (port : Nat) (addr : BitVec 32) (data : List Byte)
  | cxpRead (port : Nat) (addr : BitVec 32) (len : Nat)
  /-- A CoaXPress trigger packet leaves port `port`, with the offset from the due instant in its delay field, in DT64 units (R126). -/
  | cxpTrigger (port offset : Nat)
  /-- An I2C transfer starts on controller `n` (R135). -/
  | i2c (n : Nat) (addr : Nat) (wr : List Byte) (rdlen : Nat)
  /-- A bus clear starts on controller `n` (R149). -/
  | i2cClear (n : Nat)
  /-- An SPI transaction starts on port `n` (R134): the command bytes in the order sent, the bytes read, mode 3, the divisor k of
  SCK and the sampling delay in 2 ns. -/
  | spi (n : Nat) (cmd : List Byte) (rdlen : Nat) (mode3 : Bool) (k delay : Nat)
  deriving DecidableEq, Repr

/-! ### Host link (12_imcel.md) and rings (13_rings.md) -/

/-- Whether a session index is free, has a challenge pending, or is open (12_imcel.md R438). -/
inductive SessState where
  | free | challenged | opened
  deriving DecidableEq, Repr

/-- A pending CHALLENGE of an index (12_imcel.md R439): the nonces, what was granted, the sequence starts and the
interval time it was sent. -/
structure Challenge where
  nh : List Byte
  nd : List Byte
  oflags : Nat
  hisn : BitVec 32
  disn : BitVec 32
  at_ : Nat
  port : Nat
  deriving DecidableEq, Repr

/-- What a device request is for (12_imcel.md R458, 13_rings.md R495, R497). -/
inductive ReqKind where
  /-- FETCH of the doorbell word of the ring. -/
  | doorbell
  /-- FETCH of `n` descriptors from index `idx` on. -/
  | descriptors (idx : BitVec 32) (n : Nat)
  /-- POST of a piece of the post-buffer entry numbered `entry`. -/
  | record (entry : Nat)
  /-- POST of the ring's device index word. -/
  | index
  deriving DecidableEq, Repr

/-- One FETCH or POST of a session (12_imcel.md R448, R458). Log 130 (DEDUCED). -/
structure DevReq where
  kind : ReqKind
  ring : Nat
  haddr : BitVec 64
  len : Nat
  data : List Byte
  seq : BitVec 32
  tries : Nat
  /-- The retransmission time in force, in µs. -/
  rto : Nat
  sentAt : Nat
  /-- Its ring was disabled or stopped after it was sent: its answer changes nothing (13_rings.md R500, R501). -/
  dead : Bool
  deriving DecidableEq, Repr

/-- One session index (12_imcel.md R438). -/
structure Session where
  /-- The index is OPEN. -/
  isOpen : Bool := false
  chal : Option Challenge := none
  slide : Bool := false
  jumbo : Bool := false
  recover : Bool := false
  /-- K_s, 32 bytes (R440). -/
  key : List Byte := []
  token : BitVec 64 := 0
  /-- The host SEQ expected next (R446). -/
  next : BitVec 32 := 0
  /-- Held host requests, at most 16 (R446). -/
  holds : List Frame := []
  /-- The last 64 executed host requests by SEQ, with the cached RESP payload where one is cached (R447). -/
  cache : List (BitVec 32 × Option (List Byte)) := []
  /-- The device's next SEQ (R448). -/
  devNext : BitVec 32 := 0
  /-- Device requests outstanding, at most 32 (R448). -/
  outst : List DevReq := []
  /-- Device requests that wait for the device window (R448). -/
  todo : List DevReq := []
  port : Nat := 0
  peer : Peer := ⟨true, 0, 0⟩
  /-- The SLIDE aperture index (R452). -/
  window : Nat := 0
  /-- Interval time of the latest valid host frame (R450). -/
  lastFrame : Nat := 0
  /-- Interval time since which its retransmission timers pause, while its port settles (R470). -/
  pausedFrom : Nat := 0
  devRetx : Nat := 0
  hostDup : Nat := 0
  dropHold : Nat := 0
  dropStale : Nat := 0
  /-- Records the session injected that R55 discarded (01_line.md R55). -/
  discards : Nat := 0
  deriving DecidableEq, Repr

/-- A record in a post buffer (12_imcel.md R463). -/
structure PostEntry where
  id : Nat
  ring : Nat
  data : List Byte
  /-- The producer index the record was posted at; none while it waits. -/
  idx : Option (BitVec 32)
  /-- Pieces posted and not acknowledged. -/
  left : Nat
  deriving DecidableEq, Repr

/-- How a PTP message that a host port transmits takes its correction as it leaves (02_timekeeper.md R65 to R67, R95). -/
inductive Fwd where
  /-- A message of the device's own, or no PTP message: it leaves as it is. -/
  | own
  /-- A forwarded message that is not corrected. -/
  | plain
  /-- A forwarded event message: its egress stamp and `base` are added to its correctionField. -/
  | event (base : Int)
  /-- A forwarded event message whose follower takes its egress stamp and `base`. -/
  | awaited (base : Int) (kind : PtpKind)
  /-- A follower: it takes what its event message left for it. -/
  | follower
  /-- The Follow_Up of a relayed pair: its egress stamp and `base` are added, multiplied by the rateRatio, given less 1 in 2^-41. -/
  | relay (base cum : Int)
  deriving DecidableEq, Repr

/-- What a settling host port holds (12_imcel.md R470, 02_timekeeper.md R95). -/
structure HeldOut where
  out : Out
  fwd : Fwd := .own
  deriving DecidableEq, Repr

/-- A host port (12_imcel.md R434, R470). -/
structure HostPort where
  up : Bool := false
  /-- The rate in use, 0 none, 1 to 3 as SPEED. -/
  rate : Nat := 0
  settling : Bool := false
  /-- Interval time the settle began. -/
  settleAt : Nat := 0
  fault : Bool := false
  retries : Nat := 0
  /-- The port has locked since its last containment (R470). -/
  lockedSince : Bool := false
  /-- The rate a search tries, 1 to 3 (R472). -/
  tryRate : Nat := 1
  /-- What is held while the port settles, in order (R470). -/
  held : List HeldOut := []
  /-- Interval time of the last search step, retry or beacon on this port. -/
  stepAt : Nat := 0
  /-- HELLO frames answered in the second that began at the interval time given (R441). -/
  helloAt : Nat := 0
  helloN : Nat := 0
  /-- PROBE frames answered in the second that began at the interval time given (R462). -/
  probeAt : Nat := 0
  probeN : Nat := 0
  /-- Interval time of the last periodic STATUS (R462). -/
  beaconAt : Nat := 0
  deriving DecidableEq, Repr

/-- One hardware ring (13_rings.md R477 to R503). -/
structure Ring where
  /-- HIDX: the doorbell IDX last taken. -/
  hidx : BitVec 32 := 0
  /-- The device's own index: one past the last descriptor fetched, or the last entry posted. -/
  own : BitVec 32 := 0
  /-- DIDX: the device index IDX last posted. -/
  didx : BitVec 32 := 0
  /-- Descriptors in staging, with their IDX, oldest first (R491). -/
  staging : List (BitVec 32 × List Byte) := []
  /-- Descriptors asked for by a FETCH that is not answered. -/
  asked : Nat := 0
  staleDb : Nat := 0
  stopped : Bool := false
  /-- Records of this ring dropped since it was enabled. -/
  loss : Nat := 0
  /-- Records dropped since the latest device index word (R479), and since the latest record posted (R485, R488). -/
  lossSince : Nat := 0
  lossRec : Nat := 0
  /-- Interval time of the latest doorbell FETCH (R495). -/
  pollAt : Nat := 0
  /-- Times the ring was disabled: it tells the operations of an earlier life from those of this one (R500). -/
  life : Nat := 0
  deriving DecidableEq, Repr

/-- A dispatched descriptor whose operation has not completed (13_rings.md R485, R492). -/
structure Op where
  /-- The submission ring, and 64 times the life of the ring it was dispatched in. -/
  ring : Nat
  didx : BitVec 32
  /-- The session index the ring was bound to at dispatch. -/
  session : Nat
  /-- The descriptor's 64 bytes as fetched, OP taken under R482. -/
  desc : List Byte
  /-- The address of the Job Status Word, when one was written. -/
  jsw : Option Nat
  /-- Job Status Word STATE, VALID, TOTAL, SERIAL and STARTED (R492). -/
  jstate : Nat
  valid : Nat
  total : Nat
  serial : Nat
  started : Nat
  /-- Interval time of the latest Job Status Word write. -/
  jswAt : Nat
  /-- The engine has taken the operation up. -/
  taken : Bool
  /-- Interval time of its dispatch. -/
  sentAt : Nat := 0
  /-- An I2C transaction that was accepted while its bus was held (03_sensor_ports.md R146). -/
  busHeld : Bool := false
  deriving DecidableEq, Repr

/-- The Host Link (12_imcel.md) with the rings (13_rings.md). -/
structure HostLink where
  ports : Tab HostPort := []
  sessions : Tab Session := []
  rings : Tab Ring := []
  /-- The post buffer of each session index, oldest first (R463). -/
  posts : Tab (List PostEntry) := []
  /-- The number the next post-buffer entry takes. -/
  postNo : Nat := 0
  ops : List Op := []
  badFrame : Nat := 0
  noSession : Nat := 0
  authFail : Nat := 0
  deriving DecidableEq, Repr

/-! ### Faults and the safe state (14_faults.md) -/

/-- A coded message (14_faults.md R506). -/
structure Msg where
  code : Nat
  source : Nat
  unit : Nat
  arg : Nat
  loss : Bool
  /-- Interval time and device time it was raised. -/
  at_ : Nat
  dev : DT64
  deriving DecidableEq, Repr

/-- A fault of the log (14_faults.md R513, R527). -/
structure LogEntry where
  word0 : Word
  serial : BitVec 32
  arg : BitVec 32
  time : DT64
  deriving DecidableEq, Repr

/-- The Fault Collector and the safe-state latch (14_faults.md R507 to R518). -/
structure Faults where
  /-- Messages held by each island, by `islandOf`, at most 8 of class C or U, oldest first (R507). -/
  bufs : Tab (List Msg) := []
  /-- Islands that dropped a message since they delivered one (R507). -/
  lossOf : List Nat := []
  /-- SOURCE and code of each fatal message that was classified before its fatal line was taken (R523). -/
  lined : List (Nat × Nat) := []
  /-- The silent core islands, by SOURCE, that release resets (R505, R515). -/
  silent : List Nat := []
  /-- unack for C, U, F. -/
  unackC : Nat := 0
  unackU : Nat := 0
  unackF : Nat := 0
  serial : BitVec 32 := 0
  latestC : BitVec 32 := 0
  latestU : BitVec 32 := 0
  latestF : BitVec 32 := 0
  /-- The log, newest last, at most 32 entries, and the number of entries ever made modulo 32. -/
  log : Tab LogEntry := []
  logHead : Nat := 0
  logValid : Nat := 0
  counts : Tab Nat := []
  toU : Nat := 0
  toF : Nat := 0
  lost : Nat := 0
  safe : Bool := false
  sticky : Bool := false
  cause : Nat := 0
  safeSerial : BitVec 32 := 0
  safeTime : DT64 := 0
  /-- Interval time of the latest entry into the safe state or fatal code (R517). -/
  safeAt : Nat := 0
  /-- The collector is dead (FLT_DEAD, R524). -/
  dead : Bool := false
  /-- Interval time of the latest class C fault (R511). -/
  latestCAt : Nat := 0
  /-- ALIVE: the level of its last edge and the interval time of it (R518). -/
  alive : Bool := false
  aliveAt : Nat := 0
  deriving DecidableEq, Repr

/-! ### Power, reset and start-up (15_startup.md) -/

/-- What began a reset (15_startup.md R533, R556). -/
inductive Cause where
  | powerOn | brownout | overvolt | thermal | resetN | button | software
  deriving DecidableEq, Repr

/-- How far start-up has come (15_startup.md R547). -/
inductive Phase where
  /-- Reset is held. -/
  | held
  /-- Reset is released; the boot image is not loaded. -/
  | released
  /-- A boot image is loaded; the boot profile is being applied from the entry given on. -/
  | profile
  /-- DRAM trains. -/
  | training
  /-- DRAM, scratchpads and Pan SRAM are being zeroed, self-tests run. -/
  | zeroing
  /-- The state of 01_line.md R57 holds. -/
  | done
  /-- Neither boot image passed, or OTP failed: SL0 until the next reset (R553). -/
  | failed
  deriving DecidableEq, Repr

/-- One DRAM channel (15_startup.md R541, R542). -/
structure Channel where
  trained : Bool := false
  failed : Bool := false
  ce : Nat := 0
  ue : Nat := 0
  /-- Training values are saved in the always-on island (R547). -/
  saved : Bool := false
  deriving DecidableEq, Repr

/-- The always-on island, the memory controller and the non-volatile memory (15_startup.md). -/
structure Aon where
  phase : Phase := .released
  /-- Entry of the boot profile to apply next, and the end of a wait entry in interval time (R538). -/
  profIdx : Nat := 0
  profWait : Option Nat := none
  /-- The supply resets that are pending, oldest first (R528). -/
  supply : List Cause := []
  /-- RESET_N is taken as asserted, the button as pressed, a software reset runs (R531). -/
  resetN : Bool := false
  pressed : Bool := false
  swRun : Bool := false
  /-- The source that began the reset being held, and the interval time it was taken. -/
  heldCause : Cause := .powerOn
  heldAt : Nat := 0
  /-- The AON rail is up (R582) and power-good has held (R528). -/
  rail : Bool := true
  powerGood : Bool := true
  /-- The input has fallen below brown-out and power-good has not held since (R530). -/
  sag : Bool := false
  /-- AON.RESET. -/
  cause : Cause := .powerOn
  holdMs : Nat := 0
  /-- AON.SUPPLY.COUNT and AON.EVENTS. -/
  releases : Nat := 0
  brownouts : Nat := 0
  /-- Interval time at which each bit of AON.EVENTS was set (00_scope.md R17). -/
  eventAt : Tab Nat := []
  lowVin : Bool := false
  levelDown : Bool := false
  levelUp : Bool := false
  skipped : Nat := 0
  pslot : Nat := 31
  link : Nat := 0
  pstatus : Nat := 0
  linkId : BitVec 32 := 0
  /-- Core units that failed their self-test, by the bits of AON.HEALTH.CORE_FAIL. -/
  coreFail : Nat := 0
  /-- The Host Link failed its self-test (R543), and a host port has locked since reset (R547). -/
  hlFail : Bool := false
  hostLocked : Bool := false
  sl1 : Bool := false
  level : Nat := 0
  chans : Tab Channel := []
  zeroed : Bool := false
  /-- Uncorrectable 32-byte DRAM units, by number (14_faults.md R505). -/
  ueUnits : List Nat := []
  /-- The rate HL.0 last locked at since power-on, 0 for none (R535). -/
  lastRate : Nat := 0
  /-- The rate the beacon tries next while HL.0 has never locked, and the rate it sent at last, 1 to 3 as SPEED, 0 for none (R535). -/
  trial : Nat := 1
  beaconRate : Nat := 0
  otpOk : Bool := true
  /-- Non-volatile memory (R536): profile slots, boot slot and link key; KEY_GEN counts keys since reset. -/
  slots : Tab (List Byte) := []
  boot : Option Nat := none
  /-- Writes of each profile slot, which R550 limits. -/
  slotWrites : Tab Nat := []
  linkKey : Option (List Byte) := none
  /-- The link key fails its check (12_imcel.md R465 HL_KEY_UE). -/
  keyBad : Bool := false
  keyGen : Nat := 0
  deriving DecidableEq, Repr

/-! ### Timekeeper (02_timekeeper.md) -/

/-- The states of the Timekeeper, by their codes of R61. -/
inductive TkState where
  | free | acquire | locked | holdover | refused
  deriving DecidableEq, Repr

/-- The parent chosen by the best clock algorithm (R79, R80). -/
structure Parent where
  gm : PtpGm
  clock : BitVec 64
  portNo : BitVec 16
  domain : Nat
  port : Nat
  deriving DecidableEq, Repr

/-- A time transmitter heard by Announce on a port: its latest data and the interval times of its last two Announces. -/
structure Foreign where
  gm : PtpGm
  clock : BitVec 64
  portNo : BitVec 16
  port : Nat
  last : Nat
  prev : Option Nat
  deriving DecidableEq, Repr

/-- A Sync that waits for its Follow_Up (R71): t2, the Sync's correction. -/
structure PendSync where
  port : Nat
  seq : BitVec 16
  clock : BitVec 64
  portNo : BitVec 16
  t2 : Int
  corr : Int
  deriving DecidableEq, Repr

/-- The peer-delay mechanism of one host port (R65, R71). Times are in 2^-16 ns. -/
structure Pdelay where
  seq : BitVec 16 := 0
  /-- The egress stamp of the latest Pdelay_Req, once it has left. -/
  t1 : Option Int := none
  /-- t2, t4 and the correction of a two-step response that waits for its follow-up. -/
  wait : Option (Int × Int × Int) := none
  /-- The latest measured link delay. -/
  link : Option Int := none
  /-- t3 and t4 of the previous exchange, for the neighbour rate ratio. -/
  prev : Option (Int × Int) := none
  /-- Neighbour rate ratio less 1, in 2^-41 (R67). -/
  ratio : Int := 0
  sentAt : Nat := 0
  deriving DecidableEq, Repr

/-- A message that the transparent clock holds for its follower (R65, R89). -/
structure TcHeld where
  seq : BitVec 16
  clock : BitVec 64
  portNo : BitVec 16
  domain : Nat
  /-- The kind of the follower awaited. -/
  follower : PtpKind
  /-- What to add to the follower's correctionField, in 2^-16 ns. -/
  add : Int
  at_ : Nat
  deriving DecidableEq, Repr

/-- A capture edge stamped and not yet written: its stamp, the new level, and the interval time it began (R69, R70). -/
structure CapCand where
  stamp : DT64
  level : Bool
  at_ : Nat
  /-- TUNC at the stamp (R61). -/
  tunc : Bool
  /-- The unit had no place for the stamp: the edge is dropped (R70). -/
  lost : Bool := false
  /-- The unit was disabled as the edge came: it is validated, but has no stamp (R81, R100). -/
  blind : Bool := false
  deriving DecidableEq, Repr

/-- A photo-finish unit before the edges of one stamp interval: its level, its edges, and its latest edge (02_timekeeper.md R94). -/
structure CapSnap where
  at_ : Nat
  level : Bool
  cands : List CapCand
  edgeAt : Option Nat
  deriving DecidableEq, Repr

/-- One photo-finish unit (R69, R70, R81, R96). -/
structure Cap where
  /-- The validated level, and the level at the pin. -/
  level : Bool := false
  pin : Bool := false
  cands : List CapCand := []
  /-- The unit before the stamp interval of the latest edge at the pin (R94). -/
  snap : Option CapSnap := none
  /-- Interval time of the latest edge at the pin (R70). -/
  edgeAt : Option Nat := none
  /-- Interval times at which places of stamps that were recorded come free: one in 100 ns (R70). -/
  freeAt : List Nat := []
  missed : Nat := 0
  count : BitVec 32 := 0
  absent : Bool := false
  /-- Interval time the stall timer restarted or went on, and what it had run before (R96). -/
  stallAt : Nat := 0
  stallRan : Nat := 0
  deriving DecidableEq, Repr

/-- The Timekeeper (02_timekeeper.md). Offsets and delays are in 2^-16 ns, frequencies in 2^-16 ppb. -/
structure Tk where
  /-- Device time with the era above it, in 2^-32 s modulo 2^80, at interval time `baseAt` (01_line.md R31, R32). -/
  total : Nat := 0
  baseAt : Nat := 0
  /-- The part of a DT64 unit run at `baseAt`, in 1/(65 536 × 10^18) unit. -/
  phase : Nat := 0
  /-- Earlier runs of device time, newest first: interval time, time, phase and adjustment of each start. -/
  segs : List (Nat × Nat × Nat × Int) := []
  state : TkState := .free
  isSet : Bool := false
  integ : Int := 0
  adj : Int := 0
  offset : Int := 0
  meanDelay : Int := 0
  nDelay : Nat := 0
  run : Nat := 0
  stepPend : Bool := false
  stepArmed : Bool := false
  /-- Interval time the step was armed (R91). -/
  armedAt : Nat := 0
  fsCount : Nat := 0
  /-- TK.EVENTS, by bit, and the interval time each bit was set at (00_scope.md R17). -/
  events : Nat := 0
  eventAt : Tab Nat := []
  /-- The changes of TUNC, newest first, each with the device time it was made at (R61). -/
  tuncs : List (DT64 × Bool) := []
  /-- Magnitude of the last accepted offset, 0 for one that caused a step (R78). -/
  lastMag : Nat := 0
  /-- TK.HOLD_UNC at entry in 2^-16 ns, and the interval time of entry (R78). -/
  uncBase : Nat := 0
  uncAt : Nat := 0
  /-- HOLD_LIMIT was raised for this entry (R98). -/
  uncRaised : Bool := false
  /-- Interval time of the latest accepted offset, or of the entry to ACQUIRE (R73). -/
  acceptAt : Nat := 0
  /-- Consecutive updates with adj at the rail (R98). -/
  railRun : Nat := 0
  /-- A run at the rail has reached 64, and SERVO_RAIL is not raised yet (R98). -/
  railDue : Bool := false
  parent : Option Parent := none
  /-- The receiver port that AUTO has chosen. -/
  rx : Option Nat := none
  foreign : List Foreign := []
  pendSync : Option PendSync := none
  /-- The latest Sync of the parent, for the relay (R67). -/
  relaySync : Option PendSync := none
  /-- t2 - t1 - c_sync of the latest Sync (R71). -/
  syncDiff : Option Int := none
  /-- The latest Delay_Req: its SEQ, and t3 once it has left. -/
  reqSeq : BitVec 16 := 0
  reqT3 : Option Int := none
  reqAt : Nat := 0
  /-- The parent's logMinDelayReqInterval, from its Delay_Resp (R71, R100). -/
  reqLog : Int := 0
  pdelay : Tab Pdelay := []
  tcHeld : List TcHeld := []
  tcFwd : Nat := 0
  tcOrphan : Nat := 0
  /-- The relay's own sequenceId (R67). -/
  relaySeq : BitVec 16 := 0
  caps : Tab Cap := []
  deriving DecidableEq, Repr

/-! ### Sensor ports and ingest (03_sensor_ports.md) -/

/-- A stream source by the kind and instance codes of R103: kind 1 SSP camera, 3 SEN stream, 6 encoder channel,
8 inertial channel, 9 CAP input. -/
structure Source where
  kind : Nat
  inst : Nat
  deriving DecidableEq, Repr

/-- One 65-bit entry of a word FIFO (R105). -/
structure Entry65 where
  m : Bool
  d : BitVec 64
  deriving DecidableEq, Repr

/-- A word FIFO before the first word it dropped at an instant, and the words that arrived from that one on: a read at the same
instant takes effect before them (R139). -/
structure SlotSnap where
  at_ : Nat
  fifo : List Entry65
  gapOpen : Bool
  drop : Nat
  hwm : Nat
  words : List Entry65
  deriving DecidableEq, Repr

/-- One stream slot and its word FIFO (R102 to R108, R147). -/
structure Slot where
  fifo : List Entry65 := []
  /-- The tail entry is a FIFO_GAP marker that is still open. -/
  gapOpen : Bool := false
  /-- The sources that hold the slot. -/
  srcs : List Source := []
  /-- Highest occupancy since EN was set, in entries. -/
  hwm : Nat := 0
  snap : Option SlotSnap := none
  drop : Nat := 0
  absent : Bool := false
  /-- Interval time the slot's stall timer restarted. -/
  stallAt : Nat := 0
  deriving DecidableEq, Repr

/-- The notification state of one code at one unit (R136): the interval time of the latest record, and the occurrences
withheld since. -/
structure Notif where
  code : Nat
  uclass : Nat
  uindex : Nat
  at_ : Nat
  withheld : Nat
  deriving DecidableEq, Repr

/-- A trigger due and not launched (R126): its due instant, whether it became late while held, the number of the one-shot it came
from, and whether its quad settled while it was held, so that it is stamped at its egress (R143). -/
structure Trigger where
  due : DT64
  late : Bool
  shot : Option Nat
  egress : Bool := false
  deriving DecidableEq, Repr

/-- A one-shot trigger that waits for its instant or position (R125). `no` pairs it with its descriptor. -/
structure OneShot where
  no : Nat
  position : Bool
  frame : Nat
  time : DT64
  pos : WP48
  deriving DecidableEq, Repr

/-- The image record a camera or GVSP stream is assembling (R115, R130). -/
structure ImgStage where
  frame : BitVec 32
  width : Nat
  height : Nat
  pixfmt : Nat
  phase : Nat
  /-- Bits of one pixel as received, and whether the port unpacks 16-bit containers. -/
  bpp : Nat
  unpack : Bool
  row : Nat
  data : List Byte
  time : DT64
  tunc : Bool
  trig : Bool
  camTime : Bool
  first : Bool
  /-- Packets received for the record being assembled. -/
  pkts : Nat
  /-- Data of the record was lost. -/
  broken : Bool
  deriving DecidableEq, Repr

/-- One CoaXPress host port (R122 to R127). Camera and trigger state is kept at the master port of a group. -/
structure Ssp where
  /-- The port's own link is up, the rate it came up at, and whether its camera has the high-speed uplink (R122, R141). -/
  link : Bool := false
  linkRate : Nat := 7
  linkHs : Bool := false
  /-- The port of one link, or the group it is master of, is up. -/
  up : Bool := false
  rate : Nat := 7
  camera : Bool := false
  hs : Bool := false
  pocxpOn : Bool := false
  pocxpTrip : Bool := false
  /-- Device detection runs, and has found a device since POCXP.EN was set (R127). -/
  detecting : Bool := false
  detected : Bool := false
  held : List Trigger := []
  shots : List OneShot := []
  /-- Due instants of CAP-mode triggers (R125). -/
  capDue : List DT64 := []
  /-- The latest TIME-mode due instant, and the highest position triggered. -/
  lastDue : Option DT64 := none
  highPos : Option WP48 := none
  /-- Interval time of the latest launch (R126). -/
  launchAt : Option Nat := none
  /-- Stamps of launched triggers not yet taken by a line or frame (R124). -/
  stamps : List DT64 := []
  /-- Line or frame number of the latest one taken, for counting those lost (R124). -/
  lastNo : Option (BitVec 32) := none
  sent : Nat := 0
  late : Nat := 0
  dropped : Nat := 0
  pktErr : Nat := 0
  refused : Nat := 0
  badFmt : Option (BitVec 32) := none
  stage : Option ImgStage := none
  /-- Packets lost and not yet marked by a SOURCE_GAP, and the tag expected next. -/
  lost : Nat := 0
  tag : Option Nat := none
  /-- Interval time the running transaction started, and its deadline (R123). -/
  xactAt : Option (Nat × Nat) := none
  deriving DecidableEq, Repr

/-- One quad (R143, R144). -/
structure Quad where
  running : Bool := false
  settling : Bool := false
  settleAt : Nat := 0
  fault : Bool := false
  retry : Bool := false
  /-- Frames held for transmission on SEN ports while quad 4 settles. -/
  held : List Out := []
  deriving DecidableEq, Repr

/-- A profile in assembly (R131, R132): points as received by number. -/
structure ProfStage where
  id : BitVec 32
  total : Nat
  fmt : Nat
  points : Tab (List Byte)
  time : DT64
  tunc : Bool
  camTime : Bool
  at_ : Nat
  deriving DecidableEq, Repr

/-- One stream of a sensor Ethernet port. -/
structure SenStream where
  lost : Nat := 0
  blocks : Nat := 0
  stage : Option ImgStage := none
  /-- The GVSP block being received and whether it is of no Image payload type, the packet ID expected next, the payload bytes of
  a packet, and bytes of rows already lost that are still to be passed over. -/
  block : Option (BitVec 32) := none
  other : Bool := false
  packet : Nat := 0
  size : Nat := 0
  skip : Nat := 0
  prof : Option ProfStage := none
  /-- The latest PROFILE_ID closed, or GVSP block ended. -/
  lastId : Option (BitVec 32) := none
  badFmt : Option (BitVec 32) := none
  deriving DecidableEq, Repr

/-- One sensor Ethernet port (R128, R129). -/
structure Sen where
  up : Bool := false
  speed : Nat := 0
  noMatch : Nat := 0
  badFrame : Nat := 0
  streams : Tab SenStream := []
  deriving DecidableEq, Repr

/-- A line transition of an encoder that the filter has not validated (R133). -/
structure EncCand where
  line : Nat
  level : Bool
  stamp : DT64
  at_ : Nat
  tunc : Bool
  deriving DecidableEq, Repr

/-- One entry of an encoder batch (R118). -/
structure EncEdge where
  z : Bool
  up : Bool
  stamp : DT64
  /-- The count before the entry. -/
  before : BitVec 64
  tunc : Bool
  deriving DecidableEq, Repr

/-- One encoder channel (R118, R133, R147, R148). -/
structure Enc where
  /-- The validated levels; an RS-422 pair that is open reads 1 (16_module.md R569). -/
  a : Bool := true
  b : Bool := true
  z : Bool := true
  count : BitVec 64 := 0
  cands : List EncCand := []
  edges : List EncEdge := []
  /-- Interval time the batch began, and of the latest count edge at the pins. -/
  batchAt : Nat := 0
  edgeAt : Option Nat := none
  qerr : Nat := 0
  batchQerr : Bool := false
  batchFault : Bool := false
  /-- LINE_FAULT: bit 0 A, bit 1 B, bit 2 Z. -/
  lineFault : Nat := 0
  /-- No batch was written since the channel was enabled. -/
  fresh : Bool := true
  absent : Bool := false
  /-- Interval time the stall timer restarted or went on, and what it had run before (R147). -/
  stallAt : Nat := 0
  stallRan : Nat := 0
  deriving DecidableEq, Repr

/-- An SPI transaction that runs (R134). -/
structure SpiRun where
  stamp : DT64
  tunc : Bool
  timer : Bool
  len : Nat
  deriving DecidableEq, Repr

/-- One inertial channel (R119, R134). -/
structure Spi where
  run : Option SpiRun := none
  sample : BitVec 16 := 0
  overrun : Nat := 0
  /-- Samples skipped since the latest SOURCE_GAP. -/
  absent : Bool := false
  stallAt : Nat := 0
  timerAt : Nat := 0
  deriving DecidableEq, Repr

/-- One I2C controller: MP.0 to MP.7, and 8 for the accessory bus (R135, R149). -/
structure I2c where
  busy : Bool := false
  /-- Interval time of the latest start or end of a transfer, or of the enabling. -/
  since : Nat := 0
  /-- HELD once the running bus clear has ended; HELD while it runs; the interval time at which it ends (R146, R149). -/
  held : Bool := false
  was : Bool := false
  clearEnd : Nat := 0
  /-- The bus clear fails: at its end the bus is declared held, by SCL or by SDA (R149). -/
  stuck : Option Bool := none
  clears : Nat := 0
  deriving DecidableEq, Repr

/-- Sensor ports and ingest. -/
structure Ingest where
  slots : Tab Slot := []
  notifs : List Notif := []
  ssp : Tab Ssp := []
  quads : Tab Quad := []
  sen : Tab Sen := []
  enc : Tab Enc := []
  spi : Tab Spi := []
  i2c : Tab I2c := []
  /-- Sources enabled and refused under R103. -/
  refused : List Source := []
  deriving DecidableEq, Repr

/-! ### Motion Estimator and Pan (04_motion_pan.md) -/

/-- A processed fusion tick: its stamp and p, v, a modulo 2^64 (R155, R583). -/
structure Tick where
  t : DT64
  p : BitVec 64
  v : BitVec 64
  a : BitVec 64
  deriving DecidableEq, Repr

/-- One motion frame (R153 to R158). -/
structure Motion where
  enabled : Bool := false
  /-- Processed ticks, newest first, at most 6 400 (R583). -/
  ticks : List Tick := []
  /-- T_conf, once a tick has been processed. -/
  tconf : Option DT64 := none
  /-- The next tick to process is a first tick. -/
  first : Bool := true
  /-- Number of the next multiple of 10 µs of interval time to process. -/
  next : Nat := 0
  /-- c_start, once a batch was taken after EN. -/
  cStart : Option (BitVec 64) := none
  /-- The count after every edge up to the latest tick. -/
  count : BitVec 64 := 0
  /-- Count edges taken and later than the latest tick: stamp and count after. -/
  edges : List (DT64 × BitVec 64) := []
  /-- Close instant of the latest whole batch taken. -/
  close : Option DT64 := none
  /-- Inertial samples not yet blended: TIME and the bytes read, oldest first. -/
  imus : List (DT64 × List Byte) := []
  absent : Bool := false
  residCnt : Nat := 0
  /-- A residual reset since the previous MOTION record. -/
  resid : Bool := false
  /-- Interval time at which the latest tick was processed. -/
  tickedAt : Nat := 0
  /-- The ticks of the last second with the interval times at which they were processed, newest first: a wait may run for that long from
  the instant at which a band fell due (R168). -/
  trail : List (Nat × Tick) := []
  /-- DT64 units by which device time has stepped since the latest tick fell due, and the steps by interval time (02_timekeeper.md R90). -/
  shift : Int := 0
  steps : List (Nat × Int) := []
  /-- Entries of the batch that was open at a step: how many come with stamps of the time before, and what brings them to the time now. -/
  late : List (Nat × Int) := []
  /-- Ticks processed since the latest MOTION record. -/
  sinceReport : Nat := 0
  /-- Interval time since which the frame's speed has been below 10 mm/s, while it is (stall timers gated by it pause). -/
  slowSince : Nat := 0
  deriving DecidableEq, Repr

/-- A projected point of a sample (R162): its row and lookup index, the offsets x and y, whether it is invalid, whether y
saturated, and the z and intensity of a profile point. -/
structure Proj where
  row : Nat
  x : Int
  y : Int
  invalid : Bool
  sat : Bool
  z : Nat
  inten : Nat
  deriving DecidableEq, Repr

/-- A sample the Pan has read from a slot (R163 to R169). -/
structure Sample where
  id : Nat
  slot : Nat
  /-- Where its raw record lies in the band store, from the start of the Pan SRAM. -/
  raw : Nat
  source : Rec
  /-- A marker preceded it (R172 GAP). -/
  gap : Bool
  /-- It is not projected but attached to a band (R163). -/
  unplaced : Bool
  bank : Nat := 0
  xform : Nat := 0xFFFF
  station : WP48 := 0
  /-- Row times of its control points, by row. -/
  rows : List (Nat × DT64) := []
  pts : List Proj := []
  nc : Nat := 0
  nr : Nat := 0
  cs : Nat := 0
  rs : Nat := 0
  /-- TIME of its PLACE or PPOINTS record, or of the raw record of an unplaced one (R172). -/
  first : DT64
  /-- P(t) of each row time, once placed. -/
  pos : List (Nat × WP48) := []
  /-- Placed on predicted motion. -/
  pred : Bool := false
  /-- The bands it belongs to. -/
  bands : List (BitVec 32) := []
  /-- P(t) of each row time on confirmed motion, kept for a member of a provisional release once T_conf has reached it (R169). -/
  fresh : Option (List (Nat × WP48)) := none
  /-- Where its PLACE or PPOINTS record lies, and whether that record has SAT, once it is written, and the epoch it was written for. -/
  written : Option (Nat × Bool) := none
  wepoch : Epoch := 0
  deriving DecidableEq, Repr

/-- What has become of a release's epoch (R173, R175). -/
inductive Settle where
  | final | pending | confirmable | settled | recalled
  deriving DecidableEq, Repr

/-- A release in the band store (R170 to R176). -/
structure Release where
  frame : Nat
  k : BitVec 32
  epoch : Epoch
  settle : Settle
  credit : Bool
  /-- Offset of its BAND record in the band store. -/
  off : Nat
  samples : List Sample
  /-- Interval time of the release. -/
  at_ : Nat
  /-- Bit sets of EXPECT, ABSENT and FORFEIT, and the bank. -/
  expect : Nat
  absent : Nat
  forfeit : Nat
  bank : Nat
  /-- GAP bits besides those of its samples, and whether entries beyond 4 096 were dropped. -/
  gap : Nat
  overfull : Bool
  resume : Bool
  /-- It waits for its re-release, of the epoch of the recalled release; MABSENT is to be set (R176, R187). -/
  again : Bool
  mabsent : Bool
  deriving DecidableEq, Repr

/-- A token of the Relay's band queue, or a notice behind it (R170). -/
inductive BandTok where
  | band (frame : Nat) (k : BitVec 32) (epoch : Epoch) (off : Nat) (time : DT64)
  | seal (epoch : Epoch) (time : DT64)
  | rcl (epoch : Epoch) (time : DT64)
  deriving DecidableEq, Repr

/-- Band formation of one frame (R166 to R189). -/
structure PanFrame where
  enabled : Bool := false
  /-- The next band to release, once a sample was placed. -/
  next : Option (BitVec 32) := none
  /-- Samples of unreleased bands, in arrival order. -/
  samples : List Sample := []
  /-- Streams that forfeited the next band, by bit (R168). -/
  forfeit : Nat := 0
  /-- Interval times at which the next band, and those after it in order, fell due (R168). -/
  dues : List Nat := []
  releases : List Release := []
  /-- Provisional epochs without a notice, in issue order. -/
  outst : List Epoch := []
  lastSeq : Nat := 0
  /-- SEQ values whose notice was issued, with its interval time, newest first (R174). -/
  noticed : List (Nat × Nat) := []
  resume : Bool := false
  /-- The frame's motion is absent: the highest band still to be released with MABSENT, if any (R187). -/
  absent : Bool := false
  drain : Option (BitVec 32) := none
  /-- Streams whose GAP bit the next band released carries (R190). -/
  gapBits : Nat := 0
  seals : Nat := 0
  recalls : Nat := 0
  /-- Unreleased bands that the frame has begun to assemble, each with its bank and the interval time at which it began (R178). -/
  begun : List (BitVec 32 × Nat × Nat) := []
  /-- The bank that the frame has changed over to, and while a swap is pending the first band that uses the new bank (R178). -/
  bank : Nat := 0
  swapAt : Option (BitVec 32) := none
  /-- Interval time until which releases are final after the safe state (14_faults.md R517). -/
  finalUntil : Nat := 0
  deriving DecidableEq, Repr

/-- One Pan stream (R165 to R168). -/
structure PanStream where
  /-- Samples read and not placed, in arrival order. -/
  waiting : List Sample := []
  wm : Option WP48 := none
  /-- The number of its most recently placed sample. -/
  last : Nat := 0
  gapNext : Bool := false
  forfeits : Nat := 0
  late : Nat := 0
  badPt : Nat := 0
  deriving DecidableEq, Repr

/-- The Alignment Pan and the Sluice. -/
structure Pan where
  frames : Tab PanFrame := []
  streams : Tab PanStream := []
  bank : Nat := 0
  swapPend : Bool := false
  /-- Blocks of the band store in use: offset and length. -/
  blocks : List (Nat × Nat) := []
  /-- Tokens and notices given to the Sluice and not yet placed. -/
  sluice : List BandTok := []
  sampleNo : Nat := 0
  /-- Band-done credits the Relay has returned and the Pan has not taken, by the offset of the BAND record (R171). -/
  credits : List Nat := []
  /-- Transform entries an uncorrectable error made invalid: bank, entry, and the bytes rewritten since (R190). -/
  ue : List (Nat × Nat × List Nat) := []
  deriving DecidableEq, Repr

/-! ### Track Engine (05_track.md) -/

/-- What an epoch view knows of the provisional epochs of each motion frame (06_aurik_machine.md R253,
09_solver.md R334): by frame, the SEQ values seen, newest first, each with 0 outstanding, 1 sealed, 2 recalled, and the
SEQ of the notice that said so. -/
abbrev EpochView := Tab (List (Nat × Nat × Nat))

/-- A track (R196). `state` is 0 FREE, 1 TENTATIVE, 2 LIVE, 3 CONFIRMED. -/
structure Track where
  id : BitVec 32 := 0
  state : Nat := 0
  pos : WP48 := 0
  cross : Int := 0
  driftA : Int := 0
  driftC : Int := 0
  kLast : BitVec 32 := 0
  hits : Nat := 0
  bornN : BitVec 32 := 0
  hitN : BitVec 32 := 0
  key : Nat := 0
  feat : BitVec 64 := 0
  deriving DecidableEq, Repr

/-- A batch handed to the Track Engine: the address of its DET_BATCH, the baton and its epoch (R197, R199). -/
structure DetHand where
  addr : Nat
  baton : Nat
  epoch : Epoch
  /-- The model's own: the order in which batches were absorbed (R214). -/
  no : Nat := 0
  deriving DecidableEq, Repr

/-- A journal segment (R211): its epoch, the class state and the entries before the batch, and absorbed batches. -/
structure Segment where
  epoch : Epoch
  n : BitVec 32
  serial : BitVec 16
  saved : List (Nat × Track)
  absorbed : List DetHand
  bytes : Nat
  deriving DecidableEq, Repr

/-- One track class (R195, R196, R215). -/
structure TrkClass where
  n : BitVec 32 := 0
  serial : BitVec 16 := 0
  unjournaled : Bool := false
  segs : List Segment := []
  /-- Tracks an uncorrectable error freed, to be listed as DELETED (R223). -/
  freed : List (Nat × Track) := []
  batches : Nat := 0
  refused : Nat := 0
  recalled : Nat := 0
  maxCyc : Nat := 0
  excess : Nat := 0
  full : Nat := 0
  deriving DecidableEq, Repr

/-- A notice that the Relay passes on: its epoch, its TIME, and the SEQ values that the tracker settled with it (06_aurik_machine.md
R253). -/
structure Notice where
  epoch : Epoch
  time : DT64
  named : List Nat
  deriving DecidableEq, Repr

/-- One place of the intake: the notices merged there per frame, and the hand-off that follows, when one has arrived (R199). -/
structure TrkPlace where
  recalls : Tab Notice := []
  seals : Tab Notice := []
  hand : Option DetHand := none
  deriving DecidableEq, Repr

/-- What the Track Engine issues, in order (R209, R210): a record, or a notice passed on. -/
inductive TrkOut where
  | record (r : Rec)
  | notice (r : Rec)
  deriving DecidableEq, Repr

/-- A track queue token: a record's address and its header, or a notice (R209, 06_aurik_machine.md R249). -/
inductive TrkTok where
  | record (off : Nat) (addr : Nat) (r : Rec)
  | notice (r : Rec)
  deriving DecidableEq, Repr

/-- The Track Engine. -/
structure Trk where
  /-- Occupied table entries by number. -/
  table : Tab Track := []
  classes : Tab TrkClass := []
  /-- The intake's places, oldest first. -/
  intake : List TrkPlace := []
  outq : List TrkOut := []
  /-- Where the next record goes in the output area, and the records whose credit has not returned: offset, length. -/
  outPtr : Nat := 0
  outHeld : List (Nat × Nat) := []
  /-- Epochs of records issued whose notice was not passed on. -/
  issued : List Epoch := []
  /-- What the engine knows of the epochs of batches it was handed (R222). -/
  view : EpochView := []
  /-- The model's own: the number of batches absorbed so far. -/
  absorbNo : Nat := 0
  lost : Nat := 0
  deriving DecidableEq, Repr

/-! ### The Aurik machine (06_aurik_machine.md, 07_aurik_ops.md) and programs (10_programs.md) -/

/-- A tile in a data queue (R235, R236): its 32 rows, and the EPOCH, FLAGS and BATON of its tag. -/
structure Tile where
  data : List Byte
  epoch : Epoch := 0
  flags : Nat := 0
  baton : Nat := 0
  deriving DecidableEq, Repr

/-- An address register (R232). -/
structure AReg where
  value : Nat := 0
  base : Nat := 0
  step : Int := 0
  modulus : Nat := 0
  deriving DecidableEq, Repr

/-- A run of a macro-operation that has begun (07_aurik_ops.md R297): the tiles of its queue operands that it has taken and not freed, by
operand 0 A, 1 B, 2 C and by number, how many it has taken of each, and the number of tiles it has produced into the queue of D.
Log 6 (DESIGN CHOICE). -/
structure MacroRun where
  taken : Tab (Tab Tile) := []
  got : Tab Nat := []
  made : Nat := 0
  /-- The ATTEND batch entry that has begun and not finished: its number, its sequence, and LEN at its start
  (08_attention.md R318, R329). -/
  entry : Option (Nat × Nat × Nat) := none
  deriving DecidableEq, Repr

/-- One Lane (R232, R235, R265): registers, data queues, the next command of each stream, and its counts. -/
structure Lane where
  a : Tab AReg := []
  c : Tab Int := []
  /-- Bit i is K.i. -/
  k : Nat := 0
  dq : Tab (List Tile) := []
  apc : Nat := 0
  epc : Nat := 0
  /-- Runs of the command at hand that have completed (REPEAT, R233). -/
  arun : Nat := 0
  erun : Nat := 0
  acnt : Nat := 0
  ecnt : Nat := 0
  /-- Commands completed since the streams last started, by which the Lanes of a set are compared. -/
  apos : Nat := 0
  epos : Nat := 0
  /-- Interval time since which the stream waits (R261). -/
  waitA : Option Nat := none
  waitE : Option Nat := none
  run : Option MacroRun := none
  /-- The request queue to the KV Page Unit (R255): the streams whose command at hand is a request that is not answered. -/
  kvq : List Stream := []
  ce : Nat := 0
  ue : Nat := 0
  deriving DecidableEq, Repr

/-- One baton (R246, R262, 10_programs.md R381): 0 FREE, 1 OWNED, 2 LENT, 3 RETURNED, 4 ORPHAN; the record returned;
the output-area offset of a Track Engine record whose credit it holds; the slot of the program that took it. -/
structure Baton where
  state : Nat := 0
  addr : Nat := 0
  credit : Option Nat := none
  slot : Nat := 0
  deriving DecidableEq, Repr

/-- An entry of the band queue (R255): the token, and whether a RECALL behind it made it void (R252). -/
structure BandEntry where
  tok : BandTok
  isVoid : Bool := false
  deriving DecidableEq, Repr

/-- The open band context (R250). -/
structure Context where
  frame : Nat
  k : BitVec 32
  off : Nat
  epoch : Epoch
  deriving DecidableEq, Repr

/-- A PROG_LOAD or SLV_LOAD that its loader has taken (10_programs.md R370, R371): the image's place, the schedule slot,
and the descriptor's ring and index. -/
structure Load where
  addr : Nat
  len : Nat
  slot : Nat := 0
  ring : Nat
  didx : BitVec 32
  /-- The number the next heat had when the load was accepted (09_solver.md R361). -/
  heatNo : Nat := 0
  deriving DecidableEq, Repr

/-- An accepted EXCHANGE (10_programs.md R377 to R386). -/
structure Exchange where
  cancel : Bool
  fmask : Nat
  ring : Nat
  didx : BitVec 32
  /-- The switch has taken place; the old program is RETIRING. -/
  switched : Bool := false
  /-- The physical slot of the old program. -/
  oldSlot : Nat := 0
  deriving DecidableEq, Repr

/-- Program slots, loader, exchange and debug (10_programs.md). -/
structure Prog where
  /-- The image held by each of the two physical slots; a slot with no program is not listed. -/
  slots : Tab (List Byte) := []
  /-- The physical slot that is ACTIVE; the other one is STANDBY. -/
  active : Nat := 0
  /-- The state of STANDBY: 0 EMPTY, 1 LOADING, 2 READY, 3 RETIRING (R369). -/
  standby : Nat := 0
  /-- The physical slot of the program whose streams run. -/
  running : Nat := 0
  /-- A change of program is due, to that slot (R381), and the interval time since which it waits. -/
  change : Option Nat := none
  changeAt : Nat := 0
  load : Option Load := none
  reason : Nat := 0
  index : Nat := 0
  sched : Bool := false
  exch : Option Exchange := none
  fence : Tab (BitVec 32) := []
  /-- Highest K of a frame opened since reset. -/
  highK : Tab (BitVec 32) := []
  /-- Bands before the fence that are pending, with the epoch of the latest token of each (R383). -/
  pendSet : Tab (List (BitVec 32 × Epoch)) := []
  /-- Frames that have reached their fence, by bit (R384). -/
  reached : Nat := 0
  exchanges : Nat := 0
  changes : Nat := 0
  stopA : Bool := false
  stopE : Bool := false
  hit : Nat := 0
  /-- The place in the stream of the command that a step has ordered (R389): the number of commands completed before it since
  the streams last started. -/
  stepA : Option Nat := none
  stepE : Option Nat := none
  /-- A break unit with the place, likewise, of the command that it stopped and that may be issued after RESUME (R389). -/
  passA : Option (Nat × Nat) := none
  passE : Option (Nat × Nat) := none
  /-- The break unit that stopped each stream, and the place it stopped it at. -/
  byA : Option (Nat × Nat) := none
  byE : Option (Nat × Nat) := none
  /-- Interval time at which debug stopped a stream while none was stopped (R389). -/
  stopAt : Nat := 0
  deriving DecidableEq, Repr

/-- The Relay with the Lanes (R226 to R265). -/
structure Rly where
  /-- Physical Lanes of the current Lane set, by bit, fixed at the last BAND_OPEN (R228). -/
  laneSet : Nat := 0
  fenced : Nat := 0
  /-- Interval time at which each Lane was fenced last (00_scope.md R17). -/
  fencedAt : Tab Nat := []
  /-- Lanes that passed their self-test and rejoin at the next BAND_OPEN (R263). -/
  rejoin : Nat := 0
  lanes : Tab Lane := []
  decq : List Bool := []
  ctx : Option Context := none
  we : Epoch := 0
  wflags : Nat := 0
  /-- A record or tile of a recalled epoch has been merged into the context, which is void (R253). -/
  spoiled : Bool := false
  /-- Paths that the Lane with LID 0 has taken at COND 3 branches that another Lane has not passed: stream, place, run (R244). -/
  loops : List (Stream × Nat × Nat × Bool) := []
  bandq : List BandEntry := []
  trackq : List TrkTok := []
  batons : Tab Baton := []
  lastBaton : Nat := 255
  tracker : EpochView := []
  /-- Epochs sent to a destination since its previous notice of the frame (R253): 0 Track Engine, 1 Solver, 2 Actuation,
  3 report ring. -/
  sent : List (Nat × Epoch) := []
  bands : Nat := 0
  abandoned : Nat := 0
  voided : Nat := 0
  prog : Prog := {}
  deriving DecidableEq, Repr

/-! ### Attention (08_attention.md) -/

/-- A sequence (R306). -/
structure KvSeq where
  lens : Tab Nat := []
  tag : BitVec 32 := 0
  nglob : Nat := 0
  trim : Nat := 0
  bank : Nat := 0
  deriving DecidableEq, Repr

/-- A mutation of a sequence (R322): an append of `n` tokens at `pos` of a layer, a reset, which may have gone into the other bank
(R314), or a trim. -/
inductive KvKind where
  | append (layer n pos : Nat)
  | reset (tag : BitVec 32) (nglob : Nat) (other : Bool)
  | trim (pos : Nat)
  deriving DecidableEq, Repr

/-- An entry of the mutation log (R322), with the sequence's state before it, from which R323 rebuilds. -/
structure KvMut where
  cache : Nat
  seq : Nat
  epoch : Epoch
  /-- Its epoch is final or sealed. -/
  final : Bool
  kind : KvKind
  before : KvSeq
  /-- A RECALL removes it, and its sequence is not rebuilt yet (R329). -/
  gone : Bool := false
  deriving DecidableEq, Repr

/-- The KV Page Unit. Sequences have their absolute numbers (R304). -/
structure Kvp where
  seqs : Tab KvSeq := []
  /-- Pages of each cache that are not free, by number, each with the sequence, the bank and the page-table entry that it was taken for
  (R308). -/
  used : Tab (Tab (Nat × Nat × Nat)) := []
  /-- The mutation log, oldest first. -/
  log : List KvMut := []
  /-- Caches and sequences that a RECALL affects and whose rebuild waits for the ATTEND entry that reads them (R329). -/
  later : List (Nat × Nat) := []
  /-- Sequences whose rebuild runs (R323). -/
  rebuilding : List Nat := []
  /-- Caches a KVP_CLEAR named, by bit (R329). -/
  clear : Nat := 0
  rebuilds : Nat := 0
  refused : Nat := 0
  exhaust : Tab Nat := []
  emptyq : Tab Nat := []
  deriving DecidableEq, Repr

/-! ### The Solver Engine (09_solver.md) -/

/-- A heat (R345). `baton` is a program heat's, `host` a host heat's ring and descriptor index. -/
structure Heat where
  no : Nat
  addr : Nat
  baton : Option Nat
  host : Option (Nat × BitVec 32)
  /-- The record's 64 bytes as read when the heat entered the intake. -/
  head : List Byte
  epoch : Epoch
  flags : Nat
  /-- NPROB as taken, and the problem entries read at the start. -/
  nprob : Nat := 0
  entries : List Byte := []
  /-- The next problem to deal, and problems to restart (R361). -/
  next : Nat := 0
  redo : List Nat := []
  /-- CODE and PFLAGS of each problem whose result is written. -/
  results : Tab (Nat × Nat) := []
  startAt : Nat := 0
  /-- n of its schedule, as at the start. -/
  order : Nat := 0
  /-- CANCEL was read as 1 (13_rings.md R494). -/
  cancelled : Bool := false
  deriving DecidableEq, Repr

/-- A problem that a unit runs: the heat's number, the problem, and the interval time it started. -/
structure UnitRun where
  heat : Nat
  prob : Nat
  startAt : Nat
  deriving DecidableEq, Repr

/-- The Solver Engine. -/
structure Slv where
  intake : List Heat := []
  /-- Heats started and not ended, oldest first. -/
  heats : List Heat := []
  heatNo : Nat := 0
  units : Tab UnitRun := []
  fenced : Nat := 0
  /-- Interval time at which each unit was fenced last (00_scope.md R17). -/
  fencedAt : Tab Nat := []
  view : EpochView := []
  /-- Notices the Relay has passed on and the Solver has not taken (R334): a RECALL or not, and the notice. -/
  notices : List (Bool × Notice) := []
  /-- Epochs of HEAT_DONE records posted to the report ring of which no notice has followed them (R334). -/
  posted : List Epoch := []
  /-- Notices seen and not posted or dropped yet: heats of epochs that they concern have still to post their HEAT_DONE (01_line.md R44). -/
  owed : List (Bool × Notice) := []
  /-- Schedule bodies by slot (R340). -/
  scheds : Tab (List Byte) := []
  load : Option Load := none
  endedHeats : Nat := 0
  refused : Nat := 0
  voided : Nat := 0
  tiny : Nat := 0
  satp : Nat := 0
  expired : Nat := 0
  cut : Nat := 0
  deriving DecidableEq, Repr

/-! ### Verdicts and actuation (11_actuation.md) -/

/-- What created an entry (R400). -/
inductive Origin where
  | verdict | host | expect
  deriving DecidableEq, Repr

/-- Whether a binding is provisional, settled (final or sealed), or void (R406, R408). -/
inductive BindState where
  | provisional | settled | void
  deriving DecidableEq, Repr

/-- The binding of an entry (R400, R406). -/
structure Binding where
  fire : Bool
  epoch : Epoch
  flags : Nat
  mark : BitVec 32
  /-- The slot of the program that ran the verdict; none for a host action. -/
  slot : Option Nat
  state : BindState
  /-- It is held provisional by ABS_DEF (R406). -/
  absent : Bool
  deriving DecidableEq, Repr

/-- The states of R401. -/
inductive EntryState where
  | opened | armed | committed | firing
  deriving DecidableEq, Repr

/-- One entry of the schedule (R400). -/
structure Entry where
  no : Nat
  out : Nat
  position : Bool
  frame : Nat := 0
  trig : BitVec 64
  key : Nat := 0
  width : Nat := 0
  origin : Origin
  bind : Option Binding := none
  nbind : Nat := 0
  state : EntryState := .opened
  /-- The decision and CAUSE fixed at commit (R409). -/
  fire : Bool := false
  cause : Nat := 0
  late : Bool := false
  merged : Bool := false
  lateReq : Bool := false
  /-- Its edge fell due while the pin followed no entry (R421, R428), and AFLAGS.FLOOD. -/
  mute : Bool := false
  flood : Bool := false
  /-- A forward step of device time passed its guard point and edge instant (R425). -/
  skipped : Bool := false
  /-- Lateness at commit, in ns (R414). -/
  lateness : Nat := 0
  /-- The crossing time of a POSITION entry, as computed at the latest tick (R410). -/
  cross : Option DT64 := none
  /-- The edge start, in device and interval time, and P there. -/
  edge : DT64 := 0
  edgeAt : Nat := 0
  firedPos : WP48 := 0
  deriving DecidableEq, Repr

/-- The phase of an output's pulse (R411). -/
inductive Drive where
  | idle | full | hold
  deriving DecidableEq, Repr

/-- One ACT output (R399, R411, R429, R431). -/
structure Output where
  drive : Drive := .idle
  /-- Interval time at which the phase ends, and at which the hold phase began. -/
  phaseEnd : Nat := 0
  holdFrom : Nat := 0
  trip : Bool := false
  fault : Bool := false
  /-- Frames whose absence resolved entries of the output, by bit, while they stay absent (R423). -/
  mabs : Nat := 0
  /-- The end of the hold after an uncorrectable schedule error, in interval time (R431). -/
  ueUntil : Option Nat := none
  /-- The expectation generator's last P(T_conf), for PITCH mode (R407). -/
  genPos : Option WP48 := none
  /-- Stamps of recorded CAP edges not yet confirmed (R407). -/
  genCap : List DT64 := []
  deriving DecidableEq, Repr

/-- A record accepted by the intake (R415): its bytes 0 to 31 with its requests, the program slot, whether an ACT_ARM or an INJECT brought
it, and whether a program RETIRING under CANCEL emitted it (R426). -/
structure Intake where
  data : List Byte
  slot : Option Nat
  host : Bool
  dead : Bool := false
  deriving DecidableEq, Repr

/-- STATE of ACT.STAT (R433). -/
inductive ActState where
  | off | run | flood | safe
  deriving DecidableEq, Repr

/-- The Verdict and Actuation Unit. -/
structure Act where
  intake : List Intake := []
  entries : List Entry := []
  entryNo : Nat := 0
  outs : Tab Output := []
  /-- Notices the Relay has passed on and the unit has not taken (R408): a RECALL or not, the epoch, and the number of records of the
  intake that arrived before it and still stand there. -/
  notices : List (Bool × Epoch × Nat) := []
  /-- What the unit knows of the epochs of records and notices it received (01_line.md R56). -/
  view : EpochView := []
  /-- The latest sealed SEQ of each frame (R408). -/
  sealed : Tab Nat := []
  state : ActState := .off
  /-- FLOOD was entered while the outputs stand at SAFE until RUN (R421, R428). -/
  floodIn : Bool := false
  lstop : Bool := true
  lstopCause : Nat := 1
  fired : Nat := 0
  defaults : Nat := 0
  flooded : Nat := 0
  badReq : Nat := 0
  cancelled : Nat := 0
  late : Nat := 0
  lateVerdict : Nat := 0
  deriving DecidableEq, Repr

/-! ### The block -/

/-- The state of the Haljo 24. Log 7 (DESIGN CHOICE). -/
structure State where
  /-- The commands that wait, first in, first out. -/
  pending : List Instr
  /-- Setup registers that differ from their reset value, by offset in setup space (00_scope.md R14). Read-only fields
  that follow an engine are computed from its state. -/
  regs : Tab Word
  /-- Written low halves of 64-bit registers that wait for their high half, by offset (R15). -/
  holdLow : Tab Word
  /-- High halves latched by a host read of the low half, by offset of the low half (R15). -/
  latchHi : Tab Word
  /-- DRAM, scratchpads and Pan SRAM by device address (01_line.md R27), in canonical form. -/
  mem : List Host.Cell
  /-- The model's own: the number of free values used so far. -/
  freeCtr : Nat
  /-- Interval time since the release of reset, in ticks of 0.25 ns (00_scope.md R8, 01_line.md R59). -/
  now : Nat
  /-- What the block has sent, oldest first: the model's own record of effects at the ports. -/
  out : List Out
  hl : HostLink
  flt : Faults
  aon : Aon
  tk : Tk
  ing : Ingest
  mot : Tab Motion
  pan : Pan
  trk : Trk
  rly : Rly
  kvp : Kvp
  slv : Slv
  act : Act
  deriving DecidableEq, Repr

/-- The photo-finish units as they start, with the levels at their pins: no level is validated yet, so that of a pin at 1 is (R69, R100). -/
def capsAt (pin : Nat → Bool) : Tab Cap :=
  (List.range 32).filterMap fun n => if pin n then some (n, { pin := true, cands := [⟨0, true, 0, true, false, true⟩] }) else none

/-- The block right after a power-on reset is released (00_scope.md R18, 15_startup.md R547): every setup register at its
reset value, memory with nothing listed, every engine as its chapter's section From reset says, start-up about to
begin; with nothing connected at its inputs, of which the open pairs read 1. Log 8 (DESIGN CHOICE), 157 (DEDUCED). -/
def State.reset : State where
  pending := []
  regs := []
  holdLow := []
  latchHi := []
  mem := []
  freeCtr := 0
  now := 0
  out := []
  hl := {}
  flt := {}
  aon := {}
  tk := { caps := capsAt fun n => decide (24 ≤ n) }
  ing := {}
  mot := []
  pan := {}
  trk := {}
  rly := {}
  kvp := {}
  slv := {}
  act := {}

end Sys2Proof.Machine
end

