-- ==== Sys2Proof/Machine/Regs.lean ====
section
/-! DEFINITION. The stored fields of the setup registers by name: BLOCK.NAME.FIELD of the tables of spec/ reads as
`s.blockName_FIELD`, with the instance numbers where the register has instances (00_scope.md R12, R13). -/

namespace Sys2Proof.Machine

open Sys2Proof

/-- The stored word at an offset of setup space; an unlisted one is at its reset value (00_scope.md R19). -/
def State.regW (s : State) (off : Nat) : Word := Tab.get (resetWord off) off s.regs

/-- A stored 64-bit register. -/
def State.reg64 (s : State) (off : Nat) : Nat := (s.regW off).toNat + 2 ^ 32 * (s.regW (off + 4)).toNat

/-- Bits hi..lo of a stored register. -/
def State.fld (s : State) (r : Reg) (i j hi lo : Nat) : Nat := bits (s.regW (r.off i j)).toNat hi lo

/-- TK.CTRL.DOMAIN (02_timekeeper.md R100). -/
def State.tkCtrl_DOMAIN (s : State) : Nat := s.fld .tkCtrl 0 0 23 16
/-- TK.CTRL.TRANSPORT (02_timekeeper.md R100). -/
def State.tkCtrl_TRANSPORT (s : State) : Nat := s.fld .tkCtrl 0 0 9 8
/-- TK.CTRL.DELAY_MECH (02_timekeeper.md R100). -/
def State.tkCtrl_DELAY_MECH (s : State) : Bool := s.fld .tkCtrl 0 0 7 7 = 1
/-- TK.CTRL.TC_MODE (02_timekeeper.md R100). -/
def State.tkCtrl_TC_MODE (s : State) : Bool := s.fld .tkCtrl 0 0 6 6 = 1
/-- TK.CTRL.TC_EN (02_timekeeper.md R100). -/
def State.tkCtrl_TC_EN (s : State) : Bool := s.fld .tkCtrl 0 0 5 5 = 1
/-- TK.CTRL.RX_PORT (02_timekeeper.md R100). -/
def State.tkCtrl_RX_PORT (s : State) : Nat := s.fld .tkCtrl 0 0 4 3
/-- TK.CTRL.SOURCE (02_timekeeper.md R100). -/
def State.tkCtrl_SOURCE (s : State) : Nat := s.fld .tkCtrl 0 0 1 0
/-- TK.FS_LIMIT.LIMIT_NS (02_timekeeper.md R100). -/
def State.tkFsLimit_LIMIT_NS (s : State) : Nat := s.fld .tkFsLimit 0 0 29 0
/-- TK.PACER_GAIN.KP (02_timekeeper.md R100). -/
def State.tkPacerGain_KP (s : State) : Nat := s.fld .tkPacerGain 0 0 31 16
/-- TK.PACER_GAIN.KI (02_timekeeper.md R100). -/
def State.tkPacerGain_KI (s : State) : Nat := s.fld .tkPacerGain 0 0 15 0
/-- TK.PACER_LIMIT.PPB (02_timekeeper.md R100). -/
def State.tkPacerLimit_PPB (s : State) : Nat := s.fld .tkPacerLimit 0 0 19 0
/-- TK.LOCK_CFG.THRESH_NS (02_timekeeper.md R100). -/
def State.tkLockCfg_THRESH_NS (s : State) : Nat := s.fld .tkLockCfg 0 0 16 0
/-- TK.HOLD_CFG.LIMIT_US (02_timekeeper.md R100). -/
def State.tkHoldCfg_LIMIT_US (s : State) : Nat := s.fld .tkHoldCfg 0 0 31 16
/-- TK.HOLD_CFG.TIMEOUT_MS (02_timekeeper.md R100). -/
def State.tkHoldCfg_TIMEOUT_MS (s : State) : Nat := s.fld .tkHoldCfg 0 0 15 0
/-- TK.ERA.ERA (02_timekeeper.md R100). -/
def State.tkEra_ERA (s : State) : Nat := s.fld .tkEra 0 0 15 0
/-- TK.PTP_CFG.ANN_TIMEOUT (02_timekeeper.md R100). -/
def State.tkPtpCfg_ANN_TIMEOUT (s : State) : Nat := s.fld .tkPtpCfg 0 0 15 12
/-- TK.PTP_CFG.LOG_PDELAY (02_timekeeper.md R100). -/
def State.tkPtpCfg_LOG_PDELAY (s : State) : Int := signed 8 (s.fld .tkPtpCfg 0 0 7 0)
/-- TK.REPORT.EN (02_timekeeper.md R100). -/
def State.tkReport_EN (s : State) : Bool := s.fld .tkReport 0 0 8 8 = 1
/-- TK.REPORT.RING (02_timekeeper.md R100). -/
def State.tkReport_RING (s : State) : Nat := s.fld .tkReport 0 0 5 0
/-- TK.PORT_LAT.ING (02_timekeeper.md R100). -/
def State.tkPortLat_ING (s : State) (n : Nat) : Nat := s.fld .tkPortLat n 0 31 16
/-- TK.PORT_LAT.EGR (02_timekeeper.md R100). -/
def State.tkPortLat_EGR (s : State) (n : Nat) : Nat := s.fld .tkPortLat n 0 15 0
/-- TK.ASYM.ASYM (02_timekeeper.md R100). -/
def State.tkAsym_ASYM (s : State) (n : Nat) : Int := signed 32 (s.fld .tkAsym n 0 31 0)
/-- TK.CAP_CFG.SLOT (02_timekeeper.md R100). -/
def State.tkCapCfg_SLOT (s : State) (n : Nat) : Nat := s.fld .tkCapCfg n 0 21 16
/-- TK.CAP_CFG.FILTER (02_timekeeper.md R100). -/
def State.tkCapCfg_FILTER (s : State) (n : Nat) : Nat := s.fld .tkCapCfg n 0 11 4
/-- TK.CAP_CFG.EDGE (02_timekeeper.md R100). -/
def State.tkCapCfg_EDGE (s : State) (n : Nat) : Nat := s.fld .tkCapCfg n 0 2 1
/-- TK.CAP_CFG.EN (02_timekeeper.md R100). -/
def State.tkCapCfg_EN (s : State) (n : Nat) : Bool := s.fld .tkCapCfg n 0 0 0 = 1
/-- TK.CAP_COMP.DELAY (02_timekeeper.md R100). -/
def State.tkCapComp_DELAY (s : State) (n : Nat) : Int := signed 16 (s.fld .tkCapComp n 0 15 0)
/-- TK.CAP_STALL.GATE_FRAME (02_timekeeper.md R100). -/
def State.tkCapStall_GATE_FRAME (s : State) (n : Nat) : Nat := s.fld .tkCapStall n 0 22 20
/-- TK.CAP_STALL.GATE_EN (02_timekeeper.md R100). -/
def State.tkCapStall_GATE_EN (s : State) (n : Nat) : Bool := s.fld .tkCapStall n 0 17 17 = 1
/-- TK.CAP_STALL.EN (02_timekeeper.md R100). -/
def State.tkCapStall_EN (s : State) (n : Nat) : Bool := s.fld .tkCapStall n 0 16 16 = 1
/-- TK.CAP_STALL.STALL_MS (02_timekeeper.md R100). -/
def State.tkCapStall_STALL_MS (s : State) (n : Nat) : Nat := s.fld .tkCapStall n 0 13 0
/-- HL.CTRL.BEACON_S (12_imcel.md R476). -/
def State.hlCtrl_BEACON_S (s : State) : Nat := s.fld .hlCtrl 0 0 15 8
/-- HL.CTRL.PORT_EN (12_imcel.md R476). -/
def State.hlCtrl_PORT_EN (s : State) : Nat := s.fld .hlCtrl 0 0 1 0
/-- HL.SETTLE.LIMIT_US (12_imcel.md R476). -/
def State.hlSettle_LIMIT_US (s : State) : Nat := s.fld .hlSettle 0 0 15 0
/-- HL.RETX.RTO_US (12_imcel.md R476). -/
def State.hlRetx_RTO_US (s : State) : Nat := s.fld .hlRetx 0 0 31 16
/-- HL.RETX.MAX_TRY (12_imcel.md R476). -/
def State.hlRetx_MAX_TRY (s : State) : Nat := s.fld .hlRetx 0 0 3 0
/-- HL.KEEPALIVE.MS (12_imcel.md R476). -/
def State.hlKeepalive_MS (s : State) : Nat := s.fld .hlKeepalive 0 0 15 0
/-- HL.POLICY.FULL_OK (12_imcel.md R476). -/
def State.hlPolicy_FULL_OK (s : State) : Nat := s.fld .hlPolicy 0 0 15 8
/-- HL.POLICY.OPEN_OK (12_imcel.md R476). -/
def State.hlPolicy_OPEN_OK (s : State) : Nat := s.fld .hlPolicy 0 0 7 0
/-- HL.POLL.US (13_rings.md R503). -/
def State.hlPoll_US (s : State) : Nat := s.fld .hlPoll 0 0 13 0
/-- HL.P_CFG.VID (12_imcel.md R476). -/
def State.hlPCfg_VID (s : State) (n : Nat) : Nat := s.fld .hlPCfg n 0 15 4
/-- HL.P_CFG.VLAN_EN (12_imcel.md R476). -/
def State.hlPCfg_VLAN_EN (s : State) (n : Nat) : Bool := s.fld .hlPCfg n 0 3 3 = 1
/-- HL.P_CFG.JUMBO (12_imcel.md R476). -/
def State.hlPCfg_JUMBO (s : State) (n : Nat) : Bool := s.fld .hlPCfg n 0 2 2 = 1
/-- HL.P_CFG.SPEED (12_imcel.md R476). -/
def State.hlPCfg_SPEED (s : State) (n : Nat) : Nat := s.fld .hlPCfg n 0 1 0
/-- HL.P_ADDR4.ADDR4 (12_imcel.md R476). -/
def State.hlPAddr4_ADDR4 (s : State) (n : Nat) : Nat := s.fld .hlPAddr4 n 0 31 0
/-- HL.P_PREFIX.LEN4 (12_imcel.md R476). -/
def State.hlPPrefix_LEN4 (s : State) (n : Nat) : Nat := s.fld .hlPPrefix n 0 13 8
/-- HL.P_PREFIX.LEN6 (12_imcel.md R476). -/
def State.hlPPrefix_LEN6 (s : State) (n : Nat) : Nat := s.fld .hlPPrefix n 0 7 0
/-- HL.P_ADDR6.ADDR6 (12_imcel.md R476). -/
def State.hlPAddr6_ADDR6 (s : State) (n : Nat) : Nat :=
  s.reg64 (Reg.off .hlPAddr6 n 0) + 2 ^ 64 * s.reg64 (Reg.off .hlPAddr6 n 0 + 8)
/-- HL.RING_CFG.EN (13_rings.md R503). -/
def State.hlRingCfg_EN (s : State) (n : Nat) : Bool := s.fld .hlRingCfg n 0 31 31 = 1
/-- HL.RING_CFG.SESSION (13_rings.md R503). -/
def State.hlRingCfg_SESSION (s : State) (n : Nat) : Nat := s.fld .hlRingCfg n 0 26 24
/-- HL.RING_CFG.LOG2SIZE (13_rings.md R503). -/
def State.hlRingCfg_LOG2SIZE (s : State) (n : Nat) : Nat := s.fld .hlRingCfg n 0 20 16
/-- HL.RING_CFG.CRING (13_rings.md R503). -/
def State.hlRingCfg_CRING (s : State) (n : Nat) : Nat := s.fld .hlRingCfg n 0 13 8
/-- HL.RING_BASE.BASE (13_rings.md R503). -/
def State.hlRingBase_BASE (s : State) (n : Nat) : Nat := s.reg64 (Reg.off .hlRingBase n 0)
/-- HL.RING_DBADDR.DBADDR (13_rings.md R503). -/
def State.hlRingDbaddr_DBADDR (s : State) (n : Nat) : Nat := s.reg64 (Reg.off .hlRingDbaddr n 0)
/-- HL.RING_DIADDR.DIADDR (13_rings.md R503). -/
def State.hlRingDiaddr_DIADDR (s : State) (n : Nat) : Nat := s.reg64 (Reg.off .hlRingDiaddr n 0)
/-- HL.RING_GEN.GEN (13_rings.md R503). -/
def State.hlRingGen_GEN (s : State) (n : Nat) : Nat := s.fld .hlRingGen n 0 15 0
/-- SSP.CTRL.SLOT (03_sensor_ports.md R152). -/
def State.sspCtrl_SLOT (s : State) (n : Nat) : Nat := s.fld .sspCtrl n 0 29 24
/-- SSP.CTRL.STREAM_ID (03_sensor_ports.md R152). -/
def State.sspCtrl_STREAM_ID (s : State) (n : Nat) : Nat := s.fld .sspCtrl n 0 23 16
/-- SSP.CTRL.AGG (03_sensor_ports.md R152). -/
def State.sspCtrl_AGG (s : State) (n : Nat) : Nat := s.fld .sspCtrl n 0 13 12
/-- SSP.CTRL.MAX_RATE (03_sensor_ports.md R152). -/
def State.sspCtrl_MAX_RATE (s : State) (n : Nat) : Nat := s.fld .sspCtrl n 0 11 8
/-- SSP.CTRL.HS_UPLINK (03_sensor_ports.md R152). -/
def State.sspCtrl_HS_UPLINK (s : State) (n : Nat) : Bool := s.fld .sspCtrl n 0 5 5 = 1
/-- SSP.CTRL.KIND (03_sensor_ports.md R152). -/
def State.sspCtrl_KIND (s : State) (n : Nat) : Bool := s.fld .sspCtrl n 0 4 4 = 1
/-- SSP.CTRL.EN (03_sensor_ports.md R152). -/
def State.sspCtrl_EN (s : State) (n : Nat) : Bool := s.fld .sspCtrl n 0 0 0 = 1
/-- SSP.POCXP.BUDGET (03_sensor_ports.md R152). -/
def State.sspPocxp_BUDGET (s : State) (n : Nat) : Nat := s.fld .sspPocxp n 0 8 4
/-- SSP.POCXP.EN (03_sensor_ports.md R152). -/
def State.sspPocxp_EN (s : State) (n : Nat) : Bool := s.fld .sspPocxp n 0 0 0 = 1
/-- SSP.LAT.NS (03_sensor_ports.md R152). -/
def State.sspLat_NS (s : State) (n : Nat) : Nat := s.fld .sspLat n 0 23 0
/-- SSP.TRIG_CFG.TOL (03_sensor_ports.md R152). -/
def State.sspTrigCfg_TOL (s : State) (n : Nat) : Nat := s.fld .sspTrigCfg n 0 31 22
/-- SSP.TRIG_CFG.CAP (03_sensor_ports.md R152). -/
def State.sspTrigCfg_CAP (s : State) (n : Nat) : Nat := s.fld .sspTrigCfg n 0 20 16
/-- SSP.TRIG_CFG.FRAME (03_sensor_ports.md R152). -/
def State.sspTrigCfg_FRAME (s : State) (n : Nat) : Nat := s.fld .sspTrigCfg n 0 14 12
/-- SSP.TRIG_CFG.MODE (03_sensor_ports.md R152). -/
def State.sspTrigCfg_MODE (s : State) (n : Nat) : Nat := s.fld .sspTrigCfg n 0 2 0
/-- SSP.TRIG_PITCH.PITCH (03_sensor_ports.md R152). -/
def State.sspTrigPitch_PITCH (s : State) (n : Nat) : Nat := s.fld .sspTrigPitch n 0 31 0
/-- SSP.TRIG_DELAY.NS (03_sensor_ports.md R152). -/
def State.sspTrigDelay_NS (s : State) (n : Nat) : Nat := s.fld .sspTrigDelay n 0 23 0
/-- SEN.CTRL.SPEED (03_sensor_ports.md R152). -/
def State.senCtrl_SPEED (s : State) (n : Nat) : Nat := s.fld .senCtrl n 0 3 1
/-- SEN.CTRL.EN (03_sensor_ports.md R152). -/
def State.senCtrl_EN (s : State) (n : Nat) : Bool := s.fld .senCtrl n 0 0 0 = 1
/-- SEN.ADDR4.ADDR4 (03_sensor_ports.md R152). -/
def State.senAddr4_ADDR4 (s : State) (n : Nat) : Nat := s.fld .senAddr4 n 0 31 0
/-- SEN.ADDR6.ADDR6 (03_sensor_ports.md R152). -/
def State.senAddr6_ADDR6 (s : State) (n : Nat) : Nat :=
  s.reg64 (Reg.off .senAddr6 n 0) + 2 ^ 64 * s.reg64 (Reg.off .senAddr6 n 0 + 8)
/-- SEN.LAT.NS (03_sensor_ports.md R152). -/
def State.senLat_NS (s : State) (n : Nat) : Nat := s.fld .senLat n 0 23 0
/-- SEN.STREAM_CFG.SLOT (03_sensor_ports.md R152). -/
def State.senStreamCfg_SLOT (s : State) (n : Nat) (m : Nat) : Nat := s.fld .senStreamCfg n m 13 8
/-- SEN.STREAM_CFG.KIND (03_sensor_ports.md R152). -/
def State.senStreamCfg_KIND (s : State) (n : Nat) (m : Nat) : Bool := s.fld .senStreamCfg n m 3 3 = 1
/-- SEN.STREAM_CFG.TIME_SRC (03_sensor_ports.md R152). -/
def State.senStreamCfg_TIME_SRC (s : State) (n : Nat) (m : Nat) : Bool := s.fld .senStreamCfg n m 2 2 = 1
/-- SEN.STREAM_CFG.PROTO (03_sensor_ports.md R152). -/
def State.senStreamCfg_PROTO (s : State) (n : Nat) (m : Nat) : Bool := s.fld .senStreamCfg n m 1 1 = 1
/-- SEN.STREAM_CFG.EN (03_sensor_ports.md R152). -/
def State.senStreamCfg_EN (s : State) (n : Nat) (m : Nat) : Bool := s.fld .senStreamCfg n m 0 0 = 1
/-- SEN.STREAM_PORTS.SPORT (03_sensor_ports.md R152). -/
def State.senStreamPorts_SPORT (s : State) (n : Nat) (m : Nat) : Nat := s.fld .senStreamPorts n m 31 16
/-- SEN.STREAM_PORTS.DPORT (03_sensor_ports.md R152). -/
def State.senStreamPorts_DPORT (s : State) (n : Nat) (m : Nat) : Nat := s.fld .senStreamPorts n m 15 0
/-- SEN.STREAM_GROUP4.GROUP4 (03_sensor_ports.md R152). -/
def State.senStreamGroup4_GROUP4 (s : State) (n : Nat) (m : Nat) : Nat := s.fld .senStreamGroup4 n m 31 0
/-- SEN.STREAM_SRC.SRC (03_sensor_ports.md R152). -/
def State.senStreamSrc_SRC (s : State) (n : Nat) (m : Nat) : Nat :=
  s.reg64 (Reg.off .senStreamSrc n m) + 2 ^ 64 * s.reg64 (Reg.off .senStreamSrc n m + 8)
/-- MP.ENC_CFG.SLOT (03_sensor_ports.md R152). -/
def State.mpEncCfg_SLOT (s : State) (n : Nat) : Nat := s.fld .mpEncCfg n 0 29 24
/-- MP.ENC_CFG.FILTER (03_sensor_ports.md R152). -/
def State.mpEncCfg_FILTER (s : State) (n : Nat) : Nat := s.fld .mpEncCfg n 0 19 12
/-- MP.ENC_CFG.BATCH_US (03_sensor_ports.md R152). -/
def State.mpEncCfg_BATCH_US (s : State) (n : Nat) : Nat := s.fld .mpEncCfg n 0 10 4
/-- MP.ENC_CFG.Z_EN (03_sensor_ports.md R152). -/
def State.mpEncCfg_Z_EN (s : State) (n : Nat) : Bool := s.fld .mpEncCfg n 0 3 3 = 1
/-- MP.ENC_CFG.INV (03_sensor_ports.md R152). -/
def State.mpEncCfg_INV (s : State) (n : Nat) : Bool := s.fld .mpEncCfg n 0 2 2 = 1
/-- MP.ENC_CFG.ELEC (03_sensor_ports.md R152). -/
def State.mpEncCfg_ELEC (s : State) (n : Nat) : Bool := s.fld .mpEncCfg n 0 1 1 = 1
/-- MP.ENC_CFG.EN (03_sensor_ports.md R152). -/
def State.mpEncCfg_EN (s : State) (n : Nat) : Bool := s.fld .mpEncCfg n 0 0 0 = 1
/-- MP.ENC_STALL.GATE_FRAME (03_sensor_ports.md R152). -/
def State.mpEncStall_GATE_FRAME (s : State) (n : Nat) : Nat := s.fld .mpEncStall n 0 22 20
/-- MP.ENC_STALL.GATE_EN (03_sensor_ports.md R152). -/
def State.mpEncStall_GATE_EN (s : State) (n : Nat) : Bool := s.fld .mpEncStall n 0 17 17 = 1
/-- MP.ENC_STALL.EN (03_sensor_ports.md R152). -/
def State.mpEncStall_EN (s : State) (n : Nat) : Bool := s.fld .mpEncStall n 0 16 16 = 1
/-- MP.ENC_STALL.STALL_MS (03_sensor_ports.md R152). -/
def State.mpEncStall_STALL_MS (s : State) (n : Nat) : Nat := s.fld .mpEncStall n 0 13 0
/-- MP.SPI_CFG.EN (03_sensor_ports.md R152). -/
def State.mpSpiCfg_EN (s : State) (n : Nat) : Bool := s.fld .mpSpiCfg n 0 31 31 = 1
/-- MP.SPI_CFG.SLOT (03_sensor_ports.md R152). -/
def State.mpSpiCfg_SLOT (s : State) (n : Nat) : Nat := s.fld .mpSpiCfg n 0 29 24
/-- MP.SPI_CFG.RX_DELAY (03_sensor_ports.md R152). -/
def State.mpSpiCfg_RX_DELAY (s : State) (n : Nat) : Nat := s.fld .mpSpiCfg n 0 21 16
/-- MP.SPI_CFG.MODE (03_sensor_ports.md R152). -/
def State.mpSpiCfg_MODE (s : State) (n : Nat) : Bool := s.fld .mpSpiCfg n 0 15 15 = 1
/-- MP.SPI_CFG.CLK_KHZ (03_sensor_ports.md R152). -/
def State.mpSpiCfg_CLK_KHZ (s : State) (n : Nat) : Nat := s.fld .mpSpiCfg n 0 14 0
/-- MP.SPI_XACT.TRIG (03_sensor_ports.md R152). -/
def State.mpSpiXact_TRIG (s : State) (n : Nat) : Nat := s.fld .mpSpiXact n 0 17 16
/-- MP.SPI_XACT.RD_LEN (03_sensor_ports.md R152). -/
def State.mpSpiXact_RD_LEN (s : State) (n : Nat) : Nat := s.fld .mpSpiXact n 0 13 8
/-- MP.SPI_XACT.CMD_LEN (03_sensor_ports.md R152). -/
def State.mpSpiXact_CMD_LEN (s : State) (n : Nat) : Nat := s.fld .mpSpiXact n 0 2 0
/-- MP.SPI_CMD.CMD (03_sensor_ports.md R152). -/
def State.mpSpiCmd_CMD (s : State) (n : Nat) : Nat := s.fld .mpSpiCmd n 0 31 0
/-- MP.SPI_PERIOD.NS (03_sensor_ports.md R152). -/
def State.mpSpiPeriod_NS (s : State) (n : Nat) : Nat := s.fld .mpSpiPeriod n 0 26 0
/-- MP.SPI_STALL.EN (03_sensor_ports.md R152). -/
def State.mpSpiStall_EN (s : State) (n : Nat) : Bool := s.fld .mpSpiStall n 0 16 16 = 1
/-- MP.SPI_STALL.STALL_MS (03_sensor_ports.md R152). -/
def State.mpSpiStall_STALL_MS (s : State) (n : Nat) : Nat := s.fld .mpSpiStall n 0 13 0
/-- MP.I2C_CFG.STRETCH_MS (03_sensor_ports.md R152). -/
def State.mpI2cCfg_STRETCH_MS (s : State) (n : Nat) : Nat := s.fld .mpI2cCfg n 0 15 8
/-- MP.I2C_CFG.SPEED (03_sensor_ports.md R152). -/
def State.mpI2cCfg_SPEED (s : State) (n : Nat) : Bool := s.fld .mpI2cCfg n 0 1 1 = 1
/-- MP.I2C_CFG.EN (03_sensor_ports.md R152). -/
def State.mpI2cCfg_EN (s : State) (n : Nat) : Bool := s.fld .mpI2cCfg n 0 0 0 = 1
/-- MOT.CTRL.IMU_SLOT (04_motion_pan.md R192). -/
def State.motCtrl_IMU_SLOT (s : State) (n : Nat) : Nat := s.fld .motCtrl n 0 29 24
/-- MOT.CTRL.ENC_SLOT (04_motion_pan.md R192). -/
def State.motCtrl_ENC_SLOT (s : State) (n : Nat) : Nat := s.fld .motCtrl n 0 21 16
/-- MOT.CTRL.REPORT (04_motion_pan.md R192). -/
def State.motCtrl_REPORT (s : State) (n : Nat) : Bool := s.fld .motCtrl n 0 3 3 = 1
/-- MOT.CTRL.DIR (04_motion_pan.md R192). -/
def State.motCtrl_DIR (s : State) (n : Nat) : Bool := s.fld .motCtrl n 0 2 2 = 1
/-- MOT.CTRL.IMU_EN (04_motion_pan.md R192). -/
def State.motCtrl_IMU_EN (s : State) (n : Nat) : Bool := s.fld .motCtrl n 0 1 1 = 1
/-- MOT.CTRL.EN (04_motion_pan.md R192). -/
def State.motCtrl_EN (s : State) (n : Nat) : Bool := s.fld .motCtrl n 0 0 0 = 1
/-- MOT.SCALE.SCALE (04_motion_pan.md R192). -/
def State.motScale_SCALE (s : State) (n : Nat) : Nat := s.fld .motScale n 0 31 0
/-- MOT.IMU_FMT.NEG (04_motion_pan.md R192). -/
def State.motImuFmt_NEG (s : State) (n : Nat) : Bool := s.fld .motImuFmt n 0 9 9 = 1
/-- MOT.IMU_FMT.BE (04_motion_pan.md R192). -/
def State.motImuFmt_BE (s : State) (n : Nat) : Bool := s.fld .motImuFmt n 0 8 8 = 1
/-- MOT.IMU_FMT.OFFSET (04_motion_pan.md R192). -/
def State.motImuFmt_OFFSET (s : State) (n : Nat) : Nat := s.fld .motImuFmt n 0 4 0
/-- MOT.IMU_SCALE.IMU_SCALE (04_motion_pan.md R192). -/
def State.motImuScale_IMU_SCALE (s : State) (n : Nat) : Int := signed 32 (s.fld .motImuScale n 0 31 0)
/-- MOT.GAIN_A.GP (04_motion_pan.md R192). -/
def State.motGainA_GP (s : State) (n : Nat) : Nat := s.fld .motGainA n 0 31 16
/-- MOT.GAIN_A.GV (04_motion_pan.md R192). -/
def State.motGainA_GV (s : State) (n : Nat) : Nat := s.fld .motGainA n 0 15 0
/-- MOT.GAIN_B.GA (04_motion_pan.md R192). -/
def State.motGainB_GA (s : State) (n : Nat) : Nat := s.fld .motGainB n 0 31 16
/-- MOT.GAIN_B.GI (04_motion_pan.md R192). -/
def State.motGainB_GI (s : State) (n : Nat) : Nat := s.fld .motGainB n 0 15 0
/-- MOT.HORIZON.US (04_motion_pan.md R192). -/
def State.motHorizon_US (s : State) (n : Nat) : Nat := s.fld .motHorizon n 0 10 0
/-- MOT.RESID.UNITS (04_motion_pan.md R192). -/
def State.motResid_UNITS (s : State) (n : Nat) : Nat := s.fld .motResid n 0 23 0
/-- MOT.ORIGIN.ORIGIN (04_motion_pan.md R192). -/
def State.motOrigin_ORIGIN (s : State) (n : Nat) : Int := signed 64 (s.reg64 (Reg.off .motOrigin n 0))
/-- MOT.REPORT.DIV (04_motion_pan.md R192). -/
def State.motReport_DIV (s : State) : Nat := s.fld .motReport 0 0 23 16
/-- MOT.REPORT.EN (04_motion_pan.md R192). -/
def State.motReport_EN (s : State) : Bool := s.fld .motReport 0 0 8 8 = 1
/-- MOT.REPORT.RING (04_motion_pan.md R192). -/
def State.motReport_RING (s : State) : Nat := s.fld .motReport 0 0 5 0
/-- PAN.CTRL.LUT_UNITS (04_motion_pan.md R192). -/
def State.panCtrl_LUT_UNITS (s : State) : Nat := s.fld .panCtrl 0 0 13 8
/-- PAN.CTRL.EN (04_motion_pan.md R192). -/
def State.panCtrl_EN (s : State) : Bool := s.fld .panCtrl 0 0 0 0 = 1
/-- PAN.REPORT.EN (04_motion_pan.md R192). -/
def State.panReport_EN (s : State) : Bool := s.fld .panReport 0 0 8 8 = 1
/-- PAN.REPORT.RING (04_motion_pan.md R192). -/
def State.panReport_RING (s : State) : Nat := s.fld .panReport 0 0 5 0
/-- PAN.FRAME_CFG.MAX_BANDS (04_motion_pan.md R192). -/
def State.panFrameCfg_MAX_BANDS (s : State) (n : Nat) : Nat := s.fld .panFrameCfg n 0 21 16
/-- PAN.FRAME_CFG.RUNAHEAD (04_motion_pan.md R192). -/
def State.panFrameCfg_RUNAHEAD (s : State) (n : Nat) : Bool := s.fld .panFrameCfg n 0 8 8 = 1
/-- PAN.FRAME_CFG.EN (04_motion_pan.md R192). -/
def State.panFrameCfg_EN (s : State) (n : Nat) : Bool := s.fld .panFrameCfg n 0 0 0 = 1
/-- PAN.FRAME_BAND_LEN.UNITS (04_motion_pan.md R192). -/
def State.panFrameBandLen_UNITS (s : State) (n : Nat) : Nat := s.fld .panFrameBandLen n 0 23 0
/-- PAN.FRAME_BAND_ORIGIN.BAND_ORIGIN (04_motion_pan.md R192). -/
def State.panFrameBandOrigin_BAND_ORIGIN (s : State) (n : Nat) : Int := signed 64 (s.reg64 (Reg.off .panFrameBandOrigin n 0))
/-- PAN.FRAME_DUE_OFF.UNITS (04_motion_pan.md R192). -/
def State.panFrameDueOff_UNITS (s : State) (n : Nat) : Nat := s.fld .panFrameDueOff n 0 27 0
/-- PAN.FRAME_RECALL_TOL.UNITS (04_motion_pan.md R192). -/
def State.panFrameRecallTol_UNITS (s : State) (n : Nat) : Nat := s.fld .panFrameRecallTol n 0 19 0
/-- PAN.STREAM_CFG.EN (04_motion_pan.md R192). -/
def State.panStreamCfg_EN (s : State) (n : Nat) : Bool := s.fld .panStreamCfg n 0 31 31 = 1
/-- PAN.STREAM_CFG.FRAME (04_motion_pan.md R192). -/
def State.panStreamCfg_FRAME (s : State) (n : Nat) : Nat := s.fld .panStreamCfg n 0 26 24
/-- PAN.STREAM_CFG.XCOUNT (04_motion_pan.md R192). -/
def State.panStreamCfg_XCOUNT (s : State) (n : Nat) : Nat := s.fld .panStreamCfg n 0 22 16
/-- PAN.STREAM_CFG.XBASE (04_motion_pan.md R192). -/
def State.panStreamCfg_XBASE (s : State) (n : Nat) : Nat := s.fld .panStreamCfg n 0 8 0
/-- PAN.STREAM_MESH.RSTEP (04_motion_pan.md R192). -/
def State.panStreamMesh_RSTEP (s : State) (n : Nat) : Nat := s.fld .panStreamMesh n 0 31 16
/-- PAN.STREAM_MESH.CSTEP (04_motion_pan.md R192). -/
def State.panStreamMesh_CSTEP (s : State) (n : Nat) : Nat := s.fld .panStreamMesh n 0 15 0
/-- PAN.STREAM_WAIT.US (04_motion_pan.md R192). -/
def State.panStreamWait_US (s : State) (n : Nat) : Nat := s.fld .panStreamWait n 0 19 0
/-- TRK.CTRL.EN (05_track.md R225). -/
def State.trkCtrl_EN (s : State) : Bool := s.fld .trkCtrl 0 0 0 0 = 1
/-- TRK.REPORT.EN (05_track.md R225). -/
def State.trkReport_EN (s : State) : Bool := s.fld .trkReport 0 0 8 8 = 1
/-- TRK.REPORT.RING (05_track.md R225). -/
def State.trkReport_RING (s : State) : Nat := s.fld .trkReport 0 0 5 0
/-- TRK.OUT_BASE.OUT_BASE (05_track.md R225). -/
def State.trkOutBase_OUT_BASE (s : State) : Nat := s.reg64 (Reg.off .trkOutBase 0 0)
/-- TRK.OUT_SIZE.OUT_SIZE (05_track.md R225). -/
def State.trkOutSize_OUT_SIZE (s : State) : Nat := s.fld .trkOutSize 0 0 9 0
/-- TRK.JBASE.JBASE (05_track.md R225). -/
def State.trkJbase_JBASE (s : State) : Nat := s.reg64 (Reg.off .trkJbase 0 0)
/-- TRK.JSIZE.JSIZE (05_track.md R225). -/
def State.trkJsize_JSIZE (s : State) : Nat := s.fld .trkJsize 0 0 8 0
/-- TRK.CLASS_CFG.EN (05_track.md R225). -/
def State.trkClassCfg_EN (s : State) (n : Nat) : Bool := s.fld .trkClassCfg n 0 31 31 = 1
/-- TRK.CLASS_CFG.FRAME (05_track.md R225). -/
def State.trkClassCfg_FRAME (s : State) (n : Nat) : Nat := s.fld .trkClassCfg n 0 30 28
/-- TRK.CLASS_CFG.MODE (05_track.md R225). -/
def State.trkClassCfg_MODE (s : State) (n : Nat) : Bool := s.fld .trkClassCfg n 0 27 27 = 1
/-- TRK.CLASS_CFG.CAP (05_track.md R225). -/
def State.trkClassCfg_CAP (s : State) (n : Nat) : Nat := s.fld .trkClassCfg n 0 24 16
/-- TRK.CLASS_LIFE.BIRTH_M (05_track.md R225). -/
def State.trkClassLife_BIRTH_M (s : State) (n : Nat) : Nat := s.fld .trkClassLife n 0 31 28
/-- TRK.CLASS_LIFE.BIRTH_N (05_track.md R225). -/
def State.trkClassLife_BIRTH_N (s : State) (n : Nat) : Nat := s.fld .trkClassLife n 0 27 24
/-- TRK.CLASS_LIFE.CONF_HITS (05_track.md R225). -/
def State.trkClassLife_CONF_HITS (s : State) (n : Nat) : Nat := s.fld .trkClassLife n 0 23 16
/-- TRK.CLASS_LIFE.DEL_MISS (05_track.md R225). -/
def State.trkClassLife_DEL_MISS (s : State) (n : Nat) : Nat := s.fld .trkClassLife n 0 15 8
/-- TRK.CLASS_GATE_A.UNITS (05_track.md R225). -/
def State.trkClassGateA_UNITS (s : State) (n : Nat) : Nat := s.fld .trkClassGateA n 0 27 0
/-- TRK.CLASS_GATE_C.UNITS (05_track.md R225). -/
def State.trkClassGateC_UNITS (s : State) (n : Nat) : Nat := s.fld .trkClassGateC n 0 27 0
/-- TRK.CLASS_WEIGHT.WA (05_track.md R225). -/
def State.trkClassWeight_WA (s : State) (n : Nat) : Nat := s.fld .trkClassWeight n 0 31 16
/-- TRK.CLASS_WEIGHT.WC (05_track.md R225). -/
def State.trkClassWeight_WC (s : State) (n : Nat) : Nat := s.fld .trkClassWeight n 0 15 0
/-- TRK.CLASS_GATE_COST.GATE_COST (05_track.md R225). -/
def State.trkClassGateCost_GATE_COST (s : State) (n : Nat) : Nat := s.fld .trkClassGateCost n 0 15 0
/-- TRK.CLASS_GAIN.GP (05_track.md R225). -/
def State.trkClassGain_GP (s : State) (n : Nat) : Nat := s.fld .trkClassGain n 0 31 16
/-- TRK.CLASS_GAIN.GD (05_track.md R225). -/
def State.trkClassGain_GD (s : State) (n : Nat) : Nat := s.fld .trkClassGain n 0 15 0
/-- TRK.CLASS_REPEAT.UNITS (05_track.md R225). -/
def State.trkClassRepeat_UNITS (s : State) (n : Nat) : Nat := s.fld .trkClassRepeat n 0 27 0
/-- RLY.CTRL.EN (06_aurik_machine.md R265). -/
def State.rlyCtrl_EN (s : State) : Bool := s.fld .rlyCtrl 0 0 0 0 = 1
/-- RLY.LANES.EN (06_aurik_machine.md R265). -/
def State.rlyLanes_EN (s : State) : Nat := s.fld .rlyLanes 0 0 15 0
/-- RLY.WATCH.US (06_aurik_machine.md R265). -/
def State.rlyWatch_US (s : State) : Nat := s.fld .rlyWatch 0 0 19 0
/-- RLY.REPORT.EN (06_aurik_machine.md R265). -/
def State.rlyReport_EN (s : State) : Bool := s.fld .rlyReport 0 0 8 8 = 1
/-- RLY.REPORT.RING (06_aurik_machine.md R265). -/
def State.rlyReport_RING (s : State) : Nat := s.fld .rlyReport 0 0 5 0
/-- RLY.BRK_CTRL.EN (10_programs.md R398). -/
def State.rlyBrkCtrl_EN (s : State) (n : Nat) : Bool := s.fld .rlyBrkCtrl n 0 31 31 = 1
/-- RLY.BRK_CTRL.STREAM (10_programs.md R398). -/
def State.rlyBrkCtrl_STREAM (s : State) (n : Nat) : Bool := s.fld .rlyBrkCtrl n 0 30 30 = 1
/-- RLY.BRK_CTRL.KIND (10_programs.md R398). -/
def State.rlyBrkCtrl_KIND (s : State) (n : Nat) : Bool := s.fld .rlyBrkCtrl n 0 29 29 = 1
/-- RLY.BRK_CTRL.LANE (10_programs.md R398). -/
def State.rlyBrkCtrl_LANE (s : State) (n : Nat) : Nat := s.fld .rlyBrkCtrl n 0 19 16
/-- RLY.BRK_CTRL.TAG (10_programs.md R398). -/
def State.rlyBrkCtrl_TAG (s : State) (n : Nat) : Nat := s.fld .rlyBrkCtrl n 0 15 0
/-- RLY.BRK_COUNT.COUNT (10_programs.md R398). -/
def State.rlyBrkCount_COUNT (s : State) (n : Nat) : Nat := s.reg64 (Reg.off .rlyBrkCount n 0)
/-- KVP.CTRL.EN (08_attention.md R332). -/
def State.kvpCtrl_EN (s : State) : Bool := s.fld .kvpCtrl 0 0 0 0 = 1
/-- KVP.PT_BASE.PT_BASE (08_attention.md R332). -/
def State.kvpPtBase_PT_BASE (s : State) : Nat := s.reg64 (Reg.off .kvpPtBase 0 0)
/-- KVP.CACHE_CFG.EN (08_attention.md R332). -/
def State.kvpCacheCfg_EN (s : State) (n : Nat) : Bool := s.fld .kvpCacheCfg n 0 31 31 = 1
/-- KVP.CACHE_CFG.FRAME (08_attention.md R332). -/
def State.kvpCacheCfg_FRAME (s : State) (n : Nat) : Nat := s.fld .kvpCacheCfg n 0 30 28
/-- KVP.CACHE_CFG.FORMAT (08_attention.md R332). -/
def State.kvpCacheCfg_FORMAT (s : State) (n : Nat) : Nat := s.fld .kvpCacheCfg n 0 27 24
/-- KVP.CACHE_CFG.DH (08_attention.md R332). -/
def State.kvpCacheCfg_DH (s : State) (n : Nat) : Nat := s.fld .kvpCacheCfg n 0 21 20
/-- KVP.CACHE_CFG.LOGH (08_attention.md R332). -/
def State.kvpCacheCfg_LOGH (s : State) (n : Nat) : Nat := s.fld .kvpCacheCfg n 0 18 16
/-- KVP.CACHE_CFG.NLAYER (08_attention.md R332). -/
def State.kvpCacheCfg_NLAYER (s : State) (n : Nat) : Nat := s.fld .kvpCacheCfg n 0 13 8
/-- KVP.CACHE_SEQS.NSEQ (08_attention.md R332). -/
def State.kvpCacheSeqs_NSEQ (s : State) (n : Nat) : Nat := s.fld .kvpCacheSeqs n 0 12 0
/-- KVP.CACHE_BASE.BASE (08_attention.md R332). -/
def State.kvpCacheBase_BASE (s : State) (n : Nat) : Nat := s.reg64 (Reg.off .kvpCacheBase n 0)
/-- KVP.CACHE_NPAGES.NPAGES (08_attention.md R332). -/
def State.kvpCacheNpages_NPAGES (s : State) (n : Nat) : Nat := s.fld .kvpCacheNpages n 0 18 0
/-- SLV.CTRL.EN (09_solver.md R366). -/
def State.slvCtrl_EN (s : State) : Bool := s.fld .slvCtrl 0 0 0 0 = 1
/-- SLV.REPORT.EN (09_solver.md R366). -/
def State.slvReport_EN (s : State) : Bool := s.fld .slvReport 0 0 8 8 = 1
/-- SLV.REPORT.RING (09_solver.md R366). -/
def State.slvReport_RING (s : State) : Nat := s.fld .slvReport 0 0 5 0
/-- SLV.UNITS.EN (09_solver.md R366). -/
def State.slvUnits_EN (s : State) : Nat := s.fld .slvUnits 0 0 15 0
/-- SLV.HOST.MAX (09_solver.md R366). -/
def State.slvHost_MAX (s : State) : Nat := s.fld .slvHost 0 0 4 0
/-- SLV.REFUSE_BASE.REFUSE_BASE (09_solver.md R366). -/
def State.slvRefuseBase_REFUSE_BASE (s : State) : Nat := s.reg64 (Reg.off .slvRefuseBase 0 0)
/-- ACT.CTRL.EN (11_actuation.md R433). -/
def State.actCtrl_EN (s : State) : Bool := s.fld .actCtrl 0 0 0 0 = 1
/-- ACT.REPORT.EN (11_actuation.md R433). -/
def State.actReport_EN (s : State) : Bool := s.fld .actReport 0 0 8 8 = 1
/-- ACT.REPORT.RING (11_actuation.md R433). -/
def State.actReport_RING (s : State) : Nat := s.fld .actReport 0 0 5 0
/-- ACT.LSTOP.DEFAULT (11_actuation.md R433). -/
def State.actLstop_DEFAULT (s : State) : Bool := s.fld .actLstop 0 0 4 4 = 1
/-- ACT.CFG.EN (11_actuation.md R433). -/
def State.actCfg_EN (s : State) (n : Nat) : Bool := s.fld .actCfg n 0 31 31 = 1
/-- ACT.CFG.MABS (11_actuation.md R433). -/
def State.actCfg_MABS (s : State) (n : Nat) : Bool := s.fld .actCfg n 0 8 8 = 1
/-- ACT.CFG.ABS_DEF (11_actuation.md R433). -/
def State.actCfg_ABS_DEF (s : State) (n : Nat) : Bool := s.fld .actCfg n 0 7 7 = 1
/-- ACT.CFG.DEFAULT (11_actuation.md R433). -/
def State.actCfg_DEFAULT (s : State) (n : Nat) : Bool := s.fld .actCfg n 0 6 6 = 1
/-- ACT.CFG.IDLE (11_actuation.md R433). -/
def State.actCfg_IDLE (s : State) (n : Nat) : Bool := s.fld .actCfg n 0 5 5 = 1
/-- ACT.CFG.SAFE (11_actuation.md R433). -/
def State.actCfg_SAFE (s : State) (n : Nat) : Bool := s.fld .actCfg n 0 4 4 = 1
/-- ACT.WIDTH.NS (11_actuation.md R433). -/
def State.actWidth_NS (s : State) (n : Nat) : Nat := s.fld .actWidth n 0 26 0
/-- ACT.HOLD.DUTY (11_actuation.md R433). -/
def State.actHold_DUTY (s : State) (n : Nat) : Nat := s.fld .actHold n 0 31 24
/-- ACT.HOLD.US (11_actuation.md R433). -/
def State.actHold_US (s : State) (n : Nat) : Nat := s.fld .actHold n 0 19 0
/-- ACT.GAP.LATE_US (11_actuation.md R433). -/
def State.actGap_LATE_US (s : State) (n : Nat) : Nat := s.fld .actGap n 0 31 16
/-- ACT.GAP.MIN_GAP_US (11_actuation.md R433). -/
def State.actGap_MIN_GAP_US (s : State) (n : Nat) : Nat := s.fld .actGap n 0 15 0
/-- ACT.LEAD.US (11_actuation.md R433). -/
def State.actLead_US (s : State) (n : Nat) : Nat := s.fld .actLead n 0 16 0
/-- ACT.GUARD.UNITS (11_actuation.md R433). -/
def State.actGuard_UNITS (s : State) (n : Nat) : Nat := s.fld .actGuard n 0 27 0
/-- ACT.GUARD_T.US (11_actuation.md R433). -/
def State.actGuardT_US (s : State) (n : Nat) : Nat := s.fld .actGuardT n 0 19 0
/-- ACT.MATCH.UNITS (11_actuation.md R433). -/
def State.actMatch_UNITS (s : State) (n : Nat) : Nat := s.fld .actMatch n 0 23 0
/-- ACT.EXP.MODE (11_actuation.md R433). -/
def State.actExp_MODE (s : State) (n : Nat) : Nat := s.fld .actExp n 0 31 30
/-- ACT.EXP.FRAME (11_actuation.md R433). -/
def State.actExp_FRAME (s : State) (n : Nat) : Nat := s.fld .actExp n 0 26 24
/-- ACT.EXP.CAP (11_actuation.md R433). -/
def State.actExp_CAP (s : State) (n : Nat) : Nat := s.fld .actExp n 0 20 16
/-- ACT.EXP_PITCH.UNITS (11_actuation.md R433). -/
def State.actExpPitch_UNITS (s : State) (n : Nat) : Nat := s.fld .actExpPitch n 0 27 0
/-- ACT.EXP_PHASE.PHASE (11_actuation.md R433). -/
def State.actExpPhase_PHASE (s : State) (n : Nat) : Int := signed 64 (s.reg64 (Reg.off .actExpPhase n 0))
/-- ACT.EXP_OFF.OFF (11_actuation.md R433). -/
def State.actExpOff_OFF (s : State) (n : Nat) : Int := signed 32 (s.fld .actExpOff n 0 31 0)
/-- IOC.SLOT_CFG.STALL_MS (03_sensor_ports.md R152). -/
def State.iocSlotCfg_STALL_MS (s : State) (n : Nat) : Nat := s.fld .iocSlotCfg n 0 31 20
/-- IOC.SLOT_CFG.STALL_EN (03_sensor_ports.md R152). -/
def State.iocSlotCfg_STALL_EN (s : State) (n : Nat) : Bool := s.fld .iocSlotCfg n 0 16 16 = 1
/-- IOC.SLOT_CFG.DEPTH (03_sensor_ports.md R152). -/
def State.iocSlotCfg_DEPTH (s : State) (n : Nat) : Nat := s.fld .iocSlotCfg n 0 13 4
/-- IOC.SLOT_CFG.CONSUMER (03_sensor_ports.md R152). -/
def State.iocSlotCfg_CONSUMER (s : State) (n : Nat) : Bool := s.fld .iocSlotCfg n 0 1 1 = 1
/-- IOC.SLOT_CFG.EN (03_sensor_ports.md R152). -/
def State.iocSlotCfg_EN (s : State) (n : Nat) : Bool := s.fld .iocSlotCfg n 0 0 0 = 1
/-- IOC.SETTLE.LIMIT_US (03_sensor_ports.md R152). -/
def State.iocSettle_LIMIT_US (s : State) : Nat := s.fld .iocSettle 0 0 15 0
/-- IOC.NOTIFY.EN (03_sensor_ports.md R152). -/
def State.iocNotify_EN (s : State) : Bool := s.fld .iocNotify 0 0 8 8 = 1
/-- IOC.NOTIFY.RING (03_sensor_ports.md R152). -/
def State.iocNotify_RING (s : State) : Nat := s.fld .iocNotify 0 0 5 0
/-- IOC.ACC_I2C_CFG.STRETCH_MS (03_sensor_ports.md R152). -/
def State.iocAccI2cCfg_STRETCH_MS (s : State) : Nat := s.fld .iocAccI2cCfg 0 0 15 8
/-- IOC.ACC_I2C_CFG.SPEED (03_sensor_ports.md R152). -/
def State.iocAccI2cCfg_SPEED (s : State) : Bool := s.fld .iocAccI2cCfg 0 0 1 1 = 1
/-- IOC.ACC_I2C_CFG.EN (03_sensor_ports.md R152). -/
def State.iocAccI2cCfg_EN (s : State) : Bool := s.fld .iocAccI2cCfg 0 0 0 0 = 1
/-- FLT.REPORT.EN (14_faults.md R527). -/
def State.fltReport_EN (s : State) : Bool := s.fld .fltReport 0 0 8 8 = 1
/-- FLT.REPORT.RING (14_faults.md R527). -/
def State.fltReport_RING (s : State) : Nat := s.fld .fltReport 0 0 5 0
/-- FLT.AUTO.MS (14_faults.md R527). -/
def State.fltAuto_MS (s : State) : Nat := s.fld .fltAuto 0 0 21 0
/-- MEM.SCRUB.EN (15_startup.md R556). -/
def State.memScrub_EN (s : State) : Bool := s.fld .memScrub 0 0 16 16 = 1
/-- MEM.SCRUB.HOURS (15_startup.md R556). -/
def State.memScrub_HOURS (s : State) : Nat := s.fld .memScrub 0 0 7 0

end Sys2Proof.Machine
end

