-- ==== Sys2Proof/Machine/Ops.lean ====
section
/-! DEFINITION. The operations every family shares: changing one block of the state, memory, time, free values, records
and their posts, coded messages, notifications, epochs. -/

namespace Sys2Proof.Machine

open Sys2Proof

/-! ### One block at a time -/

/-- The state with its Host Link changed by `f`. -/
def State.modHl (s : State) (f : HostLink → HostLink) : State := { s with hl := f s.hl }
/-- The state with its Fault Collector changed by `f`. -/
def State.modFlt (s : State) (f : Faults → Faults) : State := { s with flt := f s.flt }
/-- The state with its always-on island changed by `f`. -/
def State.modAon (s : State) (f : Aon → Aon) : State := { s with aon := f s.aon }
/-- The state with its Timekeeper changed by `f`. -/
def State.modTk (s : State) (f : Tk → Tk) : State := { s with tk := f s.tk }
/-- The state with its sensor side changed by `f`. -/
def State.modIng (s : State) (f : Ingest → Ingest) : State := { s with ing := f s.ing }
/-- The state with its Pan changed by `f`. -/
def State.modPan (s : State) (f : Pan → Pan) : State := { s with pan := f s.pan }
/-- The state with its Track Engine changed by `f`. -/
def State.modTrk (s : State) (f : Trk → Trk) : State := { s with trk := f s.trk }
/-- The state with its Relay and Lanes changed by `f`. -/
def State.modRly (s : State) (f : Rly → Rly) : State := { s with rly := f s.rly }
/-- The state with its KV Page Unit changed by `f`. -/
def State.modKvp (s : State) (f : Kvp → Kvp) : State := { s with kvp := f s.kvp }
/-- The state with its Solver changed by `f`. -/
def State.modSlv (s : State) (f : Slv → Slv) : State := { s with slv := f s.slv }
/-- The state with its Actuation Unit changed by `f`. -/
def State.modAct (s : State) (f : Act → Act) : State := { s with act := f s.act }

/-- The state of motion frame `f`. -/
def State.motion (s : State) (f : Nat) : Motion := Tab.get {} f s.mot
/-- The state with motion frame `f` changed. -/
def State.modMotion (s : State) (f : Nat) (g : Motion → Motion) : State := { s with mot := Tab.mod {} f g s.mot }
/-- Ring `r`. -/
def State.ring (s : State) (r : Nat) : Ring := Tab.get {} r s.hl.rings
/-- The state with ring `r` changed. -/
def State.modRing (s : State) (r : Nat) (g : Ring → Ring) : State :=
  s.modHl fun h => { h with rings := Tab.mod {} r g h.rings }
/-- Session index `i`. -/
def State.sess (s : State) (i : Nat) : Session := Tab.get {} i s.hl.sessions
/-- The state with session index `i` changed. -/
def State.modSess (s : State) (i : Nat) (g : Session → Session) : State :=
  s.modHl fun h => { h with sessions := Tab.mod {} i g h.sessions }
/-- Host port `p`. -/
def State.port (s : State) (p : Nat) : HostPort := Tab.get {} p s.hl.ports
/-- The state with host port `p` changed. -/
def State.modPort (s : State) (p : Nat) (g : HostPort → HostPort) : State :=
  s.modHl fun h => { h with ports := Tab.mod {} p g h.ports }

/-- What the block sends goes at the end of the list of what it has sent. Log 7 (DESIGN CHOICE). -/
def State.send (s : State) (o : Out) : State := { s with out := s.out ++ [o] }

/-- Take one free value: the model's own count advances. Log 7 (DESIGN CHOICE), 9 (DESIGN CHOICE). -/
def State.takeFree (s : State) (tag : Nat) : Nat × State :=
  (Config.free tag s.freeCtr, { s with freeCtr := s.freeCtr + 1 })

/-! ### Memory (01_line.md R27, R30, R57) -/

/-- The byte at an address of the memory list; an unlisted one reads 0 (R57). Log 12 (DEDUCED). -/
def memGet (a : Nat) : List Host.Cell → Byte
  | [] => 0
  | (k, b) :: t => if k = a then b else if a < k then 0 else memGet a t

/-- The memory list with one byte written, in canonical form: rising addresses, no byte 0 listed. Log 12 (DEDUCED). -/
def memSet (a : Nat) (b : Byte) : List Host.Cell → List Host.Cell
  | [] => if b = 0 then [] else [(a, b)]
  | (k, c) :: t =>
    if a < k then (if b = 0 then (k, c) :: t else (a, b) :: (k, c) :: t)
    else if a = k then (if b = 0 then t else (a, b) :: t)
    else (k, c) :: memSet a b t

/-- The canonical form of the memory list: addresses strictly rising from `lo` on, no byte 0 listed. -/
def memWfFrom : Nat → List Host.Cell → Bool
  | _, [] => true
  | lo, (k, b) :: t => decide (lo ≤ k) && decide (b ≠ 0) && memWfFrom (k + 1) t

/-- The canonical form of the memory list. Log 12 (DEDUCED). -/
def Memory.wf (m : List Host.Cell) : Bool := memWfFrom 0 m

/-- The bytes of DRAM, 32 GiB (R27). -/
def dramSize : Nat := 0x800000000
/-- The first address of the Lane scratchpads (R27). -/
def spBase : Nat := 0x1000000000
/-- SPSZ, the bytes of a Lane's scratchpad (06_aurik_machine.md R230). -/
def spSize : Nat := 0x200000
/-- The first address of the Pan SRAM (R27). -/
def panBase : Nat := 0x1004000000
/-- The bytes of the Pan SRAM (R27). -/
def panSize : Nat := 0x600000
/-- The first address of setup space (R27). -/
def setupBase : Nat := 0x1800000000

/-- A DRAM channel that failed, by number (15_startup.md R542). Log 13 (DEDUCED). -/
def State.chanFailed (s : State) (c : Nat) : Bool := (Tab.get {} c s.aon.chans).failed

/-- An address lies in DRAM, on a channel that has not failed (R541, R542). Log 13 (DEDUCED). -/
def State.dramAt (s : State) (a : Nat) : Bool := decide (a < dramSize) && !s.chanFailed (a / 0x200000000)

/-- `n` bytes from `a` on lie wholly in DRAM (R542). -/
def State.inDram (s : State) (a n : Nat) : Bool :=
  decide (a + n ≤ dramSize) &&
    (upTo 4).all fun c => !(s.chanFailed c && decide (a < (c + 1) * 0x200000000) && decide (c * 0x200000000 < a + n))

/-- `n` bytes from `a` on lie wholly in the Pan SRAM. -/
def inPan (a n : Nat) : Bool := decide (panBase ≤ a) && decide (a + n ≤ panBase + panSize)

/-- A byte address is backed by storage: DRAM, scratchpads or Pan SRAM. -/
def State.backed (s : State) (a : Nat) : Bool :=
  s.dramAt a || (decide (spBase ≤ a) && decide (a < spBase + 16 * spSize)) || inPan a 1

/-- One byte of device memory; a failed channel reads 0 (R542). Log 12 (DEDUCED), 13 (DEDUCED). -/
def State.readByte (s : State) (a : Nat) : Byte := if s.backed a then memGet a s.mem else 0

/-- `n` bytes of device memory. -/
def State.readMem (s : State) (a : Nat) : Nat → List Byte
  | 0 => []
  | n + 1 => s.readByte a :: s.readMem (a + 1) n

/-- One byte of device memory written. A write to a failed channel is dropped (R542); a write that touches a DRAM unit
with an uncorrectable error clears the error (14_faults.md R505). Log 12 (DEDUCED), 13 (DEDUCED). -/
def State.writeByte (s : State) (a : Nat) (b : Byte) : State :=
  if s.backed a then
    { s with mem := memSet a b s.mem,
             aon := { s.aon with ueUnits := s.aon.ueUnits.filter fun u => decide (u ≠ a / 32) } }
  else s

/-- Bytes written from `a` on. -/
def State.writeMem (s : State) (a : Nat) : List Byte → State
  | [] => s
  | b :: t => (s.writeByte a b).writeMem (a + 1) t

/-! ### Time (00_scope.md R8, 01_line.md R31 to R33, 02_timekeeper.md R59) -/

/-- Ticks of interval time in 1 µs. -/
def usTicks : Nat := 4000
/-- Ticks of interval time in 1 ms. -/
def msTicks : Nat := 4000000
/-- Ticks of interval time in 1 ns. -/
def nsTicks : Nat := 4

/-- Interval time goes on by `dt` ticks. Log 3 (DESIGN CHOICE). -/
def State.pass (s : State) (dt : Nat) : State := { s with now := s.now + dt }

/-- Interval time goes on to `t`, when that is later. Log 3 (DESIGN CHOICE). -/
def State.waitUntil (s : State) (t : Nat) : State := { s with now := max s.now t }

/-- What one tick adds to device time, in 1/(65 536 × 10^18) of a DT64 unit, for an adjustment in 2^-16 ppb
(02_timekeeper.md R72: a positive adjustment slows the clock). -/
def devRate (adj : Int) : Nat := (1073741824 * (65536000000000 - adj)).toNat

/-- The denominator of `devRate`. -/
def devDen : Nat := 65536000000000000000000

/-- Device time with its era, 80 bits, at interval time `t` of the run in force. -/
def Tk.totalAt (k : Tk) (t : Nat) : Nat := (k.total + (k.phase + (t - k.baseAt) * devRate k.adj) / devDen) % 2 ^ 80

/-- Device time with its era at interval time `t` of the run in force, rounded to the nearest DT64 unit. -/
def Tk.totalNear (k : Tk) (t : Nat) : Nat :=
  (k.total + (k.phase + (t - k.baseAt) * devRate k.adj + devDen / 2) / devDen) % 2 ^ 80

/-- Device time with its era at interval time `t`, from the run that covers it. -/
def Tk.totalBack (k : Tk) (t : Nat) : Nat :=
  if k.baseAt ≤ t then k.totalAt t
  else
    match k.segs.find? (fun g => decide (g.1 ≤ t)) with
    | some (b, tot, ph, adj) => (tot + (ph + (t - b) * devRate adj) / devDen) % 2 ^ 80
    | none => k.totalAt t

/-- Device time at interval time `t` (R31). Log 24 (DESIGN CHOICE). -/
def State.devAt (s : State) (t : Nat) : DT64 := BitVec.ofNat 64 (s.tk.totalBack t)

/-- Device time now (R31). -/
def State.dev (s : State) : DT64 := s.devAt s.now

/-- The interval time at which device time reaches `t`, at the rate in force; now, when it has. -/
def State.whenDev (s : State) (t : DT64) : Nat :=
  let d := dtSub t s.dev
  if d ≤ 0 then s.now
  else
    let k := s.tk
    let x := (k.phase + (s.now - k.baseAt) * devRate k.adj) / devDen + d.toNat
    let n := (x * devDen - k.phase + devRate k.adj - 1) / devRate k.adj
    max s.now (k.baseAt + n)

/-- The interval time at which device time reached `t`, by the run that covers it; now, when none does. -/
def State.whenWas (s : State) (t : DT64) : Nat :=
  let k := s.tk
  let target : Int := ((k.totalAt s.now : Int) + dtSub t s.dev) % 2 ^ 80
  let past (g : Nat × Nat × Nat × Int) : Nat := ((target - g.2.1) % 2 ^ 80).toNat
  match ((k.baseAt, k.total, k.phase, k.adj) :: k.segs).find? fun g => decide (0 ≤ signed 80 (past g)) with
  | some g => min s.now (g.1 + (past g * devDen - g.2.2.1 + devRate g.2.2.2 - 1) / devRate g.2.2.2)
  | none => s.now

/-- TUNC of a state of the Timekeeper (02_timekeeper.md R61). -/
def TkState.tunc (k : TkState) : Bool := decide (k ≠ .locked)

/-- TUNC now (R61). -/
def State.tunc (s : State) : Bool := s.tk.state.tunc

/-- TUNC of the state in effect at an instant of device time (R61). Log 152 (DEDUCED). -/
def State.tuncAt (s : State) (t : DT64) : Bool :=
  match s.tk.tuncs.find? fun x => dtGe t x.1 with
  | some x => x.2
  | none => s.tk.tuncs.getLast?.elim s.tunc fun x => !x.2

/-- The bits of a W1C field that a write of ones clears: not one that was set at this very instant (00_scope.md R17). -/
def State.clears (s : State) (setAt : Tab Nat) (i v : Nat) : Bool := bit v i && decide (Tab.get (s.now + 1) i setAt ≠ s.now)

/-! ### Records (01_line.md R37, R40) -/

/-- FLAGS bit PROV. -/
def fPROV : Nat := 0x80
/-- FLAGS bit REREL. -/
def fREREL : Nat := 0x40
/-- FLAGS bit GAP. -/
def fGAP : Nat := 0x20
/-- FLAGS bit TUNC. -/
def fTUNC : Nat := 0x10
/-- FLAGS bit ABSENT. -/
def fABSENT : Nat := 0x08
/-- FLAGS bit SAT. -/
def fSAT : Nat := 0x04
/-- FLAGS bit LAST. -/
def fLAST : Nat := 0x02
/-- FLAGS bit BAT. -/
def fBAT : Nat := 0x01

/-- A flag when a condition holds. -/
def flagIf (c : Bool) (f : Nat) : Nat := if c then f else 0

/-- A record's LENGTH, in 8-byte units. -/
def recLen8 (r : Rec) : Nat := 2 + (r.body.length + 7) / 8

/-- A record as bytes (R37), padded to whole 8-byte units. -/
def recBytes (r : Rec) : List Byte :=
  [r.type, r.source, r.baton, r.flags] ++ by2 r.epoch.toNat ++ by2 (recLen8 r) ++ by8 r.time.toNat ++ r.body ++
    zeros ((8 - r.body.length % 8) % 8)

/-- A record from its bytes; LENGTH gives its end. -/
def recOf (b : List Byte) : Rec where
  type := BitVec.ofNat 8 (u8 b 0)
  source := BitVec.ofNat 8 (u8 b 1)
  baton := BitVec.ofNat 8 (u8 b 2)
  flags := BitVec.ofNat 8 (u8 b 3)
  epoch := BitVec.ofNat 16 (u16 b 4)
  time := BitVec.ofNat 64 (u64 b 8)
  body := sub b 16 (8 * u16 b 6 - 16)

/-- A record that a unit issues of its own: SOURCE, TYPE, FLAGS, EPOCH, TIME and body. -/
def mkRec (type source flags : Nat) (epoch : Epoch) (time : DT64) (body : List Byte) : Rec :=
  ⟨BitVec.ofNat 8 type, BitVec.ofNat 8 source, 0, BitVec.ofNat 8 flags, epoch, time, body⟩

/-- The record at a device address, LENGTH taken from its header. -/
def State.recAt (s : State) (a : Nat) : List Byte := s.readMem a (8 * u16 (s.readMem a 8) 6)

/-! ### Epochs (01_line.md R42, R43, R46) -/

/-- The motion frame of an epoch. -/
def epFrame (e : Epoch) : Nat := bits e.toNat 15 13
/-- The SEQ of an epoch. -/
def epSeq (e : Epoch) : Nat := bits e.toNat 12 0
/-- An epoch of a frame. -/
def mkEpoch (frame seq : Nat) : Epoch := BitVec.ofNat 16 (frame % 8 * 8192 + seq % 8192)

/-- The serial difference of two SEQ values (R42). -/
def seqDiff (a b : Nat) : Int :=
  let d := ((a : Int) - (b : Int)) % 8191
  if d ≤ 4095 then d else d - 8191

/-- SEQ a is later than b, or the same (R42). -/
def seqGe (a b : Nat) : Bool := decide (0 ≤ seqDiff a b)

/-- The SEQ that follows one in the cycle of R42. -/
def nextSeq (q : Nat) : Nat := if q = 8191 then 1 else q + 1

/-- What an epoch view says of a SEQ of a frame: 0 outstanding or not seen, 1 sealed, 2 recalled. -/
def viewOf (v : EpochView) (e : Epoch) : Nat :=
  ((Tab.get [] (epFrame e) v).find? (fun p => decide (p.1 = epSeq e))).elim 0 (fun p => p.2.1)

/-- An epoch view that has seen a provisional epoch in use: a new one is outstanding. -/
def viewSee (v : EpochView) (e : Epoch) : EpochView :=
  if epSeq e = 0 ∨ (Tab.get [] (epFrame e) v).any (fun p => decide (p.1 = epSeq e) && decide (p.2.1 = 0)) then v
  else Tab.mod [] (epFrame e) (fun l => ((epSeq e, 0, 0) :: l.filter (fun p => decide (p.1 ≠ epSeq e))).take 128) v

/-- An epoch view of an engine that is handed a record of an epoch: a SEQ that it keeps stays as it is. -/
def viewHand (v : EpochView) (e : Epoch) : EpochView :=
  if (Tab.get [] (epFrame e) v).any fun p => decide (p.1 = epSeq e) then v else viewSee v e

/-- An epoch view that drops what it keeps of the earlier use of a SEQ that the Pan issues again (R42). -/
def viewDrop (v : EpochView) (e : Epoch) : EpochView :=
  if (Tab.get [] (epFrame e) v).any fun p => decide (p.1 = epSeq e) then
    Tab.mod [] (epFrame e) (fun l => l.filter fun p => decide (p.1 ≠ epSeq e)) v
  else v

/-- An epoch view after a notice (R43): a SEAL of e seals every outstanding SEQ of its frame up to e; a RECALL of e recalls the SEQs
that it names, or where it names none every outstanding one from e on. A notice seen before changes nothing. -/
def viewNotice (v : EpochView) (rcl : Bool) (e : Epoch) (named : List Nat) : EpochView :=
  if viewOf v e ≠ 0 then v
  else
    Tab.mod [] (epFrame e) (fun l =>
      l.map fun p =>
        if p.2.1 = 0 ∧ (if rcl then (if named = [] then seqGe p.1 (epSeq e) else named.contains p.1 || decide (p.1 = epSeq e))
            else seqGe (epSeq e) p.1) = true then
          (p.1, if rcl then 2 else 1, epSeq e) else p)
      (named.foldl (fun v q => viewHand v (mkEpoch (epFrame e) q)) (viewSee v e))

/-- The SEQ values that a view settled with the notice of an epoch. -/
def viewNamed (v : EpochView) (e : Epoch) : List Nat :=
  ((Tab.get [] (epFrame e) v).filter fun p => decide (p.2.1 ≠ 0) && decide (p.2.2 = epSeq e)).map fun p => p.1

/-- An epoch that is final, or that a view knows to be sealed. -/
def settledIn (v : EpochView) (e : Epoch) : Bool := decide (epSeq e = 0) || decide (viewOf v e = 1)

/-- An epoch that a view knows to be recalled. -/
def recalledIn (v : EpochView) (e : Epoch) : Bool := decide (epSeq e ≠ 0) && decide (viewOf v e = 2)

/-- A SEAL or RECALL notice as a record: header only, from the Pan (01_line.md R38). Log 66 (DEDUCED). -/
def noticeRec (rcl : Bool) (e : Epoch) (t : DT64) : Rec := mkRec (if rcl then 0x1F else 0x1E) 0x58 0 e t []

/-- Bytes 0 to 3 of a notice, the ARG of its RECORD_BAD (14_faults.md R508). -/
def noticeHead (rcl : Bool) (e : Epoch) : Nat := leNat (sub (recBytes (noticeRec rcl e 0)) 0 4)

/-- The number of requests of a VERDICT record: NREQ, or what LENGTH leaves room for when LENGTH is too small (11_actuation.md R402). -/
def verdictCount (d : List Byte) : Nat :=
  let len := u16 d 6
  min 16 (if len < 4 + 2 * u8 d 20 + u8 d 21 then (len - 4) / 2 else u8 d 20)

/-! ### Coded messages (14_faults.md R506, R507) -/

/-- The island that a message comes from: the memory controller and the always-on island share the SOURCE of the collector, and their
UNIT tells them apart (R506). Log 27 (DEDUCED). -/
def islandOf (source unit : Nat) : Nat := if source = 0x5F ∧ (unit = 0xE0 ∨ unit = 0xE1) then 256 * unit + source else source

/-- An island raises a coded message: one of class F is always held, another only while the island holds fewer than 8;
a dropped one counts in FLT.LOST, and the next message that the island delivers carries LOSS. `source` names the unit under 01_line.md
R39. While reset is held no island raises one (15_startup.md R534). Log 27 (DEDUCED). -/
def State.raise (s : State) (fatal : Bool) (code source unit arg : Nat) : State :=
  let island := islandOf source unit
  let b := Tab.get [] island s.flt.bufs
  if s.aon.phase = .held then s
  else if fatal || decide (b.length < 8) then
    s.modFlt fun f => { f with bufs := Tab.set island (b ++ [⟨code, source, unit, arg % 2 ^ 32, false, s.now, s.dev⟩]) f.bufs }
  else
    s.modFlt fun f => { f with
      lossOf := if f.lossOf.contains island then f.lossOf else f.lossOf ++ [island]
      lost := if f.dead then f.lost else satAdd 0xFFFFFFFF f.lost 1 }

/-- A message of class C or U. -/
def State.raiseU (s : State) (code source unit arg : Nat) : State := s.raise false code source unit arg

/-! ### Posts (12_imcel.md R463, 13_rings.md R485 to R490) -/

/-- Bytes of the entries in a post buffer. -/
def postBytes (l : List PostEntry) : Nat := l.foldl (fun n e => n + e.data.length) 0

/-- The number of entries of a ring (13_rings.md R477). -/
def State.ringSize (s : State) (r : Nat) : Nat := 2 ^ s.hlRingCfg_LOG2SIZE r

/-- The bytes of one entry of a ring (R477): submission 64, completion and event 32, report 8. -/
def entryBytes (r : Nat) : Nat := if r < 32 then 64 else if r < 56 then 32 else 8

/-- A record of a ring is dropped: it counts in LOSS (R479, R485, R488). -/
def State.dropPost (s : State) (r : Nat) : State :=
  s.modRing r fun x => { x with
    loss := satAdd 0xFFFFFFFF x.loss 1
    lossSince := satAdd 65535 x.lossSince 1
    lossRec := satAdd 65535 x.lossRec 1 }

/-- A record is delivered to a ring (R489, R490): it waits in the post buffer of the ring's session index, or is dropped
when the ring is not enabled or is stopped (R500, R501), when it is longer than the ring, or when it does not fit the
256 KiB of the buffer (12_imcel.md R463). -/
def State.post (s : State) (r : Nat) (data : List Byte) : State :=
  let i := s.hlRingCfg_SESSION r
  let b := Tab.get [] i s.hl.posts
  if !s.hlRingCfg_EN r || (s.ring r).stopped || decide (s.ringSize r * entryBytes r < data.length)
      || decide (262144 < postBytes b + data.length) then s.dropPost r
  else
    s.modHl fun h => { h with posts := Tab.set i (b ++ [⟨h.postNo, r, data, none, 0⟩]) h.posts, postNo := h.postNo + 1 }

/-- A record goes to a report ring when its unit's report enable is set. -/
def State.report (s : State) (en : Bool) (ring : Nat) (r : Rec) : State := if en then s.post ring (recBytes r) else s

/-! ### Notifications (03_sensor_ports.md R136, 13_rings.md R488) -/

/-- The event record of R488, with LOSS left for the post. -/
def State.event (s : State) (code uclass uindex arg withheld : Nat) : State :=
  s.post s.iocNotify_RING (by2 code ++ by1 uclass ++ by1 uindex ++ by4 arg ++ by8 s.dev.toNat ++ zeros 4 ++ by4 withheld ++ zeros 8)

/-- A notification record is of this code and unit. -/
def Notif.same (code uclass uindex : Nat) (n : Notif) : Bool :=
  decide (n.code = code) && decide (n.uclass = uclass) && decide (n.uindex = uindex)

/-- A sensor-side unit posts a notification: at most one of a code and unit in 10 ms; the ones withheld are counted in
SUPPRESSED of the next. While IOC.NOTIFY.EN is 0 nothing is posted and nothing is withheld (R101). -/
def State.notify (s : State) (code uclass uindex arg : Nat) : State :=
  if !s.iocNotify_EN then s
  else match s.ing.notifs.find? (Notif.same code uclass uindex) with
  | some n =>
    if s.now < n.at_ + 10 * msTicks then
      s.modIng fun g => { g with
        notifs := modFirst (Notif.same code uclass uindex) (fun x => { x with withheld := satAdd 0xFFFFFFFF x.withheld 1 })
          g.notifs }
    else
      (s.modIng fun g => { g with
        notifs := modFirst (Notif.same code uclass uindex) (fun x => { x with at_ := s.now, withheld := 0 })
          g.notifs }).event code uclass uindex arg n.withheld
  | none =>
    (s.modIng fun g => { g with notifs := g.notifs ++ [⟨code, uclass, uindex, s.now, 0⟩] }).event
      code uclass uindex arg 0

/-- Bit `i` of AON.HEALTH.CORE_FAIL is 0. -/
def State.coreOk (s : State) (i : Nat) : Bool := !bit s.aon.coreFail i
/-- The core island of a bit of AON.HEALTH.CORE_FAIL is out of reset (15_startup.md R534, R548). -/
def State.islandUp (s : State) (i : Nat) : Bool := decide (s.aon.phase ≠ .held) && s.coreOk i

end Sys2Proof.Machine
end

