-- ==== Sys2Proof/Machine/Jobs.lean ====
section
/-! DEFINITION. Dispatched descriptors, their Job Status Words and their completions (13_rings.md R481 to R494). -/

namespace Sys2Proof.Machine

open Sys2Proof

/-- The OP a descriptor was dispatched with (R482). -/
def Op.code (o : Op) : Nat := u8 o.desc 0
/-- DFLAGS.JSW (R481). -/
def Op.hasJsw (o : Op) : Bool := bit (u8 o.desc 1) 0
/-- TARGET (R481). -/
def Op.target (o : Op) : Nat := u16 o.desc 2
/-- The inline payload from an offset on. -/
def Op.inl (o : Op) (off n : Nat) : List Byte := sub o.desc (16 + off) n
/-- A field of the inline payload. -/
def Op.inlNat (o : Op) (off n : Nat) : Nat := leNat (o.inl off n)

/-- The submission ring of an operation. -/
def Op.subRing (o : Op) : Nat := o.ring % 64

/-- The operation is that of ring `r`, its life in it, and descriptor `d`. -/
def Op.is (r : Nat) (d : BitVec 32) (o : Op) : Bool := decide (o.ring = r) && decide (o.didx = d)

/-- Bytes 0 to 39 of the Job Status Word of an operation (R492). -/
def jswBytes (o : Op) (cstatus : Nat) (upd : DT64) : List Byte :=
  by1 o.jstate ++ by1 cstatus ++ by1 o.code ++ by1 o.subRing ++ sub o.desc 4 4 ++ by4 o.didx.toNat ++ by4 o.valid ++
    by4 o.total ++ by4 o.serial ++ by8 o.started ++ by8 upd.toNat

/-- An operation changed by `f`, and its Job Status Word, when it has one, written again (R493). -/
def State.jsw (s : State) (r : Nat) (d : BitVec 32) (cstatus : Nat) (f : Op → Op) : State :=
  match s.hl.ops.find? (Op.is r d) with
  | none => s
  | some o =>
    let o1 := { f o with serial := ((f o).serial + 1) % 2 ^ 32, jswAt := s.now }
    let s1 := s.modHl fun h => { h with ops := modFirst (Op.is r d) (fun _ => o1) h.ops }
    match o.jsw with
    | some a => s1.writeMem a (jswBytes o1 cstatus s.dev)
    | none => s1

/-- RUNNING begins (R492). -/
def State.jobRun (s : State) (r : Nat) (d : BitVec 32) (total : Nat) : State :=
  s.jsw r d 0 fun o => { o with taken := true, jstate := 1, started := s.dev.toNat, total := total }

/-- VALID has grown (R493). -/
def State.jobValid (s : State) (r : Nat) (d : BitVec 32) (valid : Nat) : State :=
  s.jsw r d 0 fun o => { o with valid := valid }

/-- The completion of R485: one entry, or two when the result is longer than 16 bytes. -/
def completionBytes (o : Op) (cstatus reason : Nat) (result : List Byte) : List Byte :=
  let cont := decide (16 < result.length)
  by1 o.code ++ by1 cstatus ++ by1 (b2n cont + 2 * b2n o.hasJsw) ++ by1 o.subRing ++ sub o.desc 4 4 ++ by4 o.didx.toNat ++
    zeros 2 ++ by1 reason ++ zeros 1 ++ sub result 0 16 ++ (if cont then sub result 16 32 else [])

/-- An operation ends: its Job Status Word reads DONE with CSTATUS, its completion is posted to the completion ring of
its submission ring unless QUIET is 1 and CSTATUS 0 (R485, R493), and the operation is gone. -/
def State.complete (s : State) (r : Nat) (d : BitVec 32) (cstatus reason : Nat) (result : List Byte) : State :=
  match s.hl.ops.find? (Op.is r d) with
  | none => s
  | some o =>
    let s1 := s.jsw r d cstatus fun o => { o with jstate := 2 }
    let s2 := s1.modHl fun h => { h with ops := dropFirst (Op.is r d) h.ops }
    if bit (u8 o.desc 1) 1 && decide (cstatus = 0) then s2
    else s2.post (s2.hlRingCfg_CRING o.subRing) (completionBytes o cstatus reason result)

/-- The engine of an operation code is out of reset (15_startup.md R548): the Pan, the Track Engine, the Relay, the Solver, the KV Page Unit
and the Actuation Unit, by their bits of AON.HEALTH.CORE_FAIL. -/
def State.engineUp (s : State) (code : Nat) : Bool :=
  match code with
  | 0x10 | 0x11 => s.islandUp 3
  | 0x18 => s.islandUp 4
  | 0x20 | 0x21 => s.islandUp 5
  | 0x22 | 0x23 => s.islandUp 7
  | 0x28 => s.islandUp 6
  | 0x30 | 0x31 => s.islandUp 2
  | _ => true

/-- The oldest dispatched operation of a code that its engine has not taken up; an engine in reset takes none. -/
def State.nextOp (s : State) (code : Nat) (p : Op → Bool) : Option Op :=
  if !s.engineUp code then none
  else s.hl.ops.find? fun o => decide (o.code = code) && !o.taken && p o

/-- The engine takes an operation up. -/
def State.takeOp (s : State) (o : Op) : State :=
  s.modHl fun h => { h with ops := modFirst (Op.is o.ring o.didx) (fun x => { x with taken := true }) h.ops }

end Sys2Proof.Machine
end

