-- ==== Sys2Proof/Machine/Lane.lean ====
section
/-! DEFINITION. What the commands of the Lanes and the Relay share (06_aurik_machine.md, 10_programs.md R388 to R390):
the program image, the Lane set, issuing one command of a stream, scalar sources, scratchpad access, the work epoch,
and abandoning a band. -/

namespace Sys2Proof.Machine

open Sys2Proof

/-! ### Program images (10_programs.md R367, R368) -/

/-- NA: the access-stream commands of an image. -/
def imgNA (img : List Byte) : Nat := u32 img 16
/-- NE: the execute-stream commands of an image. -/
def imgNE (img : List Byte) : Nat := u32 img 20
/-- NDESC: the tensor descriptors of an image. -/
def imgNDesc (img : List Byte) : Nat := u16 img 24
/-- A data queue is inbound (R235). -/
def imgInbound (img : List Byte) (q : Nat) : Bool := bit (u8 img 26) q
/-- The entry index of a stream. -/
def imgEntry (img : List Byte) (st : Stream) : Nat := if st = .access then u16 img 28 else u16 img 30
/-- The number of commands of a stream. -/
def imgCount (img : List Byte) (st : Stream) : Nat := if st = .access then imgNA img else imgNE img
/-- Command `i` of a stream, 32 bytes. -/
def imgCmd (img : List Byte) (st : Stream) (i : Nat) : List Byte :=
  sub img (64 + 32 * (if st = .access then i else imgNA img + i)) 32
/-- Tensor descriptor `h`, 32 bytes. -/
def imgDesc (img : List Byte) (h : Nat) : List Byte := sub img (64 + 32 * (imgNA img + imgNE img + h)) 32

/-- The image of the program whose streams run; empty when there is none. -/
def State.image (s : State) : List Byte := Tab.get [] s.rly.prog.running s.rly.prog.slots

/-- The physical slot that is STANDBY. -/
def Prog.other (p : Prog) : Nat := 1 - p.active

/-- The image in ACTIVE; empty when there is none. -/
def State.activeImage (s : State) : List Byte := Tab.get [] s.rly.prog.active s.rly.prog.slots

/-! ### Lanes (R228) -/

/-- Lane `n`. -/
def State.lane (s : State) (n : Nat) : Lane := Tab.get {} n s.rly.lanes
/-- The state with Lane `n` changed. -/
def State.modLane (s : State) (n : Nat) (f : Lane → Lane) : State :=
  s.modRly fun r => { r with lanes := Tab.mod {} n f r.lanes }

/-- FENCED as RLY.LANES shows it: a Lane that has passed its self-test again is no longer fenced, and rejoins at the next
BAND_OPEN (R263). -/
def Rly.fencedNow (r : Rly) : Nat := r.fenced &&& (0xFFFF ^^^ r.rejoin)

/-- Lanes enabled now: EN is 1 and FENCED 0 (R228). -/
def State.lanesEnabled (s : State) : Nat := s.rlyLanes_EN &&& (0xFFFF ^^^ s.rly.fencedNow)

/-- The Lanes that take part: in the set fixed at the last BAND_OPEN and not fenced since; before the first BAND_OPEN, or
when none of that set is left, the Lanes enabled now. -/
def State.taking (s : State) : Nat :=
  let l := s.rly.laneSet &&& (0xFFFF ^^^ s.rly.fenced)
  if l = 0 then s.lanesEnabled else l

/-- The Lane set in force, by which NL and every LID count (R228). -/
def State.laneSet (s : State) : Nat :=
  if s.rly.laneSet &&& (0xFFFF ^^^ s.rly.fenced) = 0 then s.lanesEnabled else s.rly.laneSet

/-- NL (R228). -/
def State.nl (s : State) : Nat := popcount s.laneSet 16

/-- LID of a Lane of the set (R228). -/
def State.lid (s : State) (n : Nat) : Nat := popcount s.laneSet n

/-- The Lanes that take part, in rising order. -/
def State.lanesIn (s : State) : List Nat := (upTo 16).filter fun n => s.taking.testBit n

/-- The physical Lane with LID 0, or the first that still takes part. -/
def State.lane0 (s : State) : Nat := s.lanesIn.headD 0

/-- A counter of a Lane. -/
def Lane.cnt (l : Lane) (x : Nat) : Int := Tab.get 0 x l.c
/-- A Lane with a counter set, wrapping at 32 bits (R232). -/
def Lane.setC (l : Lane) (x : Nat) (v : Int) : Lane := { l with c := Tab.set x (wrapS 32 v) l.c }
/-- An address register of a Lane. -/
def Lane.areg (l : Lane) (x : Nat) : AReg := Tab.get {} x l.a
/-- A Lane with an address register changed. -/
def Lane.modA (l : Lane) (x : Nat) (f : AReg → AReg) : Lane := { l with a := Tab.mod {} x f l.a }
/-- A comparator of a Lane. -/
def Lane.comp (l : Lane) (x : Nat) : Bool := l.k.testBit x
/-- A Lane with a comparator set. -/
def Lane.setK (l : Lane) (x : Nat) (v : Bool) : Lane := { l with k := putBits l.k x x (b2n v) }
/-- The tiles of a data queue. -/
def Lane.tiles (l : Lane) (q : Nat) : List Tile := Tab.get [] q l.dq
/-- A Lane with a data queue changed. -/
def Lane.modQ (l : Lane) (q : Nat) (f : List Tile → List Tile) : Lane := { l with dq := Tab.mod [] q f l.dq }

/-- The next command index of a stream. -/
def Lane.pc (l : Lane) (st : Stream) : Nat := if st = .access then l.apc else l.epc
/-- Commands of a stream completed since the streams last started. -/
def Lane.pos (l : Lane) (st : Stream) : Nat := if st = .access then l.apos else l.epos
/-- Commands of a stream completed since reset (R265). -/
def Lane.count (l : Lane) (st : Stream) : Nat := if st = .access then l.acnt else l.ecnt
/-- Completed runs of the command at hand. -/
def Lane.runs (l : Lane) (st : Stream) : Nat := if st = .access then l.arun else l.erun

/-- A Lane whose command of a stream has completed; it goes on at `pc`. -/
def Lane.next (l : Lane) (st : Stream) (pc : Nat) : Lane :=
  if st = .access then
    { l with apc := pc % 65536, arun := 0, acnt := (l.acnt + 1) % 2 ^ 64, apos := l.apos + 1, waitA := none }
  else
    { l with epc := pc % 65536, erun := 0, ecnt := (l.ecnt + 1) % 2 ^ 64, epos := l.epos + 1, waitE := none, run := none }

/-- A Lane whose stream waits since `t`, unless it waits already (R261). -/
def Lane.waiting (l : Lane) (st : Stream) (t : Nat) : Lane :=
  if st = .access then { l with waitA := some (l.waitA.getD t) } else { l with waitE := some (l.waitE.getD t) }

/-- A Lane whose stream has gone on, and waits from `t` on. -/
def Lane.waitingFrom (l : Lane) (st : Stream) (t : Nat) : Lane :=
  if st = .access then { l with waitA := some t } else { l with waitE := some t }

/-- A.a advances between two runs (R233): the arithmetic is exact, and the address is taken modulo 2^40 at the end. -/
def AReg.advance (r : AReg) : AReg :=
  let v := (r.value : Int) + r.step
  { r with value := wrapU 40 (if r.modulus = 0 then v else (r.base : Int) + (v - r.base) % (r.modulus : Int)) }

/-! ### Issuing a command (R226, R241, R242; 10_programs.md R388, R389) -/

/-- OPCODE. -/
def cOp (c : List Byte) : Nat := u8 c 0
/-- TAG. -/
def cTag (c : List Byte) : Nat := u16 c 2
/-- REPEAT. -/
def cRepeat (c : List Byte) : Nat := u16 c 4
/-- PEN (R242). -/
def cPen (c : List Byte) : Bool := bit (u8 c 7) 3

/-- A break unit holds back the command `c` of a Lane (10_programs.md R388): by TAG, or when the commands before it bring
the counter of the unit's Lane to COUNT; not the command it was resumed at. Log 93 (DEDUCED). -/
def State.breakHolds (s : State) (b : Nat) (st : Stream) (n : Nat) (c : List Byte) : Bool :=
  let pass := if st = .access then s.rly.prog.passA else s.rly.prog.passE
  let pos := (s.lane n).pos st
  s.rlyBrkCtrl_EN b && (s.rlyBrkCtrl_STREAM b == decide (st = .execute)) && decide (pass ≠ some (b, pos)) &&
    if s.rlyBrkCtrl_KIND b then decide (cTag c = s.rlyBrkCtrl_TAG b)
    else
      let m := s.rlyBrkCtrl_LANE b
      s.lanesIn.contains m &&
        decide ((s.rlyBrkCount_COUNT b : Int) = ((s.lane m).count st : Int) + pos - (s.lane m).pos st)

/-- A break unit holds back the next command of a Lane that takes part (10_programs.md R394). -/
def State.breakPending (s : State) : Bool :=
  (upTo 2).any fun b => [Stream.access, Stream.execute].any fun st => s.lanesIn.any fun n =>
    decide ((s.lane n).runs st = 0) && s.breakHolds b st n (imgCmd s.image st ((s.lane n).pc st))

/-- The place that a stopped stream goes on to: the commands that some Lane has begun are issued to every Lane (R389). -/
def State.issuedTo (s : State) (st : Stream) : Nat :=
  (s.lanesIn.map fun n => let l := s.lane n; l.pos st + (if l.runs st ≠ 0 ∨ (st = .execute ∧ l.run.isSome) then 1 else 0)).foldl max 0

/-- The command at place `pos` of a stream is issued: the buffer of every Lane that takes part, which holds 16 commands of a stream,
has had room for it (R226, R255). -/
def State.issued (s : State) (st : Stream) (pos : Nat) : Bool := s.lanesIn.all fun n => decide (pos < (s.lane n).pos st + 16)

/-- The command that Lane `n` may execute next in a stream: the Relay is enabled and ACTIVE holds a program (10_programs.md R396),
the safe state does not hold (14_faults.md R515), the Lane takes part, the program has such a command and it is issued, and neither
a stop nor a break holds it back (10_programs.md R388, R389). Log 5 (DESIGN CHOICE), 94 (DEDUCED), 140 (DEDUCED). -/
def State.laneCmd (s : State) (st : Stream) (n : Nat) : Option (List Byte) :=
  let l := s.lane n
  let img := s.image
  let stopped := if st = .access then s.rly.prog.stopA else s.rly.prog.stopE
  let step := if st = .access then s.rly.prog.stepA else s.rly.prog.stepE
  if s.rlyCtrl_EN && decide (s.activeImage ≠ []) && !s.flt.safe && s.lanesIn.contains n && decide (l.pc st < imgCount img st) &&
    s.issued st (l.pos st) then
    let c := imgCmd img st (l.pc st)
    if stopped then (if l.pos st < s.issuedTo st ∨ step = some (l.pos st) then some c else none)
    else if l.runs st = 0 && (s.breakHolds 0 st n c || s.breakHolds 1 st n c) then none else some c
  else none

/-- What one run of a command comes to: it waits, it has gone on and waits again, it is done, or it meets an address fault
(R240). -/
inductive Ran where
  | wait
  | part (s : State)
  | done (s : State)
  | fault (s : State)
  deriving DecidableEq, Repr

/-- One run of a Lane's command has been made: address registers in AINC advance before another run (R233); after the
last run the stream goes on with the next command. -/
def State.ranOnce (s : State) (st : Stream) (n : Nat) (c : List Byte) : State :=
  if (s.lane n).runs st + 1 < cRepeat c then
    s.modLane n fun l =>
      let l1 := (upTo 8).foldl (fun l a => if bit (u8 c 6) a then l.modA a AReg.advance else l) l
      if st = .access then { l1 with arun := l.arun + 1, waitA := none } else { l1 with erun := l.erun + 1, waitE := none, run := none }
  else s.modLane n fun l => l.next st (l.pc st + 1)

/-! ### The work epoch (R251) -/

/-- An epoch is provisional and the Relay does not know it to be sealed. Log 82 (DEDUCED). -/
def State.unsettled (s : State) (e : Epoch) : Bool := !settledIn s.rly.tracker e

/-- The open band context is void (R252, R253). -/
def State.ctxVoid (s : State) : Bool := s.rly.ctx.isSome && (recalledIn s.rly.tracker s.rly.we || s.rly.spoiled)

/-- The later of two epochs of one frame: a final one ranks before every provisional one (R46). -/
def laterEp (w e : Epoch) : Epoch :=
  if epSeq w = 0 then e else if epSeq e = 0 then w else if seqGe (epSeq e) (epSeq w) then e else w

/-- The merge of two epochs (R46): the latest of one frame; of two frames the one that is not settled; none while provisional epochs of
two frames would be combined. A recalled one of them stands at once, for it is never sealed. Log 82 (DEDUCED). -/
def State.mergeEp (s : State) (w e : Epoch) : Option Epoch :=
  match s.unsettled w, s.unsettled e with
  | true, true =>
    if epFrame w = epFrame e then some (laterEp w e)
    else if recalledIn s.rly.tracker w then some w
    else if recalledIn s.rly.tracker e then some e
    else none
  | true, false => some w
  | false, true => some e
  | false, false => some (if epFrame w = epFrame e then laterEp w e else w)

/-- The flags that a merge ORs (R236, R251). -/
def mergeMask : Nat := 0xFC

/-- WE after a merge (R251). What is recalled merges at once and makes the context void (R253, R260); a WE that has been recalled waits
for the epoch of another frame like any other. Log 82 (DEDUCED). -/
def State.mergeWe (s : State) (e : Epoch) : Option Epoch :=
  let w := s.rly.we
  if recalledIn s.rly.tracker e then
    some (if epFrame w = epFrame e then laterEp w e else if s.unsettled w then w else e)
  else if s.unsettled w && s.unsettled e && decide (epFrame w ≠ epFrame e) then none
  else s.mergeEp w e

/-- WE and the work flags after a merge, when it need not wait. -/
def State.merge (s : State) (e : Epoch) (flags : Nat) : Option State :=
  (s.mergeWe e).map fun w => s.modRly fun r =>
    { r with we := w, wflags := r.wflags ||| (flags &&& mergeMask), spoiled := r.spoiled || recalledIn r.tracker e }

/-! ### Batons, credits and the abandoned band (R248, R262) -/

/-- Baton `b`. -/
def State.baton (s : State) (b : Nat) : Baton := Tab.get {} b s.rly.batons
/-- The state with baton `b` changed. -/
def State.modBaton (s : State) (b : Nat) (f : Baton → Baton) : State :=
  s.modRly fun r => { r with batons := Tab.mod {} b f r.batons }

/-- The output-area credit of a Track Engine record returns (05_track.md R209). -/
def State.outCredit (s : State) (c : Option Nat) : State :=
  match c with
  | none => s
  | some off => s.modTrk fun t => { t with outHeld := t.outHeld.filter fun x => decide (x.1 ≠ off) }

/-- A baton becomes FREE, and the credit it holds returns (R248). -/
def State.freeBaton (s : State) (b : Nat) : State :=
  (s.outCredit (s.baton b).credit).modBaton b fun _ => {}

/-- Every OWNED and RETURNED baton that `p` picks becomes FREE, every LENT one ORPHAN (R262). -/
def State.dropBatons (s : State) (p : Baton → Bool) : State :=
  eachOf (upTo 256) (fun b s =>
    let x := s.baton b
    if !p x then s
    else if x.state = 1 ∨ x.state = 3 then s.freeBaton b
    else if x.state = 2 then s.modBaton b fun y => { y with state := 4 }
    else s) s

/-- An engine returns a baton with a record's address (R247, R249, R262): LENT becomes RETURNED, ORPHAN becomes FREE with
its credit returned. -/
def State.returnBaton (s : State) (b addr : Nat) (credit : Option Nat) : State :=
  let x := s.baton b
  if x.state = 2 then s.modBaton b fun y => { y with state := 3, addr := addr, credit := credit }
  else if x.state = 4 then (s.outCredit credit).modBaton b fun _ => {}
  else s.outCredit credit

/-- A band-done credit goes back to the Pan (R171, R254). -/
def State.bandCredit (s : State) (off : Nat) : State := s.modPan fun p => { p with credits := p.credits ++ [off] }

/-- A SEAL of `e` concerns epochs up to it, a RECALL those from it on, of its frame (01_line.md R43). Log 91 (DEDUCED). -/
def concerns (rcl : Bool) (e x : Epoch) : Bool :=
  decide (epFrame x = epFrame e) && decide (epSeq x ≠ 0) && if rcl then seqGe (epSeq x) (epSeq e) else seqGe (epSeq e) (epSeq x)

/-- The epoch's notice is still to be taken from the band queue, or to come. -/
def State.noticeDue (s : State) (e : Epoch) : Bool :=
  decide (viewOf s.rly.tracker e = 0) || s.rly.bandq.any fun b => match b.tok with
    | .seal x _ => concerns false x e
    | .rcl x _ => concerns true x e
    | .band _ _ _ _ _ => false

/-- The Relay has sent a record of a provisional epoch, whose notice it has not passed on, to a destination (R253): 0 Track Engine,
1 Solver, 2 Actuation, 3 report ring. -/
def State.noteSent (s : State) (dest : Nat) (e : Epoch) : State :=
  if epSeq e = 0 ∨ s.rly.sent.contains (dest, e) ∨ s.noticeDue e = false then s
  else s.modRly fun r => { r with sent := r.sent ++ [(dest, e)] }

/-- The Relay posts a record to its report ring (R256). -/
def State.rlyReport (s : State) (r : Rec) : State :=
  if s.rlyReport_EN then (s.post s.rlyReport_RING (recBytes r)).noteSent 3 r.epoch else s

/-- BAND_ABANDON for a band of WE or of a token (R256). -/
def State.postAbandon (s : State) (e : Epoch) (k : BitVec 32) (reason lane : Nat) : State :=
  s.rlyReport (mkRec 0x30 0x5A (flagIf (s.unsettled e) fPROV + flagIf s.tunc fTUNC) e s.dev
    (by4 k.toNat ++ by1 reason ++ by1 lane ++ zeros 2))

/-- Both streams start at the entry points of the program of a slot, with every register 0, queues empty and WE reset
(R262, 10_programs.md R381). Counts stay. -/
def State.restartStreams (s : State) (slot : Nat) : State :=
  let img := Tab.get [] slot s.rly.prog.slots
  s.modRly fun r =>
    { r with
      lanes := (upTo 16).map fun n =>
        (n, { Tab.get ({} : Lane) n r.lanes with
              a := [], c := [], k := 0, dq := [], apc := imgEntry img .access, epc := imgEntry img .execute,
              arun := 0, erun := 0, apos := 0, epos := 0, waitA := none, waitE := none, run := none, kvq := [] })
      decq := []
      we := 0
      wflags := 0
      spoiled := false
      loops := []
      prog := { r.prog with
        running := slot, passA := none, passE := none, byA := none, byE := none, stepA := none, stepE := none } }

/-- The band is abandoned (R262), or the streams are reset when no context is open (R261). -/
def State.abandon (s : State) (reason lane : Nat) : State :=
  let s1 := s.dropBatons fun _ => true
  let s2 :=
    match s1.rly.ctx with
    | none => s1
    | some c =>
      ((s1.bandCredit c.off).postAbandon s1.rly.we c.k reason lane).modRly fun r =>
        { r with ctx := none, abandoned := satAdd 255 r.abandoned 1 }
  s2.restartStreams s2.rly.prog.running

/-- R240 applies in a Lane: LANE_ADDR, and the band is abandoned with REASON 5. -/
def State.addrFault (s : State) (n : Nat) : State := (s.raiseU 0x35 (0x60 + n) 0xFF 0).abandon 5 n

/-- A Lane executes its next command of a stream when it has opcode `op` (R226): a command that is predicated off
completes at once with no effect (R242); otherwise one run of `f` is made, which may wait (R237) or meet an address
fault. No effect when the next command is another one, or the stream cannot go on. Log 5 (DESIGN CHOICE). -/
def State.laneDo (s : State) (op : Nat) (st : Stream) (n : Nat) (f : List Byte → State → Ran) : State :=
  match s.laneCmd st n with
  | none => s
  | some c =>
    if cOp c ≠ op then s
    else if cPen c && !(s.lane n).comp (u8 c 7 % 4) then s.modLane n fun l => l.next st (l.pc st + 1)
    else
      match f c s with
      | .wait => s.modLane n fun l => l.waiting st s.now
      | .part s1 => s1.modLane n fun l => l.waitingFrom st s1.now
      | .done s1 => s1.ranOnce st n c
      | .fault s1 => s1.addrFault n

/-- The Lanes that take part stand at one command of a stream, each at the start of its runs: that command (R227).
Log 5 (DESIGN CHOICE), 95 (DEDUCED). -/
def State.barrier (s : State) (st : Stream) : Option (List Byte) :=
  let l0 := s.lane s.lane0
  if s.lanesIn.all fun n => decide ((s.lane n).pos st = l0.pos st) && decide ((s.lane n).pc st = l0.pc st)
      && decide ((s.lane n).runs st = l0.runs st) then
    s.laneCmd st s.lane0
  else none

/-- The Lanes that stand furthest back in a stream, at one command and at the start of one of its runs, with that command: of a command
that gathers Lanes, the others have completed it (R242, R244). Log 95 (DEDUCED). -/
def State.gathered (s : State) (st : Stream) : Option (List Nat × List Byte) :=
  let p := s.lanesIn.foldl (fun m n => min m ((s.lane n).pos st)) ((s.lane s.lane0).pos st)
  let ls := s.lanesIn.filter fun n => decide ((s.lane n).pos st = p)
  let l0 := s.lane (ls.headD 0)
  if ls.all fun n => decide ((s.lane n).pc st = l0.pc st) && decide ((s.lane n).runs st = l0.runs st) then
    (s.laneCmd st (ls.headD 0)).map fun c => (ls, c)
  else none

/-- Lane `n` stands at a command that `p` picks. -/
def State.standsAt (s : State) (st : Stream) (p : List Byte → Bool) (n : Nat) : Bool := (s.laneCmd st n).any p

/-- The Lanes that stand at a command that `p` picks wait there for the others, and that wait is measured (R261). -/
def State.standWait (s : State) (st : Stream) (p : List Byte → Bool) : State :=
  eachOf (s.lanesIn.filter (s.standsAt st p)) (fun n s => s.modLane n fun l => l.waiting st s.now) s

/-- A command is predicated off in a Lane (R242). -/
def State.offIn (s : State) (c : List Byte) (n : Nat) : Bool := cPen c && !(s.lane n).comp (u8 c 7 % 4)

/-- A command of the execute stream that gathers the Lanes, those where it is predicated off apart, which complete it at once (R242, R244,
R245): `f` is run once with the Lanes that execute it. Log 95 (DEDUCED). -/
def State.gatherDo (s : State) (p : List Byte → Bool) (f : List Nat → List Byte → State → Ran) : State :=
  let off := s.lanesIn.filter fun n => (s.laneCmd .execute n).any fun c => p c && s.offIn c n
  let s1 := eachOf off (fun n s => s.modLane n fun l => l.next .execute (l.pc .execute + 1)) s
  match s.gathered .execute with
  | none => s1.standWait .execute p
  | some (ls, c) =>
    let on := ls.filter fun n => !off.contains n
    if !p c || on.isEmpty then s1.standWait .execute p
    else
      match f on c s1 with
      | .wait => eachOf on (fun n s => s.modLane n fun l => l.waiting .execute s.now) s1
      | .part s2 => eachOf on (fun n s => s.modLane n fun l => l.waitingFrom .execute s2.now) s2
      | .done s2 => eachOf on (fun n s => s.ranOnce .execute n c) s2
      | .fault s2 => s2.addrFault (on.headD 0)

/-- Every Lane that takes part has completed the command of a stream at hand and goes on at `pc`. -/
def State.allNext (s : State) (st : Stream) (pc : Nat) : State :=
  eachOf s.lanesIn (fun n s => s.modLane n fun l => l.next st pc) s

/-- One run of a command that every Lane makes together has been made. -/
def State.allRan (s : State) (st : Stream) (c : List Byte) : State :=
  eachOf s.lanesIn (fun n s => s.ranOnce st n c) s

/-- Every Lane that takes part waits at the command of a stream at hand. Log 5 (DESIGN CHOICE). -/
def State.allWait (s : State) (st : Stream) : State :=
  eachOf s.lanesIn (fun n s => s.modLane n fun l => l.waiting st s.now) s

/-- A Relay-level command, executed once at a barrier of every Lane that takes part (R227); while the Lanes have not all arrived, those
that have wait. Log 5 (DESIGN CHOICE). -/
def State.relayDo (s : State) (op : Nat) (f : List Byte → State → Ran) : State :=
  match s.barrier .access with
  | none => s.standWait .access fun c => decide (cOp c = op)
  | some c =>
    if cOp c ≠ op then s
    else
      match f c s with
      | .wait => s.allWait .access
      | .part s1 => s1.allWait .access
      | .done s1 => s1.allRan .access c
      | .fault s1 => s1.addrFault s.lane0

/-! ### Operands (R234, R238, R240) -/

/-- A scalar source (R234) of a Lane; `reg` is the address register of code 0xD. Log 95 (DEDUCED). -/
def State.scalar (s : State) (n code reg : Nat) : Int :=
  let l := s.lane n
  match code with
  | 0x8 => s.lid n
  | 0x9 => s.nl
  | 0xA => spSize / 1024
  | 0xB => s.rly.ctx.elim 0 fun c => c.k.toInt
  | 0xC => b2n s.ctxVoid
  | 0xD => signed 32 (l.areg reg).value
  | x => if x < 8 then l.cnt x else 0

/-- The scratchpad address of an access command: SPADDR at byte 12, plus A.s when SUSE is 1 (R238). -/
def State.spAddr (s : State) (n : Nat) (c : List Byte) : Nat :=
  let b := u8 c 9
  (u32 c 12 + (if bit b 3 then ((s.lane n).areg (b % 8)).value else 0)) % 2 ^ 40

/-- `len` bytes of the scratchpad of a Lane; none where they reach its end (R240). -/
def State.spRead (s : State) (n a len : Nat) : Option (List Byte) :=
  if len = 0 ∨ a + len ≤ spSize then some (s.readMem (spBase + n * spSize + a) len) else none

/-- Bytes written to the scratchpad of a Lane; none where they reach its end (R240). -/
def State.spWrite (s : State) (n a : Nat) (d : List Byte) : Option State :=
  if d.length = 0 ∨ a + d.length ≤ spSize then some (s.writeMem (spBase + n * spSize + a) d) else none

/-- A Lane may read `len` bytes of device memory at `a`: DRAM, Pan SRAM, or its own scratchpad window (R238). -/
def State.laneReads (s : State) (n a len : Nat) : Bool :=
  s.inDram a len || inPan a len || (decide (spBase + n * spSize ≤ a) && decide (a + len ≤ spBase + (n + 1) * spSize))

/-- A.m plus a signed offset, modulo 2^40 (R233, R238). -/
def Lane.memAddr (l : Lane) (m : Nat) (off : Int) : Nat := wrapU 40 (((l.areg m).value : Int) + off)

end Sys2Proof.Machine
end

