-- ==== Sys2Proof/Machine/Num.lean ====
section
/-! DEFINITION. The number formats of the Lanes (07_aurik_ops.md R266 to R279): exact values, reading and writing one
element or one row, rounding, saturation, the accumulation of class F, and correctly rounded roots and exponentials. -/

namespace Sys2Proof.Machine

open Sys2Proof

/-- An exact value: a rational n/d with d > 0, a negative zero, an infinity, a NaN (also NaR, R271), or the result of an
invalid operation, which is NaN in class F and 0 with SAT in classes I and X (R290). -/
inductive Val where
  | rat (n : Int) (d : Nat)
  | negZero
  | inf (neg : Bool)
  | nan
  | invalid
  deriving DecidableEq, Repr

/-- An integer as a value. -/
def Val.int (n : Int) : Val := .rat n 1

/-- +0. -/
def Val.zero : Val := .rat 0 1

/-- m × 2^e. -/
def Val.dyadic (m : Int) (e : Int) : Val :=
  if 0 ≤ e then .rat (m * ((2 ^ e.toNat : Nat) : Int)) 1 else .rat m (2 ^ (-e).toNat)

/-- The value is a NaN. -/
def Val.isNan : Val → Bool
  | .nan => true
  | .invalid => true
  | _ => false

/-- The sign bit of a value; a NaN has none. -/
def Val.isNeg : Val → Bool
  | .rat n _ => decide (n < 0)
  | .negZero => true
  | .inf neg => neg
  | _ => false

/-- The value is zero, of either sign. -/
def Val.isZero : Val → Bool
  | .rat n _ => decide (n = 0)
  | .negZero => true
  | _ => false

/-- A zero of a sign. -/
def Val.zeroOf (neg : Bool) : Val := if neg then .negZero else .zero

/-- −v. -/
def Val.neg : Val → Val
  | .rat n d => if n = 0 then .negZero else .rat (-n) d
  | .negZero => .zero
  | .inf b => .inf (!b)
  | v => v

/-- |v|. -/
def Val.abs (v : Val) : Val := if v.isNeg then v.neg else v

/-- The exact product; an infinity times zero is NaN (R279). -/
def Val.mul (a b : Val) : Val :=
  match a, b with
  | .nan, _ => .nan
  | _, .nan => .nan
  | .invalid, _ => .invalid
  | _, .invalid => .invalid
  | .inf x, b => if b.isZero then .invalid else .inf (x != b.isNeg)
  | a, .inf y => if a.isZero then .invalid else .inf (a.isNeg != y)
  | .rat n d, .rat m e => if n * m = 0 then Val.zeroOf (decide (n < 0) != decide (m < 0)) else .rat (n * m) (d * e)
  | a, b => Val.zeroOf (a.isNeg != b.isNeg)

/-- The exact sum of two values; +0 unless both are −0 (R272). -/
def Val.add (a b : Val) : Val :=
  match a, b with
  | .nan, _ => .nan
  | _, .nan => .nan
  | .invalid, _ => .invalid
  | _, .invalid => .invalid
  | .inf x, .inf y => if x = y then .inf x else .invalid
  | .inf x, _ => .inf x
  | _, .inf y => .inf y
  | .rat n d, .rat m e => .rat (n * (e : Int) + m * (d : Int)) (d * e)
  | .negZero, .negZero => .negZero
  | .negZero, b => b
  | a, .negZero => a

/-- a − b. -/
def Val.sub (a b : Val) : Val := a.add b.neg

/-- The exact sum of a list: +0 for an empty one, and unless every term is −0 (R272). -/
def Val.sum : List Val → Val
  | [] => .zero
  | v :: t => t.foldl Val.add v

/-- The exact quotient: division by zero gives an infinity, 0 ÷ 0 and ∞ ÷ ∞ are invalid (R290). -/
def Val.div (a b : Val) : Val :=
  match a, b with
  | .nan, _ => .nan
  | _, .nan => .nan
  | .invalid, _ => .invalid
  | _, .invalid => .invalid
  | .inf x, b => if b matches .inf _ then .invalid else .inf (x != b.isNeg)
  | a, .inf y => Val.zeroOf (a.isNeg != y)
  | a, .negZero => if a.isZero then .invalid else .inf (!a.isNeg)
  | .negZero, .rat m _ => if m = 0 then .invalid else Val.zeroOf (decide (0 < m))
  | .rat n d, .rat m e =>
    if m = 0 then (if n = 0 then .invalid else .inf (decide (n < 0)))
    else if n = 0 then Val.zeroOf (decide (m < 0))
    else if m < 0 then .rat (-n * (e : Int)) (d * m.natAbs) else .rat (n * (e : Int)) (d * m.natAbs)

/-- a < b for numbers; false where either is a NaN. Zeros of both signs are equal. -/
def Val.lt (a b : Val) : Bool :=
  match a, b with
  | .nan, _ => false
  | _, .nan => false
  | .invalid, _ => false
  | _, .invalid => false
  | .inf x, .inf y => x && !y
  | .inf x, _ => x
  | _, .inf y => !y
  | .rat n d, .rat m e => decide (n * (e : Int) < m * (d : Int))
  | .negZero, .rat m _ => decide (0 < m)
  | .rat n _, .negZero => decide (n < 0)
  | .negZero, .negZero => false

/-- a = b for numbers; false where either is a NaN. -/
def Val.eqv (a b : Val) : Bool := !a.isNan && !b.isNan && !a.lt b && !b.lt a

/-- The greater of two values: a NaN if either is one; +0 counts as greater than −0 (R289). -/
def Val.max (a b : Val) : Val :=
  if a.isNan then a else if b.isNan then b
  else if a.lt b then b else if b.lt a then a else if a.isNeg then b else a

/-- The lesser of two values, likewise. -/
def Val.min (a b : Val) : Val :=
  if a.isNan then a else if b.isNan then b
  else if a.lt b then a else if b.lt a then b else if a.isNeg then a else b

/-! ### Rounding -/

/-- n/d rounded to an integer by a ROUND code of R274: 0 nearest even, 1 nearest away from zero, 2 toward zero,
3 toward −∞. -/
def roundI (mode : Nat) (n : Int) (d : Nat) : Int :=
  match mode with
  | 0 => rneDiv n d
  | 1 => rhaDiv n d
  | 2 => if 0 ≤ n then n / (d : Int) else -((-n) / (d : Int))
  | _ => n / (d : Int)

/-- ⌊log2 (n/d)⌋ of a positive rational. -/
def floorLog2 (n d : Nat) : Int :=
  let k := (Nat.log2 n : Int) - (Nat.log2 d : Int)
  let ge := if 0 ≤ k then decide (d * 2 ^ k.toNat ≤ n) else decide (d ≤ n * 2 ^ (-k).toNat)
  if ge then k else k - 1

/-- A floating format: precision with the hidden bit, least exponent of a normal, exponent field width, bias, and the
largest finite value as significand and exponent of its unit; whether it has infinities; its canonical NaN. -/
structure FFmt where
  p : Nat
  emin : Int
  bias : Int
  ebits : Nat
  maxSig : Nat
  maxExp : Int
  hasInf : Bool
  canonNan : Nat
  deriving DecidableEq, Repr

/-- FP32 (R266). -/
def fp32 : FFmt := ⟨24, -126, 127, 8, 2 ^ 24 - 1, 104, true, 0x7FC00000⟩
/-- FP16 (R266). -/
def fp16 : FFmt := ⟨11, -14, 15, 5, 2 ^ 11 - 1, 5, true, 0x7E00⟩
/-- BF16 (R266). -/
def bf16 : FFmt := ⟨8, -126, 127, 8, 2 ^ 8 - 1, 120, true, 0x7FC0⟩
/-- FP8-E4M3 (R268). -/
def e4m3 : FFmt := ⟨4, -6, 7, 4, 14, 5, false, 0x7F⟩
/-- FP8-E5M2 (R268). -/
def e5m2 : FFmt := ⟨3, -14, 15, 5, 7, 13, true, 0x7E⟩

/-- A number rounded to a significand r and the exponent q of its unit, the exponent unbounded above: r × 2^q. -/
def roundSig (f : FFmt) (mode : Nat) (n : Int) (d : Nat) : Int × Int :=
  let e := floorLog2 n.natAbs d
  let q := (if e < f.emin then f.emin else e) - ((f.p : Int) - 1)
  let r := if 0 ≤ q then roundI mode n (d * 2 ^ q.toNat) else roundI mode (n * ((2 ^ (-q).toNat : Nat) : Int)) d
  if r.natAbs = 2 ^ f.p then (r / 2, q + 1) else (r, q)

/-- r × 2^q lies beyond the largest finite value of a format. -/
def beyond (f : FFmt) (r : Int) (q : Int) : Bool :=
  decide (f.maxExp < q) || (decide (q = f.maxExp) && decide (f.maxSig < r.natAbs))

/-- A value rounded to a floating format, still as a value; beyond the largest finite it is an infinity. -/
def roundV (f : FFmt) (mode : Nat) (v : Val) : Val :=
  match v with
  | .rat n d =>
    if n = 0 then .zero
    else
      let rq := roundSig f mode n d
      if rq.1 = 0 then Val.zeroOf (decide (n < 0))
      else if beyond f rq.1 rq.2 then .inf (decide (n < 0)) else Val.dyadic rq.1 rq.2
  | .invalid => .nan
  | v => v

/-- rne32: a value rounded to FP32, nearest even (R279). -/
def rne32 (v : Val) : Val := roundV fp32 0 v

/-- The exponent and mantissa fields' width, sign excluded. -/
def FFmt.width (f : FFmt) : Nat := f.ebits + f.p - 1

/-- The value of a code of a floating format (R266, R268). -/
def floatVal (f : FFmt) (code : Nat) : Val :=
  let neg := code.testBit f.width
  let m := code % 2 ^ (f.p - 1)
  let e := (code >>> (f.p - 1)) % 2 ^ f.ebits
  let sgn : Int := if neg then -1 else 1
  if f.hasInf && e = 2 ^ f.ebits - 1 then (if m = 0 then .inf neg else .nan)
  else if !f.hasInf && e = 2 ^ f.ebits - 1 && m = 2 ^ (f.p - 1) - 1 then .nan
  else if e = 0 then (if m = 0 then Val.zeroOf neg else Val.dyadic (sgn * m) (f.emin - ((f.p : Int) - 1)))
  else Val.dyadic (sgn * ((2 ^ (f.p - 1) + m : Nat) : Int)) ((e : Int) - f.bias - ((f.p : Int) - 1))

/-- The code of r × 2^q, which the format holds exactly. -/
def floatCode (f : FFmt) (neg : Bool) (r : Nat) (q : Int) : Nat :=
  b2n neg * 2 ^ f.width +
    (if r < 2 ^ (f.p - 1) then r else (q + ((f.p : Int) - 1) + f.bias).toNat * 2 ^ (f.p - 1) + (r - 2 ^ (f.p - 1)))

/-- A value converted into a floating format (R275), and whether it was beyond the largest finite value (R277). An infinity, which is
no number, stays one where the format has infinities (R290). Log 169 (DEDUCED). -/
def toFloat (f : FFmt) (mode : Nat) (satf : Bool) (v : Val) : Nat × Bool :=
  let excess (neg : Bool) : Nat × Bool :=
    (if satf then floatCode f neg f.maxSig f.maxExp
     else if f.hasInf then b2n neg * 2 ^ f.width + (2 ^ f.ebits - 1) * 2 ^ (f.p - 1) else f.canonNan, true)
  match v with
  | .nan => (f.canonNan, false)
  | .invalid => (f.canonNan, false)
  | .negZero => (2 ^ f.width, false)
  | .inf neg => if f.hasInf then (b2n neg * 2 ^ f.width + (2 ^ f.ebits - 1) * 2 ^ (f.p - 1), true) else excess neg
  | .rat n d =>
    if n = 0 then (0, false)
    else
      let rq := roundSig f mode n d
      if rq.1 = 0 then (b2n (decide (n < 0)) * 2 ^ f.width, false)
      else if beyond f rq.1 rq.2 then excess (decide (n < 0))
      else (floatCode f (decide (n < 0)) rq.1.natAbs rq.2, false)

/-! ### Formats by code (R266) -/

/-- The floating format of a code. -/
def floatOf (fmt : Nat) : Option FFmt :=
  match fmt with
  | 0x08 => some e4m3
  | 0x09 => some e5m2
  | 0x0A => some fp16
  | 0x0B => some bf16
  | 0x0C => some fp32
  | _ => none

/-- The format code is listed. -/
def fmtOk (fmt : Nat) : Bool := decide (1 ≤ fmt) && decide (fmt ≤ 0x12)

/-- Storage bits per element, scale bytes excluded. -/
def fmtBits (fmt : Nat) : Nat :=
  match fmt with
  | 0x01 | 0x02 | 0x0D => 4
  | 0x03 | 0x04 | 0x08 | 0x09 | 0x0E => 8
  | 0x05 | 0x06 | 0x0A | 0x0B => 16
  | 0x07 | 0x0C | 0x11 => 32
  | 0x0F => 10
  | 0x10 => 12
  | 0x12 => 64
  | _ => 8

/-- The format is block-scaled (R269). -/
def fmtMx (fmt : Nat) : Bool := decide (fmt = 0x0D) || decide (fmt = 0x0E)

/-- The format is class I (R273). -/
def fmtI (fmt : Nat) : Bool := decide (1 ≤ fmt ∧ fmt ≤ 7) || decide (fmt = 0x0F) || decide (fmt = 0x10)

/-- The format is class X (R273). -/
def fmtX (fmt : Nat) : Bool := decide (fmt = 0x11) || decide (fmt = 0x12)

/-- The format is class F (R273). -/
def fmtF (fmt : Nat) : Bool := decide (0x08 ≤ fmt ∧ fmt ≤ 0x0E)

/-- The class of a format: 0 I, 1 F, 2 X (R273). -/
def fmtClass (fmt : Nat) : Nat := if fmtI fmt then 0 else if fmtF fmt then 1 else 2

/-- The bytes of a row of n elements (R267, R269, R270). -/
def rowBytes (fmt n : Nat) : Nat :=
  if fmt = 0x0D then (n + 31) / 32 * 17
  else if fmt = 0x0E then (n + 31) / 32 * 33
  else (fmtBits fmt * n + 7) / 8

/-- The range of a class I format. -/
def intRange (fmt : Nat) : Int × Int :=
  match fmt with
  | 0x01 => (-8, 7)
  | 0x02 => (0, 15)
  | 0x03 => (-128, 127)
  | 0x04 => (0, 255)
  | 0x05 => (-32768, 32767)
  | 0x06 => (0, 65535)
  | 0x07 => (-2147483648, 2147483647)
  | 0x0F => (0, 1023)
  | _ => (0, 4095)

/-- The greatest code of a packed UNORM format, 0 for another format (R270). -/
def unormMax (fmt : Nat) : Nat := if fmt = 0x0F then 1023 else if fmt = 0x10 then 4095 else 0

/-- The raw code of element i of a row, its scale byte aside. -/
def rawElem (fmt : Nat) (row : List Byte) (i : Nat) : Nat :=
  match fmt with
  | 0x0D => (u8 row (i / 32 * 17 + i % 32 / 2) >>> (4 * (i % 2))) % 16
  | 0x0E => u8 row (i / 32 * 33 + i % 32)
  | _ =>
    let b := fmtBits fmt
    (leNat ((row.drop (b * i / 8)).take (b / 8 + 2)) >>> (b * i % 8)) % 2 ^ b

/-- Twice the magnitudes of FP4 E2M1 (R269). -/
def fp4Mag (c : Nat) : Nat :=
  match c with
  | 0 => 0 | 1 => 1 | 2 => 2 | 3 => 3 | 4 => 4 | 5 => 6 | 6 => 8 | _ => 12

/-- The value of a class I code, as its raw integer. -/
def intVal (fmt code : Nat) : Int :=
  match fmt with
  | 0x01 => signed 4 code
  | 0x03 => signed 8 code
  | 0x05 => signed 16 code
  | 0x07 => signed 32 code
  | _ => code

/-- The binary point of a class X format with a descriptor's BP (R271). -/
def fxPoint (fmt bp : Nat) : Nat := if fmt = 0x12 then 2 * bp else bp

/-- The exact value of element i of a row in a format (R266 to R271, R273). -/
def elemVal (fmt bp : Nat) (row : List Byte) (i : Nat) : Val :=
  let c := rawElem fmt row i
  match floatOf fmt with
  | some f => floatVal f c
  | none =>
    if fmt = 0x0D then
      let sc := u8 row (i / 32 * 17 + 16)
      if sc = 0xFF then .nan
      else if fp4Mag (c % 8) = 0 then Val.zeroOf (c.testBit 3)
      else Val.dyadic ((if c.testBit 3 then -1 else 1) * (fp4Mag (c % 8) : Int)) ((sc : Int) - 128)
    else if fmt = 0x0E then
      let sc := u8 row (i / 32 * 33 + 32)
      if sc = 0xFF then .nan else Val.dyadic (signed 8 c) ((sc : Int) - 133)
    else if fmtX fmt then
      let w := fmtBits fmt
      if c = 2 ^ (w - 1) then .nan else Val.dyadic (signed w c) (-(fxPoint fmt bp : Int))
    else .int (intVal fmt c)

/-- The value of an element as a source of a conversion into a class F or X target: a UNORM code counts as
code ÷ 1 023 or code ÷ 4 095 (R275). Log 96 (DEDUCED). -/
def unitVal (fmt bp : Nat) (row : List Byte) (i : Nat) : Val :=
  if unormMax fmt = 0 then elemVal fmt bp row i else .rat (rawElem fmt row i) (unormMax fmt)

/-- A value times 2^e. -/
def Val.scale (v : Val) (e : Int) : Val := v.mul (Val.dyadic 1 e)

/-- A value rounded to an integer and brought into lo..hi, and whether it saturated (R275). NaN is 0, and counts as a
saturation (R277). -/
def toInt (mode : Nat) (lo hi : Int) (v : Val) : Int × Bool :=
  match v with
  | .nan => (0, true)
  | .invalid => (0, true)
  | .negZero => (0, false)
  | .inf neg => (if neg then lo else hi, true)
  | .rat n d => let r := roundI mode n d; (clampI lo hi r, decide (r < lo) || decide (hi < r))

/-- A value converted into one element of a format that is not block-scaled (R275), as its code, and whether it
saturated (R277). `fsrc` says that the value is a floating one, which enters a UNORM target times its greatest code. -/
def toElem (fmt bp mode : Nat) (satf fsrc : Bool) (v : Val) : Nat × Bool :=
  match floatOf fmt with
  | some f => toFloat f mode satf v
  | none =>
    let w := fmtBits fmt
    if fmtX fmt then
      match v with
      | .nan => (2 ^ (w - 1), false)
      | v =>
        let m : Int := ((2 ^ (w - 1) - 1 : Nat) : Int)
        let r := toInt mode (-m) m (v.scale (fxPoint fmt bp))
        (wrapU w r.1, r.2)
    else
      let v := if fsrc && decide (unormMax fmt ≠ 0) then v.mul (.int (unormMax fmt)) else v
      let r := toInt mode (intRange fmt).1 (intRange fmt).2 v
      (wrapU w r.1, r.2)

/-- The greatest magnitude of a list of numbers. -/
def maxAbs (l : List Val) : Val := l.foldl (fun m v => m.max v.abs) .zero

/-- The FP4 E2M1 code nearest to a value, by a ROUND code: the magnitude is rounded on the code's own grid (R276). -/
def toFp4 (mode : Nat) (v : Val) : Nat :=
  match v with
  | .rat n d =>
    let a := n.natAbs
    -- on the grid of 1/2 below 2, of 1 below 4, of 2 above
    let e := if a < 2 * d then (-1 : Int) else if a < 4 * d then 0 else 1
    let md := if mode = 3 && decide (n < 0) then 4 else mode
    let x := if e = -1 then 2 * a else a
    let y := if e = 1 then 2 * d else d
    let r : Nat := if md = 4 then (x + y - 1) / y else (roundI md x y).toNat
    let half : Nat := if e = -1 then r else if e = 0 then 2 * r else 4 * r
    let c := if 12 ≤ half then 7 else if half = 8 then 6 else if half = 6 then 5 else if half ≤ 4 then half else 6
    (if n < 0 then 8 else 0) + c
  | .negZero => 8
  | _ => 0

/-- A block of 32 values converted into a block-scaled format (R276): its bytes, and whether SAT is set (R277). -/
def toBlock (fmt mode : Nat) (l : List Val) : List Byte × Bool :=
  let n := if fmt = 0x0D then 16 else 32
  if l.any (fun v => v.isNan || (v matches .inf _)) then (zeros n ++ by1 0xFF, true)
  else if l.all Val.isZero then (zeros n ++ by1 0, false)
  else
    let x : Int := match maxAbs l with
      | .rat m d => floorLog2 m.natAbs d - (if fmt = 0x0D then 2 else 0)
      | _ => 0
    let sc := clampI 0 254 (x + 127)
    let el := l.map fun v => v.scale (127 - sc)
    let body :=
      if fmt = 0x0D then
        let cs := el.map (toFp4 mode)
        (upTo 16).flatMap fun i => by1 (cs.getD (2 * i) 0 + 16 * cs.getD (2 * i + 1) 0)
      else el.flatMap fun v => by1 (wrapU 8 (toInt mode (-128) 127 (v.scale 6)).1)
    (body ++ by1 sc.toNat, decide (254 < x + 127))

/-- n values cut into pieces of k. -/
def chunks {α : Type} (k : Nat) : Nat → List α → List (List α)
  | 0, _ => []
  | n + 1, l => l.take k :: chunks k n (l.drop k)

/-- A row of values written in a format (R267, R269, R270, R275, R276): its bytes, and whether any element saturated. -/
def encodeRow (fmt bp mode : Nat) (satf fsrc : Bool) (l : List Val) : List Byte × Bool :=
  if fmtMx fmt then
    let bs := (chunks 32 ((l.length + 31) / 32) l).map fun b => toBlock fmt mode (b ++ List.replicate (32 - b.length) .zero)
    (bs.flatMap (fun b => b.1), bs.any (fun b => b.2))
  else
    let cs := l.map (toElem fmt bp mode satf fsrc)
    let v := cs.foldr (fun c acc => c.1 + 2 ^ fmtBits fmt * acc) 0
    (leBytes (rowBytes fmt l.length) v, cs.any (fun c => c.2))

/-! ### Accumulation (R278, R279) -/

/-- One block of R279: acc := rne32(acc + rne32(s)). -/
def accBlock (acc s : Val) : Val := rne32 (acc.add (rne32 s))

/-- The floating sum of R279 over products in order, from c converted to FP32, or from +0. -/
def accF (c : Option Val) (ps : List Val) : Val :=
  (chunks 32 ((ps.length + 31) / 32) ps).foldl (fun acc b => accBlock acc (Val.sum b)) (c.elim .zero rne32)

/-- A value in which a zero has no sign: elements of classes I and X, and exact products of them, have no −0 (R273). -/
def Val.plain (v : Val) : Val := if v.isZero then .zero else v

/-- A sum in a class: R279 in class F, exact in classes I and X (R278). -/
def accIn (cls : Nat) (c : Option Val) (ps : List Val) : Val :=
  if cls = 1 then accF c ps else Val.sum ((c.elim [] fun x => [x]) ++ ps.map Val.plain)

/-- A value in which an invalid operation has given NaN, which is NaR in class X and 0 in class I (R302). -/
def Val.settle : Val → Val
  | .invalid => .nan
  | v => v

/-- The result of a floating sum whose terms `ins` are finite but which is an infinity has overflowed (R279): with SATF it saturates as it
enters a plain floating format, like the number beyond every such format that it is taken for (R302). Log 196 (DEDUCED). -/
def overV (fmt : Nat) (satf : Bool) (ins : List Val) (v : Val) : Val :=
  match v with
  | .inf neg =>
    if satf && (floatOf fmt).isSome && ins.all (fun x => !(x matches .inf _)) then .rat (if neg then -(2 ^ 200) else 2 ^ 200) 1 else v
  | v => v

/-- The low `k` codes of `b` bits of a string of bytes, the rest of it 0. -/
def lowCodes (b k : Nat) (l : List Byte) : List Byte := leBytes l.length (leNat l % 2 ^ (b * k))

/-- `n` elements of a row copied: every NaN becomes the canonical one of a floating format (R272), and what lies beyond the last
element is 0 (R267, R270, R297). -/
def canonRow (fmt n : Nat) (row : List Byte) : List Byte :=
  match floatOf fmt with
  | none =>
    if fmtMx fmt then
      let w := if fmt = 0x0D then 16 else 32
      (upTo ((n + 31) / 32)).flatMap fun k =>
        lowCodes (w / 4) (min 32 (n - 32 * k)) (sub row ((w + 1) * k) w) ++ sub row ((w + 1) * k + w) 1
    else lowCodes (fmtBits fmt) n (sub row 0 (rowBytes fmt n))
  | some f => (upTo n).flatMap fun i =>
      let c := rawElem fmt row i
      leBytes (fmtBits fmt / 8) (if floatVal f c = .nan then f.canonNan else c)

/-! ### Correctly rounded roots and exponentials

The root or exponential is cut off far below the last bit of every format; a cut that is not exact leaves an odd last
digit, so that rounding it gives what rounding the exact value gives. -/

/-- ⌊√n⌋, by `k` steps that each settle one bit from 2^k down. -/
def isqrtGo (n : Nat) : Nat → Nat → Nat
  | 0, r => r
  | k + 1, r => let c := r + 2 ^ k; isqrtGo n k (if c * c ≤ n then c else r)

/-- ⌊√n⌋. -/
def isqrt (n : Nat) : Nat := isqrtGo n (Nat.log2 n / 2 + 1) 0

/-- √(n/d) of a non-negative rational to `w` binary places, odd in the next one where it is not exact. -/
def sqrtRat (w n d : Nat) : Val :=
  let m := n * d * 4 ^ w
  let r := isqrt m
  -- √(n/d) = √(n d) / d
  .rat (((if r * r = m then 2 * r else 2 * r + 1 : Nat)) : Int) (d * 2 ^ (w + 1))

/-- The root of a value: of a negative one it is invalid (R290). -/
def Val.sqrt (v : Val) : Val :=
  match v with
  | .rat n d => if n < 0 then .invalid else if n = 0 then .zero else sqrtRat 320 n.toNat d
  | .inf neg => if neg then .invalid else .inf false
  | v => v

/-- Σ x^i / i! in units of 2^-w for x in those units, from term i on, `k` terms. -/
def expTaylor (w x : Nat) : Nat → Nat → Nat → Nat
  | 0, _, _ => 0
  | k + 1, i, t => t + expTaylor w x k (i + 1) (t * x / 2 ^ w / (i + 1))

/-- x squared `k` times, in units of 2^-w. -/
def sqTimes (w : Nat) : Nat → Nat → Nat
  | 0, x => x
  | k + 1, x => sqTimes w k (x * x / 2 ^ w)

/-- exp32: e^x rounded to FP32, nearest even (08_attention.md R319), with exp32(−∞) = +0. The series is summed to 320
binary places; below −104 the result rounds to +0, above 89 to +∞. -/
def exp32 (v : Val) : Val :=
  match v with
  | .nan => .nan
  | .invalid => .nan
  | .negZero => .int 1
  | .inf neg => if neg then .zero else .inf false
  | .rat n d =>
    if n = 0 then .int 1
    else if n < -104 * (d : Int) then .zero
    else if 89 * (d : Int) < n then .inf false
    else
      let w := 320
      let t := n.natAbs * 2 ^ w / d / 1024
      let e := sqTimes w 10 (expTaylor w t 70 0 (2 ^ w))
      if 0 < n then rne32 (.rat ((2 * e + 1 : Nat) : Int) (2 ^ (w + 1)))
      else rne32 (.rat ((2 ^ (w + 1) : Nat) : Int) (2 * e + 1))

end Sys2Proof.Machine
end

