-- ==== Sys2Proof/Machine/Access.lean ====
section
/-! DEFINITION. The commands that a Lane executes for itself, but for macro-operations (06_aurik_machine.md R243), EMIT
(R251, R256), and the branches and decisions that the Relay resolves for all Lanes (R244). -/

namespace Sys2Proof.Machine

open Sys2Proof

/-- The rows of LOAD: `k` rows copied from device memory to scratchpad; stops at an address fault (R240, R243). -/
def loadRows (n rb : Nat) (mstride : Int) (sstride : Nat) : Nat → Int → Nat → State → Ran
  | 0, _, _, s => .done s
  | k + 1, ma, sa, s =>
    let a := wrapU 40 ma
    if s.laneReads n a rb then
      match s.spWrite n sa (s.readMem a rb) with
      | none => .fault s
      | some s1 => loadRows n rb mstride sstride k (ma + mstride) ((sa + sstride) % 2 ^ 40) s1
    else .fault s

/-- The rows of STORE, from scratchpad to DRAM (R238, R240, R243). -/
def storeRows (n rb : Nat) (mstride : Int) (sstride : Nat) : Nat → Int → Nat → State → Ran
  | 0, _, _, s => .done s
  | k + 1, ma, sa, s =>
    let a := wrapU 40 ma
    if s.inDram a rb then
      match s.spRead n sa rb with
      | none => .fault s
      | some d => storeRows n rb mstride sstride k (ma + mstride) ((sa + sstride) % 2 ^ 40) (s.writeMem a d)
    else .fault s

/-- LOAD (R243). -/
def execLoad (lane : Nat) (s : State) : Host.Outcome State Fault Refusal :=
  .next <| s.laneDo 0x01 .access lane fun c s =>
    loadRows lane (u16 c 10) (s32 c 20) (u32 c 24) (u16 c 16) ((s.lane lane).memAddr (u8 c 8 % 8) (s32 c 28))
      (s.spAddr lane c) s

/-- STORE (R243). -/
def execStore (lane : Nat) (s : State) : Host.Outcome State Fault Refusal :=
  .next <| s.laneDo 0x02 .access lane fun c s =>
    storeRows lane (u16 c 10) (s32 c 20) (u32 c 24) (u16 c 16) ((s.lane lane).memAddr (u8 c 8 % 8) (s32 c 28))
      (s.spAddr lane c) s

/-- `k` rows of a tile read from scratchpad, each RSTRIDE after the one before (R243). -/
def tileRows (s : State) (n rb stride : Nat) : Nat → Nat → Option (List Byte)
  | 0, _ => some []
  | k + 1, a => (s.spRead n a rb).bind fun d => (tileRows s n rb stride k ((a + stride) % 2 ^ 40)).map fun t => d ++ t

/-- `k` rows of a tile written to scratchpad. -/
def untileRows (n rb stride : Nat) : Nat → Nat → List Byte → State → Option State
  | 0, _, _, s => some s
  | k + 1, a, d, s =>
    (s.spWrite n a (sub d 0 rb)).bind fun s1 => untileRows n rb stride k ((a + stride) % 2 ^ 40) (d.drop rb) s1

/-- PUSH: a tile with the work epoch and work flags goes into an inbound queue; waits while it holds 64 (R236, R237). -/
def execPush (lane : Nat) (s : State) : Host.Outcome State Fault Refusal :=
  .next <| s.laneDo 0x03 .access lane fun c s =>
    let q := u8 c 8 % 4
    if 64 ≤ ((s.lane lane).tiles q).length then .wait
    else
      match tileRows s lane (rowBytes (u8 c 10) 32) (u32 c 16) 32 (s.spAddr lane c) with
      | none => .fault s
      | some d => .done (s.modLane lane fun l => l.modQ q fun t => t ++ [⟨d, s.rly.we, s.rly.wflags &&& mergeMask, 0⟩])

/-- POP: the oldest tile of an outbound queue goes into scratchpad and its tag merges into the work epoch; waits while
the queue is empty, or while the merge is held (R236, R237, R251). -/
def execPop (lane : Nat) (s : State) : Host.Outcome State Fault Refusal :=
  .next <| s.laneDo 0x04 .access lane fun c s =>
    let q := u8 c 8 % 4
    match (s.lane lane).tiles q with
    | [] => .wait
    | t :: _ =>
      match s.merge t.epoch t.flags with
      | none => .wait
      | some s1 =>
        match untileRows lane (rowBytes (u8 c 10) 32) (u32 c 16) 32 (s.spAddr lane c) t.data s1 with
        | none => .fault s
        | some s2 => .done (s2.modLane lane fun l => l.modQ q fun ts => ts.drop 1)

/-- LDA: A.d := ADD + the value read at A.m + OFF; BASE with it (R243). -/
def execLda (lane : Nat) (s : State) : Host.Outcome State Fault Refusal :=
  .next <| s.laneDo 0x05 .access lane fun c s =>
    let w := if u8 c 10 = 1 then 8 else 4
    let a := (s.lane lane).memAddr (u8 c 9 % 8) (s64 c 16)
    if s.laneReads lane a w then
      let v := (u64 c 24 + leNat (s.readMem a w)) % 2 ^ 40
      .done (s.modLane lane fun l => l.modA (u8 c 8 % 8) fun r => { r with value := v, base := v })
    else .fault s

/-- SETA: VALUE := BASE := IMM + LIDMUL × LID; sets STEP and MOD (R243). -/
def execSeta (lane : Nat) (s : State) : Host.Outcome State Fault Refusal :=
  .next <| s.laneDo 0x08 .access lane fun c s =>
    let v := wrapU 40 ((u64 c 16 : Int) + s32 c 12 * s.lid lane)
    .done (s.modLane lane fun l => l.modA (u8 c 8 % 8) fun _ => ⟨v, v, s32 c 24, u32 c 28⟩)

/-- ADDA: VALUE advances by IMM, or by C.x × IMM (R243). -/
def execAdda (lane : Nat) (s : State) : Host.Outcome State Fault Refusal :=
  .next <| s.laneDo 0x09 .access lane fun c s =>
    let k : Int := if bit (u8 c 9) 3 then (s.lane lane).cnt (u8 c 9 % 8) * s64 c 16 else s64 c 16
    .done (s.modLane lane fun l => l.modA (u8 c 8 % 8) fun r => { r with value := wrapU 40 ((r.value : Int) + k) })

/-- SETC: C := source + IMM (R243). -/
def execSetc (lane : Nat) (st : Stream) (s : State) : Host.Outcome State Fault Refusal :=
  .next <| s.laneDo 0x0A st lane fun c s =>
    .done (s.modLane lane fun l => l.setC (u8 c 8 % 8) (s.scalar lane (u8 c 9) (u8 c 10 % 8) + s32 c 12))

/-- ADDC: C := C + IMM, plus the source with SUSE (R243). -/
def execAddc (lane : Nat) (st : Stream) (s : State) : Host.Outcome State Fault Refusal :=
  .next <| s.laneDo 0x0B st lane fun c s =>
    let k : Int := if bit (u8 c 10) 0 then s.scalar lane (u8 c 9) (u8 c 11 % 8) else 0
    .done (s.modLane lane fun l => l.setC (u8 c 8 % 8) (l.cnt (u8 c 8 % 8) + s32 c 12 + k))

/-- A comparison code of CMP: 0 EQ, 1 NE, 2 LT, 3 GE, signed (R243). -/
def cmpOp (op : Nat) (a b : Int) : Bool :=
  match op with
  | 0 => decide (a = b)
  | 1 => decide (a ≠ b)
  | 2 => decide (a < b)
  | _ => decide (b ≤ a)

/-- CMP: K := (source OP limit) (R243). -/
def execCmp (lane : Nat) (st : Stream) (s : State) : Host.Outcome State Fault Refusal :=
  .next <| s.laneDo 0x0C st lane fun c s =>
    let lim := if bit (u8 c 16) 0 then wrapS 32 (s32 c 12 + (s.lane lane).cnt (u8 c 17 % 8)) else s32 c 12
    .done (s.modLane lane fun l =>
      l.setK (u8 c 8 % 4) (cmpOp (u8 c 11) (s.scalar lane (u8 c 9) (u8 c 10 % 8)) lim))

/-- NOP (R243). -/
def execNop (lane : Nat) (st : Stream) (s : State) : Host.Outcome State Fault Refusal :=
  .next <| s.laneDo 0x2F st lane fun _ s => .done s

/-- A Lane whose loop counter goes down by 1 (R244). -/
def Lane.loopDown (l : Lane) (x : Nat) : Lane := l.setC x (l.cnt x - 1)

/-- BR with COND 0 or 3, which each Lane takes for itself (R244). -/
def ownBr (c : List Byte) : Bool := decide (cOp c = 0x10) && (decide (u8 c 8 = 0) || decide (u8 c 8 = 3))

/-- The path of a COND 3 branch, for the counter `v` of Lane `n` counted down: the Lane with LID 0 decides, and another Lane takes
the path that it took at this place and run, or has none yet (R244). -/
def State.loopPath (s : State) (st : Stream) (n : Nat) (v : Int) : Option Bool :=
  let l := s.lane n
  if n = s.lane0 then some (decide (v ≠ 0))
  else (s.rly.loops.find? fun x => decide (x.1 = st ∧ x.2.1 = l.pos st ∧ x.2.2.1 = l.runs st)).map fun x => x.2.2.2

/-- The path that the Lane with LID 0 takes is kept until every Lane has passed that place. -/
def State.noteLoop (s : State) (st : Stream) (n : Nat) (b : Bool) : State :=
  if n ≠ s.lane0 then s
  else
    let l := s.lane n
    s.modRly fun r => { r with
      loops := (r.loops.filter fun x => decide (x.1 ≠ st) || s.lanesIn.any fun k => decide ((s.lane k).pos st ≤ x.2.1)) ++
        [(st, l.pos st, l.runs st, b)] }

/-- A Lane takes a branch with COND 0 or 3: COND 3 counts its counter down first, and waits for the path that the Lane with LID 0 takes
(R244). A run that does not jump is followed by the next run; a jump ends the command. Log 95 (DEDUCED). -/
def State.laneBr (s : State) (st : Stream) (n : Nat) : State :=
  match s.laneCmd st n with
  | none => s
  | some c =>
    let x := u8 c 9 % 8
    let go (s : State) (b : Bool) : State := if b then s.modLane n fun l => l.next st (u32 c 12) else s.ranOnce st n c
    if u8 c 8 = 0 then go s true
    else
      let d := (s.lane n).loopDown x
      match s.loopPath st n (d.cnt x) with
      | none => s.modLane n fun l => l.waiting st s.now
      | some b => go ((s.noteLoop st n b).modLane n fun l => l.loopDown x) b

/-- BR: a branch with COND 0 or 3 is taken by each Lane that stands at one; of the others the Relay resolves one once, when every Lane
that takes part has arrived, and all take the same path (R244). Log 95 (DEDUCED). -/
def execBr (st : Stream) (s : State) : Host.Outcome State Fault Refusal :=
  .next <|
    let own := s.lanesIn.filter (s.standsAt st ownBr)
    if own ≠ [] then eachOf own (fun n s => s.laneBr st n) s
    else
      match s.barrier st with
      | none => s.standWait st fun c => decide (cOp c = 0x10)
      | some c =>
        if cOp c ≠ 0x10 then s
        else
          let x := u8 c 9 % 4
          let go (s : State) (b : Bool) : State := if b then s.allNext st (u32 c 12) else s.allRan st c
          match u8 c 8 with
          | 1 => go s (s.lanesIn.all fun n => (s.lane n).comp x)
          | 2 => go s (s.lanesIn.any fun n => (s.lane n).comp x)
          | 4 =>
            match s.rly.decq with
            | [] => s.allWait st
            | d :: t => go (s.modRly fun r => { r with decq := t }) d
          | _ => s

/-- DECIDE: a comparator combined over the Lanes goes onto the decision queue; waits while that holds 16 (R244). A Lane
where it is predicated off takes no part in the combination (R242). -/
def execDecide (s : State) : Host.Outcome State Fault Refusal :=
  .next <| s.gatherDo (fun c => decide (cOp c = 0x12)) fun ls c s =>
    if 16 ≤ s.rly.decq.length then .wait
    else
      let k := u8 c 8 % 4
      let d := if u8 c 9 = 0 then ls.all fun n => (s.lane n).comp k else ls.any fun n => (s.lane n).comp k
      .done (s.modRly fun r => { r with decq := r.decq ++ [d] })

/-! ### EMIT (R251, R252, R256) -/

/-- A TYPE that EMIT may pass on (R256). -/
def emitType (t : Nat) : Bool :=
  decide (0x40 ≤ t ∧ t ≤ 0x4F) || decide (0x60 ≤ t ∧ t ≤ 0x6F) || decide (0xF0 ≤ t)

/-- The header bytes 1 to 5 that the Relay writes on an EMIT (R251): SOURCE, BATON kept, FLAGS, EPOCH. -/
def State.emitHead (s : State) (lane : Nat) (h : List Byte) : List Byte :=
  let fl := flagIf (s.unsettled s.rly.we) fPROV + ((u8 h 3 ||| s.rly.wflags) &&& 0x7C) + (u8 h 3 &&& fLAST)
  by1 (0x60 + lane) ++ sub h 2 1 ++ by1 fl ++ by2 s.rly.we.toNat

/-- The bytes that the Actuation intake copies of a record: 0 to 31 and the requests (11_actuation.md R402, R415). -/
def intakeBytes (d : List Byte) : List Byte :=
  let n := if u8 d 0 = 0x60 then verdictCount d else 0
  sub d 0 (32 + 16 * n)

/-- The program that runs is RETIRING under CANCEL: what it emits to the Actuation Unit is discarded there (10_programs.md R386). -/
def State.cancelled (s : State) : Bool :=
  s.rly.prog.exch.elim false fun x => x.switched && x.cancel && decide (s.rly.prog.running = x.oldSlot)

/-- EMIT of the record at `a` to DEST 0 Actuation, 1 report ring, 2 both. -/
def State.emitRec (s : State) (lane a dest ring : Nat) : Ran :=
  let h := s.readMem a 8
  let len := 8 * u16 h 6
  if !s.inDram a 8 || !emitType (u8 h 0) || decide (u16 h 6 < 2) || !s.inDram a len then
    .done (s.raiseU 0x34 (0x60 + lane) 0xFF 0)
  else if (dest ≠ 1) && decide (32 ≤ s.act.intake.length) then .wait
  else
    let s1 := s.writeMem (a + 1) (s.emitHead lane h)
    let d := s1.readMem a len
    let e := s1.rly.we
    let s2 := if dest = 1 then s1 else
      (s1.modAct fun x => { x with intake := x.intake ++ [⟨intakeBytes d, some s1.rly.prog.running, false, s1.cancelled⟩] }).noteSent 2 e
    let s3 := if dest = 0 then s2 else
      let s' := s2.post ring d
      if ring = s2.rlyReport_RING then s'.noteSent 3 e else s'
    .done s3

/-- EMIT (R251, R252, R256). -/
def execEmit (lane : Nat) (s : State) : Host.Outcome State Fault Refusal :=
  .next <| s.laneDo 0x28 .access lane fun c s =>
    if bit (u8 c 11) 0 && decide (s.lid lane ≠ 0) then .done s
    else if s.ctxVoid then .done (s.modRly fun r => { r with voided := satAdd 255 r.voided 1 })
    else s.emitRec lane ((s.lane lane).memAddr (u8 c 8 % 8) (s64 c 16)) (u8 c 9) (u8 c 10)

end Sys2Proof.Machine
end

