-- ==== Sys2Proof/Machine/Position.lean ====
section
/-! DEFINITION. The position P(t) of a motion frame (04_motion_pan.md R156, R157, R583), and the time at which it reaches
a point (11_actuation.md R410). -/

namespace Sys2Proof.Machine

open Sys2Proof

/-- A DT64 later by an integer. -/
def dtAdd (t : DT64) (d : Int) : DT64 := t + BitVec.ofInt 64 d

/-- Microseconds as a DT64 duration. -/
def usToDt (us : Nat) : Nat := nsToDt (1000 * us)

/-- q of R156, in 2^-16 WP48 units, n 2^-16 ticks after a tick. -/
def Tick.q (k : Tick) (n : Int) : Int := k.p.toInt + k.v.toInt * n / 65536 + k.a.toInt * n * n / 8589934592

/-- P(t) of R156, evaluated from a tick. -/
def Tick.pos (k : Tick) (t : DT64) : WP48 := wpOf ((k.q (dtSub t k.t * 65536 / 42950) + 32768) / 65536)

/-- The latest processed tick of a frame at or before t (R156). -/
def Motion.tickAt (m : Motion) (t : DT64) : Option Tick := m.ticks.find? fun k => dtGe t k.t

/-- P(t) where it is confirmed (R156, R583). -/
def Motion.confirmed (m : Motion) (t : DT64) : Option WP48 :=
  match m.tconf with
  | none => none
  | some c => if dtGe c t then (m.tickAt t).map fun k => k.pos t else none

/-- P(t), confirmed, or predicted within the horizon (R156); an absent frame has no predicted position (R187, R188). -/
def State.posAt (s : State) (f : Nat) (t : DT64) : Option WP48 :=
  let m := s.motion f
  match m.tconf with
  | none => none
  | some c =>
    if dtGe c t then m.confirmed t
    else if m.absent then none
    else if dtGe (dtAdd c (usToDt (s.motHorizon_US f))) t then (m.ticks.head?).map fun k => k.pos t
    else none

/-- The latest tick of a frame with its stamp in the device time of now: a step since then shifts it (02_timekeeper.md R90). -/
def Motion.headTick (m : Motion) : Option Tick := (m.ticks.head?).map fun k => { k with t := dtAdd k.t m.shift }

/-- P(T_conf): the last position the frame can give. -/
def Motion.lastPos (m : Motion) : Option WP48 := (m.ticks.head?).map fun k => k.pos k.t

/-- P(T_conf) of a frame, ORIGIN from its enabling to its first tick (R154). -/
def State.framePos (s : State) (f : Nat) : WP48 :=
  ((s.motion f).lastPos).getD (if (s.motion f).enabled then wpOf (s.motOrigin_ORIGIN f) else 0)

/-- P(now), or P(T_conf) where it does not exist (11_actuation.md R409); a step of device time leaves it (02_timekeeper.md R90). -/
def State.posNow (s : State) (f : Nat) : Option WP48 :=
  let m := s.motion f
  m.headTick.map fun k =>
    if m.absent || !dtGe (dtAdd k.t (usToDt (s.motHorizon_US f))) s.dev then k.pos k.t else k.pos s.dev

/-- The least n in lo .. lo + 2^k with `p n`, for a `p` that stays true once it is. -/
def leastFrom (p : Int → Bool) : Nat → Int → Int
  | 0, lo => lo
  | k + 1, lo => if p (lo + (2 ^ k : Nat) - 1) then leastFrom p k lo else leastFrom p k (lo + (2 ^ k : Nat))

/-- The least device time t ≥ t_j at which R156, evaluated from tick j and continued beyond the horizon, reaches a
position (11_actuation.md R410); none when it never does. -/
def Tick.reach (k : Tick) (target : WP48) : Option DT64 :=
  let want := 65536 * ((k.p.toInt + 32768) / 65536 - wpSub (wpOf ((k.p.toInt + 32768) / 65536)) target) - 32768
  let v := k.v.toInt
  let a := k.a.toInt
  let at_ (n : Int) : DT64 := dtAdd k.t ((n * 42950 + 65535) / 65536)
  if want ≤ k.q 0 then some k.t
  else if v ≤ 0 ∧ a ≤ 0 then none
  else
    let turn : Int := if a = 0 then 0 else (-v) * 65536 / a
    if a < 0 then
      if k.q turn < want then none
      else some (at_ (leastFrom (fun n => decide (turn ≤ n) || decide (want ≤ k.q n)) 64 0))
    else
      let n := leastFrom (fun n => decide (want ≤ k.q n)) 64 (if v < 0 then turn else 0)
      if want ≤ k.q n then some (at_ n) else none

/-- The speed of a frame is below `mms` mm/s; an absent frame has speed 0 (R157). v is in 2^-20 µm per 10 µs. -/
def Motion.slower (m : Motion) (mms : Nat) : Bool :=
  m.absent ||
    match m.ticks.head? with
    | none => true
    | some k => decide (k.v.toInt.natAbs * 100000 < mms * 1000 * 1048576)

/-- |v| of a frame, in 2^-16 units per tick; 0 while it is absent (R157). -/
def Motion.speedRaw (m : Motion) : Nat := if m.absent then 0 else (m.ticks.head?).elim 0 fun k => k.v.toInt.natAbs

end Sys2Proof.Machine
end

