-- ==== Sys2Proof/Machine/Act.lean ====
section
/-! DEFINITION. The Verdict and Actuation Unit (11_actuation.md): outputs, the schedule, verdicts, guard points, firing,
and what the safe state, an exchange, an absent frame and a step of time do to it. -/

namespace Sys2Proof.Machine

open Sys2Proof

/-- The Actuation Unit's SOURCE (01_line.md R39). -/
def actSource : Nat := 0x5D

/-- Output `n`. -/
def State.outp (s : State) (n : Nat) : Output := Tab.get {} n s.act.outs
/-- The state with output `n` changed. -/
def State.modOut (s : State) (n : Nat) (f : Output → Output) : State :=
  s.modAct fun a => { a with outs := Tab.mod {} n f a.outs }

/-- The entry of a number. -/
def State.entry (s : State) (no : Nat) : Option Entry := s.act.entries.find? fun e => decide (e.no = no)
/-- The state with an entry changed. -/
def State.modEntry (s : State) (no : Nat) (f : Entry → Entry) : State :=
  s.modAct fun a => { a with entries := modFirst (fun e => decide (e.no = no)) f a.entries }

/-- COMMITTED or FIRING (R401). -/
def Entry.fixed (e : Entry) : Bool := decide (e.state = .committed) || decide (e.state = .firing)

/-- The output is enabled (R399, R404). -/
def State.outEnabled (s : State) (n : Nat) : Bool := s.actCtrl_EN && (decide (n = 32) || s.actCfg_EN n)

/-- DEFAULT of an output (R399, R413). -/
def State.outDefault (s : State) (n : Nat) : Bool := if n = 32 then s.actLstop_DEFAULT else s.actCfg_DEFAULT n

/-- The frame of the output's expectation generator, while it has one (R407). -/
def State.genFrame (s : State) (n : Nat) : Option Nat := if s.actExp_MODE n = 0 then none else some (s.actExp_FRAME n)

/-- The unit is in FLOOD (R421), the safe state's SAFE levels aside. -/
def State.flooding (s : State) : Bool := decide (s.act.state = .flood) || s.act.floodIn

/-- The output is held in its default state (R421, R423, R431); output 32 knows no absent frame. -/
def State.outHeld (s : State) (n : Nat) : Bool :=
  s.flooding || (s.outp n).ueUntil.isSome ||
    (decide (n < 32) && !s.actCfg_MABS n && (decide ((s.outp n).mabs ≠ 0) || (s.genFrame n).elim false fun f => (s.motion f).absent))

/-- The output drives its active level now: at full drive, or in the hold phase for the fraction DUTY ÷ 256 of each 50 µs (R411;
16_module.md R573). -/
def State.driven (s : State) (n : Nat) : Bool :=
  match (s.outp n).drive with
  | .idle => false
  | .full => true
  | .hold => decide ((s.now - (s.outp n).holdFrom) % (50 * usTicks) * 256 < s.actHold_DUTY n * (50 * usTicks))

/-- The level commanded at the pin of ACT.n (R399, R411, R421, R428, R429): a hold leaves a pulse that is on (R423), but FLOOD has cut
it off already (R425). A high-side output is on as its supply allows below brown-out, which is a free value (15_startup.md R530).
Log 25 (DESIGN CHOICE), 118 (DEDUCED). -/
def State.outLevel (s : State) (n : Nat) : Bool :=
  if (s.outp n).trip || (s.aon.sag && decide (n < 16) && !bit (Config.sagHold s.now) n) then false
  else if s.flt.safe || decide (s.act.state = .safe) || !s.actCtrl_EN || !s.actCfg_EN n then s.actCfg_SAFE n
  else if s.outHeld n && decide ((s.outp n).drive = .idle) then (s.actCfg_IDLE n != s.actCfg_DEFAULT n)
  else (s.actCfg_IDLE n != s.driven n)

/-! ### Records (R416 to R418) -/

/-- ACT_STATE (R417). -/
def State.postActState (s : State) (st cause : Nat) : State :=
  s.report s.actReport_EN s.actReport_RING (mkRec 0x62 actSource (flagIf s.tunc fTUNC) 0 s.dev
    (by1 st ++ by1 cause ++ by2 s.act.entries.length ++ by4 s.act.flooded))

/-- The ACTION record of a freed entry (R416). Log 112 (DEDUCED). -/
def State.actionRec (s : State) (e : Entry) (outcome cause : Nat) : Rec :=
  let fired := decide (outcome = 1)
  let fl := e.bind.elim 0 fun b => b.flags &&& fREREL
  mkRec 0x61 actSource (fl + flagIf (if fired then s.tuncAt e.edge else s.tunc) fTUNC) (e.bind.elim 0 fun b => b.epoch)
    (if fired then e.edge else s.dev)
    (by1 e.out ++ by1 outcome ++ by1 cause ++
      by1 (b2n e.late + 2 * b2n e.merged + 4 * b2n e.flood + 8 * b2n (decide (e.origin = .expect)) +
        16 * b2n (decide (e.origin = .host)) + 32 * b2n e.lateReq) ++
      by2 e.key ++ by2 (min 65535 e.nbind) ++
      (if e.position then by8i (BitVec.ofNat 48 e.trig.toNat).toInt else by8 e.trig.toNat) ++
      by8i (if fired && e.position then e.firedPos.toInt else 0) ++ by4 (min (2 ^ 32 - 1) e.lateness) ++
      by4 (e.bind.elim 0 fun b => b.mark.toNat))

/-- FLOOD ends when OCC falls below 2 048 (R421); outputs that stand at SAFE stay there until RUN (R428). -/
def State.floodExit (s : State) : State :=
  if s.flooding ∧ s.act.entries.length < 2048 then
    (s.modAct fun a => { a with state := if a.state = .flood then .run else a.state, floodIn := false }).postActState 0 0
  else s

/-- An entry is freed with its ACTION record (R416), and FLOOD may end. Log 112 (DEDUCED). -/
def State.freeEntry (s : State) (e : Entry) (outcome cause : Nat) : State :=
  let s1 := s.modAct fun a => { a with entries := a.entries.filter fun x => decide (x.no ≠ e.no) }
  (s1.report s1.actReport_EN s1.actReport_RING (s.actionRec e outcome cause)).floodExit

/-! ### LINE_STOP_N (R413, R421, R428) -/

/-- LINE_STOP_N is asserted with a cause; one that is asserted already keeps its cause unless `again`. Log 114 (DEDUCED). -/
def State.lineStop (s : State) (cause : Nat) (again : Bool) : State :=
  s.modAct fun a => { a with lstop := true, lstopCause := if a.lstop && !again then a.lstopCause else cause }

/-- Every FIRING entry of an output is freed: its pulse has ended (R401, R411). Log 115 (DEDUCED). -/
def State.pulseDone (s : State) (n : Nat) : State :=
  eachOf (s.act.entries.filter fun e => decide (e.out = n) && decide (e.state = .firing))
    (fun e s => s.freeEntry e 1 e.cause) (s.modOut n fun o => { o with drive := .idle })

/-- The unit enters FLOOD (R421), and the held levels replace the pulses that are on at once (R425); outputs that stand at SAFE stay there
until RUN (R428). -/
def State.floodEnter (s : State) : State :=
  let s1 := s.modAct fun a => if a.state = .safe then { a with floodIn := true } else { a with state := .flood }
  let s2 := if s1.actLstop_DEFAULT then s1.lineStop 3 true else s1
  eachOf (upTo 32) (fun n s => s.pulseDone n) (s2.postActState 1 0)

/-! ### Guard points, crossing times and commits (R409, R410, R414) -/

/-- LEAD of an output, as a DT64 duration; 0 for output 32. -/
def State.leadDt (s : State) (n : Nat) : Int := if n = 32 then 0 else usToDt (s.actLead_US n)

/-- The crossing time tc of an entry (R410): AT of a TIME entry; for a POSITION entry, evaluated from the latest tick. -/
def State.crossing (s : State) (e : Entry) : Option DT64 :=
  if e.position then ((s.motion e.frame).headTick).bind fun k => k.reach (BitVec.ofNat 48 e.trig.toNat) else some e.trig

/-- The device time at which an entry's guard point is reached, where the frame's position says so (R409). -/
def State.guardTime (s : State) (e : Entry) : Option DT64 :=
  if e.position then
    let g := if e.out = 32 then 0 else s.actGuard_UNITS e.out
    let target := BitVec.ofNat 48 e.trig.toNat - BitVec.ofNat 48 g
    let m := s.motion e.frame
    if (s.posNow e.frame).elim false fun p => decide (0 ≤ wpSub p target) then some s.dev
    else
      m.headTick.bind fun k => (k.reach target).bind fun t =>
        if dtGe (dtAdd k.t (usToDt (s.motHorizon_US e.frame))) t then some t else none
  else some (dtAdd e.trig (-(if e.out = 32 then 0 else (usToDt (s.actGuardT_US e.out) : Int))))

/-- The earlier of two optional times. -/
def earlier (a b : Option DT64) : Option DT64 :=
  match a, b with
  | none, b => b
  | a, none => a
  | some x, some y => some (if dtGe x y then y else x)

/-- The device time at which an entry commits: its guard point or the start of its edge, whichever is earlier (R409). -/
def State.commitTime (s : State) (e : Entry) : Option DT64 :=
  earlier (s.guardTime e) ((s.crossing e).map fun t => dtAdd t (-(s.leadDt e.out)))

/-- The lateness of an entry now, in ns (R414). -/
def State.latenessOf (s : State) (e : Entry) : Nat :=
  if e.position then
    let m := s.motion e.frame
    if m.slower 10 then 0
    else
      match s.posNow e.frame with
      | none => 0
      | some p =>
        -- units of 2^-4 µm over |v| 2^-16 units per 10 µs
        let d := (wpSub p (BitVec.ofNat 48 e.trig.toNat)).toNat
        if m.speedRaw = 0 then 0 else d * 65536 * 10000 / m.speedRaw
  else dtToNs (dtSub s.dev e.trig).toNat

/-- The decision and CAUSE an entry takes when it commits (R406, R409, R418). -/
def State.decisionOf (s : State) (e : Entry) : Bool × Nat :=
  match e.bind with
  | none => (s.outDefault e.out, 1)
  | some b =>
    match b.state with
    | .void => (s.outDefault e.out, 3)
    | .provisional => (s.outDefault e.out, if b.absent then 4 else 2)
    | .settled => (b.fire, 0)

/-- An entry commits now (R409). A FIRE beyond its lateness limit is freed as NOT_FIRED, STALE (R414), unless a forward
step passed it (R425). -/
def State.commit (s : State) (e : Entry) : State :=
  let d := s.decisionOf e
  let late := s.latenessOf e
  let e1 := { e with state := .committed, fire := d.1, cause := d.2, lateness := late }
  let s1 := s.modAct fun a =>
    { a with defaults := if 1 ≤ d.2 ∧ d.2 ≤ 4 then (a.defaults + 1) % 65536 else a.defaults }
  if d.1 && !e.skipped && decide (e.out ≠ 32) && decide (1000 * s.actGap_LATE_US e.out < late) then
    (s1.modAct fun a => { a with late := satAdd 65535 a.late 1 }).freeEntry e1 2 7
  else s1.modEntry e.no fun _ => e1

/-- An entry that is already past its commit time commits at once (R422). -/
def State.commitIfDue (s : State) (no : Nat) : State :=
  match s.entry no with
  | none => s
  | some e =>
    if e.fixed then s
    else if (s.commitTime e).elim false fun t => dtGe s.dev t then s.commit e else s

/-! ### Requests (R403 to R406) -/

/-- A request's fields (R403). -/
structure Request where
  out : Nat
  position : Bool
  fire : Bool
  frame : Nat
  key : Nat
  width : Nat
  trig : BitVec 64
  deriving DecidableEq, Repr

/-- A request from its 16 bytes (R403). -/
def requestOf (b : List Byte) : Request :=
  let f := u8 b 1
  ⟨u8 b 0, bit f 0, bit f 1, bits f 4 2, u16 b 2, u32 b 4,
    if bit f 0 then BitVec.ofNat 64 (u64 b 8 % 2 ^ 48) else BitVec.ofNat 64 (u64 b 8)⟩

/-- The pulse width of a request: 0 takes the output's, another is taken at the nearer end of the range (R403, R420). Log 113 (DEDUCED). -/
def State.widthOf (s : State) (n w : Nat) : Nat :=
  if n = 32 then 0
  else if w = 0 then s.actWidth_NS n
  else clampN (if n < 16 then 10000 else 20) 100000000 w

/-- AT of a request lies beyond the horizon (R420). -/
def State.beyondHorizon (s : State) (q : Request) : Bool :=
  if q.position then
    match (s.motion q.frame).lastPos with
    | none => false
    | some p => decide (2147483648 < wpSub (BitVec.ofNat 48 q.trig.toNat) p)
  else decide (60 * 4294967296 < dtSub q.trig s.dev)

/-- A request is refused (R404). -/
def State.refusedReq (s : State) (q : Request) : Bool :=
  decide (32 < q.out) || !s.outEnabled q.out || (q.position && !s.motCtrl_EN q.frame) || s.beyondHorizon q

/-- The distance between the trigger points of a request and an entry. -/
def trigDist (q : Request) (e : Entry) : Nat :=
  if q.position then (wpSub (BitVec.ofNat 48 q.trig.toNat) (BitVec.ofNat 48 e.trig.toNat)).natAbs
  else (dtSub q.trig e.trig).natAbs

/-- A request qualifies to bind an entry, its state aside (R406). -/
def State.matches (s : State) (q : Request) (e : Entry) : Bool :=
  decide (e.out = q.out) &&
    ((decide (q.key ≠ 0) && decide (q.key = e.key)) ||
      (q.position && e.position && decide (q.frame = e.frame) && decide (q.out ≠ 32) &&
        decide (s.actMatch_UNITS q.out ≠ 0) && decide (trigDist q e ≤ s.actMatch_UNITS q.out)))

/-- The trigger point of an entry is not above that of another, compared as positions or as times (R35, R33). -/
def Entry.notAbove (e x : Entry) : Bool :=
  if e.position then decide (0 ≤ wpSub (BitVec.ofNat 48 x.trig.toNat) (BitVec.ofNat 48 e.trig.toNat)) else dtGe x.trig e.trig

/-- The entry whose AT is nearest, on a tie the lower AT (R406). -/
def nearest (q : Request) : List Entry → Option Entry
  | [] => none
  | e :: t =>
    match nearest q t with
    | none => some e
    | some x =>
      if trigDist q e < trigDist q x ∨ (trigDist q e = trigDist q x ∧ e.notAbove x = true) then some e else some x

/-- What a record brings with each of its requests: the binding but for the decision. -/
structure Bearer where
  epoch : Epoch
  flags : Nat
  mark : BitVec 32
  slot : Option Nat
  origin : Origin
  deriving DecidableEq, Repr

/-- The binding a request makes (R405, R406, R408): settled when its epoch is final or sealed, unless ABS_DEF holds it
provisional. -/
def State.bindingOf (s : State) (q : Request) (b : Bearer) : Binding :=
  let held := decide (b.flags &&& fABSENT ≠ 0) && decide (q.out ≠ 32) && s.actCfg_ABS_DEF q.out
  let sealedSeq := Tab.get 0 (epFrame b.epoch) s.act.sealed
  let done := decide (epSeq b.epoch = 0) || (decide (sealedSeq ≠ 0) && seqGe sealedSeq (epSeq b.epoch))
  ⟨q.fire, b.epoch, b.flags, b.mark, b.slot, if held || !done then .provisional else .settled, held⟩

/-- The entry state that a binding gives (R401). -/
def stateOf (b : Option Binding) : EntryState :=
  match b with
  | some x => if x.state = .settled then .armed else .opened
  | none => .opened

/-- A request binds an entry (R406): it replaces no, a void or a provisional binding; between two settled ones FIRE
wins. Log 113 (DEDUCED). -/
def State.bindTo (s : State) (q : Request) (b : Bearer) (e : Entry) : State :=
  let nb := s.bindingOf q b
  let w := s.widthOf q.out q.width
  s.modEntry e.no fun e =>
    let n := min 65535 (e.nbind + 1)
    match e.bind with
    | some old =>
      if old.state = .settled then
        if q.fire then { e with bind := some { old with fire := true }, nbind := n, width := w } else { e with nbind := n }
      else { e with bind := some nb, state := stateOf (some nb), nbind := n, width := w }
    | none => { e with bind := some nb, state := stateOf (some nb), nbind := n, width := w }

/-- A creation (R405, R421, R422, R423): dropped when the schedule is full or in FLOOD; on an absent frame it resolves at
once; past its guard point it commits at once. -/
def State.create (s : State) (e : Entry) : State :=
  if s.flooding ∨ 4096 ≤ s.act.entries.length then
    let s1 := s.modAct fun a => { a with flooded := satAdd 65535 a.flooded 1 }
    if s.flooding then s1 else s1.floodEnter
  else
    let e1 := { e with no := s.act.entryNo }
    let s1 := s.modAct fun a => { a with entries := a.entries ++ [e1], entryNo := a.entryNo + 1 }
    if e.position && (s.motion e.frame).absent then
      (s1.modOut e.out fun o => { o with mabs := o.mabs ||| 2 ^ e.frame }).freeEntry e1 2 5
    else s1.commitIfDue e1.no

/-- One request is applied (R404, R406, R409): refused, bound, late, or it creates an entry. -/
def State.request (s : State) (q : Request) (b : Bearer) : State :=
  if s.refusedReq q then s.modAct fun a => { a with badReq := satAdd 255 a.badReq 1 }
  else
    match nearest q (s.act.entries.filter fun e => s.matches q e && !e.fixed) with
    | some e => s.bindTo q b e
    | none =>
      match nearest q (s.act.entries.filter fun e => s.matches q e) with
      | some e =>
        (s.modAct fun a => { a with lateVerdict := satAdd 65535 a.lateVerdict 1 }).modEntry e.no fun e =>
          { e with lateReq := true }
      | none =>
        let nb := s.bindingOf q b
        s.create { no := 0, out := q.out, position := q.position, frame := q.frame, trig := q.trig, key := q.key,
                   width := s.widthOf q.out q.width, origin := b.origin, bind := some nb, nbind := 1,
                   state := stateOf (some nb) }

/-- The requests of a VERDICT record (R402). -/
def verdictRequests (d : List Byte) : List Request :=
  (upTo (verdictCount d)).map fun i => requestOf (sub d (32 + 16 * i) 16)

/-- A record of the intake is taken (R402 to R406). In the safe state it is discarded (R428); a record of another type counts in
BADREQ (R404); a bad record raises ACT_RECORD_BAD (R431); a verdict that the old program emitted while RETIRING under CANCEL is discarded
and counted (R426). -/
def State.takeRecord (s : State) (r : Intake) : State :=
  let d := r.data
  if s.flt.safe then s
  else if u8 d 0 = 0 ∨ u16 d 6 < 2 then s.raiseU 0x64 actSource 0xFF (u32 d 0)
  else if u8 d 0 ≠ 0x60 then s.modAct fun a => { a with badReq := satAdd 255 a.badReq 1 }
  else if r.dead then
    s.modAct fun a => { a with cancelled := satAdd 255 a.cancelled 1 }
  else
    let e := BitVec.ofNat 16 (u16 d 4)
    let b : Bearer := ⟨e, u8 d 3, BitVec.ofNat 32 (u32 d 16), r.slot, if r.host then .host else .verdict⟩
    eachOf (verdictRequests d) (fun q s => s.request q b) (s.modAct fun a => { a with view := viewHand a.view e })

/-- The oldest record leaves the intake; every notice that waits behind it has one record less before it. -/
def State.shiftIntake (s : State) : State :=
  s.modAct fun a => { a with intake := a.intake.drop 1, notices := a.notices.map fun x => (x.1, x.2.1, x.2.2 - 1) }

/-- A host request with its fields brought into range (R405, R420, 13_rings.md R499). Log 117 (DEDUCED). -/
def State.armClamp (s : State) (q : Request) : Request :=
  let q1 := { q with out := if q.out ≤ 32 then q.out else 63 }
  if s.beyondHorizon q1 then
    { q1 with trig :=
        if q.position then
          BitVec.ofNat 64 (((s.motion q.frame).lastPos.getD 0) + BitVec.ofNat 48 2147483648).toNat
        else dtAdd s.dev (60 * 4294967296) }
  else q1

/-! ### Expectation generators (R407) -/

/-- The first position after `g` that a PITCH generator names. Log 119 (DEDUCED). -/
def nextPitch (g : WP48) (phase : Int) (pitch : Nat) : WP48 :=
  wpOf (g.toInt + ((pitch : Int) - (g.toInt - phase) % (pitch : Int)))

/-- An entry of output `n` that its generator creates. -/
def State.expectEntry (s : State) (n f : Nat) (p : WP48) : Entry :=
  { no := 0, out := n, position := true, frame := f,
    trig := BitVec.ofNat 64 (p + BitVec.ofInt 48 (s.actExpOff_OFF n)).toNat, width := s.actWidth_NS n, origin := .expect }

/-- EXPECT_CREATE: the generator of output `n` creates its next entry (R407): in PITCH mode once P(T_conf) reaches the
next position, in CAP mode for the oldest recorded edge once P(stamp) is confirmed. Nothing while the output is disabled
(R430), its frame is absent (R423) or not enabled, or the safe state holds (R428). -/
def execExpectCreate (n : Nat) (s : State) : Host.Outcome State Fault Refusal :=
  .next <|
    let f := s.actExp_FRAME n
    let m := s.motion f
    if n < 32 && s.outEnabled n && !m.absent && !s.flt.safe then
      match s.actExp_MODE n with
      | 1 =>
        match m.lastPos, (s.outp n).genPos with
        | some cur, some g =>
          let p := nextPitch g (s.actExpPhase_PHASE n) (s.actExpPitch_UNITS n)
          if 0 ≤ wpSub cur p then
            (s.modOut n fun o => { o with genPos := some p }).create (s.expectEntry n f p)
          else s
        | some cur, none => s.modOut n fun o => { o with genPos := some cur }
        | none, _ => s
      | 2 =>
        match (s.outp n).genCap with
        | [] => s
        | t :: rest =>
          match m.tconf with
          | none => s
          | some c =>
            if dtGe c t then
              let s1 := s.modOut n fun o => { o with genCap := rest }
              match m.confirmed t with
              | none => s1
              | some p => s1.create (s.expectEntry n f p)
            else s
      | _ => s
    else s

/-! ### Notices and the intake (R408, 01_line.md R44, R45, R53, R56) -/

/-- A binding after a notice. -/
def Binding.notice (rcl : Bool) (e : Epoch) (b : Binding) : Binding :=
  if b.state = .provisional ∧ epSeq b.epoch ≠ 0 ∧ epFrame b.epoch = epFrame e then
    if rcl then (if seqGe (epSeq b.epoch) (epSeq e) then { b with state := .void } else b)
    else if seqGe (epSeq e) (epSeq b.epoch) ∧ !b.absent then { b with state := .settled }
    else b
  else b

/-- A notice is applied to every binding of its frame; COMMITTED entries ignore it (R408). One with SEQ 0, or of an epoch already
settled, is discarded and raises ACT_RECORD_BAD (01_line.md R56); none counts in the safe state (R428). -/
def State.takeNotice (s : State) (rcl : Bool) (e : Epoch) : State :=
  let sealedSeq := Tab.get 0 (epFrame e) s.act.sealed
  if s.flt.safe then s
  else if epSeq e = 0 ∨ viewOf s.act.view e ≠ 0 ∨ (sealedSeq ≠ 0 ∧ seqGe sealedSeq (epSeq e) = true) then
    s.raiseU 0x64 actSource 0xFF (noticeHead rcl e)
  else
    s.modAct fun a =>
      { a with
        sealed := if rcl then a.sealed else Tab.set (epFrame e) (epSeq e) a.sealed
        view := viewNotice a.view rcl e []
        entries := a.entries.map fun x =>
          if x.fixed then x
          else
            let b := x.bind.map (Binding.notice rcl e)
            { x with bind := b, state := stateOf b } }

/-- The notices in front that no record of the intake precedes are taken, at most `n`. -/
def State.takeNotices : Nat → State → State
  | 0, s => s
  | n + 1, s =>
    match s.act.notices with
    | (rcl, e, 0) :: t => State.takeNotices n ((s.modAct fun a => { a with notices := t }).takeNotice rcl e)
    | _ => s

/-- The oldest record of the intake is taken with each notice before it. -/
def State.takeIntake (s : State) : State :=
  match s.act.intake with
  | [] => s
  | r :: _ => ((State.takeNotices s.act.notices.length s).shiftIntake).takeRecord r

/-- VERDICT_INTAKE: the unit takes the oldest record of its intake, and before it each notice that arrived before it (R402 to R408,
01_line.md R44, R53). Log 151 (DEDUCED). -/
def execVerdictIntake (s : State) : Host.Outcome State Fault Refusal := .next s.takeIntake

/-- Records of the intake are taken, `n` of them. -/
def State.takeIntakes : Nat → State → State
  | 0, s => s
  | n + 1, s => State.takeIntakes n s.takeIntake

/-- ACT_NOTICE: the unit takes the oldest notice passed to it, and before it each record that arrived before it (R408, 01_line.md R44,
R53). Log 151 (DEDUCED). -/
def execActNotice (s : State) : Host.Outcome State Fault Refusal :=
  .next <|
    match s.act.notices with
    | [] => s
    | (_, _, k) :: _ => State.takeNotices 1 (State.takeIntakes k s)

/-! ### Firing (R411 to R413) -/

/-- All that waits at the unit is taken, in the order it arrived in. -/
def State.takeWaiting (s : State) : State := State.takeNotices s.act.notices.length (State.takeIntakes s.act.intake.length s)

/-- ACT_ARM: the descriptor's host actions are created or bind (R405), after what has reached the intake before it (R425); in the safe state
it completes with CSTATUS 11 (14_faults.md R516). Log 117 (DEDUCED). -/
def execActArm (s0 : State) : Host.Outcome State Fault Refusal :=
  .next <|
    match s0.nextOp 0x30 fun _ => true with
    | none => s0
    | some o =>
      let s := s0.takeWaiting
      let n := clampN 1 3 (u8 o.desc 8)
      let qs := (upTo n).map fun i => s.armClamp (requestOf (o.inl (16 * i) 16))
      if s.flt.safe then s.complete o.ring o.didx 11 (s.flt.cause % 256) []
      else
        let refused := qs.map s.refusedReq
        let b : Bearer := ⟨0, 0, 0, none, .host⟩
        let s1 := eachOf qs (fun q s => s.request q b) s
        s1.complete o.ring o.didx 0 0
          (by1 (b2n (refused.getD 0 false) + 2 * b2n (refused.getD 1 false) + 4 * b2n (refused.getD 2 false)) ++
            qs.flatMap fun q => by1 q.out)

/-- The entry of a number commits now, if it has not; a record or a notice that has arrived is taken first (R409, R425). Log 151
(DEDUCED). -/
def State.commitNow (s : State) (no : Nat) : State :=
  if (s.entry no).elim true Entry.fixed then s
  else
    let s1 := s.takeWaiting
    match s1.entry no with
    | none => s1
    | some e => if e.fixed then s1 else s1.commit e

/-- ENTRY_COMMIT: interval time goes on to the entry's guard point or edge start, and it commits (R409). -/
def execEntryCommit (no : Nat) (s : State) : Host.Outcome State Fault Refusal :=
  .next <|
    match s.entry no with
    | none => s
    | some e =>
      if e.fixed then s
      else
        match s.commitTime e with
        | none => s
        | some t => (s.waitUntil (s.whenDev t)).commitNow no

/-- The pin of the output follows no entry now (R421, R423, R428, R431); LINE_STOP_N does from the release of the safe state on. -/
def State.pinHeld (s : State) (n : Nat) : Bool := (decide (n < 32) && decide (s.act.state = .safe)) || s.outHeld n

/-- The entries of an output whose pulse began before that of entry `e`, which begins now: earlier, or at this instant and earlier in
schedule order (R425). -/
def State.firesBefore (s : State) (e : Entry) : Bool :=
  s.act.entries.any fun x => decide (x.out = e.out ∧ x.state = .firing ∧ (x.edgeAt ≠ s.now ∨ x.no < e.no))

/-- The edge of a committed FIRE starts now, tc − LEAD being `due` (R411 to R413): none where the pin follows no entry, and none on
LINE_STOP_N while the line is stopped. Of two edges of one instant the later entry in schedule order is MERGED (R425).
Log 115 (DEDUCED). -/
def State.edgeNow (s : State) (e : Entry) (due : DT64) : State :=
  let late := e.skipped || decide (usToDt 1 < dtSub s.dev due)
  if e.out < 32 && ((s.outp e.out).trip || !s.outEnabled e.out) then s
  else if s.pinHeld e.out then s.modEntry e.no fun e => { e with mute := true }
  else if e.out = 32 then
    let s1 := if s.act.lstop then s else
      (s.lineStop 3 false).modAct fun a =>
        { a with fired := (a.fired + 1) % 65536, late := if late then satAdd 65535 a.late 1 else a.late }
    s1.freeEntry { e with late := late, edge := s.dev, firedPos := (s.posNow e.frame).getD 0 } 1 e.cause
  else
    let active := decide ((s.outp e.out).drive ≠ .idle)
    let fin := s.now + nsTicks * e.width
    let s0 := s.modAct fun a => { a with entries := a.entries.map fun x =>
      if x.out = e.out ∧ x.state = .firing ∧ x.edgeAt = s.now ∧ e.no < x.no then { x with merged := true } else x }
    let s1 := s0.modEntry e.no fun e =>
      { e with state := .firing, late := late, merged := e.merged || s.firesBefore e, edge := s.dev, edgeAt := s.now,
               firedPos := (s.posNow e.frame).getD 0 }
    let s2 := s1.modOut e.out fun o => { o with drive := .full, phaseEnd := if o.drive = .full then max o.phaseEnd fin else fin }
    s2.modAct fun a =>
      { a with fired := if active then a.fired else (a.fired + 1) % 65536,
               late := if late then satAdd 65535 a.late 1 else a.late }

/-- The edge of an entry falls due now: an entry that has not committed does so, and a FIRE's edge starts (R409, R411). -/
def State.edgeDue (s : State) (no : Nat) (due : DT64) : State :=
  let s1 := s.commitNow no
  match s1.entry no with
  | none => s1
  | some e => if e.fire then s1.edgeNow e due else s1

/-- EDGE_START: interval time goes on to max(now, tc − LEAD), an entry that has not committed does so there, and a FIRE's
edge starts (R409, R411). -/
def execEdgeStart (no : Nat) (s : State) : Host.Outcome State Fault Refusal :=
  .next <|
    match s.entry no with
    | none => s
    | some e =>
      if e.state = .firing || e.mute || (e.state = .committed && !e.fire) then s
      else
        match s.crossing e with
        | none => s
        | some tc =>
          let due := dtAdd tc (-(s.leadDt e.out))
          (s.waitUntil (s.whenDev due)).edgeDue no due

/-- The edges of a frame that have fallen due start (R425: the frame goes absent in the cycle of an edge start). -/
def State.edgesDue (s : State) (f : Nat) : State :=
  eachOf (s.act.entries.filter fun e => e.position && decide (e.frame = f) && decide (e.state ≠ .firing) && !e.mute)
    (fun e s =>
      (s.crossing e).elim s fun tc =>
        let due := dtAdd tc (-(s.leadDt e.out))
        if dtGe s.dev due then s.edgeDue e.no due else s) s

/-- The edge start of another entry of the output that is due within MIN_GAP_US of now, with the entry (R412). An entry
that has not committed counts by the decision it would take now. -/
def State.bridge (s : State) (n : Nat) : Option (Entry × DT64) :=
  s.act.entries.findSome? fun e =>
    if e.out = n ∧ e.state ≠ .firing ∧ !e.mute ∧ (if e.fixed then e.fire else (s.decisionOf e).1) = true then
      (s.crossing e).bind fun tc =>
        let t := dtAdd tc (-(s.leadDt n))
        if dtGe (dtAdd s.dev (usToDt (s.actGap_MIN_GAP_US n))) t then some (e, t) else none
    else none

/-- The pulse of an output ends: the output stays at full drive up to an edge due within MIN_GAP (R412), or returns to IDLE with its
entries freed (R411). -/
def State.pulseEnd (s : State) (n : Nat) : State :=
  match s.bridge n with
  | some (e, t) =>
    (s.modEntry e.no fun e => { e with merged := true }).modOut n fun o => { o with drive := .full, phaseEnd := s.whenDev t }
  | none => s.pulseDone n

/-- FULL_DRIVE_END: at the end of full drive the output goes to the hold phase, or its pulse ends (R411). -/
def execFullDriveEnd (n : Nat) (s : State) : Host.Outcome State Fault Refusal :=
  .next <|
    if (s.outp n).drive ≠ .full then s
    else
      let s1 := s.waitUntil (s.outp n).phaseEnd
      if n < 16 ∧ 0 < s.actHold_DUTY n ∧ 0 < s.actHold_US n then
        s1.modOut n fun o => { o with drive := .hold, holdFrom := s1.now, phaseEnd := s1.now + usTicks * s.actHold_US n }
      else s1.pulseEnd n

/-- HOLD_END: the hold phase ends, and the pulse with it (R411). -/
def execHoldEnd (n : Nat) (s : State) : Host.Outcome State Fault Refusal :=
  .next <|
    if (s.outp n).drive ≠ .hold then s else (s.waitUntil (s.outp n).phaseEnd).pulseEnd n

/-- ENTRY_TRIGGER_POINT: a COMMITTED entry that drives nothing is freed at its trigger point (R401): NOT_FIRED, OUTFAULT where its
output has tripped, whatever the decision (R418, R429); PASS; NOT_FIRED where its pin followed no entry. FLOOD says that the pin is held at
tc (R416, R421). -/
def execEntryTriggerPoint (no : Nat) (s : State) : Host.Outcome State Fault Refusal :=
  .next <|
    match s.entry no with
    | none => s
    | some e =>
      if e.state = .firing then s
      else
        match s.crossing e with
        | none => s
        | some tc =>
          let s2 := (s.waitUntil (s.whenDev tc)).commitNow no
          match s2.entry no with
          | none => s2
          | some e2 =>
            let e3 := { e2 with flood := s2.outHeld e2.out }
            if e2.out ≠ 32 && ((s2.outp e2.out).trip || !s2.outEnabled e2.out) then s2.freeEntry e3 2 8
            else if !e2.fire then s2.freeEntry e3 0 e2.cause
            else if e2.mute then s2.freeEntry e3 2 e2.cause
            else s2

/-! ### Removal (R386, R423, R426, R427, R430) -/

/-- An entry is due within 200 µs of now (10_programs.md R386). -/
def State.dueSoon (s : State) (e : Entry) : Bool :=
  let t := dtAdd s.dev (usToDt 200)
  if e.position then
    let m := s.motion e.frame
    !m.absent && m.headTick.elim false fun k => decide (0 ≤ wpSub (k.pos t) (BitVec.ofNat 48 e.trig.toNat))
  else dtGe t e.trig

/-- An entry is removed with CAUSE CANCELLED, and counted (R426). -/
def State.cancelEntry (s : State) (e : Entry) : State :=
  (s.modAct fun a => { a with cancelled := satAdd 255 a.cancelled 1 }).freeEntry e 2 6

/-- At a switch under CANCEL (10_programs.md R386, R426): entries bound by the old program are removed, those of a
generator only lose the binding; entries due within 200 µs, firing ones and host actions stay. What was emitted before the switch and
waits in the intake is taken first. Log 116 (DEDUCED). -/
def State.actCancel (s0 : State) (slot : Nat) : State :=
  let s := s0.takeWaiting
  eachOf (s.act.entries.filter fun e =>
      decide ((e.bind.bind fun b => b.slot) = some slot) && decide (e.state ≠ .firing) && !s.dueSoon e)
    (fun e s =>
      match e.origin with
      | .verdict => s.cancelEntry e
      | .expect => s.modEntry e.no fun e => { e with bind := none, state := .opened }
      | .host => s) s

/-- ACT_CLEAR: entries of the named outputs that are not COMMITTED and not due within 200 µs are removed (R427). Log 116 (DEDUCED). -/
def execActClear (s : State) : Host.Outcome State Fault Refusal :=
  .next <|
    match s.nextOp 0x31 fun _ => true with
    | none => s
    | some o =>
      let mask := o.inlNat 0 8 % 2 ^ 33
      let gone := s.act.entries.filter fun e => mask.testBit e.out && !e.fixed && !s.dueSoon e
      (eachOf gone (fun e s => s.cancelEntry e) s).complete o.ring o.didx 0 0 (by2 gone.length)

/-- A frame goes absent: every POSITION entry on it that does not fire resolves with MABSENT and is freed (R423). -/
def State.actAbsent (s : State) (f : Nat) : State :=
  eachOf (s.act.entries.filter fun e => e.position && decide (e.frame = f) && decide (e.state ≠ .firing))
    (fun e s => (s.modOut e.out fun o => { o with mabs := o.mabs ||| 2 ^ f }).freeEntry e 2 5) s

/-- A frame is present again: outputs held for it are no longer held (R423). -/
def State.actPresent (s : State) (f : Nat) : State :=
  s.modAct fun a => { a with outs := a.outs.map fun p => (p.1, { p.2 with mabs := putBits p.2.mabs f f 0 }) }

/-- Device time steps from `old` to `new` (R425): a forward step that passes a TIME entry's edge instant marks it. -/
def State.actStep (s : State) (old new : DT64) : State :=
  s.modAct fun a =>
    { a with entries := a.entries.map fun e =>
        if !e.position && decide (e.state ≠ .firing) &&
            decide (0 < dtSub (dtAdd e.trig (-(s.leadDt e.out))) old) &&
            dtGe new (dtAdd e.trig (-(s.leadDt e.out))) then
          { e with skipped := true } else e }

/-- Every entry of an output is resolved and freed (R430). -/
def State.clearOutput (s : State) (n : Nat) : State :=
  eachOf (s.act.entries.filter fun e => decide (e.out = n))
    (fun e s => if e.state = .firing then s.freeEntry e 1 e.cause else s.freeEntry e 2 8)
    (s.modOut n fun o => { o with drive := .idle, genPos := none, genCap := [], mabs := 0, ueUntil := none })

/-- An output starts at IDLE, and its generator goes on from the frame's position (R430). -/
def State.outputStart (s : State) (n : Nat) : State :=
  s.modOut n fun o => { o with drive := .idle, genPos := (s.motion (s.actExp_FRAME n)).lastPos, genCap := [] }

/-- ACT.n.CFG.EN goes from 0 to 1: the output starts, and a trip is over (R429, R430). -/
def State.outputOn (s : State) (n : Nat) : State := (s.outputStart n).modOut n fun o => { o with trip := false }

/-- ACT.CTRL.EN goes from 1 to 0: every output is cleared, output 32 included (R430). After the safe state the outputs still stand at SAFE
until RUN (R428). Log 114 (DEDUCED). -/
def State.unitOff (s : State) : State :=
  ((eachOf (upTo 33) (fun n s => s.clearOutput n) s).lineStop 3 false).modAct fun a =>
    { a with state := if a.state = .safe then .safe else .off, floodIn := false }

/-- ACT.CTRL.EN goes from 0 to 1 (R432): outputs go to IDLE, but that after the safe state they stand at SAFE until RUN (R428). -/
def State.unitOn (s : State) : State :=
  (eachOf (upTo 32) (fun n s => s.outputStart n) s).modAct fun a =>
    { a with state := if s.flt.safe ∨ a.state = .safe then .safe else .run }

/-! ### The safe state (R428) and failures (R429, R431) -/

/-- The unit takes the safe state: schedule and intake are emptied without ACTION records, LINE_STOP_N is asserted, one
ACT_STATE is posted (R428). -/
def State.actSafe (s : State) (code : Nat) : State :=
  let s1 := s.modAct fun a =>
    { a with entries := [], intake := [], notices := a.notices.map fun x => (x.1, x.2.1, 0), state := .safe, floodIn := false,
             outs := a.outs.map fun p => (p.1, { p.2 with drive := .idle, genCap := [] }) }
  (s1.lineStop 2 true).postActState 2 code

/-- ACT.CTRL.RUN is written (R428): after the safe state enabled outputs go to IDLE, and ACT_STATE RESUMED is posted. -/
def State.actResume (s : State) : State :=
  if s.act.state = .safe ∧ !s.flt.safe then
    (s.modAct fun a => { a with
      state := if !s.actCtrl_EN then .off else if a.floodIn then .flood else .run
      floodIn := false }).postActState 3 0
  else s

/-- ACT.LSTOP.RELEASE is written (R413): no effect while the safe state holds, or while a hold asserts the line (R421, R431).
Log 118 (DEDUCED). -/
def State.actRelease (s : State) : State :=
  if s.flt.safe || (s.outHeld 32 && s.actLstop_DEFAULT) then s
  else s.modAct fun a => { a with lstop := false }

/-- LINE_STOP_N is asserted while output 32 is held and ACT.LSTOP.DEFAULT is FIRE (R421, R431). -/
def State.lineHold (s : State) : State := if s.outHeld 32 && s.actLstop_DEFAULT then s.lineStop 3 false else s

/-- ACT_OVERCURRENT: a high-side output has been in current limit for 2 ms (R429, 16_module.md R573): it trips off. -/
def execActOvercurrent (dt n : Nat) (s : State) : Host.Outcome State Fault Refusal :=
  .next <|
    let s := s.pass dt
    if n < 16 && s.islandUp 2 then (s.modOut n fun o => { o with trip := true }).raiseU 0x62 actSource n 0 else s

/-- ACT_READBACK: a pin differs from its commanded level for the readback time (R431). -/
def execActReadback (dt n : Nat) (s : State) : Host.Outcome State Fault Refusal :=
  .next <|
    let s := s.pass dt
    if n < 32 && s.islandUp 2 then (s.modOut n fun o => { o with fault := true }).raiseU 0x63 actSource n 0 else s

/-- ACT_SCHED_UE: an uncorrectable error in an entry drops it; when its output is known, that output is held as in FLOOD for 100 ms;
a corrected one is corrected in place and raises ACT_SCHED_CE (R431). ARG is a word index that spec/ does not lay out: a free
value. Log 167 (DESIGN CHOICE). -/
def execActSchedUe (dt : Nat) (w : EccErr) (known : Bool) (s : State) : Host.Outcome State Fault Refusal :=
  .next <|
    let s := s.pass dt
    match s.entry w.at_ with
    | none => s
    | some e =>
      let (i, s1) := s.takeFree 1
      if !w.ue then s1.raiseU 0x60 actSource (if known then e.out else 0xFF) i else
      let s2 := (s1.modAct fun a => { a with entries := a.entries.filter fun x => decide (x.no ≠ w.at_) }).floodExit
      let s3 := if known then
          ((s2.modOut e.out fun o => { o with ueUntil := some (s2.now + 100 * msTicks) }).pulseDone e.out).lineHold else s2
      s3.raiseU 0x61 actSource (if known then e.out else 0xFF) i

/-- ACT_SCHED_UE_HOLD_END: the 100 ms hold of an output ends (R431). -/
def execActSchedUeHoldEnd (n : Nat) (s : State) : Host.Outcome State Fault Refusal :=
  .next <|
    match (s.outp n).ueUntil with
    | none => s
    | some t => (s.waitUntil t).modOut n fun o => { o with ueUntil := none }

/-- SAFE_PATH_TEST: the once-per-second test of the latch's redundant channel; a failure raises SAFE_PATH (R431,
14_faults.md R525). -/
def execSafePathTest (dt : Nat) (ok : Bool) (s : State) : Host.Outcome State Fault Refusal :=
  .next <| let s := s.pass dt; if ok then s else s.raise true 0x66 actSource 0xFF 0

end Sys2Proof.Machine
end

