-- ==== Sys2Proof/Machine/Level.lean ====
section
/-! DEFINITION. Frames that leave a host port (12_imcel.md R451, R461, R462, R470, R473) and the service levels
(15_startup.md R543 to R545). -/

namespace Sys2Proof.Machine

open Sys2Proof

/-! ### Frames that leave (12_imcel.md R435, R451, R470, R473) -/

/-- UDP port 41730 (R434). -/
def imcelPort : BitVec 16 := 41730

/-- A frame of the device: its header with PLEN from the payload (R435). -/
def mkFrame (kind session token : Nat) (seq : BitVec 32) (retx : Bool) (payload : List Byte) : Frame where
  magic := 0x4D49
  version := 1
  kind := BitVec.ofNat 8 kind
  session := BitVec.ofNat 8 session
  fflags := BitVec.ofNat 8 (b2n retx)
  plen := BitVec.ofNat 16 payload.length
  token := BitVec.ofNat 64 token
  seq := seq
  reserved := 0
  payload := payload

/-- The MAC address of host port `p`, its first octet the most significant one (R434; 15_startup.md R553). -/
def State.macOf (s : State) (p : Nat) : Nat :=
  if s.aon.otpOk then Config.mac p % 2 ^ 48 else 0x02484A000000 + p

/-- The IPv6 link-local address of a MAC address, by the modified EUI-64 of RFC 4291. -/
def linkLocal (mac : Nat) : BitVec 128 :=
  BitVec.ofNat 128 (0xFE80 * 2 ^ 112 + (mac / 2 ^ 24 % 2 ^ 24 ^^^ 0x020000) * 2 ^ 40 + 0xFFFE * 2 ^ 24 + mac % 2 ^ 24)

/-- The IPv6 and the IPv4 address that HL.p.ADDR6 and HL.p.ADDR4 give a host port (R434); 0 is none. -/
def State.addr6 (s : State) (p : Nat) : BitVec 128 := BitVec.ofNat 128 (netOrder 16 (s.hlPAddr6_ADDR6 p))
def State.addr4 (s : State) (p : Nat) : BitVec 128 := mapped (netOrder 4 (s.hlPAddr4_ADDR4 p))

/-- The addresses of a host port (R434). -/
def State.hostOwns (s : State) (p : Nat) (a : BitVec 128) : Bool :=
  decide (a = linkLocal (s.macOf p)) || (decide (s.hlPAddr4_ADDR4 p ≠ 0) && decide (a = s.addr4 p)) ||
    (decide (s.hlPAddr6_ADDR6 p ≠ 0) && decide (a = s.addr6 p))

/-- An IPv6 address of link-local scope, fe80::/10 or ff02::/16. -/
def localScope (a : BitVec 128) : Bool := decide (a.toNat / 2 ^ 118 = 0x3FA) || decide (a.toNat / 2 ^ 112 = 0xFF02)

/-- The address from which a host port sends to a peer: ADDR4 over IPv4 and the link-local address within the link (R462); a peer beyond
it is sent to from ADDR6 where that is set. Log 193 (DESIGN CHOICE). -/
def State.sourceFor (s : State) (p : Nat) (peer : Peer) : BitVec 128 :=
  if !peer.v6 then s.addr4 p
  else if localScope peer.addr || decide (s.hlPAddr6_ADDR6 p = 0) then linkLocal (s.macOf p)
  else s.addr6 p

/-- The 802.1Q tags of what a host port sends (R434). -/
def State.ownTags (s : State) (p : Nat) : List (BitVec 12) :=
  if s.hlPCfg_VLAN_EN p then [BitVec.ofNat 12 (s.hlPCfg_VID p)] else []

/-- A frame with the envelope in which host port `p` sends it. -/
def State.wired (s : State) (p : Nat) (peer : Peer) (f : Frame) : Frame :=
  { f with via := { tags := s.ownTags p, addr := some (s.sourceFor p peer) } }

/-- The bytes that something takes in a transmit queue (R463): of an Imcel frame its header and payload. Log 194 (DESIGN CHOICE). -/
def Out.bytes : Out → Nat
  | .frame _ _ f => 24 + f.payload.length
  | .net _ _ _ _ d _ => d.length
  | _ => 0

/-- Something is to leave host port `p`: held while the port settles (R470), as far as its transmit queue of 64 KiB goes (R463), and
discarded when its link is down (R473). -/
def State.hlOut (s : State) (p : Nat) (o : Out) : State :=
  if (s.port p).settling then
    if (s.port p).held.foldl (fun n h => n + h.out.bytes) o.bytes ≤ 65536 then s.modPort p fun x => { x with held := x.held ++ [⟨o, .own⟩] }
    else s
  else if (s.port p).up then s.send o
  else s

/-- An Imcel frame is to leave host port `p` for a peer. -/
def State.hlFrame (s : State) (p : Nat) (peer : Peer) (f : Frame) : State := s.hlOut p (.frame p peer (s.wired p peer f))

/-- The code of a state (02_timekeeper.md R61). -/
def TkState.code : TkState → Nat
  | .free => 0
  | .acquire => 1
  | .locked => 2
  | .holdover => 3
  | .refused => 4

/-! ### STATUS (12_imcel.md R461, R462) -/

/-- The module serial number (15_startup.md R535, R553). -/
def State.serialNo (s : State) : Nat := if s.aon.otpOk then Config.serial % 2 ^ 64 else 0

/-- Bit s: session index s is OPEN. -/
def State.openMask (s : State) : Nat := (upTo 8).foldl (fun m i => m + b2n (s.sess i).isOpen * 2 ^ i) 0

/-- The time for which reset has been held, in ms; 0 when it is not held (R461). -/
def State.heldMs (s : State) : Nat := if s.aon.phase = .held then min 0xFFFFFFFF ((s.now - s.aon.heldAt) / msTicks) else 0

/-! ### Service levels (15_startup.md R543, R544) -/

/-- NEEDS.TRK or NEEDS.SLV: the access stream of the program in ACTIVE holds a HANDOFF of that TARGET (R544). -/
def State.needsHand (s : State) (target : Nat) : Bool :=
  let img := s.activeImage
  (upTo (imgCount img .access)).any fun i =>
    decide (cOp (imgCmd img .access i) = 0x23) && decide (u8 (imgCmd img .access i) 9 = target)

/-- NEEDS.KVP: either stream of the program in ACTIVE holds a command of opcodes 0x80 to 0x87 (R544). -/
def State.needsKvp (s : State) : Bool :=
  let img := s.activeImage
  [Stream.access, Stream.execute].any fun st =>
    (upTo (imgCount img st)).any fun i =>
      decide (0x80 ≤ cOp (imgCmd img st i)) && decide (cOp (imgCmd img st i) ≤ 0x87)

/-- AON.STATUS.NEEDS (R544). Log 148 (DEDUCED). -/
def State.needs (s : State) : Nat := b2n (s.needsHand 0) + 2 * b2n (s.needsHand 1) + 4 * b2n s.needsKvp

/-- At least one SSP or SEN port is enabled and has LINK_UP. -/
def State.sensorUp (s : State) : Bool :=
  ((upTo 16).any fun n => s.sspCtrl_EN n && (Tab.get {} n s.ing.ssp).up) ||
    (upTo 4).any fun p => s.senCtrl_EN p && (Tab.get {} p s.ing.sen).up

/-- The conditions of R543 in order: the level, the BLOCK code, and whether the condition holds. -/
def State.levelConds (s : State) : List (Nat × Nat × Bool) :=
  [(1, 1, s.aon.sl1 && !s.aon.hlFail),
   (2, 2, s.tk.isSet),
   (2, 3, s.actCtrl_EN),
   (2, 4, s.coreOk 0 && s.coreOk 1 && s.coreOk 2),
   (3, 5, !s.chanFailed 0),
   (3, 6, s.sensorUp),
   (3, 7, s.panCtrl_EN && s.coreOk 3),
   (3, 8, decide (s.activeImage ≠ [])),
   (3, 9, s.rlyCtrl_EN),
   (3, 10, decide (s.lanesEnabled ≠ 0)),
   (3, 11, !s.needsHand 0 || (s.trkCtrl_EN && s.coreOk 4)),
   (3, 12, !s.needsHand 1 || (s.slvCtrl_EN && decide (s.slvUnits_EN &&& (0xFFFF ^^^ s.slv.fenced) ≠ 0))),
   (3, 13, !s.needsKvp || (s.kvpCtrl_EN && s.coreOk 6))]

/-- The level whose conditions, and those of every level below it, all hold, and BLOCK (R543). Log 148 (DEDUCED). -/
def State.levelNow (s : State) : Nat × Nat :=
  match s.levelConds.find? (fun c => !c.2.2) with
  | some c => (c.1 - 1, c.2.1)
  | none => (3, 0)

/-- The 48 payload bytes of a STATUS frame of port `p` (12_imcel.md R461; 15_startup.md R534). Log 126 (DEDUCED). -/
def State.statusBytes (s : State) (p : Nat) : List Byte :=
  let lvl := s.levelNow.1
  let held := decide (s.aon.phase = .held)
  let flags := b2n held + 2 * b2n (decide (30000 ≤ s.heldMs)) + 4 * b2n s.flt.safe + 8 * b2n s.tk.isSet +
    16 * b2n s.aon.linkKey.isNone
  by8 s.serialNo ++ (leBytes 6 (s.macOf p)).reverse ++ by1 p ++ by1 lvl ++ by1 flags ++
    by1 (if lvl = 0 then 0xFF else s.tk.state.code) ++ by1 s.openMask ++ zeros 1 ++ by4 s.heldMs ++
    by4 (if held then 0 else min 0xFFFFFFFF (s.now / (1000 * msTicks))) ++ by4 s.aon.linkId.toNat ++
    by8 (if lvl = 0 then 0 else s.dev.toNat) ++
    by1 (min 255 s.flt.unackC) ++ by1 (min 255 s.flt.unackU) ++ by1 (min 255 s.flt.unackF) ++ zeros 5

/-- A STATUS frame for a peer. Log 148 (DEDUCED). -/
def State.statusTo (s : State) (p : Nat) (peer : Peer) : Out := .frame p peer (s.wired p peer (mkFrame 0x32 0xFF 0 0 false (s.statusBytes p)))

/-- ff02::1, UDP port 41730. -/
def allNodes : Peer := ⟨true, BitVec.ofNat 128 (0xFF02 * 2 ^ 112 + 1), imcelPort⟩
/-- 255.255.255.255, UDP port 41730. -/
def broadcast4 : Peer := ⟨false, 0xFFFFFFFF, imcelPort⟩

/-- STATUS frames of R462 on a port: to ff02::1, and with ADDR4 set to 255.255.255.255. -/
def State.sendStatus (s : State) (p : Nat) : State :=
  let s1 := s.hlOut p (s.statusTo p allNodes)
  if s.hlPAddr4_ADDR4 p = 0 then s1 else s1.hlOut p (s.statusTo p broadcast4)

/-- After a change that the conditions of R543 may see: at a change of level the Host Link sends a STATUS frame on each
port whose link is up and AON.EVENTS shows it (R545). Log 148 (DEDUCED). -/
def State.relevel (s : State) : State :=
  let l := s.levelNow.1
  if l = s.aon.level then s
  else
    let s1 := s.modAon fun a => { a with level := l, levelUp := a.levelUp || decide (s.aon.level < l),
                                         levelDown := a.levelDown || decide (l < s.aon.level)
                                         eventAt := Tab.set (if s.aon.level < l then 0 else 1) s.now a.eventAt }
    eachOf ((upTo 2).filter fun p => (s1.port p).up) (fun p s => s.sendStatus p) s1

end Sys2Proof.Machine
end

