-- ==== Sys2Proof/Machine/Slots.lean ====
section
/-! DEFINITION. Stream slots, word FIFOs and absent sources (03_sensor_ports.md R102 to R112, R147): what every sensor-side port
shares. -/

namespace Sys2Proof.Machine

open Sys2Proof

/-- Stream slot `n`. -/
def State.slot (s : State) (n : Nat) : Slot := Tab.get {} n s.ing.slots
/-- The state with slot `n` changed. -/
def State.modSlot (s : State) (n : Nat) (f : Slot → Slot) : State :=
  s.modIng fun g => { g with slots := Tab.mod {} n f g.slots }

/-! ### Word FIFOs (R105 to R110) -/

/-- The depth of a slot's FIFO, in entries (R107). -/
def State.slotDepth (s : State) (n : Nat) : Nat := 512 * s.iocSlotCfg_DEPTH n

/-- KIND, COUNT and RECS of a marker word (R110). -/
def markerWord (kind count recs : Nat) : Entry65 :=
  ⟨true, BitVec.ofNat 64 (kind % 256 * 256 + recs % 65536 * 65536 + count % 2 ^ 32 * 2 ^ 32)⟩

/-- COUNT of a marker. -/
def Entry65.count (e : Entry65) : Nat := bits e.d.toNat 63 32
/-- RECS of a FIFO_GAP marker. -/
def Entry65.recs (e : Entry65) : Nat := bits e.d.toNat 31 16
/-- KIND of a marker. -/
def Entry65.kind (e : Entry65) : Nat := bits e.d.toNat 15 8
/-- The entry is a marker word (R105). -/
def Entry65.isMarker (e : Entry65) : Bool := e.m && decide (e.d.toNat % 256 = 0)
/-- The entry starts a record (R105). -/
def Entry65.startsRec (e : Entry65) : Bool := e.m && decide (e.d.toNat % 256 ≠ 0)
/-- A unit start: a record-start word or a SOURCE_GAP marker (R108). -/
def Entry65.startsUnit (e : Entry65) : Bool := e.startsRec || (e.isMarker && decide (e.kind = 2))

/-- A word that arrives at a FIFO of depth `d` (R108): the slot afterwards, and whether it closed an open marker. -/
def Slot.word (d : Nat) (w : Entry65) (x : Slot) : Slot × Bool :=
  let occ := x.fifo.length
  let lost := satAdd 0xFFFFFFFF x.drop 1
  if x.gapOpen && (!w.startsUnit || decide (d < occ + 2)) then
    match x.fifo.getLast? with
    | some t =>
      ({ x with
         fifo := x.fifo.dropLast ++
           [markerWord 1 (satAdd 0xFFFFFFFF t.count 1) (if w.startsRec then satAdd 65535 t.recs 1 else t.recs)]
         drop := lost }, false)
    | none => ({ x with drop := lost }, false)
  else if occ + 2 ≤ d then
    ({ x with fifo := x.fifo ++ [w], gapOpen := false, hwm := max x.hwm (occ + 1) }, x.gapOpen)
  else
    ({ x with fifo := x.fifo ++ [markerWord 1 1 (b2n w.startsRec)], gapOpen := true, drop := lost, hwm := max x.hwm (occ + 1) }, false)

/-- A word that arrives at interval time `now`: what a read at the same instant needs is kept once a word is dropped (R139). -/
def Slot.arrive (now d : Nat) (w : Entry65) (x : Slot) : Slot × Bool :=
  let (y, closed) := x.word d w
  let fresh : Option SlotSnap := if y.gapOpen then some ⟨now, x.fifo, x.gapOpen, x.drop, x.hwm, [w]⟩ else none
  ({ y with snap := match x.snap with
      | some p => if p.at_ = now then some { p with words := p.words ++ [w] } else fresh
      | none => fresh }, closed)

/-- The slot as a read now finds it, and the words of this instant that arrive behind the read (R139). -/
def Slot.before (now : Nat) (x : Slot) : Slot × List Entry65 :=
  match x.snap with
  | some p =>
    if p.at_ = now then ({ x with fifo := p.fifo, gapOpen := p.gapOpen, drop := p.drop, hwm := p.hwm, snap := none }, p.words)
    else (x, [])
  | none => (x, [])

/-- A word arrives at a slot (R108): at a disabled slot it is dropped and counted. FIFO_GAP is posted when a unit start closes
the marker (R136). -/
def State.wordIn (s : State) (n : Nat) (w : Entry65) : State :=
  if !s.iocSlotCfg_EN n then s.modSlot n fun x => { x with drop := satAdd 0xFFFFFFFF x.drop 1 }
  else
    let (x, closed) := (s.slot n).arrive s.now (s.slotDepth n) w
    let s1 := s.modSlot n fun _ => x
    if closed then s1.notify 0x030A 5 n x.drop else s1

/-- The entries that a record's bytes fill: the first with M at 1 (R105). -/
def recEntries (b : List Byte) : List Entry65 :=
  (upTo (b.length / 8)).map fun k => ⟨decide (k = 0), BitVec.ofNat 64 (leNat (sub b (8 * k) 8))⟩

/-- A record is written into a slot. -/
def State.recIn (s : State) (n : Nat) (r : Rec) : State := eachOf (recEntries (recBytes r)) (fun w s => s.wordIn n w) s

/-- A SOURCE_GAP marker is written into a slot (R111). -/
def State.gapIn (s : State) (n count : Nat) : State := s.wordIn n (markerWord 2 (min 0xFFFFFFFF count) 0)

/-- What the consumer of a FIFO finds at its head: an open marker at the tail is not given (R108). -/
def Slot.readable (x : Slot) : List Entry65 := if x.gapOpen then x.fifo.dropLast else x.fifo

/-- The entries of the record at the head of a FIFO, up to a marker or the next record start, and what follows. -/
def takeBody : Nat → List Entry65 → List Entry65 × List Entry65
  | 0, l => ([], l)
  | _ + 1, [] => ([], [])
  | n + 1, e :: t => if e.m then ([], e :: t) else let (a, b) := takeBody n t; (e :: a, b)

/-- What the consumer takes next from a FIFO: a marker, a whole record, or a remnant to discard, told by its first entry (R112). -/
inductive Taken where
  | marker (e : Entry65)
  | record (b : List Byte)
  | remnant (e : Entry65)
  deriving DecidableEq, Repr

/-- The consumer takes what stands at the head: none while that is not complete. -/
def Slot.take (x : Slot) : Option (Taken × Slot) :=
  match x.readable with
  | [] => none
  | e :: t =>
    if e.isMarker then some (.marker e, { x with fifo := x.fifo.drop 1 })
    else if !e.m then some (.remnant e, { x with fifo := x.fifo.drop 1 })
    else
      let len := bits e.d.toNat 63 48
      let (body, rest) := takeBody (len - 1) t
      if body.length + 1 = len then
        some (.record ((e :: body).flatMap fun w => by8 w.d.toNat), { x with fifo := x.fifo.drop len })
      else if rest ≠ [] ∨ x.gapOpen ∨ len < 2 then some (.remnant e, { x with fifo := x.fifo.drop (1 + body.length) })
      else none

/-- A bound on the pieces that a slot's consumer can take now: its entries, and the words that a read of this instant may let in (R139). -/
def State.slotPieces (s : State) (n : Nat) : Nat := (s.slot n).fifo.length + (s.slot n).snap.elim 0 fun p => p.words.length

/-- The consumer of slot `n` takes what stands at its head: a read takes effect before the words that arrive at the same instant
(R139). -/
def State.slotTake (s : State) (n : Nat) : Option (Taken × State) :=
  let (x, ws) := (s.slot n).before s.now
  match x.take with
  | some (t, y) => some (t, eachOf ws (fun w s => s.wordIn n w) (s.modSlot n fun _ => y))
  | none => (s.slot n).take.map fun (t, y) => (t, s.modSlot n fun _ => y)

/-! ### Sources and absence (R102, R103, R121, R147) -/

/-- Two sources may share a slot: both are CAP inputs (R102). -/
def Source.shares (a b : Source) : Bool := decide (a.kind = 9 ∧ b.kind = 9)

/-- A source is attached to a slot as it is enabled; one that R102 does not allow there is refused (R103). -/
def State.attach (s : State) (src : Source) (n : Nat) : State :=
  if (s.slot n).srcs.all fun x => src.shares x then
    s.modSlot n fun x => { x with srcs := if x.srcs.contains src then x.srcs else x.srcs ++ [src], stallAt := s.now }
  else
    (s.modIng fun g => { g with refused := if g.refused.contains src then g.refused else g.refused ++ [src] }).notify 0x030D 5 n
      (src.kind * 256 + src.inst)

/-- A source holds its slot. -/
def State.holds (s : State) (src : Source) (n : Nat) : Bool := (s.slot n).srcs.contains src

/-- A STREAM_STATE record of a slot (R121). -/
def streamStateRec (n state cause : Nat) (t : DT64) (tunc : Bool) : Rec :=
  mkRec 0x06 n (flagIf tunc fTUNC) 0 t (by1 state ++ by1 cause ++ zeros 6)

/-- The source of a slot is declared absent (R147): status, STREAM_STATE and STREAM_ABSENT. A link that drops, a settle that fails and a
source that is disabled declare it also where it is absent already (R141 to R143, R147). Log 158 (DEDUCED). -/
def State.slotAbsent (s : State) (n cause : Nat) : State :=
  let s1 := s.modSlot n fun x => { x with absent := true }
  (s1.recIn n (streamStateRec n 1 cause s1.dev s1.tunc)).notify 0x0308 5 n cause

/-- A slot becomes present: its Pan stream has no watermark until it places a sample (04_motion_pan.md R168), and frames whose encoder
it carries restart fusion at the first tick due from now on (04_motion_pan.md R188). -/
def State.slotBack (s : State) (n : Nat) : State :=
  let s1 := s.modPan fun p => { p with streams := Tab.mod {} n (fun x => { x with wm := none }) p.streams }
  eachOf (upTo 8) (fun f s =>
    if (s.motion f).enabled && (s.motion f).absent && decide (s.motCtrl_ENC_SLOT f = n) then
      s.modMotion f fun m => { m with first := true, next := s.now / 40000 + 1 }
    else s) s1

/-- Absence of a slot ends with a record stamped `t` (R147). -/
def State.slotPresent (s : State) (n : Nat) (t : DT64) (tunc : Bool) : State :=
  if (s.slot n).absent then
    (((s.slotBack n).modSlot n fun x => { x with absent := false }).recIn n (streamStateRec n 0 0 t tunc)).notify 0x0309 5 n 0
  else s

/-- A source is detached as it is disabled: one that held the slot declares it absent with CAUSE 3 (R147). -/
def State.detach (s : State) (src : Source) (n : Nat) : State :=
  let s1 := s.modIng fun g => { g with refused := g.refused.filter fun x => decide (x ≠ src) }
  if s.holds src n then (s1.modSlot n fun x => { x with srcs := x.srcs.filter fun y => decide (y ≠ src) }).slotAbsent n 3 else s1

/-- A source that holds its slot delivers a record: an absence ends first, the record is written, and the slot's stall timer
restarts (R140, R147). Log 52 (DEDUCED). -/
def State.deliver (s : State) (n : Nat) (r : Rec) : State :=
  let s1 := s.slotPresent n r.time (bit r.flags.toNat 4)
  (s1.recIn n r).modSlot n fun x => { x with stallAt := s1.now }

/-! ### Timers gated by a motion frame (R147, 02_timekeeper.md R96) -/

/-- CAP unit `n`. -/
def State.cap (s : State) (n : Nat) : Cap := Tab.get {} n s.tk.caps
/-- The state with CAP unit `n` changed. -/
def State.modCap (s : State) (n : Nat) (f : Cap → Cap) : State := s.modTk fun k => { k with caps := Tab.mod {} n f k.caps }
/-- Encoder channel `n`. -/
def State.enc (s : State) (n : Nat) : Enc := Tab.get {} n s.ing.enc
/-- The state with encoder channel `n` changed. -/
def State.modEnc (s : State) (n : Nat) (f : Enc → Enc) : State := s.modIng fun g => { g with enc := Tab.mod {} n f g.enc }

/-- Interval time since which a gate holds a stall timer, while it does: GATE_EN, and the frame is slower than 10 mm/s. -/
def State.gatePause (s : State) (gated : Bool) (f : Nat) : Option Nat :=
  if gated && (s.motion f).slower 10 then some (s.motion f).slowSince else none

/-- What a stall timer has run now: what it had run at `at_`, and since then, but not while its gate holds it. -/
def timerRan (now ran at_ : Nat) (pause : Option Nat) : Nat := ran + (pause.elim now (fun t => max t at_) - at_)

/-- The interval time at which a stall timer that has `left` ticks to run from `at_` is found to have run out: the tick after, for a
delivery at the instant itself wins (R140). Log 159 (DEDUCED). -/
def stallEnd (at_ left : Nat) : Nat := at_ + left + 1

/-- A stall timer that stood still since `slow` runs on from now. -/
def resumeTimer (now slow at_ : Nat) : Nat := at_ + (now - max at_ slow)

/-- The stall timers gated by frame `f` go on after the frame's speed was below 10 mm/s. -/
def State.resumeTimers (s : State) (f : Nat) : State :=
  let slow := (s.motion f).slowSince
  let s1 := eachOf (upTo 32) (fun n s =>
    if s.tkCapStall_GATE_EN n && decide (s.tkCapStall_GATE_FRAME n = f) then
      s.modCap n fun c => { c with stallAt := resumeTimer s.now slow c.stallAt }
    else s) s
  eachOf (upTo 8) (fun n s =>
    if s.mpEncStall_GATE_EN n && decide (s.mpEncStall_GATE_FRAME n = f) then
      s.modEnc n fun c => { c with stallAt := resumeTimer s.now slow c.stallAt }
    else s) s1

/-- After a change of frame `f`, which was slower than 10 mm/s or not: gated timers pause or go on. -/
def State.gate (s : State) (f : Nat) (wasSlow : Bool) : State :=
  let slow := (s.motion f).slower 10
  if wasSlow && !slow then s.resumeTimers f
  else if !wasSlow && slow then s.modMotion f fun m => { m with slowSince := s.now }
  else s

/-- Words of a record remain in the slot in order: the sum of the depths of enabled slots (R107). -/
def State.poolUsed (s : State) : Nat :=
  ((upTo 48).map fun n => if s.iocSlotCfg_EN n then s.iocSlotCfg_DEPTH n else 0).foldl (· + ·) 0

/-- IOC.SLOT_CFG.n.EN goes from 0 to 1, or from 1 to 0: the contents and the mark of highest occupancy go (R107, R152). -/
def State.slotOn (s : State) (n : Nat) : State :=
  s.modSlot n fun x => { x with fifo := [], gapOpen := false, snap := none, hwm := 0, stallAt := s.now }

/-- EN of a slot is cleared. -/
def State.slotOff (s : State) (n : Nat) : State := s.modSlot n fun x => { x with fifo := [], gapOpen := false, snap := none }

/-- WORD_ARRIVE: a word arrives at a slot (R108). -/
def execWordArrive (slot : Nat) (m : Bool) (d : BitVec 64) (s : State) : Host.Outcome State Fault Refusal :=
  .next (if 48 ≤ slot then s else s.wordIn slot ⟨m, d⟩)

/-- SLOT_STALL: the slot's detector runs out: a camera or SEN stream that holds the slot has delivered no record for STALL_MS
(R147). The detector of a disabled slot does not run. Log 183 (DESIGN CHOICE). -/
def execSlotStall (n : Nat) (s : State) : Host.Outcome State Fault Refusal :=
  .next <|
    let x := s.slot n
    if !s.iocSlotCfg_EN n || !s.iocSlotCfg_STALL_EN n || x.absent || !(x.srcs.any fun y => decide (y.kind = 1 ∨ y.kind = 3)) then s
    else (s.waitUntil (stallEnd x.stallAt (s.iocSlotCfg_STALL_MS n * msTicks))).slotAbsent n 0

end Sys2Proof.Machine
end

