-- ==== Sys2Proof/Machine/Camera.lean ====
section
/-! DEFINITION. CoaXPress host ports, their quads, camera transactions, triggers and power (03_sensor_ports.md R115, R116, R120 to
R127, R141 to R145). -/

namespace Sys2Proof.Machine

open Sys2Proof

/-- SSP port `n`. -/
def State.ssp (s : State) (n : Nat) : Ssp := Tab.get {} n s.ing.ssp
/-- The state with SSP port `n` changed. -/
def State.modSsp (s : State) (n : Nat) (f : Ssp → Ssp) : State := s.modIng fun g => { g with ssp := Tab.mod {} n f g.ssp }
/-- Quad `q`: 0 to 3 hold four SSP ports each, 4 the SEN ports. -/
def State.quad (s : State) (q : Nat) : Quad := Tab.get {} q s.ing.quads
/-- The state with quad `q` changed. -/
def State.modQuad (s : State) (q : Nat) (f : Quad → Quad) : State := s.modIng fun g => { g with quads := Tab.mod {} q f g.quads }

/-! ### Groups (R122) -/

/-- The master port of the group that AGG puts port `n` in. Log 41 (DEDUCED). -/
def State.sspMaster (s : State) (n : Nat) : Nat :=
  if s.sspCtrl_AGG (n / 4 * 4) = 2 then n / 4 * 4
  else if 1 ≤ s.sspCtrl_AGG (n / 2 * 2) then n / 2 * 2
  else n

/-- Port `n` is the master of an enabled port or group. -/
def State.sspLive (s : State) (n : Nat) : Bool := s.sspCtrl_EN n && decide (s.sspMaster n = n)

/-- The ports of quad `q`. -/
def quadPorts (q : Nat) : List Nat := if q < 4 then (upTo 4).map fun k => 4 * q + k else []

/-- The ports of the group that port `n` is master of (R122). -/
def State.groupPorts (s : State) (n : Nat) : List Nat := (quadPorts (n / 4)).filter fun k => decide (s.sspMaster k = n)

/-- A camera's source code (R103). -/
def camSrc (n : Nat) : Source := ⟨1, n⟩

/-- The slot a camera feeds. -/
def State.camHolds (s : State) (n : Nat) : Bool := s.holds (camSrc n) (s.sspCtrl_SLOT n)

/-! ### Quads (R143, R144) -/

/-- A quad's synthesiser starts settling, unless it settles already or is contained (R143). The links that are up stay up.
Log 184 (DESIGN CHOICE). -/
def State.quadSettle (s : State) (q : Nat) : State :=
  if (s.quad q).settling || (s.quad q).fault then s
  else s.modQuad q fun x => { x with settling := true, settleAt := s.now }

/-- A quad with an enabled port has its synthesiser running or settling; one with none is stopped. -/
def State.quadEnable (s : State) (q : Nat) (any : Bool) : State :=
  if !any then s.modQuad q fun x => { x with running := false, settling := false, retry := false, held := [] }
  else if (s.quad q).running then s else s.quadSettle q

/-! ### Triggers (R125, R126, R143, R145) -/

/-- The number that pairs a one-shot with its descriptor. -/
def shotNo (ring : Nat) (didx : BitVec 32) : Nat := ring * 2 ^ 32 + didx.toNat

/-- The TRIG_ONE of a one-shot ends. -/
def State.shotDone (s : State) (shot : Option Nat) (cstatus : Nat) (result : List Byte) : State :=
  match shot with
  | none => s
  | some k => s.complete (k / 2 ^ 32) (BitVec.ofNat 32 k) cstatus 0 result

/-- A trigger is dropped: counted, TRIG_DROPPED, and its TRIG_ONE ends DROPPED (R126, R145). -/
def State.trigDrop (s : State) (n : Nat) (shot : Option Nat) : State :=
  let s1 := s.modSsp n fun p => { p with dropped := satAdd 255 p.dropped 1 }
  (s1.notify 0x0305 1 n (s1.ssp n).dropped).shotDone shot 10 []

/-- A trigger falls due: held, or dropped while the link is down and not settling, or while 8 are held (R126, R145). -/
def State.trigHold (s : State) (n : Nat) (due : DT64) (shot : Option Nat) : State :=
  if (!(s.ssp n).up && !(s.quad (n / 4)).settling) || decide (8 ≤ (s.ssp n).held.length) then s.trigDrop n shot
  else s.modSsp n fun p => { p with held := p.held ++ [⟨due, false, shot, false⟩] }

/-- The least multiple of PITCH ns in its second that is later than `t`, or not earlier when `same` (R125 TIME). Log 44 (DEDUCED). -/
def nextMultiple (pitch : Nat) (t : DT64) (same : Bool) : DT64 :=
  let sec := t.toNat / 2 ^ 32
  let frac := t.toNat % 2 ^ 32
  let k := frac * 1000000000 / 4294967296 / pitch
  let ok (i : Nat) : Bool := decide (frac < nsToDt (i * pitch)) || (same && decide (frac = nsToDt (i * pitch)))
  let i := if ok k then k else if ok (k + 1) then k + 1 else k + 2
  if i * pitch < 1000000000 then BitVec.ofNat 64 (sec * 2 ^ 32 + nsToDt (i * pitch)) else BitVec.ofNat 64 ((sec + 1) * 2 ^ 32)

/-- The least multiple of PITCH beyond a position, or at it when `same`, multiples counted on the signed value (R125 POSITION).
Log 45 (DEDUCED). -/
def trigPitch (pitch : Nat) (p : WP48) (same : Bool) : WP48 :=
  let m : Int := if same && decide (p.toInt % pitch = 0) then p.toInt else (p.toInt / pitch + 1) * pitch
  if m < 140737488355328 then wpOf m else wpOf (-(140737488355328 / (pitch : Int)) * pitch)

/-- The position that the generator of port `n` waits for: beyond the highest one triggered, or from where the frame is.
Log 45 (DEDUCED). -/
def State.trigPoint (s : State) (n : Nat) : Option WP48 :=
  match (s.ssp n).highPos with
  | some p => some (trigPitch (s.sspTrigPitch_PITCH n) p false)
  | none => (s.posNow (s.sspTrigCfg_FRAME n)).map fun p => trigPitch (s.sspTrigPitch_PITCH n) p true

/-- The device time at which frame `f`, moving forward, reaches a position by its latest tick; none while it does not move forward.
Log 45 (DEDUCED). -/
def State.reaches (s : State) (f : Nat) (p : WP48) : Option DT64 :=
  match (s.motion f).headTick with
  | none => none
  | some k => if (s.motion f).absent || decide (k.v.toInt ≤ 0) then none else k.reach p

/-- What can make a trigger fall due at a port, with its due instant: the generator's next one, and each one-shot. -/
inductive TrigSrc where
  | time | position (p : WP48) | cap | shot (x : OneShot)
  deriving DecidableEq, Repr

/-- The due triggers in prospect at port `n`. -/
def State.trigSources (s : State) (n : Nat) : List (DT64 × TrigSrc) :=
  let p := s.ssp n
  let gen : List (DT64 × TrigSrc) :=
    if s.sspTrigCfg_MODE n = 1 then
      [(match p.lastDue with
        | some t => nextMultiple (s.sspTrigPitch_PITCH n) t false
        | none => nextMultiple (s.sspTrigPitch_PITCH n) s.dev true, .time)]
    else if s.sspTrigCfg_MODE n = 2 then
      match s.trigPoint n with
      | some w => ((s.reaches (s.sspTrigCfg_FRAME n) w).map fun t => (t, TrigSrc.position w)).toList
      | none => []
    else if s.sspTrigCfg_MODE n = 3 then (p.capDue.head?.map fun t => (t, TrigSrc.cap)).toList
    else []
  gen ++ p.shots.filterMap fun x =>
    if x.position then (s.reaches x.frame x.pos).map fun t => (t, .shot x) else some (x.time, .shot x)

/-- The earliest of them, by device time. -/
def earliest : List (DT64 × TrigSrc) → Option (DT64 × TrigSrc)
  | [] => none
  | x :: t =>
    match earliest t with
    | none => some x
    | some y => if dtGe y.1 x.1 then some x else some y

/-- TRIGGER_DUE: the next trigger of a port falls due at its instant (R125). -/
def execTriggerDue (n : Nat) (s : State) : Host.Outcome State Fault Refusal :=
  .next <|
    if !s.sspLive n then s
    else
      match earliest (s.trigSources n) with
      | none => s
      | some (t, src) =>
        let s1 := s.waitUntil (s.whenDev t)
        match src with
        | .time => (s1.modSsp n fun p => { p with lastDue := some t }).trigHold n t none
        | .position w => (s1.modSsp n fun p => { p with highPos := some w }).trigHold n t none
        | .cap => (s1.modSsp n fun p => { p with capDue := p.capDue.drop 1 }).trigHold n t none
        | .shot x =>
          (s1.modSsp n fun p => { p with shots := p.shots.filter fun y => decide (y.no ≠ x.no) }).trigHold n t (some x.no)

/-- TOL of port `n` as a DT64 duration. -/
def State.trigTol (s : State) (n : Nat) : Int := nsToDt (100 * s.sspTrigCfg_TOL n)

/-- The minimum interval between launches, in ticks (R137). -/
def State.trigGap (s : State) (n : Nat) : Nat := if (s.ssp n).hs then usTicks else 2 * usTicks

/-- TRIGGER_LAUNCH: the oldest held trigger leaves, once the port's link is up, its quad locked, and the minimum interval over
(R126). One held over a settle of the quad is stamped at its egress (R143). Log 42 (DEDUCED), 160 (DEDUCED). -/
def execTriggerLaunch (n : Nat) (s : State) : Host.Outcome State Fault Refusal :=
  .next <|
    match (s.ssp n).held with
    | [] => s
    | t :: rest =>
      if (s.quad (n / 4)).settling then s
      else if !(s.ssp n).up then (s.modSsp n fun p => { p with held := rest }).trigDrop n t.shot
      else
        let s1 := s.waitUntil (((s.ssp n).launchAt).elim 0 fun a => a + s.trigGap n)
        let late := t.late || decide (0 < dtSub s1.dev (dtAdd t.due (s1.trigTol n)))
        let stamp := if late || t.egress then s1.dev else t.due
        let s2 := s1.modSsp n fun p => { p with
          held := rest
          launchAt := some s1.now
          sent := (p.sent + 1) % 65536
          late := if late then satAdd 255 p.late 1 else p.late
          stamps := p.stamps ++ [stamp] }
        let s3 := if late then s2.notify 0x0304 1 n (s2.ssp n).late else s2
        (s3.send (.cxpTrigger n (if late then 0 else (dtSub s1.dev t.due).toNat))).shotDone t.shot 0 (by8 stamp.toNat ++ by1 (b2n late))

/-- HELD_TRIGGER_LATE: the oldest trigger held while the quad settles, and not yet late, passes due + TOL (R143). -/
def execHeldTriggerLate (n : Nat) (s : State) : Host.Outcome State Fault Refusal :=
  .next <|
    match (s.ssp n).held.find? (fun t => !t.late) with
    | none => s
    | some t =>
      if !(s.quad (n / 4)).settling then s
      else
        (s.waitUntil (s.whenDev (dtAdd t.due (s.trigTol n + 1)))).modSsp n fun p =>
          { p with held := modFirst (fun x => !x.late) (fun x => { x with late := true }) p.held }

/-- TRIG_ONE: the oldest one-shot descriptor is scheduled at its master port; one for a disabled or contained port ends NOT_READY
(R125). Log 46 (DEDUCED). -/
def execTrigOne (s : State) : Host.Outcome State Fault Refusal :=
  .next <|
    match s.nextOp 0x02 fun _ => true with
    | none => s
    | some o =>
      let n := s.sspMaster (min o.target 15)
      let s1 := s.takeOp o
      if !s.sspLive n || (s.quad (n / 4)).fault then s1.complete o.ring o.didx 2 0 []
      else
        let x : OneShot := {
          no := shotNo o.ring o.didx
          position := bit (u8 o.desc 8) 0
          frame := u8 o.desc 9 % 8
          time := BitVec.ofNat 64 (o.inlNat 0 8)
          pos := BitVec.ofNat 48 (o.inlNat 0 8) }
        s1.modSsp n fun p => { p with shots := p.shots ++ [x] }

/-- TRIG_CFG of a port is written, from the state before it: a change of MODE, FRAME or CAP starts the generator afresh (R125), and as
MODE leaves OFF lines and frames are counted from the next one (R124). Log 44 (DEDUCED). -/
def State.trigWrite (s old : State) (n : Nat) : State :=
  let s1 :=
    if s.sspTrigCfg_MODE n = old.sspTrigCfg_MODE n ∧ s.sspTrigCfg_FRAME n = old.sspTrigCfg_FRAME n ∧
        s.sspTrigCfg_CAP n = old.sspTrigCfg_CAP n then s
    else s.modSsp n fun p => { p with lastDue := none, highPos := none, capDue := [] }
  if old.sspTrigCfg_MODE n = 0 ∧ s.sspTrigCfg_MODE n ≠ 0 then s1.modSsp n fun p => { p with stamps := [], lastNo := none } else s1

/-! ### Camera transactions (R123) -/

/-- The port a PORT_XACT names: 0 to 15 SSP, 16 to 23 MP I2C, 24 the accessory bus (13_rings.md R482, R499). -/
def Op.xactPort (o : Op) : Nat := min o.target 24

/-- The oldest PORT_XACT that its port can begin: none of the port runs, and none came before it. -/
def startable : List Op → List Nat → (Op → Bool) → Option Op
  | [], _, _ => none
  | o :: t, seen, p =>
    if o.code ≠ 1 then startable t seen p
    else if seen.contains o.xactPort then startable t seen p
    else if !o.taken && p o then some o
    else startable t (o.xactPort :: seen) p

/-- The PORT_XACT that runs on a port. -/
def State.xactOf (s : State) (port : Nat) : Option Op :=
  s.hl.ops.find? fun o => decide (o.code = 1) && o.taken && decide (o.xactPort = port)

/-- A camera transaction begins: held while the port's quad settles, refused NOT_READY while the port cannot take it, otherwise the
command leaves and 200 ms run (R123, R143). Log 41 (DEDUCED). -/
def State.cxpBegin (s : State) (o : Op) : State :=
  let n := o.xactPort
  if (s.quad (n / 4)).settling && s.sspLive n then s
  else if !s.sspLive n || !(s.ssp n).up then (s.takeOp o).complete o.ring o.didx 2 0 []
  else
    let addr := BitVec.ofNat 32 (u32 o.desc 8)
    let len := clampN 1 48 (u16 o.desc 12)
    ((s.takeOp o).modSsp n fun p => { p with xactAt := some (s.now, s.now + 200 * msTicks) }).send
      (if bit (u8 o.desc 14) 0 then .cxpRead n addr len else .cxpWrite n addr (o.inl 0 len))

/-- PORT_XACT_CXP_WRITE: the oldest camera write that can begin does. -/
def execPortXactCxpWrite (s : State) : Host.Outcome State Fault Refusal :=
  .next ((startable s.hl.ops [] fun o => decide (o.xactPort < 16) && !bit (u8 o.desc 14) 0).elim s fun o => s.cxpBegin o)

/-- PORT_XACT_CXP_READ: the oldest camera read that can begin does. -/
def execPortXactCxpRead (s : State) : Host.Outcome State Fault Refusal :=
  .next ((startable s.hl.ops [] fun o => decide (o.xactPort < 16) && bit (u8 o.desc 14) 0).elim s fun o => s.cxpBegin o)

/-- A running camera transaction ends. -/
def State.cxpEnd (s : State) (n : Nat) (o : Op) (cstatus reason : Nat) (result : List Byte) : State :=
  (s.modSsp n fun p => { p with xactAt := none }).complete o.ring o.didx cstatus reason result

/-- CXP_ACK_RECEIVE: an acknowledgment ends the transaction that runs, or extends it up to 5 s in all (R123). -/
def execCxpAckReceive (dt n : Nat) (a : CxpAck) (s : State) : Host.Outcome State Fault Refusal :=
  .next <|
    let s1 := s.pass dt
    match s1.xactOf n, (s1.ssp n).xactAt with
    | some o, some (start, due) =>
      match a with
      | .ok data =>
        let len := clampN 1 48 (u16 o.desc 12)
        s1.cxpEnd n o 0 0 (if bit (u8 o.desc 14) 0 then sub data 0 len else by2 len)
      | .error code => s1.cxpEnd n o 4 (code % 256) []
      | .wait ms => s1.modSsp n fun p => { p with xactAt := some (start, min (start + 5000 * msTicks) (max due (s1.now + ms * msTicks))) }
    | _, _ => s1

/-- CXP_XACT_TIMEOUT: no acknowledgment came in time (R123). -/
def execCxpXactTimeout (n : Nat) (s : State) : Host.Outcome State Fault Refusal :=
  .next <|
    match s.xactOf n, (s.ssp n).xactAt with
    | some o, some (_, due) => (s.waitUntil due).cxpEnd n o 3 0 []
    | _, _ => s

/-- Every PORT_XACT of a port, running or waiting, ends NOT_READY (R123, R143). -/
def State.xactsFail (s : State) (port : Nat) (running : Bool) : State :=
  eachOf (s.hl.ops.filter fun o => decide (o.code = 1) && decide (o.xactPort = port) && (running || !o.taken))
    (fun o s => s.complete o.ring o.didx 2 0 []) s

/-! ### Links and enables (R122, R141, R145, R147) -/

/-- A port's triggers that wait or are held go: counted as dropped when `count` is set, their descriptors ended with `cstatus`. -/
def State.trigsGo (s : State) (n : Nat) (count : Bool) (cstatus : Nat) : State :=
  let p := s.ssp n
  let s1 := s.modSsp n fun p => { p with held := [] }
  let s2 := eachOf p.held (fun t s => if count then s.trigDrop n t.shot else s.shotDone t.shot cstatus []) s1
  if count then s2
  else
    eachOf p.shots (fun x s => s.shotDone (some x.no) cstatus []) (s2.modSsp n fun p => { p with shots := [], capDue := [] })

/-- The staged partial record of a port is discarded behind a SOURCE_GAP of the packets received for it (R141). -/
def State.camBreak (s : State) (n : Nat) : State :=
  let k := (s.ssp n).stage.elim 0 fun x => x.pkts
  let s1 := s.modSsp n fun p => { p with stage := none, lost := 0, tag := none }
  if s.camHolds n then s1.gapIn (s.sspCtrl_SLOT n) k else s1

/-- The link or group of master port `n` goes down, and its slot is declared absent with CAUSE 1 when `declare` is set (R141).
Log 42 (DEDUCED). -/
def State.camDown (s : State) (n : Nat) (declare : Bool) : State :=
  if (s.ssp n).up then
    let rate := (s.ssp n).rate
    let s1 := (s.camBreak n).modSsp n fun p => { p with up := false, rate := 7, camera := false, hs := false }
    let s2 := if declare && s1.camHolds n then s1.slotAbsent (s1.sspCtrl_SLOT n) 1 else s1
    s2.notify 0x0301 1 n rate
  else s

/-- Port `n` comes to be the master of an enabled port or group. -/
def State.sspOn (s : State) (n : Nat) : State :=
  ((s.modSsp n fun p => { p with
      stage := none, lost := 0, tag := none, badFmt := none, held := [], shots := [], capDue := [], lastDue := none
      highPos := none, stamps := [], lastNo := none }).attach (camSrc n) (s.sspCtrl_SLOT n)).quadEnable (n / 4) true

/-- Port `n` ceases to be the master of an enabled port or group: what it held goes, its camera is absent with CAUSE 3 (R147), and
the quad stops when no port of it is left. Log 47 (DEDUCED). -/
def State.sspOff (s : State) (n : Nat) : State :=
  let s1 := (s.trigsGo n false 2).xactsFail n true
  let s2 := s1.modSsp n fun p => { p with
    up := false, rate := 7, camera := false, hs := false, stage := none, lost := 0, tag := none, xactAt := none, stamps := []
    lastNo := none }
  (s2.detach (camSrc n) (s.sspCtrl_SLOT n)).quadEnable (n / 4) ((quadPorts (n / 4)).any fun k => s2.sspLive k)

/-- After a write to SSP.k.CTRL, which may change the groups of its quad: each port whose part changed is disabled or enabled.
`was` holds the masters of enabled ports before. Links of groups that come or go are down. Log 41 (DEDUCED). -/
def State.sspRegroup (s : State) (q : Nat) (was : List Nat) : State :=
  let live := (quadPorts q).filter fun k => s.sspLive k
  let s1 := eachOf (was.filter fun k => !live.contains k) (fun k s => s.sspOff k) s
  let s2 := eachOf (live.filter fun k => !was.contains k) (fun k s => s.sspOn k) s1
  eachOf ((quadPorts q).filter fun k => !(live.contains (s.sspMaster k) && was.contains (s.sspMaster k)))
    (fun k s => s.modSsp k fun p => { p with link := false }) s2

/-- Master port `m` comes up when every member link of its group is up, at the lowest of their rates (R122, R141). Log 62 (DEDUCED). -/
def State.groupUp (s : State) (m : Nat) : State :=
  if (s.ssp m).up || !((s.groupPorts m).all fun k => (s.ssp k).link) then s
  else
    let rate := minOf (s.ssp m).linkRate ((s.groupPorts m).map fun k => (s.ssp k).linkRate)
    (s.modSsp m fun p => { p with
      up := true, rate := rate, camera := true, hs := p.linkHs && s.sspCtrl_HS_UPLINK m, tag := none, lost := 0 }).notify 0x0302 1 m rate

/-- CXP_LINK_UP: the link of a port of an enabled group comes up, at the camera's rate or at MAX_RATE when that is lower; `hs` of it says
that the camera has the high-speed uplink. With it the group comes up once every member is up (R122, R141). -/
def execCxpLinkUp (dt : Nat) (l : CxpLink) (s : State) : Host.Outcome State Fault Refusal :=
  .next <|
    let s1 := s.pass dt
    let m := s1.sspMaster l.port
    let q := s1.quad (l.port / 4)
    if !s1.sspLive m || (s1.ssp l.port).link || !q.running || q.settling || q.fault then s1
    else
      ((s1.modSsp l.port fun p => { p with
        link := true, linkRate := min l.rate (s1.sspCtrl_MAX_RATE m), linkHs := l.hs }).groupUp m).relevel

/-- The link of port `n` drops, and its group with it; the quad retrains (R141, R143). -/
def State.linkDrop (s : State) (n : Nat) : State :=
  if (s.ssp n).link then
    (((s.modSsp n fun p => { p with link := false }).camDown (s.sspMaster n) true).quadSettle (n / 4)).relevel
  else s

/-- CXP_LINK_DOWN: a member link of a group drops (R141). -/
def execCxpLinkDown (dt n : Nat) (s : State) : Host.Outcome State Fault Refusal := .next ((s.pass dt).linkDrop n)

/-- QUAD_LOCK: the synthesiser locks; frames held leave in order, held transactions and triggers may go on, and the triggers are stamped
at their egress (R143, R144). -/
def execQuadLock (dt q : Nat) (s : State) : Host.Outcome State Fault Refusal :=
  .next <|
    let s1 := s.pass dt
    if !(s1.quad q).settling then s1
    else
      eachOf (s1.quad q).held (fun o s => s.send o)
        (eachOf (quadPorts q) (fun n s => s.modSsp n fun p => { p with held := p.held.map fun t => { t with egress := true } })
          (s1.modQuad q fun x => { x with settling := false, running := true, retry := false, held := [] }))

/-- Bits of IOC.QUAD_RETRY are written 1 and read so until the quad's settle ends (00_scope.md R16); a contained quad settles again
(R144). -/
def State.quadRetry (s : State) (mask : Nat) : State :=
  eachOf (upTo 5) (fun q s =>
    if bit mask q then
      let s1 := s.modQuad q fun x => { x with fault := false, retry := true }
      if (s.quad q).fault then s1.quadSettle q else s1
    else s) s

/-! ### Camera power (R127, 15_startup.md R528) -/

/-- SSP.n.POCXP.EN changes: detection starts, at power-good while PoCXP is cut, or power goes and a trip is forgotten.
Log 48 (DEDUCED). -/
def State.pocxpEnable (s : State) (n : Nat) (on : Bool) : State :=
  if on then s.modSsp n fun p => { p with detecting := s.aon.powerGood, detected := false, pocxpTrip := false }
  else s.modSsp n fun p => { p with detecting := false, detected := false, pocxpOn := false, pocxpTrip := false }

/-- POCXP_DETECTION_DONE: a device was found, and is powered, or none, and detection goes on until a camera is plugged in
(16_module.md R580). -/
def execPocxpDetectionDone (dt n : Nat) (ok : Bool) (s : State) : Host.Outcome State Fault Refusal :=
  .next <|
    let s1 := s.pass dt
    if (s1.ssp n).detecting then s1.modSsp n fun p => { p with detecting := !ok, detected := ok, pocxpOn := ok } else s1

/-- PoCXP returns at power-good to each port that is enabled for it and has not tripped: power to one whose device was found, detection to
another (R127, 15_startup.md R528). Log 143 (DEDUCED). -/
def State.pocxpBack (s : State) : State :=
  eachOf ((upTo 16).filter fun n => s.sspPocxp_EN n && !(s.ssp n).pocxpTrip) (fun n s => s.modSsp n fun p =>
    { p with pocxpOn := p.detected, detecting := !p.detected }) s

/-- PoCXP is removed from every port: the links of the cameras it powered drop, and their slots go absent (16_module.md R580). -/
def State.pocxpCut (s : State) : State :=
  eachOf ((upTo 16).filter fun n => (s.ssp n).pocxpOn) (fun n s => s.linkDrop n)
    (eachOf (upTo 16) (fun n s => s.modSsp n fun p => { p with pocxpOn := false, detecting := false }) s)

/-- POCXP_TRIP: a port over its budget, or shorted, removes power. The draw at the trip, in 0.1 W, is a free value. Log 48 (DEDUCED). -/
def execPocxpTrip (dt n : Nat) (s : State) : Host.Outcome State Fault Refusal :=
  .next <|
    let s1 := s.pass dt
    if (s1.ssp n).pocxpOn then
      let (x, s2) := s1.takeFree 0x0306
      (s2.modSsp n fun p => { p with pocxpOn := false, pocxpTrip := true }).notify 0x0306 1 n (x % 2 ^ 32)
    else s1

/-! ### Images (R111, R114 to R116, R124, R130) -/

/-- How a PFNC pixel format is taken (R116): PIXFMT, Bayer phase, bits of a pixel as received, bits as stored. Log 50 (PRESUMED). -/
structure PixFmt where
  code : Nat
  phase : Nat := 0
  bpp : Nat
  out : Nat
  deriving DecidableEq, Repr

/-- The formats of R116 by their PFNC codes. Log 50 (PRESUMED). -/
def pixFmt (pfnc : BitVec 32) : Option PixFmt :=
  match pfnc.toNat with
  | 0x01080001 => some ⟨1, 0, 8, 8⟩
  | 0x01100003 => some ⟨2, 0, 16, 10⟩
  | 0x010A0046 => some ⟨2, 0, 10, 10⟩
  | 0x01100005 => some ⟨3, 0, 16, 12⟩
  | 0x010C0047 => some ⟨3, 0, 12, 12⟩
  | 0x01100025 => some ⟨4, 0, 16, 16⟩
  | 0x01100007 => some ⟨4, 0, 16, 16⟩
  | 0x02180014 => some ⟨5, 0, 24, 24⟩
  | 0x01080009 => some ⟨6, 0, 8, 8⟩
  | 0x01080008 => some ⟨6, 1, 8, 8⟩
  | 0x0108000A => some ⟨6, 2, 8, 8⟩
  | 0x0108000B => some ⟨6, 3, 8, 8⟩
  | 0x02300033 => some ⟨7, 0, 48, 48⟩
  | _ => none

/-- Bits of one pixel as stored, by PIXFMT (R116). -/
def pixBits (pixfmt : Nat) : Nat :=
  if pixfmt = 2 then 10 else if pixfmt = 3 then 12 else if pixfmt = 4 then 16 else if pixfmt = 5 then 24
  else if pixfmt = 7 then 48 else 8

/-- Bytes of one row as received. -/
def ImgStage.rowIn (x : ImgStage) : Nat := (x.bpp * x.width + 7) / 8

/-- Values of `b` bits packed from the least significant bit on. Log 50 (PRESUMED). -/
def packVals (b : Nat) : List Nat → Nat
  | [] => 0
  | v :: t => v % 2 ^ b + 2 ^ b * packVals b t

/-- Columns c to c + n - 1 of a row as stored. -/
def ImgStage.rowOut (x : ImgStage) (row : List Byte) (c n : Nat) : List Byte :=
  let b := pixBits x.pixfmt
  let v := if x.unpack then packVals b ((upTo n).map fun k => u16 row (2 * (c + k))) else leNat row / 2 ^ (b * c) % 2 ^ (b * n)
  leBytes ((b * n + 7) / 8) v

/-- Bytes for pixels in a record of 32 KiB (R114, R115). Log 50 (PRESUMED). -/
def imgRoom : Nat := 32768 - 32

/-- Columns of one record: all, or when a row is longer than a record a multiple of 8. -/
def ImgStage.cols (x : ImgStage) : Nat :=
  if (pixBits x.pixfmt * x.width + 7) / 8 ≤ imgRoom then x.width else imgRoom * 8 / pixBits x.pixfmt / 8 * 8

/-- Rows of one record. -/
def ImgStage.rows (x : ImgStage) : Nat := max 1 (imgRoom / max 1 ((pixBits x.pixfmt * x.width + 7) / 8))

/-- The IMAGE record of `nr` staged rows, columns c to c + n - 1 (R115); of a line-scan stream, FRAME is the line's number. -/
def ImgStage.record (x : ImgStage) (slot nr c n : Nat) (line last : Bool) : Rec :=
  let ri := x.rowIn
  let at_ := if line then by4 (x.frame.toNat + x.row) ++ by2 0 else by4 x.frame.toNat ++ by2 x.row
  let sf := b2n x.trig + 2 * b2n x.camTime + 4 * b2n (x.first && decide (c = 0)) + 16 * x.phase
  mkRec 0x01 slot (flagIf x.tunc fTUNC + flagIf last fLAST) 0 x.time
    (at_ ++ by2 nr ++ by2 c ++ by2 n ++ by1 x.pixfmt ++ by1 sf ++ zeros 2 ++
      (upTo nr).flatMap fun k => x.rowOut (sub x.data (k * ri) ri) c n)

/-- The records of `nr` staged rows: one, or for one long row several by columns. -/
def ImgStage.records (x : ImgStage) (slot nr : Nat) (line last : Bool) : List Rec :=
  let w := max 1 x.cols
  (upTo ((x.width + w - 1) / w)).map fun k =>
    x.record slot nr (k * w) (min w (x.width - k * w)) line (last && decide (x.width ≤ (k + 1) * w))

/-- What the stage can give: whole records of as many rows as fit, and the rest of the frame when it is all there; with `flush`, the
whole rows that are there. A line-scan stream gives one record for each row. -/
def ImgStage.give (slot : Nat) (line flush : Bool) : Nat → ImgStage → List Rec × ImgStage
  | 0, x => ([], x)
  | k + 1, x =>
    let rem := x.height - x.row
    let full := min (if line then 1 else x.rows) rem
    let nr := if flush then min full (x.data.length / max 1 x.rowIn) else full
    if x.width = 0 ∨ nr = 0 ∨ x.broken ∨ x.data.length < nr * x.rowIn then ([], x)
    else
      let y := { x with row := x.row + nr, data := x.data.drop (nr * x.rowIn), first := line, pkts := 0 }
      let (l, z) := ImgStage.give slot line flush k y
      (x.records slot nr line (line || decide (nr = rem)) ++ l, z)

/-- An arrival stamp now, less LAT ns. Log 49 (DEDUCED). -/
def State.arrival (s : State) (lat : Nat) : DT64 := dtAdd s.dev (-(nsToDt lat : Nat))

/-- The stamp of a line or frame (R124): of the trigger it answers, when one is outstanding, lines or frames lost before it having
used theirs, otherwise the arrival. Log 43 (DEDUCED). -/
def State.camStamp (s : State) (n : Nat) (no : BitVec 32) : DT64 × Bool × State :=
  let p := s.ssp n
  let skip := match p.lastNo with
    | some k => if (no - k).toNat < 2 ^ 31 then (no - k).toNat - 1 else 0
    | none => 0
  let l := p.stamps.drop skip
  let s1 := s.modSsp n fun p => { p with stamps := l.drop 1, lastNo := some no }
  match l.head? with
  | some t => (t, true, s1)
  | none => (s.arrival (s.sspLat_NS n), false, s1)

/-- A record of a camera: written into its slot, or counted REFUSED when the slot was refused to it (R103). -/
def State.camRec (s : State) (n : Nat) (r : Rec) : State :=
  if s.camHolds n then s.deliver (s.sspCtrl_SLOT n) r
  else s.modSsp n fun p => { p with refused := satAdd 65535 p.refused 1 }

/-- A SOURCE_GAP of a camera. -/
def State.camGap (s : State) (n count : Nat) : State := if s.camHolds n then s.gapIn (s.sspCtrl_SLOT n) count else s

/-- A stage with data of an unfinished record is given up behind a SOURCE_GAP. -/
def State.camLeave (s : State) (n : Nat) : State :=
  match (s.ssp n).stage with
  | some x => if x.data ≠ [] ∧ !x.broken then s.camGap n 0 else s
  | none => s

/-- The records a camera's stage can give are written. -/
def State.camGive (s : State) (n : Nat) : State :=
  match (s.ssp n).stage with
  | none => s
  | some x =>
    let (l, y) := x.give (s.sspCtrl_SLOT n) (s.sspCtrl_KIND n) false (x.height + 1)
    eachOf l (fun r s => s.camRec n r) (s.modSsp n fun p => { p with stage := some y })

/-- A frame or line in a format that R116 does not accept is dropped. -/
def State.camBadFmt (s : State) (n : Nat) (pfnc : BitVec 32) : State :=
  let s1 := s.modSsp n fun p => { p with refused := satAdd 65535 p.refused 1, badFmt := some pfnc, stage := none }
  if (s.ssp n).badFmt = some pfnc then s1 else s1.notify 0x0307 1 n pfnc.toNat

/-- One piece of a stream packet. In an area frame the marker of a line lets the rows from it on go out after a loss; a frame or line
that is dropped uses its trigger too (R124). Log 37 (DEDUCED), 161 (DEDUCED), 181 (DESIGN CHOICE). -/
def State.camItem (s : State) (n : Nat) : CxpItem → State
  | .header frame w h pfnc =>
    let s1 := s.camLeave n
    match pixFmt pfnc with
    | none => (if s.sspCtrl_KIND n then s1 else (s1.camStamp n frame).2.2).camBadFmt n pfnc
    | some f =>
      let line := s.sspCtrl_KIND n
      let (t, trig, s2) := if line then (s1.dev, false, s1) else s1.camStamp n frame
      s2.modSsp n fun p => { p with
        badFmt := none
        stage := some {
          frame := frame, width := w, height := if line then 0 else h, pixfmt := f.code, phase := f.phase, bpp := f.bpp
          unpack := decide (f.bpp = 16 ∧ f.out < 16), row := 0, data := [], time := t, tunc := s.tuncAt t, trig := trig
          camTime := false, first := true, pkts := 0, broken := false } }
  | .line no =>
    if !s.sspCtrl_KIND n then
      s.modSsp n fun p => { p with
        stage := p.stage.map fun x =>
          if x.broken ∧ x.row ≤ no.toNat ∧ no.toNat < x.height then
            { x with row := no.toNat, data := [], broken := false }
          else x }
    else
      let s1 := s.camLeave n
      match (s1.ssp n).stage with
      | none => (s1.camStamp n no).2.2
      | some x =>
        let (t, trig, s2) := s1.camStamp n no
        s2.modSsp n fun p => { p with
          stage := some { x with
            frame := no, height := 1, row := 0, data := [], time := t, tunc := s.tuncAt t, trig := trig, first := true, pkts := 0
            broken := false } }
  | .pixels d =>
    (s.modSsp n fun p => { p with
      stage := p.stage.map fun x => if x.broken ∨ x.height ≤ x.row then x else { x with data := x.data ++ d } }).camGive n

/-- Packets lost before a valid one: the record they belonged to is given up behind a SOURCE_GAP that counts them (R111). -/
def State.camLost (s : State) (n : Nat) : State :=
  let k := (s.ssp n).lost
  if k = 0 then s
  else
    (s.modSsp n fun p => { p with lost := 0, stage := p.stage.map fun x => { x with data := [], broken := true, pkts := 0 } }).camGap n k

/-- CXP_STREAM_PACKET: a stream packet is checked, packets missing before it are found by tag, and its lines or frames go out as
IMAGE records (R111, R116, R124). -/
def execCxpStreamPacket (dt n : Nat) (p : CxpPacket) (s : State) : Host.Outcome State Fault Refusal :=
  .next <|
    let s1 := s.pass dt
    if !s1.sspLive n || !(s1.ssp n).up then s1
    else if !p.crcOk then
      s1.modSsp n fun x => { x with
        pktErr := satAdd 65535 x.pktErr 1, lost := x.lost + 1, tag := x.tag.map fun t => (t + 1) % 256 }
    else if p.streamId ≠ s1.sspCtrl_STREAM_ID n then s1.modSsp n fun x => { x with refused := satAdd 65535 x.refused 1 }
    else
      let miss := (s1.ssp n).tag.elim 0 fun t => (p.tag + 256 - t % 256) % 256
      let s2 := (s1.modSsp n fun x => { x with lost := x.lost + miss, tag := some ((p.tag + 1) % 256) }).camLost n
      (eachOf p.items (fun i s => s.camItem n i) s2).modSsp n fun x =>
        { x with stage := x.stage.map fun y => { y with pkts := if y.data = [] then 0 else y.pkts + 1 } }

/-- CXP_EVENT_PACKET: an event packet becomes a CXP_EVT record; one longer than 1 024 bytes is dropped (R120). Log 49 (DEDUCED). -/
def execCxpEventPacket (dt n : Nat) (data : List Byte) (s : State) : Host.Outcome State Fault Refusal :=
  .next <|
    let s1 := s.pass dt
    if !s1.sspLive n || !(s1.ssp n).up then s1
    else if 1024 < data.length then s1.modSsp n fun x => { x with refused := satAdd 65535 x.refused 1 }
    else
      s1.camRec n (mkRec 0x05 (s1.sspCtrl_SLOT n) (flagIf s1.tunc fTUNC) 0 s1.dev (by2 data.length ++ zeros 6 ++ data))

end Sys2Proof.Machine
end

