-- ==== Sys2Proof/Machine/Macro.lean ====
section
/-! DEFINITION. The macro-operations of the execute stream (07_aurik_ops.md): tensors and their operands, queue operands
tile by tile (R297), and what each operation computes (R283 to R296); RSCALAR (06_aurik_machine.md R245). -/

namespace Sys2Proof.Machine

open Sys2Proof

/-! ### Tensors and operands (R239, R267, R297) -/

/-- A tensor descriptor (R239). -/
structure Desc where
  base : Nat
  loc : Nat
  queue : Nat
  fmt : Nat
  bp : Nat
  d0 : Nat
  d1 : Nat
  d2 : Nat
  d3 : Nat
  s1 : Nat
  s2 : Nat
  s3 : Nat
  deriving DecidableEq, Repr

/-- A tensor descriptor from its 32 bytes. -/
def descOf (b : List Byte) : Desc :=
  ⟨u32 b 0, u8 b 4, u8 b 5 % 4, u8 b 6, u8 b 7 % 32, u16 b 8, u16 b 10, u16 b 12, u16 b 14, u32 b 16, u32 b 20, u32 b 24⟩

/-- Descriptor `h` of the running program. -/
def State.desc (s : State) (h : Nat) : Desc := descOf (imgDesc s.image h)

/-- Dimension `x` of a tensor. -/
def Desc.dim (d : Desc) (x : Nat) : Nat := match x with | 0 => d.d0 | 1 => d.d1 | 2 => d.d2 | _ => d.d3

/-- The elements of a tensor. -/
def Desc.elems (d : Desc) : Nat := d.d0 * d.d1 * d.d2 * d.d3

/-- The scratchpad bytes from BASE on that a tensor may reach. -/
def Desc.extent (d : Desc) : Nat :=
  d.base + (d.d1 - 1) * d.s1 + (d.d2 - 1) * d.s2 + (d.d3 - 1) * d.s3 + rowBytes d.fmt d.d0

/-- Tiles along D0. -/
def Desc.t0 (d : Desc) : Nat := (d.d0 + 31) / 32
/-- Tiles along D1. -/
def Desc.t1 (d : Desc) : Nat := (d.d1 + 31) / 32
/-- The tiles of a tensor (R297). -/
def Desc.tiles (d : Desc) : Nat := d.t0 * d.t1 * d.d2 * d.d3

/-- The place of a tile: along D0, along D1, D2 and D3. -/
structure TileAt where
  x0 : Nat
  x1 : Nat
  i2 : Nat
  i3 : Nat
  deriving DecidableEq, Repr

/-- The place of tile `j` in the order of R297. -/
def Desc.tileAt (d : Desc) (j : Nat) : TileAt :=
  ⟨j % d.t0, j / d.t0 % d.t1, j / (d.t0 * d.t1) % d.d2, j / (d.t0 * d.t1 * d.d2)⟩

/-- The number of the tile at a place, in the order of R297. -/
def Desc.tileNo (d : Desc) (p : TileAt) : Nat := ((p.i3 * d.d2 + p.i2) * d.t1 + p.x1) * d.t0 + p.x0

/-- The place in an operand that is broadcast along its dimensions of 1. -/
def Desc.bcast (d : Desc) (p : TileAt) : TileAt :=
  ⟨min p.x0 (d.t0 - 1), min p.x1 (d.t1 - 1), min p.i2 (d.d2 - 1), min p.i3 (d.d3 - 1)⟩

/-- A tensor with its rows as bytes, by row number (i3 × D2 + i2) × D1 + i1. -/
structure Operand where
  d : Desc
  row : Nat → List Byte

/-- Row (i1, i2, i3). -/
def Operand.rowAt (o : Operand) (i1 i2 i3 : Nat) : List Byte := o.row ((i3 * o.d.d2 + i2) * o.d.d1 + i1)

/-- The value of an element (R273). -/
def Operand.val (o : Operand) (i0 i1 i2 i3 : Nat) : Val := elemVal o.d.fmt o.d.bp (o.rowAt i1 i2 i3) i0

/-- The value of an element as the source of a conversion into class F or X (R275). -/
def Operand.unit (o : Operand) (i0 i1 i2 i3 : Nat) : Val := unitVal o.d.fmt o.d.bp (o.rowAt i1 i2 i3) i0

/-- An index along a dimension that may be broadcast. -/
def bc (dim i : Nat) : Nat := if dim = 1 then 0 else i

/-- The value of an element of an operand that may be broadcast (R290). -/
def Operand.valBc (o : Operand) (i0 i1 i2 i3 : Nat) : Val :=
  o.val (bc o.d.d0 i0) (bc o.d.d1 i1) (bc o.d.d2 i2) (bc o.d.d3 i3)

/-- The raw integer of element `i` in linear order: a class I code, or the pattern of a class X element (R245, R292). -/
def Operand.raw (o : Operand) (i : Nat) : Int :=
  let c := rawElem o.d.fmt (o.row (i / o.d.d0)) (i % o.d.d0)
  if fmtX o.d.fmt then signed (fmtBits o.d.fmt) c else intVal o.d.fmt c

/-- The device-memory offset of a row in the scratchpad. -/
def Desc.rowOff (d : Desc) (r : Nat) : Nat :=
  d.base + r % d.d1 * d.s1 + r / d.d1 % d.d2 * d.s2 + r / (d.d1 * d.d2) * d.s3

/-- Operand `x` of a Lane's run: rows from the scratchpad, or from the tiles taken (R297). -/
def State.operand (s : State) (n : Nat) (run : MacroRun) (x : Nat) (d : Desc) : Operand where
  d := d
  row := fun r =>
    if d.loc = 0 then s.readMem (spBase + n * spSize + d.rowOff r) (rowBytes d.fmt d.d0)
    else
      let ts := Tab.get [] x run.taken
      let rb := rowBytes d.fmt 32
      let i1 := r % d.d1
      (upTo d.t0).flatMap fun k => sub (Tab.get { data := [] } ((r / d.d1 * d.t1 + i1 / 32) * d.t0 + k) ts).data (i1 % 32 * rb) rb

/-! ### Running a macro-operation (R236, R237, R297) -/

/-- What a macro-operation does. -/
structure MacroOp where
  /-- The operands it reads: 0 A, 1 B, 2 C. -/
  srcs : List Nat
  /-- Operands whose values say which tiles of the others it needs. -/
  guide : List Nat := []
  /-- The tiles of an operand, of a descriptor, that it needs for the tile of D at a place. The first argument gives the operands. -/
  uses : (Nat → Operand) → Nat → Desc → TileAt → List TileAt
  /-- The bytes of up to 32 elements of D from element 32 × x0 of a row on, and whether one saturated (R277). The first
  argument gives the operands; operand 3 is what D holds. -/
  res : (Nat → Operand) → TileAt → Nat → List Byte × Bool
  /-- It meets an address fault; the rows of D before it are complete (R293, R294). -/
  stop : (Nat → Operand) → Option Nat := fun _ => none
  /-- Further epochs that go into the tag of the tile of D at a place (08_attention.md R321). -/
  also : (Nat → Operand) → TileAt → List Epoch := fun _ _ => []
  /-- What its reads of memory for the tile of D at a place do beside (08_attention.md R330). -/
  prep : (Nat → Operand) → TileAt → State → State := fun _ _ s => s
  /-- It must wait before the tile of D at a place, for a rebuild (08_attention.md R323). -/
  hold : (Nat → Operand) → TileAt → Bool := fun _ _ => false
  /-- It may use free values: the model's count of them advances. -/
  free : Bool := false
  /-- D in the scratchpad is written when all of it is known: D takes the place of an operand that every tile reads (R282). -/
  whole : Bool := false

/-- The numbers `a` to `b`, without `b`. -/
def rangeTo (a b : Nat) : List Nat := (upTo (b - a)).map fun i => a + i

/-- The tiles of a block of places: along D0, along D1, D2 and D3. -/
def tileBox (x0 x1 i2 i3 : List Nat) : List TileAt :=
  i3.flatMap fun d => i2.flatMap fun c => x1.flatMap fun b => x0.map fun a => ⟨a, b, c, d⟩

/-- Every tile of an operand is needed. -/
def useAll (d : Desc) : List TileAt := (upTo d.tiles).map d.tileAt

/-- A command's operand handles: 0 A, 1 B, 2 C, 3 D (R280). -/
def macroHandle (c : List Byte) (x : Nat) : Nat := match x with | 0 => u8 c 9 | 1 => u8 c 10 | 2 => u8 c 11 | _ => u8 c 8

/-- CUSE. -/
def mCUSE (c : List Byte) : Bool := bit (u8 c 12) 0
/-- TA. -/
def mTA (c : List Byte) : Bool := bit (u8 c 12) 1
/-- TB. -/
def mTB (c : List Byte) : Bool := bit (u8 c 12) 2
/-- BUSE. -/
def mBUSE (c : List Byte) : Bool := bit (u8 c 12) 3
/-- DW. -/
def mDW (c : List Byte) : Bool := bit (u8 c 12) 4
/-- ROUND (R274). -/
def mROUND (c : List Byte) : Nat := u8 c 13 % 4
/-- SATF. -/
def mSATF (c : List Byte) : Bool := bit (u8 c 13) 2
/-- ACT is RELU. -/
def mRELU (c : List Byte) : Bool := decide (bits (u8 c 13) 4 3 = 1)

/-- RELU (R280): the greater of the result and 0, −0 becomes +0, NaN and NaR pass. -/
def reluV (v : Val) : Val := if v.isNan then v else if v.isNeg || v.isZero then .zero else v

/-- Up to 32 elements of a row of D from their values, with ACT, ROUND and SATF of the command. -/
def segOf (c : List Byte) (d : Desc) (fsrc : Bool) (x0 : Nat) (v : Nat → Val) : List Byte × Bool :=
  encodeRow d.fmt d.bp (mROUND c) (mSATF c) fsrc
    ((upTo (min 32 (d.d0 - 32 * x0))).map fun i => let y := v (32 * x0 + i); if mRELU c then reluV y else y)

/-- The tag of a tile that a run produces (R236); none while provisional epochs of two frames would be combined (R46). -/
def State.mergeTags (s : State) (l : List Tile) : Option (Epoch × Nat × Nat) :=
  let e := match l with
    | [] => some (0 : Epoch)
    | t :: r => r.foldl (fun (e : Option Epoch) (x : Tile) => e.bind fun e => s.mergeEp e x.epoch) (some t.epoch)
  let b := l.find? fun t => bit t.flags 0
  e.map fun e => (e, l.foldl (fun f (t : Tile) => f ||| (t.flags &&& mergeMask)) 0 ||| b.elim 0 (fun _ => fBAT),
    b.elim 0 (fun t => t.baton))

/-- How many tiles operand `x` of a run has taken. -/
def MacroRun.count (r : MacroRun) (x : Nat) : Nat := Tab.get 0 x r.got

/-- Operand `x` takes the next `m` tiles of its queue, or as many as it holds. -/
def State.takeTiles (s : State) (n x : Nat) (d : Desc) (m : Nat) : State :=
  s.modLane n fun l =>
    let run := l.run.getD {}
    let new := (l.tiles d.queue).take m
    { l.modQ d.queue (fun ts => ts.drop m) with
      run := some { run with
        taken := Tab.mod [] x (fun t => new.zipIdx.foldl (fun t y => Tab.set (run.count x + y.2) y.1 t) t) run.taken
        got := Tab.set x (run.count x + new.length) run.got } }

/-- The queue operands of a command among `l`, with their descriptors. -/
def State.queueSrcs (s : State) (c : List Byte) (l : List Nat) : List (Nat × Desc) :=
  (l.map fun x => (x, s.desc (macroHandle c x))).filter fun p => decide (p.2.loc = 1)

/-- The operands of a Lane's run. -/
def State.operandsOf (s : State) (n : Nat) (c : List Byte) (x : Nat) : Operand :=
  s.operand n ((s.lane n).run.getD {}) x (s.desc (macroHandle c x))

/-- A tile of D from its segments: rows beyond the tensor are 0, and so are the elements of a row beyond it (R297). -/
def tileBytes (d : Desc) (p : TileAt) (seg : Nat → List Byte × Bool) : List Byte × Bool :=
  let rb := rowBytes d.fmt 32
  let rows := (upTo 32).map fun r => if 32 * p.x1 + r < d.d1 then seg (32 * p.x1 + r) else ([], false)
  (rows.flatMap fun r => sub r.1 0 rb, rows.any fun r => r.2)

/-- Rows of D below `k` in linear order, written to the scratchpad. Log 6 (DESIGN CHOICE). -/
def State.putRows (s : State) (n : Nat) (d : Desc) (k : Nat) (seg : TileAt → Nat → List Byte × Bool) : State :=
  eachOf ((upTo k).map fun r =>
      (d.rowOff r, sub ((upTo d.t0).flatMap fun x0 => (seg ⟨x0, r % d.d1 / 32, r / d.d1 % d.d2, r / (d.d1 * d.d2)⟩ (r % d.d1)).1)
        0 (rowBytes d.fmt d.d0)))
    (fun w s => s.writeMem (spBase + n * spSize + w.1) w.2) s

/-- The elements of a tile of D in the scratchpad that lie in rows below `k`. -/
def State.putTile (s : State) (n : Nat) (d : Desc) (p : TileAt) (k : Nat) (seg : Nat → List Byte × Bool) : State :=
  eachOf ((rangeTo (32 * p.x1) (min d.d1 (32 * p.x1 + 32))).filterMap fun i1 =>
      let r := (p.i3 * d.d2 + p.i2) * d.d1 + i1
      if r < k then some (d.rowOff r + p.x0 * rowBytes d.fmt 32, sub (seg i1).1 0 (rowBytes d.fmt (min 32 (d.d0 - 32 * p.x0)))) else none)
    (fun w s => s.writeMem (spBase + n * spSize + w.1) w.2) s

/-- A run makes all of its D at once: D lies in the scratchpad, and no operand comes from a queue. -/
def State.wholeRun (s : State) (c : List Byte) (m : MacroOp) : Bool :=
  decide ((s.desc (u8 c 8)).loc = 0) && (m.whole || decide (s.queueSrcs c m.srcs = []))

/-- The numbers of the tiles of operand `x` that are needed for tile `j` of D. -/
def MacroOp.useNos (m : MacroOp) (ops : Nat → Operand) (x : Nat) (dx d : Desc) (j : Nat) : List Nat :=
  (m.uses ops x dx (d.tileAt j)).map dx.tileNo

/-- How many tiles of operand `x` a run must have taken before it produces tile `j` of D, or all of D; all of them for the last. -/
def MacroOp.needs (m : MacroOp) (ops : Nat → Operand) (whole : Bool) (x : Nat) (dx d : Desc) (j : Nat) : Nat :=
  if whole = true ∨ d.tiles ≤ j + 1 then dx.tiles else (m.useNos ops x dx d j).foldl (fun k t => max k (min dx.tiles (t + 1))) 0

/-- A run of a Lane frees the tiles that no tile of D from `j` on needs (R297); while tiles of an operand that says which of the others are
needed are still to come, the others are kept. -/
def State.freeTiles (s : State) (m : MacroOp) (ops : Nat → Operand) (src : List (Nat × Desc)) (n : Nat) (d : Desc) (j : Nat) : State :=
  s.modLane n fun l =>
    { l with run := l.run.map fun r =>
        let open_ := src.any fun g => m.guide.contains g.1 && decide (r.count g.1 < g.2.tiles)
        { r with taken := src.foldl (fun t p =>
            if open_ && !m.guide.contains p.1 then t
            else
              let later := (rangeTo j d.tiles).flatMap (m.useNos ops p.1 p.2 d)
              Tab.mod [] p.1 (fun ts => ts.filter fun e => later.contains e.1) t) r.taken } }

/-- A run has made tile `made` of D. -/
def State.madeTile (s : State) (n made : Nat) : State :=
  s.modLane n fun l => { l with run := some { l.run.getD {} with made := made + 1 } }

/-- A run of a macro-operation in a Lane, as far as it goes: `k` bounds its steps. In a step it takes the next tile of each queue
operand that it needs more of, once each of those queues holds one and the queue of D has room, or, with what it needs, it produces
a tile of D, in its queue or in the scratchpad, or all of D at once (R237, R297). `gone` says that it has made a step. Log 6 (DESIGN
CHOICE). -/
def State.macroGo (mk : State → MacroOp) (c : List Byte) (n : Nat) : Nat → Bool → State → Ran
  | 0, _, s => .done s
  | k + 1, gone, s =>
    let m0 := mk s
    let d := s.desc (u8 c 8)
    let run := (s.lane n).run.getD {}
    let made := run.made
    let src := s.queueSrcs c m0.srcs
    let ops0 := s.operandsOf n c
    let whole := s.wholeRun c m0
    let short (p : Nat × Desc) : Bool := decide (run.count p.1 < m0.needs ops0 whole p.1 p.2 d made)
    let guides := src.filter fun p => m0.guide.contains p.1 && short p
    let want := if guides = [] then src.filter short else guides
    let room := decide (d.loc = 0) || decide (((s.lane n).tiles d.queue).length < 64)
    let halt : Ran := if gone then .part s else .wait
    let places := if whole then (upTo d.d3).map fun b => ⟨0, 0, 0, b⟩ else [d.tileAt made]
    if want ≠ [] then
      if room && want.all fun p => decide ((s.lane n).tiles p.2.queue ≠ []) then
        State.macroGo mk c n k true (eachOf want (fun p s => s.takeTiles n p.1 p.2 1) s)
      else halt
    else if places.any fun p => m0.hold ops0 p then halt
    else
      let s2 := eachOf places (fun p s => (mk s).prep (s.operandsOf n c) p s) s
      let m := mk s2
      let ops := s2.operandsOf n c
      let rows := d.d1 * d.d2 * d.d3
      if whole then
        match m.stop ops with
        | some r => .fault (s2.putRows n d (min r rows) (m.res ops))
        | none => .done (s2.putRows n d rows (m.res ops))
      else if d.loc = 0 then
        let p := d.tileAt made
        let first := (p.i3 * d.d2 + p.i2) * d.d1
        let r := (m.stop ops).getD rows
        if (m.stop ops).isSome && decide (r ≤ first + 32 * p.x1) then .fault s2
        else
          let s3 := ((s2.putTile n d p r (m.res ops p)).madeTile n made).freeTiles m ops src n d (made + 1)
          if (m.stop ops).isSome && decide (p.x0 + 1 = d.t0) && decide (r ≤ first + min d.d1 (32 * p.x1 + 32)) then .fault s3
          else if made + 1 = d.tiles then .done s3
          else State.macroGo mk c n k true s3
      else if (m.stop ops).isSome then .fault s2
      else if !room then halt
      else
        let used := src.flatMap fun p => (m.useNos ops p.1 p.2 d made).map fun t => Tab.get { data := [] } t (Tab.get [] p.1 run.taken)
        match s2.mergeTags (used ++ (m.also ops (d.tileAt made)).map fun e => ⟨[], e, fPROV, 0⟩) with
        | none => halt
        | some t =>
          let p := d.tileAt made
          let b := tileBytes d p (m.res ops p)
          let s3 := ((s2.modLane n fun l =>
            l.modQ d.queue (fun ts => ts ++ [⟨b.1, t.1, t.2.1 ||| flagIf b.2 fSAT,
              t.2.2⟩])).madeTile n made).freeTiles m ops src n d (made + 1)
          if made + 1 = d.tiles then .done s3 else State.macroGo mk c n k true s3

/-- A bound on the steps of a run: the tiles of its queue operands and of D. -/
def State.macroSteps (s : State) (c : List Byte) (srcs : List Nat) : Nat :=
  (s.queueSrcs c srcs).foldl (fun k p => k + p.2.tiles) ((s.desc (u8 c 8)).tiles + 1)

/-- A macro-operation of a Lane: a descriptor that reaches outside the scratchpad is an address fault (R240). Log 6 (DESIGN CHOICE). -/
def State.macroDo (s : State) (op n : Nat) (m : State → List Byte → MacroOp) : State :=
  s.laneDo op .execute n fun c s =>
    let mo := m s c
    if (mo.srcs ++ [3]).any fun x =>
        let d := s.desc (macroHandle c x); decide (d.loc = 0) && decide (spSize < d.extent) then .fault s
    else
      match State.macroGo (fun s => m s c) c n (s.macroSteps c mo.srcs) false s with
      | .done s1 => .done (if mo.free then { s1 with freeCtr := s1.freeCtr + 1 } else s1)
      | r => r

/-- The sources of a command: `base`, and C with CUSE. -/
def withC (c : List Byte) (base : List Nat) : List Nat := if mCUSE c then base ++ [2] else base

/-! ### Matrix multiply and convolution (R283 to R285) -/

/-- The result of a sum in MATMUL and CONV2D before its conversion: the requantisation of R284, which applies RELU itself; an infinite sum,
from a floating C, goes through it as one. Log 96 (DEDUCED). -/
def requant (c : List Byte) (clsI : Bool) (t : Val) : Val :=
  let mult := s32 c 16
  if clsI && decide (mult ≠ 0) then
    let done (y : Int) : Val := .int (if mRELU c then max y (s16 c 22) else y)
    match t with
    | .rat n d => done (roundI (mROUND c) (n * mult) (d * 2 ^ (u8 c 20)) + s16 c 22)
    | .negZero => done (s16 c 22)
    | .inf neg =>
      let low := decide (mult < 0) != neg
      if mRELU c && low then .int (s16 c 22) else .inf low
    | v => v
  else if mRELU c then reluV t else t

/-- Up to 32 elements of D from values to which ACT has been applied. Log 96 (DEDUCED). -/
def segActed (c : List Byte) (d : Desc) (fsrc : Bool) (x0 : Nat) (v : Nat → Val) : List Byte × Bool :=
  encodeRow d.fmt d.bp (mROUND c) (mSATF c) fsrc ((upTo (min 32 (d.d0 - 32 * x0))).map fun i => v (32 * x0 + i))

/-- C as the start of a sum: converted to FP32 in class F (R279), as its value otherwise. -/
def Operand.startOf (o : Operand) (cls i0 i1 i2 i3 : Nat) : Val :=
  if cls = 1 then o.unit (bc o.d.d0 i0) (bc o.d.d1 i1) (bc o.d.d2 i2) (bc o.d.d3 i3) else o.valBc i0 i1 i2 i3

/-- MATMUL (R283, R284). -/
def matmulOp (s : State) (c : List Byte) : MacroOp where
  srcs := withC c [0, 1]
  uses := fun _ x dx p =>
    let q := dx.bcast p
    match x with
    | 0 => if mTA c then tileBox [p.x1] (upTo dx.t1) [q.i2] [q.i3] else tileBox (upTo dx.t0) [p.x1] [q.i2] [q.i3]
    | 1 => if mTB c then tileBox (upTo dx.t0) [p.x0] [q.i2] [q.i3] else tileBox [p.x0] (upTo dx.t1) [q.i2] [q.i3]
    | _ => [q]
  res := fun o p m =>
    let d := s.desc (u8 c 8)
    let a := o 0
    let b := o 1
    let cls := fmtClass a.d.fmt
    let k := if mTA c then a.d.d1 else a.d.d0
    segActed c d (decide (cls = 1)) p.x0 fun n =>
      let av := fun i => if mTA c then a.val m i (bc a.d.d2 p.i2) (bc a.d.d3 p.i3) else a.val i m (bc a.d.d2 p.i2) (bc a.d.d3 p.i3)
      let bv := fun i => if mTB c then b.val i n (bc b.d.d2 p.i2) (bc b.d.d3 p.i3) else b.val n i (bc b.d.d2 p.i2) (bc b.d.d3 p.i3)
      let st := if mCUSE c then some ((o 2).startOf cls n m p.i2 p.i3) else none
      let ps := (upTo k).map fun i => (av i).mul (bv i)
      requant c (decide (cls = 0) && fmtI d.fmt) (overV d.fmt (mSATF c) (st.toList ++ ps) (accIn cls st ps))

/-- CONV2D (R285, R284): bytes 24 to 29 hold SY, SX, DY, DX, PAD_TL and PAD_BR. -/
def conv2dOp (s : State) (c : List Byte) : MacroOp where
  srcs := withC c [0, 1]
  uses := fun o x dx p =>
    let d := s.desc (u8 c 8)
    let within (n : Nat) (l : List Int) : List Nat := (l.filter fun v => decide (0 ≤ v) && decide (v < (n : Int))).map Int.toNat
    match x with
    | 0 =>
      let xs := within dx.d1 ((rangeTo (32 * p.x1) (min d.d1 (32 * p.x1 + 32))).flatMap fun u =>
        (upTo (o 1).d.d1).map fun kx => ((u * u8 c 25 + kx * u8 c 27 : Nat) : Int) - (u8 c 28 / 16 : Nat))
      let ys := within dx.d2 ((upTo (o 1).d.d2).map fun ky => ((p.i2 * u8 c 24 + ky * u8 c 26 : Nat) : Int) - (u8 c 28 % 16 : Nat))
      tileBox (if mDW c then [p.x0] else upTo dx.t0) ((xs.map fun v => v / 32).eraseDups) ys.eraseDups [p.i3]
    | 1 => tileBox (upTo dx.t0) (upTo dx.t1) (upTo dx.d2) (rangeTo (32 * p.x0) (min dx.d3 (32 * p.x0 + 32)))
    | _ => [⟨p.x0, 0, 0, 0⟩]
  res := fun o p x =>
    let d := s.desc (u8 c 8)
    let a := o 0
    let b := o 1
    let cls := fmtClass a.d.fmt
    let ci := if mDW c then 1 else a.d.d0
    let top := u8 c 28 % 16
    let left := u8 c 28 / 16
    segActed c d (decide (cls = 1)) p.x0 fun ch =>
      let term := fun k =>
        let kx := k / ci % b.d.d1
        let ky := k / ci / b.d.d1
        let xx : Int := (x * u8 c 25 + kx * u8 c 27 : Nat) - (left : Int)
        let yy : Int := (p.i2 * u8 c 24 + ky * u8 c 26 : Nat) - (top : Int)
        if 0 ≤ xx ∧ xx < a.d.d1 ∧ 0 ≤ yy ∧ yy < a.d.d2 then
          (b.val (k % ci) kx ky ch).mul (a.val (if mDW c then ch else k % ci) xx.toNat yy.toNat p.i3)
        else .zero
      let st := if mCUSE c then some ((o 2).startOf cls ch 0 0 0) else none
      let ps := (upTo (b.d.d1 * b.d.d2 * ci)).map term
      requant c (decide (cls = 0) && fmtI d.fmt) (overV d.fmt (mSATF c) (st.toList ++ ps) (accIn cls st ps))

/-- MATMUL. -/
def execMatmul (lane : Nat) (s : State) : Host.Outcome State Fault Refusal := .next (s.macroDo 0x40 lane matmulOp)

/-- CONV2D. -/
def execConv2d (lane : Nat) (s : State) : Host.Outcome State Fault Refusal := .next (s.macroDo 0x41 lane conv2dOp)

/-! ### Mesh interpolation and warp (R286 to R288) -/

/-- One axis of a mesh at a pixel: the node before it, the step to the next node, the distance from that node, and the
width of the cell; one node alone counts as a cell of width 1 with the pixel on it (R286). -/
def meshAxis (x cs nc last : Nat) : Nat × Nat × Nat × Nat :=
  if nc ≤ 1 then (0, 0, 0, 1)
  else
    let c := min (x / cs) (nc - 2)
    let x0 := c * cs
    (c, 1, x - x0, min (x0 + cs) last - x0)

/-- The interpolation of R286 over four node values, as a numerator and the area of the cell. -/
def meshAt (node : Nat → Nat → Int) (x y cs rs nc nr lastc lastr : Nat) : Int × Nat :=
  let (c, dc, fx, w) := meshAxis x cs nc lastc
  let (r, dr, fy, h) := meshAxis y rs nr lastr
  (node r c * ((w : Int) - fx) * ((h : Int) - fy) + node r (c + dc) * fx * ((h : Int) - fy)
    + node (r + dr) c * ((w : Int) - fx) * fy + node (r + dr) (c + dc) * fx * fy, w * h)

/-- Every node of the cell of a pixel is valid. -/
def meshOk (ok : Nat → Nat → Bool) (x y cs rs nc nr lastc lastr : Nat) : Bool :=
  let (c, dc, _, _) := meshAxis x cs nc lastc
  let (r, dr, _, _) := meshAxis y rs nr lastr
  ok r c && ok r (c + dc) && ok (r + dr) c && ok (r + dr) (c + dc)

/-- The nodes along one axis that a pixel's cell has. -/
def meshNodes (x cs nc last : Nat) : List Nat := let (c, dc, _, _) := meshAxis x cs nc last; [c, c + dc]

/-- The tiles of a mesh that the pixels (32 × p.x1 + i, p.i2) of a tile need, of the first `n` columns. -/
def meshUses (dx : Desc) (p : TileAt) (n cs rs lc lr : Nat) : List TileAt :=
  let xs := (rangeTo (32 * p.x1) (min n (32 * p.x1 + 32))).flatMap fun x => meshNodes x cs dx.d1 lc
  tileBox [0] ((xs.map fun v => v / 32).eraseDups) (meshNodes p.i2 rs dx.d2 lr).eraseDups [0]

/-- rnd of R162: ties away from zero. -/
def rndAway (a : Int) (b : Nat) : Int := rhaDiv a b

/-- MESHI (R286). A cell of no width or height, which nodes beyond LASTC or LASTR have, leaves the value open: it is a
free value. Log 77 (DESIGN CHOICE). -/
def meshiOp (s : State) (c : List Byte) : MacroOp where
  srcs := [1]
  uses := fun _ _ dx p => meshUses dx p (s.desc (u8 c 8)).d1 (u16 c 16) (u16 c 18) (u16 c 20) (u16 c 22)
  res := fun o p y =>
    let d := s.desc (u8 c 8)
    let b := o 1
    let cs := u16 c 16
    let rs := u16 c 18
    let lc := u16 c 20
    let lr := u16 c 22
    segOf c d false p.x0 fun comp =>
      let x := y
      let yy := p.i2
      let nodeC := fun k r q => intVal b.d.fmt (rawElem b.d.fmt (b.rowAt q r 0) k)
      if meshOk (fun r q => decide (nodeC 0 r q ≠ -2147483648) && decide (nodeC 1 r q ≠ -2147483648)) x yy cs rs b.d.d1 b.d.d2 lc lr
      then
        let v := meshAt (nodeC comp) x yy cs rs b.d.d1 b.d.d2 lc lr
        .int (if v.2 = 0 then wrapS 32 (Config.meshPoint s.freeCtr comp x yy) else rndAway v.1 v.2)
      else .int (-2147483648)
  free := true

/-- The source point of an output pixel in 1/256 pixel, or none where it is outside the source (R287). Log 97 (DEDUCED). -/
def warpPoint (s : State) (c : List Byte) (b : Operand) (d : Desc) (u v : Nat) : Option (Int × Int) :=
  let q := fun n m : Int × Nat => some (rhaDiv (256 * n.1) n.2, rhaDiv (256 * m.1) m.2)
  let one := 2 ^ b.d.bp
  let raw := fun k r j => signed 32 (rawElem b.d.fmt (b.rowAt j r 0) k)
  if u8 c 14 = 0 then
    let cs := u16 c 16
    let rs := u16 c 18
    let lc := d.d1 - 1
    let lr := d.d2 - 1
    if meshOk (fun r j => decide (raw 0 r j ≠ -2147483648) && decide (raw 1 r j ≠ -2147483648)) u v cs rs b.d.d1 b.d.d2 lc lr then
      let x := meshAt (raw 0) u v cs rs b.d.d1 b.d.d2 lc lr
      let y := meshAt (raw 1) u v cs rs b.d.d1 b.d.d2 lc lr
      if x.2 = 0 then some (Config.meshPoint s.freeCtr 0 u v, Config.meshPoint s.freeCtr 1 u v)
      else q (x.1, x.2 * one) (y.1, y.2 * one)
    else none
  else
    let m := fun r k => signed 32 (rawElem b.d.fmt (b.rowAt r 0 0) k)
    let row := fun r => m r 0 * u + m r 1 * v + m r 2
    if row 2 ≤ 0 || (upTo 9).any (fun i => decide (m (i / 3) (i % 3) = -2147483648)) then none
    else q (row 0, (row 2).toNat) (row 1, (row 2).toNat)

/-- The free source point of a pixel for which the spec names none. -/
def warpFree (s : State) (u v : Nat) : Int × Int := (Config.meshPoint s.freeCtr 2 u v, Config.meshPoint s.freeCtr 3 u v)

/-- The source pixel that a neighbour of the source point takes its value from, none for CONST (R288). -/
def warpPixel (c : List Byte) (a : Desc) (inside : Bool) (x y : Int) : Option (Nat × Nat) :=
  if inside && decide (0 ≤ x ∧ x < a.d1 ∧ 0 ≤ y ∧ y < a.d2) then some (x.toNat, y.toNat)
  else if u8 c 20 = 0 then none
  else some ((clampI 0 ((a.d1 : Int) - 1) x).toNat, (clampI 0 ((a.d2 : Int) - 1) y).toNat)

/-- WARP (R287, R288). For a point that is outside the source with BORDER 1 the spec names no nearest pixel: the point is a
free value. Log 97 (DEDUCED). -/
def warpOp (s : State) (c : List Byte) : MacroOp where
  srcs := [0, 1]
  guide := [1]
  uses := fun o x dx p =>
    let d := s.desc (u8 c 8)
    if x = 1 then (if u8 c 14 = 0 then meshUses dx p d.d1 (u16 c 16) (u16 c 18) (d.d1 - 1) (d.d2 - 1) else [⟨0, 0, 0, 0⟩])
    else
      (rangeTo (32 * p.x1) (min d.d1 (32 * p.x1 + 32))).flatMap fun u =>
        let out := warpPoint s c (o 1) d u p.i2
        let pt := out.getD (warpFree s u p.i2)
        [0, 1].flatMap fun i => [0, 1].filterMap fun j =>
          (warpPixel c dx out.isSome (pt.1 / 256 + i) (pt.2 / 256 + j)).map fun q => ⟨p.x0, q.1 / 32, q.2, p.i3⟩
  res := fun o p u =>
    let d := s.desc (u8 c 8)
    let a := o 0
    let v := p.i2
    let out := warpPoint s c (o 1) d u v
    let pt := out.getD (warpFree s u v)
    let const :=
      let pat := if fmtMx d.fmt then sub c 24 1 ++ zeros 15 ++ [127] ++ zeros 15 ++ [127] else sub c 24 4 ++ zeros 4
      let k := encodeRow a.d.fmt a.d.bp (mROUND c) (mSATF c) (fmtF d.fmt)
        [if fmtI a.d.fmt then elemVal d.fmt d.bp pat 0 else unitVal d.fmt d.bp pat 0]
      elemVal a.d.fmt a.d.bp k.1 0
    segOf c d (fmtF a.d.fmt) p.x0 fun ch =>
      let px := fun (x y : Int) => (warpPixel c a.d out.isSome x y).elim const fun q => a.val ch q.1 q.2 p.i3
      let x0 := pt.1 / 256
      let y0 := pt.2 / 256
      let fx := (pt.1 % 256).toNat
      let fy := (pt.2 % 256).toNat
      let term := fun (q : Val) (w : Nat) => if w = 0 then Val.zeroOf q.isNeg else q.mul (.int w)
      let t := Val.sum [term (px x0 y0) ((256 - fx) * (256 - fy)), term (px (x0 + 1) y0) (fx * (256 - fy)),
        term (px x0 (y0 + 1)) ((256 - fx) * fy), term (px (x0 + 1) (y0 + 1)) (fx * fy)]
      (t.scale (-16)).settle
  free := true

/-- MESHI. -/
def execMeshi (lane : Nat) (s : State) : Host.Outcome State Fault Refusal :=
  .next (s.macroDo 0x43 lane meshiOp)

/-- WARP. -/
def execWarp (lane : Nat) (s : State) : Host.Outcome State Fault Refusal :=
  .next (s.macroDo 0x42 lane warpOp)

/-! ### Reduction (R289) -/

/-- The index of the first greatest value (or least with `mn`), where a NaN or NaR counts as such. -/
def argBest (mn : Bool) (l : List Val) : Nat :=
  match l.findIdx? Val.isNan with
  | some i => i
  | none =>
    let rec go (i best : Nat) (bv : Val) : List Val → Nat
      | [] => best
      | v :: t => if (if mn then v.lt bv else bv.lt v) then go (i + 1) i v t else go (i + 1) best bv t
    match l with
    | [] => 0
    | v :: t => go 1 0 v t

/-- The operation of byte 14 of REDUCE over the values along the axis. -/
def reduceVals (op cls : Nat) (l : List Val) : Val :=
  match op with
  | 0 => accIn cls none l
  | 1 => accIn cls none (l.map fun v => v.mul v)
  | 2 => l.tail.foldl Val.max (l.headD .zero)
  | 3 => l.tail.foldl Val.min (l.headD .zero)
  | 4 => .int (argBest false l)
  | 5 => .int (argBest true l)
  | _ => let q := (accIn cls none l).div (.int l.length); if cls = 1 then rne32 q else q

/-- REDUCE (R289). -/
def reduceOp (s : State) (c : List Byte) : MacroOp where
  srcs := [0]
  uses := fun _ _ dx p =>
    match u8 c 16 with
    | 0 => tileBox (upTo dx.t0) [p.x1] [p.i2] [p.i3]
    | 1 => tileBox [p.x0] (upTo dx.t1) [p.i2] [p.i3]
    | 2 => tileBox [p.x0] [p.x1] (upTo dx.d2) [p.i3]
    | _ => tileBox [p.x0] [p.x1] [p.i2] (upTo dx.d3)
  res := fun o p i1 =>
    let a := o 0
    let op := u8 c 14
    let d := s.desc (u8 c 8)
    segOf c d (fmtF a.d.fmt && !(op = 4 || op = 5)) p.x0 fun i0 =>
      let l := (upTo (a.d.dim (u8 c 16))).map fun k =>
        match u8 c 16 with
        | 0 => a.val k i1 p.i2 p.i3
        | 1 => a.val i0 k p.i2 p.i3
        | 2 => a.val i0 i1 k p.i3
        | _ => a.val i0 i1 p.i2 k
      overV d.fmt (mSATF c) l (reduceVals op (fmtClass a.d.fmt) l)

/-- REDUCE. -/
def execReduce (lane : Nat) (s : State) : Host.Outcome State Fault Refusal := .next (s.macroDo 0x44 lane reduceOp)

/-! ### Elementwise operations (R290, R291) -/

/-- 1 ÷ √a. -/
def Val.rsqrt (a : Val) : Val :=
  if a.isNan then a else if a.isZero then (Val.int 1).div a else if a.isNeg then .invalid else ((Val.int 1).div a).sqrt

/-- The piecewise-linear function of LUT, over a knot by index (R291). -/
def lutAt (lo hi : Val) (knot : Nat → Val) (a : Val) : Val :=
  if a.isNan then a
  else
    match ((if a.lt lo then lo else if hi.lt a then hi else a).sub lo).mul (.int 256) |>.div (hi.sub lo) with
    | .rat n d =>
      let i := min (n / (d : Int)).toNat 255
      (knot i).add ((Val.rat (n - i * d) d).mul ((knot (i + 1)).sub (knot i)))
    | .negZero => (knot 0).add (Val.zero.mul ((knot 1).sub (knot 0)))
    | v => v

/-- The operations of byte 14 of ELTWISE that take B. -/
def eltTakesB (op : Nat) : Bool := [0, 1, 2, 3, 4, 5, 11, 12, 13, 14, 15].contains op

/-- The result of an elementwise operation but for LUT: values of A, B and C, and the exponent of SCALE (R290). -/
def eltVal (op : Nat) (e : Int) (a b c : Val) : Val :=
  match op with
  | 0 => a.add b
  | 1 => a.sub b
  | 2 => a.mul b
  | 3 => a.div b
  | 4 => a.max b
  | 5 => a.min b
  | 6 => a.abs
  | 7 => a.neg
  | 8 => a.sqrt
  | 9 => a.rsqrt
  | 10 => reluV a
  | 11 => if c.isNan || a.isNan || b.isNan then .nan else if c.isZero then b else a
  | 12 => .int (b2n (a.lt b))
  | 13 => .int (b2n (a.eqv b))
  | 15 => (a.sub b).abs
  | _ => a.scale e

/-- ELTWISE (R290, R291). A floating operand makes the result one that enters a UNORM D times its greatest code (R275); a zero has a
sign only with a floating operand. -/
def eltwiseOp (s : State) (c : List Byte) : MacroOp where
  srcs := [0] ++ (if eltTakesB (u8 c 14) then [1] else []) ++ (if u8 c 14 = 11 then [2] else [])
  uses := fun _ x dx p => if x = 1 ∧ u8 c 14 = 14 then useAll dx else [dx.bcast p]
  res := fun o p i1 =>
    let d := s.desc (u8 c 8)
    let op := u8 c 14
    let fsrc := if op = 12 ∨ op = 13 then false else fmtF (o 0).d.fmt || (eltTakesB op && fmtF (o 1).d.fmt)
    segOf c d fsrc p.x0 fun i0 =>
      let a := (o 0).valBc i0 i1 p.i2 p.i3
      if op = 14 then
        lutAt (floatVal fp32 (u32 c 16)) (floatVal fp32 (u32 c 20)) (fun k => (o 1).val k 0 0 0) a
      else
        let y := eltVal op (signed 8 (u8 c 16)) a (if eltTakesB op then (o 1).valBc i0 i1 p.i2 p.i3 else .zero)
          (if op = 11 then (o 2).valBc i0 i1 p.i2 p.i3 else .zero)
        if fmtF (o 0).d.fmt || (eltTakesB op && fmtF (o 1).d.fmt) then y else y.plain
  whole := decide (u8 c 14 = 14) && decide (u8 c 10 = u8 c 8)

/-- ELTWISE. -/
def execEltwise (lane : Nat) (s : State) : Host.Outcome State Fault Refusal := .next (s.macroDo 0x45 lane eltwiseOp)

/-! ### Histogram (R292) -/

/-- The bin of a raw value, when it is counted. -/
def histBin (c : List Byte) (nb : Nat) (v : Int) : Option Nat :=
  let b := (v - s32 c 16) / ((2 ^ (u8 c 20) : Nat) : Int)
  if 0 ≤ b ∧ b < nb then some b.toNat
  else if bit (u8 c 21) 0 then some (if b < 0 then 0 else nb - 1) else none

/-- HIST (R292). -/
def histOp (s : State) (c : List Byte) : MacroOp where
  srcs := withC c (if bit (u8 c 21) 1 then [0, 1] else [0])
  uses := fun _ _ dx _ => useAll dx
  res := fun o p i1 =>
    let d := s.desc (u8 c 8)
    let a := o 0
    segOf c d false p.x0 fun i0 =>
      let n := (upTo a.d.elems).foldl (fun (t : Int) i =>
        if histBin c d.d0 (a.raw i) = some i0 then t + (if bit (u8 c 21) 1 then (o 1).raw i else 1) else t) 0
      .int (n + (if mCUSE c then (o 2).raw (i1 * d.d0 + i0) else 0))

/-- HIST. -/
def execHist (lane : Nat) (s : State) : Host.Outcome State Fault Refusal := .next (s.macroDo 0x46 lane histOp)

/-! ### Gather and scatter (R293, R294) -/

/-- The indices of B, in order. -/
def Operand.indices (o : Operand) : List Int := (upTo o.d.elems).map o.raw

/-- The number of indices before the first that a table of `n` rows does not have. Log 98 (DEDUCED). -/
def firstBad (n : Nat) (l : List Int) : Option Nat := l.findIdx? fun i => !decide (0 ≤ i ∧ i < (n : Int))

/-- A segment of a row copied (R272); with RELU, of its values. -/
def segCopy (c : List Byte) (d : Desc) (x0 : Nat) (row : List Byte) : List Byte × Bool :=
  if mRELU c then segOf c d (fmtF d.fmt) x0 fun i => elemVal d.fmt d.bp row i
  else (canonRow d.fmt (min 32 (d.d0 - 32 * x0)) (row.drop (x0 * rowBytes d.fmt 32)), false)

/-- GATHER (R293). Log 98 (DEDUCED). -/
def gatherOp (s : State) (c : List Byte) : MacroOp where
  srcs := [0, 1]
  guide := [1]
  uses := fun o x dx p =>
    let rows := rangeTo (32 * p.x1) (min (s.desc (u8 c 8)).d1 (32 * p.x1 + 32))
    if x = 1 then rows.map fun r => ⟨r % dx.d0 / 32, r / dx.d0 % dx.d1 / 32, r / (dx.d0 * dx.d1) % dx.d2, r / (dx.d0 * dx.d1 * dx.d2)⟩
    else (rows.map (o 1).raw).filterMap fun i => if 0 ≤ i ∧ i < (dx.d1 : Int) then some ⟨p.x0, i.toNat / 32, 0, 0⟩ else none
  res := fun o p i1 =>
    let d := s.desc (u8 c 8)
    let i := (o 1).raw i1
    if 0 ≤ i ∧ i < ((o 0).d.d1 : Int) then segCopy c d p.x0 ((o 0).rowAt i.toNat 0 0)
    else (zeros (rowBytes d.fmt (min 32 (d.d0 - 32 * p.x0))), false)
  stop := fun o => if u8 c 16 = 1 then firstBad (o 0).d.d1 (o 1).indices else none

/-- A row of the table after a row of A has been written into it, by mode: 0 write, 1 add, 2 the greater (R294). -/
def scatterRow (c : List Byte) (a d : Desc) (tab row : List Byte) : List Byte :=
  let vals := fun f => (encodeRow d.fmt d.bp (mROUND c) (mSATF c) (fmtF d.fmt)
    ((upTo d.d0).map fun i =>
      let y := (f (elemVal d.fmt d.bp tab i) (elemVal a.fmt a.bp row i)).settle; if mRELU c then reluV y else y)).1
  match u8 c 14 with
  | 0 => if mRELU c then vals fun _ y => y else canonRow d.fmt d.d0 row
  | 1 => vals Val.add
  | _ => vals Val.max

/-- SCATTER (R294): each row of the table after every row of A that names it, in ascending order; at an address fault,
after those before it. Log 98 (DEDUCED). -/
def scatterOp (s : State) (c : List Byte) : MacroOp where
  srcs := [0, 1]
  uses := fun _ _ dx _ => useAll dx
  res := fun o p i1 =>
    let d := s.desc (u8 c 8)
    let ix := (o 1).indices
    let ix1 := if u8 c 16 = 1 then (match firstBad d.d1 ix with | some k => ix.take k | none => ix) else ix
    let row := ((upTo ix1.length).filter fun i => decide (ix1.getD i 0 = (i1 : Int))).foldl
      (fun t i => scatterRow c (o 0).d d t ((o 0).row i)) ((o 3).rowAt i1 p.i2 p.i3)
    (sub row (p.x0 * rowBytes d.fmt 32) (rowBytes d.fmt (min 32 (d.d0 - 32 * p.x0))), false)
  stop := fun o => if u8 c 16 = 1 ∧ (firstBad (s.desc (u8 c 8)).d1 (o 1).indices).isSome then some (s.desc (u8 c 8)).d1 else none

/-- GATHER. -/
def execGather (lane : Nat) (s : State) : Host.Outcome State Fault Refusal := .next (s.macroDo 0x47 lane gatherOp)

/-- SCATTER. -/
def execScatter (lane : Nat) (s : State) : Host.Outcome State Fault Refusal := .next (s.macroDo 0x48 lane scatterOp)

/-! ### Conversion and normalisation (R295, R296) -/

/-- CONVERT (R295). -/
def convertOp (s : State) (c : List Byte) : MacroOp where
  srcs := [0]
  uses := fun _ _ dx p => [dx.bcast (if mTA c then ⟨p.x1, p.x0, p.i2, p.i3⟩ else p)]
  res := fun o p i1 =>
    let d := s.desc (u8 c 8)
    let a := o 0
    segOf c d (fmtF a.d.fmt) p.x0 fun i0 =>
      let v := fun x y => if fmtI d.fmt then a.val x y p.i2 p.i3 else a.unit x y p.i2 p.i3
      (if mTA c then v i1 i0 else v i0 i1).scale (signed 8 (u8 c 16))

/-- The row of NORM: each dev × r × g + b, or x × g + b (R296); its sums are those of R279. -/
def normRow (mode : Nat) (eps : Val) (x : List Val) (g b : Nat → Val) : List Val :=
  let n := Val.int x.length
  if 2 ≤ mode then (upTo x.length).map fun i => ((x.getD i .zero).mul (g i)).add (b i)
  else
    let dev := if mode = 0 then (let mean := rne32 ((accF none x).div n); x.map fun v => rne32 (v.sub mean)) else x
    let var := rne32 ((accF none (dev.map fun v => v.mul v)).div n)
    let r := rne32 (rne32 (var.add eps)).rsqrt
    (upTo x.length).map fun i => (((dev.getD i .zero).mul r).mul (g i)).add (b i)

/-- NORM (R296). -/
def normOp (s : State) (c : List Byte) : MacroOp where
  srcs := withC c (if mBUSE c then [0, 1] else [0])
  uses := fun _ x dx p => if x = 0 then tileBox (upTo dx.t0) [p.x1] [p.i2] [p.i3] else [⟨p.x0, 0, 0, 0⟩]
  res := fun o p i1 =>
    let d := s.desc (u8 c 8)
    let a := o 0
    let x := (upTo a.d.d0).map fun i => rne32 (a.unit i i1 p.i2 p.i3)
    let g := fun i => if mBUSE c then (o 1).val i 0 0 0 else .int 1
    let b := fun i => if mCUSE c then (o 2).val i 0 0 0 else .zero
    let row := normRow (u8 c 14) (floatVal fp32 (u32 c 16)) x g b
    segOf c d true p.x0 fun i0 => (overV d.fmt (mSATF c) (x ++ [g i0, b i0]) (row.getD i0 .zero)).settle

/-- CONVERT. -/
def execConvert (lane : Nat) (s : State) : Host.Outcome State Fault Refusal := .next (s.macroDo 0x49 lane convertOp)

/-- NORM. -/
def execNorm (lane : Nat) (s : State) : Host.Outcome State Fault Refusal := .next (s.macroDo 0x4A lane normOp)

/-! ### RSCALAR (06_aurik_machine.md R245) -/

/-- The reduction of RSCALAR over raw values: 0 SUM, 1 MIN, 2 MAX, 3 NONZERO. Log 86 (DEDUCED). -/
def rscalarOf (op : Nat) (l : List Int) : Int :=
  match op with
  | 0 => l.foldl (fun a b => a + b) 0
  | 1 => l.tail.foldl min (l.headD 0)
  | 2 => l.tail.foldl max (l.headD 0)
  | _ => (l.filter fun v => decide (v ≠ 0)).length

/-- The results of several Lanes combined: counts of NONZERO add up. -/
def rscalarAcross (op : Nat) (l : List Int) : Int := rscalarOf (if op = 3 then 0 else op) l

/-- The operand of RSCALAR in a Lane takes its tiles, when it lies in a queue. -/
def State.rscalarTake (s : State) (n : Nat) (d : Desc) : State :=
  if d.loc = 1 then s.takeTiles n 0 d (d.tiles - ((s.lane n).run.getD {}).count 0) else s

/-- The operand of RSCALAR in a Lane is all there. -/
def State.rscalarReady (s : State) (n : Nat) (d : Desc) : Bool :=
  decide (d.loc = 0) || decide (d.tiles ≤ ((s.lane n).run.getD {}).count 0)

/-- The raw values of the operand of RSCALAR in a Lane. Log 86 (DEDUCED). -/
def State.rscalarVals (s : State) (n : Nat) (d : Desc) : List Int :=
  let o := s.operand n ((s.lane n).run.getD {}) 0 d
  (upTo d.elems).map o.raw

/-- A command is RSCALAR with ACROSS 1. -/
def acrossCmd (c : List Byte) : Bool := decide (cOp c = 0x14) && decide (u8 c 10 ≠ 0)

/-- RSCALAR: ACROSS 0 in one Lane; ACROSS 1 over every Lane that executes it, when all have arrived (R244, R245). -/
def execRscalar (lane : Nat) (s : State) : Host.Outcome State Fault Refusal :=
  .next <|
    if s.standsAt .execute acrossCmd lane then
      s.gatherDo acrossCmd fun ls c s =>
        let d := s.desc (u16 c 12)
        let s1 := eachOf ls (fun n s => s.rscalarTake n d) s
        if d.loc = 0 && decide (spSize < d.extent) then .fault s
        else if ls.all fun n => s1.rscalarReady n d then
          let v := clampI (-2147483648) 2147483647 (rscalarAcross (u8 c 9) (ls.map fun n => rscalarOf (u8 c 9) (s1.rscalarVals n d)))
          .done (eachOf ls (fun n s => s.modLane n fun l => l.setC (u8 c 8 % 8) v) s1)
        else if ls.all fun n => decide ((s1.lane n).run = (s.lane n).run) then .wait
        else .part s1
    else
      s.laneDo 0x14 .execute lane fun c s =>
        let d := s.desc (u16 c 12)
        let s1 := s.rscalarTake lane d
        if d.loc = 0 && decide (spSize < d.extent) then .fault s
        else if s1.rscalarReady lane d then
          .done (s1.modLane lane fun l => l.setC (u8 c 8 % 8) (clampI (-2147483648) 2147483647 (rscalarOf (u8 c 9) (s1.rscalarVals lane d))))
        else if (s1.lane lane).run = (s.lane lane).run then .wait else .part s1

end Sys2Proof.Machine
end

