-- ==== Sys2Proof/Machine/Kvp.lean ====
section
/-! DEFINITION. Attention and the KV Page Unit (08_attention.md): pages and page tables, KV commands, the mutation log with
its seals, recalls and rebuilds, and ATTEND. -/

namespace Sys2Proof.Machine

open Sys2Proof

/-! ### Caches, sequences and pages (R304 to R308) -/

/-- Heads H of a cache. -/
def State.kvH (s : State) (c : Nat) : Nat := 2 ^ s.kvpCacheCfg_LOGH c
/-- Head dimension DH of a cache. -/
def State.kvDh (s : State) (c : Nat) : Nat := 32 * 2 ^ s.kvpCacheCfg_DH c
/-- Element size eb of a cache. -/
def State.kvEb (s : State) (c : Nat) : Nat := fmtBits (s.kvpCacheCfg_FORMAT c) / 8
/-- Bytes of one head's vector. -/
def State.kvVec (s : State) (c : Nat) : Nat := s.kvDh c * s.kvEb c
/-- Page size PB of a cache (R305). -/
def State.kvPb (s : State) (c : Nat) : Nat := 512 * s.kvH c * s.kvVec c
/-- Bytes of the keys, or of the values, of one token. -/
def State.kvTok (s : State) (c : Nat) : Nat := s.kvH c * s.kvVec c

/-- The first absolute sequence number of a cache (R304). -/
def State.kvFirst (s : State) (c : Nat) : Nat := ((upTo c).map s.kvpCacheSeqs_NSEQ).foldl (· + ·) 0

/-- The cache answers commands: KVP.CTRL.EN and its own EN are 1 (R313). -/
def State.kvOn (s : State) (c : Nat) : Bool := s.kvpCtrl_EN && s.kvpCacheCfg_EN c

/-- A sequence by its absolute number. -/
def State.kvSeq (s : State) (a : Nat) : KvSeq := Tab.get {} a s.kvp.seqs
/-- The state with a sequence changed. -/
def State.modKvSeq (s : State) (a : Nat) (f : KvSeq → KvSeq) : State :=
  s.modKvp fun k => { k with seqs := Tab.mod {} a f k.seqs }

/-- LEN of a layer. -/
def KvSeq.len (q : KvSeq) (l : Nat) : Nat := Tab.get 0 l q.lens
/-- The largest LEN. -/
def KvSeq.maxLen (q : KvSeq) : Nat := q.lens.foldl (fun m e => max m e.2) 0

/-- The free pages of a cache. -/
def State.kvFree (s : State) (c : Nat) : Nat := s.kvpCacheNpages_NPAGES c - (Tab.get [] c s.kvp.used).length

/-- The lowest-numbered page from `p` on that a rising list does not hold. -/
def lowestFree : Nat → List Nat → Nat
  | p, [] => p
  | p, u :: t => if u = p then lowestFree (p + 1) t else if u < p then lowestFree p t else p

/-- A page of a cache is free again. -/
def State.kvRelease (s : State) (c p : Nat) : State := s.modKvp fun k => { k with used := Tab.mod [] c (Tab.erase p) k.used }

/-- The page table of a bank of a sequence (R307). -/
def State.ptBank (s : State) (a b : Nat) : Nat := s.kvpPtBase_PT_BASE + (2 * a + b) * 4096 * 4

/-- The page-table entry of a group of a layer (R307). -/
def State.ptAddr (s : State) (c a b g l : Nat) : Nat := s.ptBank a b + (g * s.kvpCacheCfg_NLAYER c + l) * 4

/-- The page of a group of a layer, when its entry is VALID. -/
def State.ptGet (s : State) (c a b g l : Nat) : Option Nat :=
  let w := leNat (s.readMem (s.ptAddr c a b g l) 4)
  if bit w 31 then some (w % 2 ^ 18) else none

/-- The entries of a bank of a sequence that hold pages, by their number g × NLAYER + l, with their pages. -/
def State.ptEntries (s : State) (c a b : Nat) : List (Nat × Nat) :=
  ((Tab.get [] c s.kvp.used).filter fun u => decide (u.2.1 = a) && decide (u.2.2.1 = b)).map fun u => (u.2.2.2, u.1)

/-- The entry number `i` of a bank is cleared and its page is free (R308). -/
def State.ptDrop (s : State) (c a b : Nat) (e : Nat × Nat) : State :=
  (s.writeMem (s.ptBank a b + 4 * e.1) (zeros 4)).kvRelease c e.2

/-- Every page of a bank of a sequence is freed. -/
def State.kvDropBank (s : State) (c a b : Nat) : State := eachOf (s.ptEntries c a b) (fun e s => s.ptDrop c a b e) s

/-- The entries of a bank of which every position lies below `pos` and none is global (R308). -/
def State.trimmedIn (s : State) (c a b pos nglob : Nat) : List (Nat × Nat) :=
  (s.ptEntries c a b).filter fun e =>
    let g := e.1 / s.kvpCacheCfg_NLAYER c; decide (256 * g + 256 ≤ pos) && decide (nglob ≤ 256 * g)

/-- Pages of the current bank of which no position remains are freed (R308). -/
def State.kvFreeBeyond (s : State) (c a : Nat) : State :=
  let q := s.kvSeq a
  let nl := s.kvpCacheCfg_NLAYER c
  eachOf ((s.ptEntries c a q.bank).filter fun e => decide (q.len (e.1 % nl) ≤ 256 * (e.1 / nl)))
    (fun e s => s.ptDrop c a q.bank e) s

/-- The page of a group of the current bank; the lowest-numbered free page is taken where there is none (R308). -/
def State.kvPage (s : State) (c a g l : Nat) : Nat × State :=
  let b := (s.kvSeq a).bank
  match s.ptGet c a b g l with
  | some p => (p, s)
  | none =>
    let p := lowestFree 0 ((Tab.get [] c s.kvp.used).map fun u => u.1)
    (p, (s.modKvp fun k => { k with used := Tab.mod [] c (Tab.set p (a, b,
      g * s.kvpCacheCfg_NLAYER c + l)) k.used }).writeMem (s.ptAddr c a b g l)
      (by4 (2 ^ 31 + p % 2 ^ 18)))

/-- The key vector of head `h` of position `t` in page `p`; the value vector lies PB ÷ 2 on (R305). -/
def State.kvAt (s : State) (c p h t : Nat) : Nat := s.kvpCacheBase_BASE c + p * s.kvPb c + (h * 256 + t % 256) * s.kvVec c

/-- The keys and the values of the token at position `t` of a layer in a bank, head by head; zeros where it has no page. -/
def State.kvGet (s : State) (c a b l t : Nat) : List Byte × List Byte :=
  match s.ptGet c a b (t / 256) l with
  | none => (zeros (s.kvTok c), zeros (s.kvTok c))
  | some p =>
    ((upTo (s.kvH c)).flatMap fun h => s.readMem (s.kvAt c p h t) (s.kvVec c),
     (upTo (s.kvH c)).flatMap fun h => s.readMem (s.kvAt c p h t + s.kvPb c / 2) (s.kvVec c))

/-- One token appended to a layer of a sequence: keys and values, head by head (R305, R312). -/
def State.kvPut (s : State) (c a l : Nat) (tok : List Byte × List Byte) : State :=
  let t := (s.kvSeq a).len l
  let (p, s1) := s.kvPage c a (t / 256) l
  let v := s.kvVec c
  (eachOf (upTo (s.kvH c)) (fun h s =>
      (s.writeMem (s.kvAt c p h t) (sub tok.1 (h * v) v)).writeMem (s.kvAt c p h t + s.kvPb c / 2) (sub tok.2 (h * v) v)) s1).modKvSeq
    a fun q => { q with lens := Tab.set l (t + 1) q.lens }

/-! ### Mutations (R314, R315, R322) -/

/-- A reset of a sequence (R314): a provisional one goes into the other bank and keeps the old one. -/
def State.kvReset (s : State) (c a : Nat) (prov : Bool) (tag : BitVec 32) (nglob : Nat) : State :=
  let b := (s.kvSeq a).bank
  let s1 := if prov then s else s.kvDropBank c a b
  s1.modKvSeq a fun _ => ⟨[], tag, nglob, 0, if prov then 1 - b else b⟩

/-- A mutation is made, with the contents of its tokens for an append. -/
def State.kvMake (s : State) (c a : Nat) (prov : Bool) (k : KvKind) (toks : List (List Byte × List Byte)) : State :=
  match k with
  | .append l _ _ => eachOf toks (fun t s => s.kvPut c a l t) s
  | .reset tag nglob _ => s.kvReset c a prov tag nglob
  | .trim pos => s.modKvSeq a fun q => { q with trim := max q.trim (min pos q.maxLen) }

/-- The sequence holds a logged mutation. -/
def State.kvLogged (s : State) (a : Nat) : Bool := s.kvp.log.any fun m => decide (m.seq = a)

/-- A mutation becomes final: a trim frees its pages, where the bank that it trimmed still holds them, and a reset frees the bank that it
kept (R315, R322, R323). `later` are the log entries after it. Log 101 (DEDUCED). -/
def State.kvSettle (s : State) (m : KvMut) (later : List KvMut) : State :=
  match m.kind with
  | .trim pos =>
    let gone := ((later.filter fun x => decide (x.seq = m.seq)).find? fun x => x.kind matches .reset _ _ _).any fun x =>
      x.kind matches .reset _ _ false
    if gone then s
    else eachOf (s.trimmedIn m.cache m.seq m.before.bank pos m.before.nglob) (fun e s => s.ptDrop m.cache m.seq m.before.bank e) s
  | .reset _ _ other => if other then s.kvDropBank m.cache m.seq m.before.bank else s
  | .append _ _ _ => s

/-- A mutation as the log holds it: a trim at the position that it reaches, a reset in the bank that it goes into. -/
def KvKind.logged (k : KvKind) (q : KvSeq) (prov : Bool) : KvKind :=
  match k with
  | .append l n _ => .append l n (q.len l)
  | .reset tag nglob _ => .reset tag nglob prov
  | .trim pos => .trim (min pos q.maxLen)

/-- A mutation of epoch `e` is made; it is final at once where the epoch is, and entered in the log when its epoch is provisional or its
sequence holds a logged mutation (R322). -/
def State.kvMutate (s : State) (c a : Nat) (e : Epoch) (k : KvKind) (toks : List (List Byte × List Byte)) : State :=
  let prov := s.unsettled e
  let q := s.kvSeq a
  let m : KvMut := ⟨c, a, e, !prov, k.logged q prov, q, false⟩
  let s1 := s.kvMake c a prov m.kind toks
  let s2 := if prov then s1 else s1.kvSettle m []
  if prov || s.kvLogged a then s2.modKvp fun x => { x with log := x.log ++ [m] } else s2

/-- A log without the entries that are final and not preceded in their sequence by one that is not (R323); `held` are the sequences with
such a one before. -/
def cleanLog : List Nat → List KvMut → List KvMut
  | _, [] => []
  | held, m :: t =>
    if held.contains m.seq then m :: cleanLog held t
    else if m.final then cleanLog held t
    else m :: cleanLog (m.seq :: held) t

/-- The log without the entries that R323 lets leave it. -/
def State.kvClean (s : State) : State := s.modKvp fun k => { k with log := cleanLog [] k.log }

/-- A log entry becomes final by a SEAL of `f` for a cache (R323), unless a RECALL has taken it. -/
def KvMut.sealed (c : Nat) (f : Epoch) (m : KvMut) : Bool :=
  decide (m.cache = c) && decide (epFrame m.epoch = epFrame f) && !m.final && !m.gone && seqGe (epSeq f) (epSeq m.epoch)

/-- The entries of a log that a SEAL makes final, each in order. -/
def State.kvSealGo (c : Nat) (f : Epoch) : List KvMut → State → State
  | [], s => s
  | m :: t, s => State.kvSealGo c f t (if m.sealed c f then s.kvSettle m t else s)

/-- A SEAL of `f` for a cache: every logged mutation of `f` or earlier is final (R323). -/
def State.kvSeal (s : State) (c : Nat) (f : Epoch) : State :=
  ((State.kvSealGo c f s.kvp.log s).modKvp fun k =>
    { k with log := k.log.map fun m => if m.sealed c f then { m with final := true } else m }).kvClean

/-- The log entry is one that a RECALL of `e` removes (R323). -/
def KvMut.recalled (c : Nat) (e : Epoch) (m : KvMut) : Bool :=
  decide (m.cache = c) && !m.final && !m.gone && decide (epFrame m.epoch = epFrame e) && seqGe (epSeq m.epoch) (epSeq e)

/-- The 32-byte units of the token at position `t` in page `p`, in the order of its bytes. -/
def State.kvUnits (s : State) (c p t : Nat) : List Nat :=
  (upTo (s.kvH c)).flatMap fun h => [0, s.kvPb c / 2].flatMap fun o =>
    (upTo ((s.kvVec c + 31) / 32)).map fun i => (s.kvAt c p h t + o) / 32 + i

/-- A token of a logged append as it stands: its keys and values, and which of its units cannot be read. -/
structure KvTok where
  kv : List Byte × List Byte
  bad : List Nat
  deriving DecidableEq, Repr

/-- The tokens of a logged append as they stand. -/
def State.kvToks (s : State) (m : KvMut) : List KvTok :=
  match m.kind with
  | .append l n pos => (upTo n).map fun i =>
      { kv := s.kvGet m.cache m.seq m.before.bank l (pos + i)
        bad := (s.ptGet m.cache m.seq m.before.bank ((pos + i) / 256) l).elim [] fun p =>
          let us := s.kvUnits m.cache p (pos + i)
          (upTo us.length).filter fun k => s.aon.ueUnits.contains (us.getD k 0) }
  | _ => []

/-- What of a moved token could not be read cannot be read where it comes to lie either (R330). Log 197 (DEDUCED). -/
def State.kvSpoil (s : State) (c a l t : Nat) (bad : List Nat) : State :=
  match s.ptGet c a (s.kvSeq a).bank (t / 256) l with
  | none => s
  | some p => s.modAon fun x => { x with ueUnits := x.ueUnits ++ bad.map fun k => (s.kvUnits c p t).getD k 0 }

/-- A mutation made again in a rebuild: an append takes the next positions, and the entry goes back into the log. -/
def State.kvAgain (s : State) (x : KvMut × List KvTok) : State :=
  let q := s.kvSeq x.1.seq
  let m := { x.1 with before := q, kind := x.1.kind.logged q (!x.1.final) }
  let s1 := s.kvMake m.cache m.seq (!m.final) m.kind (x.2.map fun t => t.kv)
  let s2 := match m.kind with
    | .append l _ pos => eachOf (x.2.zipIdx.filter fun (t : KvTok × Nat) => decide (t.1.bad ≠ []))
        (fun (t : KvTok × Nat) (s : State) => s.kvSpoil m.cache m.seq l (pos + t.2) t.1.bad) s1
    | _ => s1
  (if m.final then s2.kvSettle m [] else s2).modKvp fun k => { k with log := k.log ++ [m] }

/-- The units of the page-table entries through which a rebuild reads the tokens that it moves. -/
def State.kvMoveUnits (s : State) (keep : List KvMut) : List Nat :=
  (keep.flatMap fun m => match m.kind with
    | .append l n pos => (upTo n).map fun i => s.ptAddr m.cache m.seq m.before.bank ((pos + i) / 256) l / 32
    | _ => []).eraseDups

/-- One sequence is reset with TAG 0xFFFF_FFFF and its log entries are discarded (R330). -/
def State.kvLose (s : State) (c a : Nat) : State :=
  (((s.kvDropBank c a 0).kvDropBank c a 1).modKvSeq a fun _ => { tag := 0xFFFFFFFF }).modKvp fun k =>
    { k with log := k.log.filter (fun m => decide (m.seq ≠ a)), later := k.later.filter fun x => decide (x.2 ≠ a) }

/-- One sequence is rebuilt as if the mutations that a RECALL took had never been made (R323): its kept mutations after the first of
them are made again, in the other bank too where a reset had gone into it. A page-table unit that cannot be read loses the sequence,
and a page unit is reported (R330). -/
def State.kvRebuild (s : State) (c a : Nat) : State :=
  let mine := s.kvp.log.filter fun m => decide (m.seq = a)
  match mine.find? KvMut.gone with
  | none => s
  | some m0 =>
    let after := mine.dropWhile fun m => !m.gone
    let kept := after.filter fun m => !m.gone
    match (s.kvMoveUnits kept).find? fun u => s.aon.ueUnits.contains u with
    | some u => (s.raiseU 0x43 0x5B c (u * 32 / 256)).kvLose c a
    | none =>
      let keep := kept.map fun m => (m, s.kvToks m)
      let units := (kept.flatMap fun m => match m.kind with
        | .append l n pos => (upTo n).flatMap fun i =>
            (s.ptGet m.cache m.seq m.before.bank ((pos + i) / 256) l).elim [] fun p =>
              (s.kvUnits c p (pos + i)).filter fun u => s.aon.ueUnits.contains u
        | _ => []).eraseDups
      let s0 := eachOf units (fun u s => s.raiseU 0x42 0x5B c (u * 32 / 256)) s
      let switched := after.any fun m => (m.kind matches .reset _ _ true) && decide (m.before.bank = m0.before.bank)
      let s1 := s0.modKvp fun k =>
        { k with log := (k.log.filter fun m => decide (m.seq ≠ a)) ++ mine.takeWhile fun m => !m.gone }
      let s2 := if switched then s1.kvDropBank c a (1 - m0.before.bank) else s1
      let s3 := (s2.modKvSeq a fun _ => m0.before).kvFreeBeyond c a
      eachOf keep (fun x s => s.kvAgain x) s3

/-- The rebuild of a sequence begins (R323). -/
def State.kvRebuildNow (s : State) (c a : Nat) : State :=
  ((s.kvRebuild c a).modKvp fun k =>
    { k with
      rebuilding := if k.rebuilding.contains a then k.rebuilding else k.rebuilding ++ [a]
      later := k.later.filter fun x => decide (x.2 ≠ a) }).kvClean

/-- The sequences of a cache that a RECALL of `e` affects. -/
def State.kvAffected (s : State) (c : Nat) (e : Epoch) : List Nat :=
  ((s.kvp.log.filter (KvMut.recalled c e)).map fun m => m.seq).eraseDups

/-- A Lane is inside an ATTEND batch entry of a sequence (R329). -/
def State.attending (s : State) (a : Nat) : Bool :=
  s.rly.lanes.any fun e => (e.2.run.bind fun r => r.entry).elim false fun x => decide (x.2.1 = a)

/-- A RECALL of `e` for a cache: what it takes is marked in the log, and every affected sequence is rebuilt, one that an ATTEND entry is
reading when the entry has finished (R323, R329). Log 101 (DEDUCED). -/
def State.kvRecall (s : State) (c : Nat) (e : Epoch) : State :=
  match s.kvAffected c e with
  | [] => s
  | l =>
    eachOf l (fun a s =>
        if s.attending a then s.modKvp fun k => { k with later := (k.later.filter fun x => decide (x ≠ (c, a))) ++ [(c, a)] }
        else s.kvRebuildNow c a)
      (s.modKvp fun k =>
        { k with
          rebuilds := (k.rebuilds + 1) % 65536
          log := k.log.map fun m => if m.recalled c e then { m with gone := true } else m })

/-- The rebuild of a sequence runs, or waits for an ATTEND entry (R323, R329). -/
def State.kvHeld (s : State) (a : Nat) : Bool := s.kvp.rebuilding.contains a || s.kvp.later.any fun x => decide (x.2 = a)

/-- Every sequence of a cache is reset to TAG 0 and its log entries are discarded (R329). -/
def State.kvClearCache (s : State) (c : Nat) : State :=
  let f := s.kvFirst c
  let l := (s.kvp.seqs.map fun e => e.1).filter fun a => decide (f ≤ a ∧ a < f + s.kvpCacheSeqs_NSEQ c)
  (eachOf l (fun a s => ((s.kvDropBank c a 0).kvDropBank c a 1).modKvp fun k => { k with seqs := Tab.erase a k.seqs }) s).modKvp
    fun k => { k with log := k.log.filter fun m => decide (m.cache ≠ c), used := Tab.erase c k.used,
                      rebuilding := k.rebuilding.filter (fun a => !l.contains a), later := k.later.filter fun x => decide (x.1 ≠ c) }

/-- The sequence after a command has read the page-table entries of its current bank that are numbered: one in a unit with an uncorrectable
error is KVP_PT_UE, and the sequence is lost (R330). -/
def State.kvPtCheck (s : State) (c a : Nat) (entries : List Nat) : State :=
  let units := (entries.map fun e => (s.ptBank a (s.kvSeq a).bank + 4 * e) / 32).eraseDups
  match units.find? fun u => s.aon.ueUnits.contains u with
  | some u => (s.raiseU 0x43 0x5B c (u * 32 / 256)).kvLose c a
  | none => s

/-- The entries of the groups of a layer that hold positions from `lo` to `hi`, without `hi`. -/
def State.ptGroups (s : State) (c l lo hi : Nat) : List Nat :=
  if hi ≤ lo then [] else (upTo ((hi - 1) / 256 - lo / 256 + 1)).map fun i => (lo / 256 + i) * s.kvpCacheCfg_NLAYER c + l

/-! ### The access commands (R310 to R316) -/

/-- A KV command answers `v` in counter RES. Log 99 (DEDUCED). -/
def State.kvRes (s : State) (n : Nat) (c : List Byte) (v : Int) : State := s.modLane n fun l => l.setC (u8 c 23 % 8) v

/-- A KV command is refused with a status (R313). -/
def State.kvRefuse (s : State) (n : Nat) (c : List Byte) (v : Int) : State :=
  let k := u8 c 8 % 4
  (s.kvRes n c v).modKvp fun x =>
    { x with refused := satAdd 65535 x.refused 1,
             exhaust := if v = -2 then Tab.mod 0 k (fun e => satAdd 65535 e 1) x.exhaust else x.exhaust }

/-- The cache-relative sequence that a KV command names. -/
def State.kvRel (s : State) (n : Nat) (c : List Byte) : Int := wrapS 32 (s.scalar n (u8 c 11) (u8 c 22 % 8) + s32 c 24)

/-- The command at hand of a Lane's stream, when it has opcode `op` and is not predicated off, is a request in the Lane's queue to the KV
Page Unit, as soon as that has room (R255, R309). Log 173 (DEDUCED). -/
def State.kvAsk (s : State) (op n : Nat) (st : Stream) : State :=
  if (s.laneCmd st n).any fun c => decide (cOp c = op) && !s.offIn c n then
    s.modLane n fun l => if l.kvq.contains st || decide (4 ≤ l.kvq.length) then l else { l with kvq := l.kvq ++ [st] }
  else s

/-- A run of a KV command or of ATTEND: without a place in the queue it waits, and with its answer the request leaves the queue. -/
def State.kvServe (s : State) (n : Nat) (st : Stream) (f : State → Ran) : Ran :=
  let out (s : State) : State := s.modLane n fun l => { l with kvq := l.kvq.filter fun x => decide (x ≠ st) }
  if !(s.lane n).kvq.contains st then .wait
  else
    match f s with
    | .done s1 => .done (out s1)
    | .fault s1 => .fault (out s1)
    | r => r

/-- A KV command: BAD_SEQ and, for a mutation, VOID come first; a command that names a sequence being rebuilt waits
(R313, R323, R324); then `f` with the cache and the absolute sequence. Log 99 (DEDUCED), 173 (DEDUCED). -/
def State.kvDo (s : State) (op n : Nat) (mutation : Bool) (layer : List Byte → Bool) (f : List Byte → Nat → Nat → State → Ran) : State :=
  (s.kvAsk op n .access).laneDo op .access n fun c s => s.kvServe n .access fun s =>
    let k := u8 c 8 % 4
    let r := s.kvRel n c
    if mutation && s.ctxVoid then .done (s.kvRefuse n c (-1))
    else if !s.kvOn k || !decide (0 ≤ r ∧ r < s.kvpCacheSeqs_NSEQ k) || (layer c && decide (s.kvpCacheCfg_NLAYER k ≤ u8 c 10)) then
      .done (s.kvRefuse n c (-6))
    else
      let a := s.kvFirst k + r.toNat
      if s.kvHeld a then .wait else f c k a s

/-- The log has no room for a mutation of epoch WE. -/
def State.kvLogFull (s : State) (a : Nat) : Bool :=
  (s.unsettled s.rly.we || s.kvLogged a) && decide (16384 ≤ s.kvp.log.length)

/-- The work epoch is provisional and of another frame than the cache's (R313). -/
def State.kvFrameBad (s : State) (k : Nat) : Bool :=
  s.unsettled s.rly.we && decide (epFrame s.rly.we ≠ s.kvpCacheCfg_FRAME k)

/-- KV_APPEND (R312). Log 100 (DEDUCED). -/
def execKvAppend (lane : Nat) (s : State) : Host.Outcome State Fault Refusal :=
  .next <| s.kvDo 0x84 lane true (fun _ => true) fun c k a s0 =>
    let l := u8 c 10
    let n := u16 c 20
    let s := s0.kvPtCheck k a (s0.ptGroups k l ((s0.kvSeq a).len l) ((s0.kvSeq a).len l + n))
    let pos := (s.kvSeq a).len l
    let groups := if n = 0 then [] else (upTo ((pos + n - 1) / 256 - pos / 256 + 1)).map fun i => pos / 256 + i
    let new := groups.filter fun g => (s.ptGet k a (s.kvSeq a).bank g l).isNone
    if s.kvFree k < new.length then .done (s.kvRefuse lane c (-2))
    else if 256 * (4096 / s.kvpCacheCfg_NLAYER k) < pos + n then .done (s.kvRefuse lane c (-3))
    else if s.kvLogFull a then .done (s.kvRefuse lane c (-4))
    else if s.kvFrameBad k then .done (s.kvRefuse lane c (-5))
    else
      let at_ := s.spAddr lane c
      let len := n * s.kvTok k
      match s.spRead lane at_ len, s.spRead lane ((at_ + u32 c 16) % 2 ^ 40) len with
      | some ks, some vs =>
        let toks := (upTo n).map fun t => (sub ks (t * s.kvTok k) (s.kvTok k), sub vs (t * s.kvTok k) (s.kvTok k))
        .done ((s.kvMutate k a s.rly.we (.append l n pos) toks).kvRes lane c pos)
      | _, _ => .fault s

/-- KV_RESET (R314). Log 100 (DEDUCED). -/
def execKvReset (lane : Nat) (s : State) : Host.Outcome State Fault Refusal :=
  .next <| s.kvDo 0x85 lane true (fun _ => false) fun c k a s =>
    let pend := s.kvp.log.any fun m => decide (m.seq = a) && (m.kind matches .reset _ _ _) && !m.final
    if s.kvLogFull a then .done (s.kvRefuse lane c (-4))
    else if s.kvFrameBad k then .done (s.kvRefuse lane c (-5))
    else if s.unsettled s.rly.we && pend then .done (s.kvRefuse lane c (-7))
    else
      let tag := BitVec.ofInt 32 (s.scalar lane (u8 c 16) (u8 c 17 % 8) + s32 c 28)
      let s1 := if s.unsettled s.rly.we then s else s.kvPtCheck k a ((s.ptEntries k a (s.kvSeq a).bank).map fun e => e.1)
      .done ((s1.kvMutate k a s.rly.we (.reset tag (min (u8 c 18) 32) false) []).kvRes lane c 0)

/-- KV_TRIM (R315). -/
def execKvTrim (lane : Nat) (s : State) : Host.Outcome State Fault Refusal :=
  .next <| s.kvDo 0x86 lane true (fun _ => false) fun c k a s =>
    if s.kvLogFull a then .done (s.kvRefuse lane c (-4))
    else if s.kvFrameBad k then .done (s.kvRefuse lane c (-5))
    else
      let pos := clampI 0 (s.kvSeq a).maxLen (s.scalar lane (u8 c 16) (u8 c 17 % 8) + s32 c 28)
      let q := s.kvSeq a
      let s1 := if s.unsettled s.rly.we then s else s.kvPtCheck k a ((s.trimmedIn k a q.bank pos.toNat q.nglob).map fun e => e.1)
      let s2 := s1.kvMutate k a s.rly.we (.trim pos.toNat) []
      .done (s2.kvRes lane c (s2.kvSeq a).trim)

/-- KV_LEN (R316). -/
def execKvLen (lane : Nat) (s : State) : Host.Outcome State Fault Refusal :=
  .next <| s.kvDo 0x87 lane false (fun c => decide (u8 c 12 = 0)) fun c k a s =>
    let q := s.kvSeq a
    .done (s.kvRes lane c (match u8 c 12 with
      | 0 => (q.len (u8 c 10) : Int)
      | 1 => q.tag.toInt
      | 2 => q.trim
      | _ => s.kvFree k))

/-! ### Tracker updates (R309, R323) -/

/-- The caches of an epoch's frame. -/
def State.kvCaches (s : State) (e : Epoch) : List Nat := (upTo 4).filter fun c => s.kvpCacheCfg_FRAME c = epFrame e

/-- A tracker update is acted on for every cache of its frame (R323). -/
def State.kvUpdate (s : State) (rcl : Bool) (e : Epoch) : State :=
  eachOf (s.kvCaches e) (fun c s => if rcl then s.kvRecall c e else s.kvSeal c e) s

/-- The tracker tells of a notice, which is acted on at once (R309). Log 173 (DEDUCED). -/
def State.kvTold (s : State) (rcl : Bool) (e : Epoch) : State := s.kvUpdate rcl e

/-- KV_TRACKER_UPDATE: the oldest rebuild that waited for an ATTEND entry begins, once the entry has finished (R323, R329). -/
def execKvTrackerUpdate (s : State) : Host.Outcome State Fault Refusal :=
  .next <| (s.kvp.later.find? fun x => !s.attending x.2).elim s fun x => s.kvRebuildNow x.1 x.2

/-- KV_REBUILD_DONE: the rebuilds that run are complete (R323). -/
def execKvRebuildDone (s : State) : Host.Outcome State Fault Refusal :=
  .next (s.modKvp fun k => { k with rebuilding := [] })

/-- KVP_CLEAR: the caches that CACHES names are cleared at the next BAND_OPEN (R329). The operation completes at once. Log 101 (DEDUCED). -/
def execKvpClear (s : State) : Host.Outcome State Fault Refusal :=
  .next <|
    match s.nextOp 0x28 fun _ => true with
    | none => s
    | some o =>
      ((s.takeOp o).modKvp fun k => { k with clear := k.clear ||| (o.inlNat 0 4 % 16) }).complete o.ring o.didx 0 0 []

/-- The caches named by KVP_CLEAR are cleared (R329). -/
def State.kvApplyClear (s : State) : State :=
  (eachOf ((upTo 4).filter fun c => bit s.kvp.clear c) (fun c s => s.kvClearCache c) s).modKvp fun k => { k with clear := 0 }

/-- Every cache is cleared (14_faults.md R515). Log 111 (DEDUCED). -/
def State.kvClearAll (s : State) : State :=
  (eachOf (upTo 4) (fun c s => s.kvClearCache c) s).modKvp fun k => { k with clear := 0, later := [] }

/-! ### ATTEND (R317 to R321) -/

/-- What ATTEND reads of its command: cache, layer, mask and window. -/
structure AttCmd where
  c : Nat
  l : Nat
  mask : Nat
  w : Nat
  deriving DecidableEq, Repr

/-- The ATTEND fields of a command (R317). -/
def attCmd (c : List Byte) : AttCmd := ⟨u8 c 14 % 4, u8 c 15, u8 c 20, 256 * u16 c 22⟩

/-- The absolute sequence that a batch entry names, when the cache has it and its TAG is the entry's (R318). -/
def State.attSeq (s : State) (k : AttCmd) (lst : Operand) (b : Nat) : Option Nat :=
  let v := fun i => signed 32 (rawElem lst.d.fmt (lst.row b) i)
  if s.kvOn k.c && decide (0 ≤ v 0 ∧ v 0 < s.kvpCacheSeqs_NSEQ k.c) then
    let a := s.kvFirst k.c + (v 0).toNat
    if (s.kvSeq a).tag.toInt = v 1 then some a else none
  else none

/-- The positions that query `i` of batch entry `b` sees, ascending (R318); `e` is the entry in progress. -/
def State.attVis (s : State) (k : AttCmd) (e : Option (Nat × Nat × Nat)) (lst : Operand) (b i : Nat) : List Nat :=
  match s.attSeq k lst b with
  | none => []
  | some a =>
    let q := s.kvSeq a
    let qpos := signed 32 (rawElem lst.d.fmt (lst.row b) 2) + i
    let len := match e with
      | some (b', a', n) => if b' = b ∧ a' = a then n else q.len k.l
      | none => q.len k.l
    (upTo len).filter fun j =>
      !(decide (q.nglob ≤ j) && decide (j < q.trim)) &&
        (k.mask = 0 || (decide ((j : Int) ≤ qpos) && (k.mask = 1 || decide (qpos - j < k.w) || decide (j < q.nglob))))

/-- One vector element of a head at a position. -/
def State.attElem (s : State) (k : AttCmd) (value : Bool) (a h j i : Nat) : Val :=
  let f := s.kvpCacheCfg_FORMAT k.c
  match s.ptGet k.c a (s.kvSeq a).bank (j / 256) k.l with
  | none => .zero
  | some p =>
    elemVal f 0 (s.readMem (s.kvAt k.c p h j + (if value then s.kvPb k.c / 2 else 0) + i * s.kvEb k.c) (s.kvEb k.c)) 0

/-- The unit with an uncorrectable error that a page read of a head at a position meets (R330). -/
def State.attBad (s : State) (k : AttCmd) (a h j : Nat) : Option Nat :=
  match s.ptGet k.c a (s.kvSeq a).bank (j / 256) k.l with
  | none => none
  | some p =>
    let x := s.kvAt k.c p h j
    let y := x + s.kvPb k.c / 2
    s.aon.ueUnits.find? fun u =>
      (decide (x / 32 ≤ u) && decide (u * 32 < x + s.kvVec k.c)) || (decide (y / 32 ≤ u) && decide (u * 32 < y + s.kvVec k.c))

/-- The R279 sum over visible positions in blocks of 32 positions (R319). -/
def attSum (vis : List Nat) (f : Nat → Val) : Val :=
  ((vis.map fun j => j / 32).eraseDups).foldl
    (fun acc b => accBlock acc (Val.sum ((vis.filter fun j => decide (j / 32 = b)).map f))) .zero

/-- Row (b, h, i) of the result of ATTEND, before conversion (R319). -/
def State.attRow (s : State) (k : AttCmd) (scale : Val) (q : Operand) (vis : List Nat) (a b h i : Nat) : List Val :=
  let dh := s.kvDh k.c
  if vis = [] then List.replicate dh .zero
  else
    let sc := vis.map fun j =>
      (j, rne32 ((accF none ((upTo dh).map fun e => (q.val e i h b).mul (s.attElem k false a h j e))).mul scale))
    let m := (sc.map fun x => x.2).foldl Val.max (.inf true)
    let p := fun j => exp32 (rne32 ((Tab.get .zero j sc).sub m))
    let l := attSum vis p
    (upTo dh).map fun e => rne32 ((attSum vis fun j => (p j).mul (s.attElem k true a h j e)).div l)

/-- Whether a row of ATTEND depends on bytes that cannot be read (R330). -/
def State.attLost (s : State) (k : AttCmd) (vis : List Nat) (a h : Nat) : Bool := vis.any fun j => (s.attBad k a h j).isSome

/-- The queries of a batch entry that a place of D takes in: those of a tile, or every one of the entry where D lies in the
scratchpad, each with the positions that it sees; in a queue they count at the first tile along D0 of a head. -/
def State.attQueries (s : State) (k : AttCmd) (e : Option (Nat × Nat × Nat)) (o : Nat → Operand) (whole : Bool) (p : TileAt) :
    List (List Nat) :=
  (if whole then upTo (o 0).d.d1 else rangeTo (32 * p.x1) (min (o 0).d.d1 (32 * p.x1 + 32))).map fun i => s.attVis k e (o 2) p.i3 i

/-- DH, H or LAYER of a command is not what the cache has (R317). -/
def State.attMisfit (s : State) (k : AttCmd) (o : Nat → Operand) : Bool :=
  decide ((o 0).d.d0 ≠ s.kvDh k.c) || decide ((o 0).d.d2 ≠ s.kvH k.c) || decide (s.kvpCacheCfg_NLAYER k.c ≤ k.l)

/-- What the reads of ATTEND for a place of D do beside (R319, R330): a page-table entry that cannot be read, queries that see
nothing (EMPTYQ), and pages that cannot be read. Log 170 (DEDUCED). -/
def State.attPrep (s : State) (k : AttCmd) (e : Option (Nat × Nat × Nat)) (o : Nat → Operand) (whole : Bool) (p : TileAt) : State :=
  if s.attMisfit k o then s
  else
    let seen (s : State) : List (List Nat) := s.attQueries k e o whole p
    let s1 := match s.attSeq k (o 2) p.i3 with
      | none => s
      | some a => s.kvPtCheck k.c a (((seen s).flatMap fun v => v.map fun j => j / 256 * s.kvpCacheCfg_NLAYER k.c + k.l).eraseDups)
    let vis := seen s1
    let heads := if whole then upTo (o 0).d.d2 else [p.i2]
    let empty := if whole || (decide (p.i2 = 0) && decide (p.x0 = 0)) then (vis.filter fun v => decide (v = [])).length else 0
    let bad := match s1.attSeq k (o 2) p.i3 with
      | none => []
      | some a => (heads.flatMap fun h => vis.flatMap fun v => v.filterMap fun j => s1.attBad k a h j).eraseDups
    eachOf bad (fun u s => s.raiseU 0x42 0x5B k.c (u * 32 / 256))
      (s1.modKvp fun x => { x with emptyq := Tab.mod 0 k.c (fun n => satAdd 65535 n empty) x.emptyq })

/-- The log entries of a sequence since its latest logged reset. -/
def sinceReset (a : Nat) (l : List KvMut) : List KvMut :=
  ((l.filter fun m => decide (m.seq = a)).reverse.takeWhile fun m => !(m.kind matches .reset _ _ _)).reverse

/-- ATTEND as a macro-operation (R317 to R321): its result rows, the provisional epochs of logged appends among the
positions read, and its wait on a rebuild. -/
def attendOp (lane : Nat) (s : State) (c : List Byte) : MacroOp :=
  let k := attCmd c
  let e := ((s.lane lane).run.getD {}).entry
  { srcs := [0, 2]
    uses := fun _ x dx p => if x = 0 then tileBox (upTo dx.t0) [p.x1] [p.i2] [p.i3] else [⟨0, p.i3 / 32, 0, 0⟩]
    res := fun o p i =>
      let d := s.desc (u8 c 8)
      let a := (s.attSeq k (o 2) p.i3).getD 0
      let vis := s.attVis k e (o 2) p.i3 i
      if s.attLost k vis a p.i2 then ((segOf c d true p.x0 fun _ => .nan).1, true)
      else
        let row := s.attRow k (floatVal fp32 (u32 c 16)) (o 0) vis a p.i3 p.i2 i
        let ins := (upTo (s.kvDh k.c)).flatMap fun x =>
          (o 0).val x i p.i2 p.i3 :: vis.flatMap fun j => [s.attElem k false a p.i2 j x, s.attElem k true a p.i2 j x]
        segOf c d true p.x0 fun x => overV d.fmt (mSATF c) ins (row.getD x .zero)
    also := fun o p =>
      match s.attSeq k (o 2) p.i3 with
      | none => []
      | some a =>
        let vis := (s.attQueries k e o false p).flatten
        (((sinceReset a s.kvp.log).filter fun m => !m.final && match m.kind with
          | .append l n pos => decide (l = k.l) && vis.any fun j => decide (pos ≤ j ∧ j < pos + n)
          | _ => false).map fun m => m.epoch).eraseDups
    hold := fun o p => (e.elim true fun x => decide (x.1 ≠ p.i3)) &&
      (s.attSeq k (o 2) p.i3).elim false fun a => s.kvHeld a
    prep := fun o p s => s.attPrep k e o (decide ((s.desc (u8 c 8)).loc = 0) && decide (s.queueSrcs c [0, 2] = [])) p
    stop := fun o => if s.attMisfit k o then some 0 else none }

/-- The ATTEND entry that a run which waits has begun (R318). -/
def State.attMark (s : State) (lane : Nat) (c : List Byte) : State :=
  let d := s.desc (u8 c 8)
  let run := (s.lane lane).run.getD {}
  let b := run.made / (d.t0 * d.t1 * d.d2)
  let lst := s.operand lane run 2 (s.desc (u8 c 11))
  let k := attCmd c
  if run.made % (d.t0 * d.t1 * d.d2) = 0 then s.modLane lane fun l => { l with run := some { run with entry := none } }
  else
    match s.attSeq k lst b with
    | none => s.modLane lane fun l => { l with run := some { run with entry := none } }
    | some a =>
      if (run.entry.elim false fun x => decide (x.1 = b)) then s
      else s.modLane lane fun l => { l with run := some { run with entry := some (b, a, (s.kvSeq a).len k.l) } }

/-- ATTEND (R317 to R321). -/
def execAttend (lane : Nat) (s : State) : Host.Outcome State Fault Refusal :=
  .next <| (s.kvAsk 0x80 lane .execute).laneDo 0x80 .execute lane fun c s => s.kvServe lane .execute fun s =>
    let mo := attendOp lane s c
    if (mo.srcs ++ [3]).any fun x =>
        let d := s.desc (macroHandle c x); decide (d.loc = 0) && decide (spSize < d.extent) then .fault s
    else
      match State.macroGo (fun s => attendOp lane s c) c lane (s.macroSteps c mo.srcs) false s with
      | .part s1 => .part (s1.attMark lane c)
      | r => r

end Sys2Proof.Machine
end

