-- ==== Sys2Proof/Machine/Relay.lean ====
section
/-! DEFINITION. The Relay (06_aurik_machine.md R246 to R263): batons, the band context, tokens and notices, the watchdog,
Lane failures; and the choice of program for each band (10_programs.md R379 to R386). -/

namespace Sys2Proof.Machine

open Sys2Proof

/-! ### Tokens and notices (R250 to R255) -/

/-- A 64-bit token of the band or track queue (R255): KIND, BATON, EPOCH and bits [39:3] of the record's address. -/
def tokWord (kind baton : Nat) (e : Epoch) (addr : Nat) : Nat :=
  kind % 4 * 2 ^ 62 + baton % 256 * 2 ^ 54 + e.toNat * 2 ^ 37 + addr / 8 % 2 ^ 37

/-- A token of the band queue as its 64 bits (R255). -/
def BandTok.word : BandTok → Nat
  | .band _ _ e off _ => tokWord 0 0 e (panBase + off)
  | .seal e _ => tokWord 1 0 e 0
  | .rcl e _ => tokWord 2 0 e 0

/-- A token of the track queue as its 64 bits (R255). -/
def TrkTok.word : TrkTok → Nat
  | .record _ addr r => tokWord 0 r.baton.toNat r.epoch addr
  | .notice r => tokWord (if r.type = 0x1F then 2 else 1) 0 r.epoch 0

/-- RLY_RECORD_BAD for a token: bytes 0 to 3 of it are the ARG (14_faults.md R508). -/
def State.badToken (s : State) (word : Nat) : State := s.raiseU 0x36 0x5A 0xFF (word % 2 ^ 32)

/-- A header that R56 discards: TYPE 0x00, or a LENGTH below 2. -/
def badHead (h : List Byte) : Bool := decide (u8 h 0 = 0) || decide (u16 h 6 < 2)

/-- Bands leave the pending sets whose latest token carries an epoch that the tracker records as sealed, or as recalled while the Pan
has the frame disabled (10_programs.md R383). -/
def State.pendPrune (s : State) : State :=
  s.modRly fun r => { r with prog := { r.prog with
    pendSet := r.prog.pendSet.map fun x => (x.1, x.2.filter fun y =>
      !settledIn r.tracker y.2 && (s.panFrameCfg_EN x.1 || !recalledIn r.tracker y.2)) } }

/-- The tracker records a notice, and the KV Page Unit is told when that is news (R253, 08_attention.md R309). Log 91 (DEDUCED). -/
def State.track (s : State) (rcl : Bool) (e : Epoch) : State :=
  let s1 := (s.modRly fun r => { r with tracker := viewNotice r.tracker rcl e [] }).pendPrune
  if viewOf s.rly.tracker e = 0 then s1.kvTold rcl e else s1

/-- The latest sealed SEQ of each frame, but none that is not earlier than one the Pan issues now: it is of an earlier use
(01_line.md R42). -/
def dropSealed (l : Tab Nat) (e : Epoch) : Tab Nat :=
  if epSeq e ≠ 0 ∧ seqGe (Tab.get 0 (epFrame e) l) (epSeq e) = true then Tab.erase (epFrame e) l else l

/-- What the engines keep of an earlier use of a SEQ that the Pan issues again (01_line.md R42) goes. -/
def State.dropViews (s : State) (e : Epoch) : State :=
  ((s.modTrk fun k => { k with view := viewDrop k.view e }).modSlv fun v => { v with view := viewDrop v.view e }).modAct fun a =>
    { a with view := viewDrop a.view e, sealed := dropSealed a.sealed e }

/-- A token or notice enters the band queue. A RECALL makes void every token ahead of it that carries its epoch or a later
provisional one of the frame, and the tracker records it (R252); one with SEQ 0, or of an epoch already settled, is discarded and
reported (01_line.md R56). A band token begins a new use of its SEQ (01_line.md R42). -/
def State.placeToken (s : State) (t : BandTok) : State :=
  match t with
  | .band f k e _ _ =>
    let fence := Tab.get 0 f s.rly.prog.fence
    let after := !(s.rly.prog.fence.any fun x => decide (x.1 = f)) || decide (0 ≤ ixSub k fence)
    (s.modRly fun r =>
      { r with
        bandq := r.bandq ++ [⟨t, false⟩]
        tracker := viewSee r.tracker e
        prog := if (r.prog.exch.any fun x => bit x.fmask f) &&
          after then { r.prog with reached := putBits r.prog.reached f f 1 } else r.prog }).dropViews e
  | .seal _ _ => s.modRly fun r => { r with bandq := r.bandq ++ [⟨t, false⟩] }
  | .rcl e _ =>
    if epSeq e = 0 ∨ viewOf s.rly.tracker e ≠ 0 then s.badToken t.word else
    let s1 := s.modRly fun r =>
      { r with
        bandq := (r.bandq.map fun b => match b.tok with
          | .band _ _ e' _ _ =>
            if epSeq e' ≠ 0 ∧ epFrame e' = epFrame e ∧ seqGe (epSeq e') (epSeq e) then { b with isVoid := true } else b
          | _ => b) ++ [⟨t, false⟩] }
    s1.track true e

/-- BANDQ_RECALL_ENTER: the RECALL that the Sluice holds at its head enters the band queue (R252). -/
def execBandqRecallEnter (s : State) : Host.Outcome State Fault Refusal :=
  .next <|
    match s.pan.sluice with
    | .rcl e t :: rest =>
      if 64 ≤ s.rly.bandq.length then s else (s.modPan fun p => { p with sluice := rest }).placeToken (.rcl e t)
    | _ => s

/-- Two notices of a frame merged: of RECALLs the earlier epoch stays, of SEALs the later (05_track.md R199). -/
def Notice.merge (rcl : Bool) (old new : Notice) : Notice :=
  let first := if rcl then seqGe (epSeq new.epoch) (epSeq old.epoch) else seqGe (epSeq old.epoch) (epSeq new.epoch)
  { (if first then old else new) with named := old.named ++ new.named.filter fun q => !old.named.contains q }

/-- The notices of a place with one more of its frame. -/
def putNotice (rcl : Bool) (l : Tab Notice) (n : Notice) : Tab Notice :=
  let f := epFrame n.epoch
  Tab.set f (((l.find? fun x => decide (x.1 = f)).map fun x => x.2.merge rcl n).getD n) l

/-- A notice goes to the intake of the Track Engine, merged with those that wait at its end (05_track.md R199). -/
def State.trkNotice (s : State) (rcl : Bool) (n : Notice) : State :=
  s.modTrk fun k =>
    let places := match k.intake.getLast? with
      | some p => if p.hand.isSome then k.intake ++ [({} : TrkPlace)] else k.intake
      | none => [({} : TrkPlace)]
    let put (p : TrkPlace) : TrkPlace :=
      if rcl then { p with recalls := putNotice true p.recalls n } else { p with seals := putNotice false p.seals n }
    { k with intake := places.dropLast ++ (places.getLast?.map put).toList }

/-- A hand-off enters the intake of the Track Engine behind the notices that wait at its end. -/
def State.trkHand (s : State) (h : DetHand) : State :=
  s.modTrk fun k =>
    { k with intake := match k.intake.getLast? with
        | some p => if p.hand.isSome then k.intake ++ [{ hand := some h }] else k.intake.dropLast ++ [{ p with hand := some h }]
        | none => [{ hand := some h }] }

/-- A notice taken from the band queue is passed to each destination that was sent a record of an epoch it concerns and
has had no notice of that epoch yet (R253). Log 91 (DEDUCED). -/
def State.passNotice (s : State) (rcl : Bool) (e : Epoch) (t : DT64) : State :=
  let n : Notice := ⟨e, t, viewNamed s.rly.tracker e⟩
  let goes := fun d => s.rly.sent.any fun x => decide (x.1 = d) && concerns rcl e x.2
  let s0 := s.modRly fun r => { r with sent := r.sent.filter fun x => !concerns rcl e x.2 }
  let s1 := if goes 0 then s0.trkNotice rcl n else s0
  let s2 := if goes 1 then s1.modSlv fun v => { v with notices := v.notices ++ [(rcl, n)] } else s1
  let s3 := if goes 2 then s2.modAct fun a => { a with notices := a.notices ++ [(rcl, e, a.intake.length)] } else s2
  if goes 3 then s3.report s3.rlyReport_EN s3.rlyReport_RING (noticeRec rcl e t) else s3

/-- NOTICE_PASS: the Relay takes the notice at the head of the band queue, while no context is open (R253, R260). A SEAL with
SEQ 0, or of an epoch already settled, is discarded and reported (01_line.md R56), as a RECALL is where it enters. -/
def execNoticePass (s : State) : Host.Outcome State Fault Refusal :=
  .next <|
    if !s.rlyCtrl_EN || s.rly.ctx.isSome then s
    else
      match s.rly.bandq with
      | ⟨.seal e t, _⟩ :: rest =>
        let s1 := s.modRly fun r => { r with bandq := rest }
        if epSeq e = 0 ∨ viewOf s.rly.tracker e ≠ 0 then s1.badToken (BandTok.seal e t).word
        else (s1.track false e).passNotice false e t
      | ⟨.rcl e t, _⟩ :: rest =>
        (s.modRly fun r => { r with bandq := rest }).passNotice true e t
      | _ => s

/-- TRACK_TOKEN_TAKE: the front end takes the token at the head of the track queue: a record returns its baton, a notice
only updates the tracker (R249, R253). -/
def execTrackTokenTake (s : State) : Host.Outcome State Fault Refusal :=
  .next <|
    match s.rly.trackq with
    | [] => s
    | .record off addr r :: rest =>
      let s1 := s.modRly fun x => { x with trackq := rest }
      if badHead (recBytes r) then (s1.outCredit (some off)).raiseU 0x36 0x5A 0xFF (leNat (sub (recBytes r) 0 4))
      else if bit r.flags.toNat 0 then s1.returnBaton r.baton.toNat addr (some off)
      else s1.outCredit (some off)
    | .notice r :: rest =>
      let s1 := s.modRly fun x => { x with trackq := rest }
      if epSeq r.epoch = 0 then s1.badToken (TrkTok.notice r).word else s1.track (decide (r.type = 0x1F)) r.epoch

/-! ### Batons (R246 to R249) -/

/-- A counter written alike in every Lane that takes part (R227). -/
def State.allC (s : State) (x : Nat) (v : Int) : State := eachOf s.lanesIn (fun n s => s.modLane n fun l => l.setC x v) s
/-- VALUE and BASE of an address register written alike in every Lane that takes part (R227). -/
def State.allA (s : State) (x v : Nat) : State :=
  eachOf s.lanesIn (fun n s => s.modLane n fun l => l.modA x fun r => { r with value := v, base := v }) s
/-- A counter as the Lane with LID 0 holds it (R227). -/
def State.lead (s : State) (x : Nat) : Int := (s.lane s.lane0).cnt x

/-- TAKEB (R246). -/
def execTakeb (s : State) : Host.Outcome State Fault Refusal :=
  .next <| s.relayDo 0x22 fun c s =>
    match (upTo 256).find? (fun i => decide ((s.baton ((s.rly.lastBaton + 1 + i) % 256)).state = 0)) with
    | none => .wait
    | some i =>
      let b := (s.rly.lastBaton + 1 + i) % 256
      let s1 := (s.modBaton b fun _ => { state := 1, slot := s.rly.prog.running }).modRly fun r => { r with lastBaton := b }
      .done (s1.allC (u8 c 8 % 8) b)

/-- A baton number that a counter holds, when there is such a baton. -/
def batonOf (v : Int) : Option Nat := if 0 ≤ v ∧ v < 256 then some v.toNat else none

/-- A heat enters the Solver's intake with its record's 64 bytes as they stand (09_solver.md R333). -/
def State.slvHeatIn (s : State) (addr : Nat) (baton : Option Nat) (host : Option (Nat × BitVec 32)) (e : Epoch) : State :=
  let h := s.readMem addr 64
  s.modSlv fun v =>
    { v with
      intake := v.intake ++ [{ no := v.heatNo, addr := addr, baton := baton, host := host, head := h, epoch := e, flags := u8 h 3 }]
      heatNo := v.heatNo + 1
      view := viewHand v.view e }

/-- The header bytes that the Relay writes at a HANDOFF (R247). -/
def State.handHead (s : State) (b : Nat) (h : List Byte) : List Byte :=
  by1 0x5A ++ by1 b ++
    by1 ((s.rly.wflags &&& mergeMask) + (u8 h 3 &&& fLAST) + fBAT) ++ by2 s.rly.we.toNat

/-- HANDOFF (R247): waits for an OWNED baton, and for room in the Solver's intake. A record outside DRAM is handed on
unchanged, and the engine refuses it. Log 89 (DEDUCED). -/
def execHandoff (s : State) : Host.Outcome State Fault Refusal :=
  .next <| s.relayDo 0x23 fun c s =>
    match batonOf (s.lead (u8 c 8 % 8)) with
    | none => .wait
    | some b =>
      if (s.baton b).state ≠ 1 then .wait
      else if u8 c 9 = 1 ∧ 32 ≤ s.slv.intake.length then .wait
      else
        let a := (s.lane s.lane0).memAddr (u8 c 10 % 8) (s64 c 16)
        let s1 := if s.inDram a 8 then s.writeMem (a + 1) (s.handHead b (s.readMem a 8)) else s
        let s2 := s1.modBaton b fun x => { x with state := 2 }
        if u8 c 9 = 0 then .done ((s2.trkHand ⟨a, b, s.rly.we, 0⟩).noteSent 0 s.rly.we)
        else .done ((s2.slvHeatIn a (some b) none s.rly.we).noteSent 1 s.rly.we)

/-- WAITB (R248, R251). A record that R56 discards is reported and merges nothing. Log 89 (DEDUCED), 171 (DESIGN CHOICE). -/
def execWaitb (s : State) : Host.Outcome State Fault Refusal :=
  .next <| s.relayDo 0x24 fun c s =>
    match batonOf (s.lead (u8 c 8 % 8)) with
    | none => .wait
    | some b =>
      let x := s.baton b
      if x.state ≠ 3 then .wait
      else
        let h := s.readMem x.addr 8
        if badHead h then .done ((s.raiseU 0x36 0x5A 0xFF (u32 h 0)).allA (u8 c 9 % 8) x.addr)
        else
        match s.merge (BitVec.ofNat 16 (u16 h 4)) (u8 h 3) with
        | none => .wait
        | some s1 => .done (s1.allA (u8 c 9 % 8) x.addr)

/-- FREEB (R248). Log 89 (DEDUCED). -/
def execFreeb (s : State) : Host.Outcome State Fault Refusal :=
  .next <| s.relayDo 0x25 fun c s =>
    match batonOf (s.lead (u8 c 8 % 8)) with
    | none => .done s
    | some b => if (s.baton b).state = 1 ∨ (s.baton b).state = 3 then .done (s.freeBaton b) else .done s

/-! ### The band context (R250, R254) -/

/-- The band context closes (R251, R254). -/
def State.closeBand (s : State) : State :=
  match s.rly.ctx with
  | none => s.modRly fun r => { r with we := 0, wflags := 0, spoiled := false }
  | some x =>
    (s.bandCredit x.off).modRly fun r => { r with ctx := none, we := 0, wflags := 0, spoiled := false, bands := (r.bands + 1) % 65536 }

/-- BAND_END (R254). -/
def execBandEnd (s : State) : Host.Outcome State Fault Refusal := .next <| s.relayDo 0x21 fun _ s => .done s.closeBand

/-- Band K of a frame lies after the fence (10_programs.md R379); a frame with no fence has every band after it. -/
def Prog.after (p : Prog) (f : Nat) (k : BitVec 32) : Bool :=
  match p.fence.find? (fun x => decide (x.1 = f)) with
  | none => true
  | some x => decide (0 ≤ ixSub k x.2)

/-- The frame has reached its fence (10_programs.md R384). -/
def State.reachedFence (s : State) (f : Nat) : Bool := bit s.rly.prog.reached f

/-- The Pan disables a frame: one of a pending or retiring exchange has reached its fence (10_programs.md R384), and no re-release of it
follows (R383). -/
def State.fenceOff (s : State) (f : Nat) : State :=
  (s.modRly fun r => { r with prog := if r.prog.exch.any fun x => bit x.fmask f then
    { r.prog with reached := putBits r.prog.reached f f 1 } else r.prog }).pendPrune

/-- The newest 64 bands of a pending set, which never holds more (10_programs.md R383). -/
def newest64 (l : List (BitVec 32 × Epoch)) : List (BitVec 32 × Epoch) := l.drop (l.length - 64)

/-- A token of band K of frame f with epoch e was opened or skipped: the pending set (10_programs.md R383). -/
def State.notePending (s : State) (f : Nat) (k : BitVec 32) (e : Epoch) : State :=
  (s.modRly fun r =>
    { r with prog := { r.prog with
        pendSet := Tab.mod [] f (fun l => newest64 ((l.filter fun x => decide (x.1 ≠ k)) ++ [(k, e)])) r.prog.pendSet } }).pendPrune

/-- The highest K of each frame, with one more opened. -/
def highWith (l : Tab (BitVec 32)) (f : Nat) (k : BitVec 32) : Tab (BitVec 32) :=
  match l.find? (fun x => decide (x.1 = f)) with
  | some x => if 0 < ixSub k x.2 then Tab.set f k l else l
  | none => Tab.set f k l

/-- A token of band K of frame f was opened: the highest K of the frame (10_programs.md R379). -/
def State.noteHigh (s : State) (f : Nat) (k : BitVec 32) : State :=
  s.modRly fun r => { r with prog := { r.prog with highK := highWith r.prog.highK f k } }

/-- A frame has a band before its fence that is still pending (10_programs.md R383). -/
def State.stillPending (s : State) (f : Nat) : Bool :=
  (Tab.get [] f s.rly.prog.pendSet).any fun x =>
    !s.rly.prog.after f x.1

/-- The STANDBY and ACTIVE slots exchange at once (10_programs.md R378): no fence, no retirement. Log 111 (DEDUCED). -/
def State.switchNow (s : State) (x : Exchange) : State :=
  let p := s.rly.prog
  let old := p.active
  let s1 := s.modRly fun r =>
    { r with prog := { p with
        active := 1 - old
        standby := if Tab.get [] old p.slots = [] then 0 else 2
        exch := none
        change := none
        exchanges := (p.exchanges + 1) % 65536 } }
  let s2 := if x.cancel then s1.actCancel old else s1
  ((s2.restartStreams (1 - old)).complete x.ring x.didx 0 0 (by8 s.dev.toNat)).relevel

/-- A pending exchange switches at once when the Relay is disabled, or ACTIVE has lost its program (10_programs.md R378). -/
def State.switchIdle (s : State) : State :=
  match s.rly.prog.exch with
  | some x => if x.switched ∨ (s.rlyCtrl_EN = true ∧ s.activeImage ≠ []) then s else s.switchNow x
  | none => s

/-- The switch of a pending exchange at a BAND_OPEN (10_programs.md R379, R380, R386). -/
def State.doSwitch (s : State) (x : Exchange) : State :=
  let p := s.rly.prog
  let old := p.active
  let fence := (upTo 8).foldl (fun t f =>
    if bit x.fmask f then t
    else match p.highK.find? (fun y => decide (y.1 = f)) with
      | some y => Tab.set f (y.2 + 1) t
      | none => Tab.erase f t) p.fence
  let s1 := s.modRly fun r =>
    { r with prog := { p with
        active := 1 - old
        standby := 3
        exch := some { x with switched := true, oldSlot := old }
        fence := fence
        reached := p.reached ||| (0xFF ^^^ x.fmask)
        exchanges := (p.exchanges + 1) % 65536 } }
  let s2 := if x.cancel then s1.actCancel old else s1
  (s2.complete x.ring x.didx 0 0 (by8 s.dev.toNat)).relevel

/-- The switch of a pending exchange, when this token is the one that makes it (10_programs.md R380). -/
def State.switchFor (s : State) (f : Nat) (k : BitVec 32) : State :=
  match s.rly.prog.exch with
  | some x =>
    if x.switched then s
    else if x.fmask = 0 || (bit x.fmask f && s.rly.prog.after f k) then s.doSwitch x else s
  | none => s

/-- The slot of the program that a band runs under (10_programs.md R380). -/
def Prog.slotFor (p : Prog) (f : Nat) (k : BitVec 32) : Nat :=
  if p.standby = 3 ∧ !p.after f k then 1 - p.active else p.active

/-- Void tokens at the head of the band queue are skipped, each one's credit returned (R250). -/
def State.skipVoid : Nat → State → State
  | 0, s => s
  | k + 1, s =>
    match s.rly.bandq with
    | ⟨.band f n e off _, v⟩ :: rest =>
      if v || recalledIn s.rly.tracker e then
        State.skipVoid k (((s.modRly fun r => { r with bandq := rest }).bandCredit off).notePending f n e)
      else s
    | _ => s

/-- Every token up to the first notice is drained, with BAND_ABANDON (R259, 10_programs.md R396). Log 90 (DEDUCED). -/
def State.drainBands (reason : Nat) : Nat → State → State
  | 0, s => s
  | k + 1, s =>
    match s.rly.bandq with
    | ⟨.band _ n e off _, _⟩ :: rest =>
      State.drainBands reason k (((s.bandCredit off).postAbandon e n reason 0xFF).modRly fun r =>
        { r with bandq := rest, abandoned := satAdd 255 r.abandoned 1 })
    | _ => s

/-- The Lane set is fixed (R228): Lanes that passed their self-test rejoin (R263), with the registers and places of the Lane
that had LID 0, and empty queues. Log 92 (DEDUCED). -/
def State.fixLanes (s : State) : State :=
  let set := s.lanesEnabled
  let lead := s.lane s.lane0
  let was := s.taking
  s.modRly fun r =>
    { r with
      laneSet := set
      fenced := r.fencedNow
      rejoin := 0
      lanes := (upTo 16).foldl (fun t n =>
        if set.testBit n && !was.testBit n then
          Tab.mod {} n (fun l => { lead with acnt := l.acnt, ecnt := l.ecnt, ce := l.ce, ue := l.ue, dq := [] }) t
        else t) r.lanes }

/-- The band context of a token opens, and the BAND record's address goes into a register (R250, R251). -/
def State.openBand (s : State) (reg f : Nat) (k : BitVec 32) (e : Epoch) (off : Nat) : State :=
  let h := s.readMem (panBase + off) 8
  let s1 := s.fixLanes.modRly fun r =>
    { r with
      bandq := r.bandq.drop 1
      ctx := some ⟨f, k, off, e⟩
      we := BitVec.ofNat 16 (u16 h 4)
      wflags := u8 h 3 &&& mergeMask
      spoiled := false
      tracker := viewSee r.tracker e }
  ((s1.allA reg (panBase + off)).notePending f k e).noteHigh f k

/-- BAND_OPEN (R250, R259, 10_programs.md R380, R396): an open context closes first; with no program or no Lane the band
queue drains; otherwise, when every Lane stands at it, void tokens are skipped and the first other token opens, unless it
needs a change of program, or a notice stands before it. A token whose BAND record R56 discards is reported and skipped with its credit.
Log 90 (DEDUCED), 171 (DESIGN CHOICE). -/
def execBandOpen (s : State) : Host.Outcome State Fault Refusal :=
  .next <|
    if !s.rlyCtrl_EN then s
    else if s.activeImage = [] then
      (if s.rly.ctx.isSome then s else State.drainBands 6 s.rly.bandq.length s)
    else if s.lanesEnabled = 0 ∧ s.rly.ctx = none then State.drainBands 4 s.rly.bandq.length s
    else
      match s.barrier .access with
      | none => s
      | some c =>
        if cOp c ≠ 0x20 ∨ s.rly.prog.change.isSome then s
        else
          let s0 := if s.rly.ctx.isSome then s.closeBand else s
          if s0.lanesEnabled = 0 then State.drainBands 4 s0.rly.bandq.length s0
          else
          let s1 := State.skipVoid s0.rly.bandq.length s0
          match s1.rly.bandq with
          | ⟨.band f k e off _, _⟩ :: rest =>
            let h := s1.readMem (panBase + off) 8
            if badHead h then
              (((s1.modRly fun r => { r with bandq := rest }).bandCredit off).notePending f k e).raiseU 0x36 0x5A 0xFF (u32 h 0)
            else
            let s2 := s1.switchFor f k
            let slot := s2.rly.prog.slotFor f k
            if slot = s2.rly.prog.running then (s2.kvApplyClear.openBand (u8 c 8 % 8) f k e off).allRan .access c
            else s2.modRly fun r => { r with prog := { r.prog with change := some slot, changeAt := s2.now } }
          | _ => s1

end Sys2Proof.Machine
end

