-- ==== Sys2Proof/Machine/PanPlace.lean ====
section
/-! DEFINITION. The Alignment Pan's data: the band store, transform entries, the projection of a sample, its placement, the bands it
belongs to, and the records a release writes (04_motion_pan.md R159 to R173). -/

namespace Sys2Proof.Machine

open Sys2Proof

/-- Band formation of frame `f`. -/
def State.pf (s : State) (f : Nat) : PanFrame := Tab.get {} f s.pan.frames
/-- The state with band formation of frame `f` changed. -/
def State.modPf (s : State) (f : Nat) (g : PanFrame → PanFrame) : State :=
  s.modPan fun p => { p with frames := Tab.mod {} f g p.frames }
/-- Pan stream `n`. -/
def State.ps (s : State) (n : Nat) : PanStream := Tab.get {} n s.pan.streams
/-- The state with Pan stream `n` changed. -/
def State.modPs (s : State) (n : Nat) (g : PanStream → PanStream) : State :=
  s.modPan fun p => { p with streams := Tab.mod {} n g p.streams }

/-- A sample of a stream is counted in DROP.LATE (R167, R187). Log 69 (DEDUCED). -/
def State.panLate (s : State) (n : Nat) : State := s.modPs n fun x => { x with late := satAdd 65535 x.late 1 }
/-- Invalid samples or points of a stream are counted in DROP.BADPT (R163, R165). -/
def State.panBadPt (s : State) (n k : Nat) : State := s.modPs n fun x => { x with badPt := satAdd 65535 x.badPt k }

/-- MAX_BANDS of a frame; 0 in its field, which a written 64 leaves, is taken as 1. Log 71 (DEDUCED). -/
def State.maxBands (s : State) (f : Nat) : Nat := max 1 (s.panFrameCfg_MAX_BANDS f)

/-! ### The band store (R159, R171) -/

/-- The first byte of the band store, from the start of the Pan SRAM. Log 74 (DESIGN CHOICE). -/
def State.storeBase (s : State) : Nat := 0x20000 + 0x10000 * s.panCtrl_LUT_UNITS

/-- The lowest gap of `len` bytes from `lo` on between blocks in rising order. Log 74 (DESIGN CHOICE). -/
def fitBlock (hi len : Nat) : Nat → List (Nat × Nat) → Option Nat
  | lo, [] => if lo + len ≤ hi then some lo else none
  | lo, (o, l) :: t => if lo + len ≤ o then some lo else fitBlock hi len (max lo (o + l)) t

/-- A block put among blocks in rising order. -/
def addBlock (b : Nat × Nat) : List (Nat × Nat) → List (Nat × Nat)
  | [] => [b]
  | x :: t => if b.1 < x.1 then b :: x :: t else x :: addBlock b t

/-- Bytes of the band store that no block holds. -/
def State.storeFree (s : State) : Nat :=
  panSize - s.storeBase - s.pan.blocks.foldl (fun n b => n + (b.1 + b.2 - max b.1 s.storeBase)) 0

/-- Bytes are written into the band store, where there is room for them. -/
def State.storePut (s : State) (b : List Byte) : Option (Nat × State) :=
  (fitBlock panSize b.length s.storeBase s.pan.blocks).map fun o =>
    (o, (s.modPan fun p => { p with blocks := addBlock (o, b.length) p.blocks }).writeMem (panBase + o) b)

/-- A release still holds storage: its credit has not returned, or its epoch is not settled (R171). -/
def Release.holds (r : Release) : Bool := !r.credit || decide (r.settle = .pending) || decide (r.settle = .confirmable)

/-- Blocks that a sample refers to: its raw record, and what was written for it. -/
def Sample.blocks (x : Sample) : List Nat := x.raw :: (x.written.map fun w => w.1).toList

/-- Blocks in use: of samples not released, of releases that hold storage, and the raw records a re-release needs (R171, R177). -/
def Pan.inUse (p : Pan) : List Nat :=
  (p.streams.flatMap fun e => e.2.waiting.flatMap Sample.blocks) ++
    p.frames.flatMap fun e =>
      (e.2.samples.flatMap Sample.blocks) ++
        e.2.releases.flatMap fun r =>
          if r.holds then r.off :: r.samples.flatMap Sample.blocks else if r.again then r.samples.map fun x => x.raw else []

/-- Storage that nothing refers to is freed (R171). Log 75 (DEDUCED). -/
def State.panSweep (s : State) : State :=
  s.modPan fun p =>
    let keep (f : PanFrame) : PanFrame := { f with releases := f.releases.filter fun r => r.holds || r.again }
    let q : Pan := { p with frames := p.frames.map fun e => (e.1, keep e.2) }
    let u := q.inUse
    { q with blocks := q.blocks.filter fun b => u.contains b.1 }

/-- Band `k` is not before the frame's next band to release. -/
def PanFrame.unreleased (p : PanFrame) (k : BitVec 32) : Bool := p.next.elim true fun n => decide (0 ≤ ixSub k n)

/-- The bands a frame holds: releases in store, and bands of samples not released. -/
def PanFrame.held (p : PanFrame) : Nat :=
  ((p.releases.map fun r => r.k) ++ (p.samples.flatMap fun x => x.bands).filter p.unreleased).eraseDups.length

/-! ### Transforms and projection (R160 to R165) -/

/-- A transform entry (R160). -/
structure Xform where
  m : List Int
  station : WP48
  toff : Int
  rowDt : Nat
  bpXy : Nat
  bpW : Nat
  lutOff : Nat
  lutLen : Nat
  valid : Bool
  deriving DecidableEq, Repr

/-- An element of M. -/
def Xform.el (e : Xform) (i j : Nat) : Int := e.m.getD (4 * i + j) 0

/-- Entry `e` of a bank; one made invalid by an uncorrectable error is not VALID (R190). LUT_OFF and LUT_LEN are taken as they stand.
Log 185 (DESIGN CHOICE). -/
def State.xformAt (s : State) (bank e : Nat) : Xform :=
  let b := s.readMem (panBase + 0x10000 * bank + 128 * e) 128
  { m := (upTo 12).map fun k => s32 b (4 * k)
    station := BitVec.ofNat 48 (u64 b 48)
    toff := s32 b 56
    rowDt := u16 b 60
    bpXy := u8 b 62 % 32
    bpW := u8 b 63 % 32
    lutOff := u32 b 64
    lutLen := u16 b 68
    valid := bit (u8 b 70) 7 && !(s.pan.ue.any fun x => decide (x.1 = bank ∧ x.2.1 = e)) }

/-- An input point (R163): column, row, z, lookup index, z and intensity as received, and whether it is invalid as it comes.
Log 68 (DEDUCED). -/
structure InPoint where
  col : Int
  row : Nat
  z : Int
  k : Nat
  zRaw : Nat := 0
  inten : Nat := 0
  bad : Bool := false
  deriving DecidableEq, Repr

/-- The coordinate of y, saturated (R162). -/
def satCross (y : Int) : Int × Bool := (clampI (-2147483647) 2147483647 y, decide (y < -2147483647 ∨ 2147483647 < y))

/-- The projection of one point (R162). -/
def State.projPoint (s : State) (e : Xform) (p : InPoint) : Proj :=
  let acc (i : Nat) : Int := e.el i 0 * p.col + e.el i 1 * p.row + e.el i 2 * p.z + e.el i 3
  let bad : Proj := ⟨p.row, 0, 0, true, false, p.zRaw, p.inten⟩
  if p.bad ∨ acc 2 ≤ 0 then bad
  else
    let den := (acc 2).toNat * 2 ^ e.bpXy
    let x := rhaDiv (acc 0 * (2 ^ e.bpW : Nat)) den
    let y := rhaDiv (acc 1 * (2 ^ e.bpW : Nat)) den
    if e.lutLen = 0 then let (c, sat) := satCross y; ⟨p.row, x, c, false, sat, p.zRaw, p.inten⟩
    else if e.lutLen ≤ p.k ∨ 0x10000 * s.panCtrl_LUT_UNITS < e.lutOff + 8 * p.k + 8 then bad
    else
      let l := s.readMem (panBase + 0x20000 + e.lutOff + 8 * p.k) 8
      let (c, sat) := satCross (y + s32 l 4)
      ⟨p.row, x + s32 l 0, c, false, sat, p.zRaw, p.inten⟩

/-- Control points along one dimension whose last index is `last`: 0, step, 2·step and so on, and the last (R164). -/
def axis (last step : Nat) : List Nat :=
  (upTo (last / max 1 step + 1)).map (fun k => k * step) ++ if last % max 1 step = 0 then [] else [last]

/-- The number of them. -/
def axisLen (last step : Nat) : Nat := last / max 1 step + 1 + if last % max 1 step = 0 then 0 else 1

/-- The steps of R164: doubled in turn, a step that reaches the last column or row passing its turn, until 4 096 points do. -/
def meshSteps (lc lr : Nat) : Nat → Bool → Nat → Nat → Nat × Nat
  | 0, _, cs, rs => (cs, rs)
  | n + 1, rowTurn, cs, rs =>
    if axisLen lc cs * axisLen lr rs ≤ 4096 then (cs, rs)
    else if rowTurn then meshSteps lc lr n false cs (if lr ≤ rs ∨ 32736 ≤ rs then rs else 2 * rs)
    else meshSteps lc lr n true (if lc ≤ cs ∨ 32736 ≤ cs then cs else 2 * cs) rs

/-- A record holds a point to project (R163). -/
def hasPoint (r : Rec) : Bool :=
  if r.type = 1 then decide (u16 r.body 6 ≠ 0 ∧ u16 r.body 10 ≠ 0)
  else if r.type = 2 then decide (1 ≤ u8 r.body 10 ∧ u8 r.body 10 ≤ 3 ∧ u16 r.body 6 ≠ 0)
  else true

/-- The Pan projects records of this type (R163). -/
def projects (r : Rec) : Bool := decide (r.type = 1 ∨ r.type = 2 ∨ r.type = 8)

/-- The number that picks the entry of a record (R165): FRAME, PROFILE_ID or COUNT. -/
def pickOf (r : Rec) : Nat := u32 r.body 0

/-- The steps that stream `n` uses for a record; 0 for one that has no mesh. Log 186 (DESIGN CHOICE). -/
def State.stepsOf (s : State) (n : Nat) (r : Rec) : Nat × Nat :=
  if r.type = 1 then
    meshSteps (u16 r.body 10 - 1) (u16 r.body 6 - 1) 64 false (max 1 (s.panStreamMesh_CSTEP n)) (max 1 (s.panStreamMesh_RSTEP n))
  else (0, 0)

/-- The input points of a record (R163, R164). Log 68 (DEDUCED). -/
def inPoints (r : Rec) (cs rs : Nat) : List InPoint :=
  if r.type = 1 then
    (axis (u16 r.body 6 - 1) rs).flatMap fun y => (axis (u16 r.body 10 - 1) cs).map fun x =>
      ⟨((u16 r.body 8 + x : Nat) : Int), u16 r.body 4 + y, 0, u16 r.body 8 + x, 0, 0, false⟩
  else if r.type = 2 then
    let fmt := u8 r.body 10
    (upTo (u16 r.body 6)).map fun i =>
      let k := u16 r.body 4 + i
      if fmt = 1 then
        let z := s16 r.body (16 + 2 * i)
        ⟨(k : Int), 0, z, k, u16 r.body (16 + 2 * i), 0, decide (z = -32768)⟩
      else
        let o := 16 + (if fmt = 2 then 4 else 8) * i
        let x := s16 r.body o
        let z := s16 r.body (o + 2)
        ⟨x, 0, z, k, u16 r.body (o + 2), if fmt = 3 then u16 r.body (o + 4) else 0, decide (x = -32768 ∧ z = -32768)⟩
  else [⟨0, 0, 0, 0, 0, 0, false⟩]

/-- A sample projected with a bank (R162, R165); none when its entry is not VALID. -/
def State.project (s : State) (bank : Nat) (x : Sample) : Option Sample :=
  let n := x.slot
  let r := x.source
  let no := s.panStreamCfg_XBASE n + pickOf r % max 1 (s.panStreamCfg_XCOUNT n)
  let e := s.xformAt bank (no % 512)
  if !e.valid then none
  else
    let (cs, rs) := s.stepsOf n r
    let pts := (inPoints r cs rs).map (s.projPoint e)
    let rows := (pts.map fun p => p.row).eraseDups
    let img := decide (r.type = 1)
    some { x with
      bank := bank
      xform := no % 512
      station := e.station
      rows := rows.map fun y => (y, dtAdd r.time (e.toff + y * e.rowDt))
      pts := pts
      nc := if img then axisLen (u16 r.body 10 - 1) cs else 1
      nr := if img then axisLen (u16 r.body 6 - 1) rs else 1
      cs := cs
      rs := rs
      first := dtAdd r.time e.toff }

/-! ### Placement and bands (R156, R166, R167, R183) -/

/-- Every row time of a sample lies at or before T_conf: it is confirmable (R168). -/
def State.confirmable (s : State) (f : Nat) (x : Sample) : Bool :=
  match (s.motion f).tconf with
  | none => x.rows.isEmpty
  | some c => x.rows.all fun r => dtGe c r.2

/-- P(t) of each row of a sample; none when one does not exist. -/
def State.rowPos (s : State) (f : Nat) (x : Sample) : Option (List (Nat × WP48)) :=
  x.rows.mapM fun r => (s.posAt f r.2).map fun p => (r.1, p)

/-- A row time for which no confirmed position can exist any more: before the oldest tick kept (R167, R583). -/
def State.rowLost (s : State) (f : Nat) (x : Sample) : Bool :=
  match (s.motion f).ticks.getLast? with
  | none => false
  | some k => x.rows.any fun r => !dtGe r.2 k.t

/-- The along-web coordinate of a projected point (R162). -/
def Sample.coord (x : Sample) (p : Proj) : WP48 := Tab.get 0 p.row x.pos - x.station - wpOf p.x

/-- The coordinates of its valid points. -/
def Sample.coords (x : Sample) : List WP48 := (x.pts.filter fun p => !p.invalid).map x.coord

/-- The lowest of some coordinates (R35). -/
def lowest : List WP48 → Option WP48
  | [] => none
  | c :: t =>
    match lowest t with
    | none => some c
    | some d => if wpSub c d ≤ 0 then some c else some d

/-- start(k) of a frame (R166). -/
def State.bandStart (s : State) (f : Nat) (k : BitVec 32) : WP48 :=
  wpOf (s.panFrameBandOrigin_BAND_ORIGIN f + k.toInt * s.panFrameBandLen_UNITS f)

/-- BAND_LEN. -/
def State.bandLen (s : State) (f : Nat) : Nat := max 1 (s.panFrameBandLen_UNITS f)

/-- end(k). -/
def State.bandEndPos (s : State) (f : Nat) (k : BitVec 32) : WP48 := s.bandStart f k + BitVec.ofNat 48 (s.bandLen f)

/-- The band that holds a coordinate, counted from band `k`. -/
def State.bandOf (s : State) (f : Nat) (k : BitVec 32) (c : WP48) : Int := wpSub c (s.bandStart f k) / s.bandLen f

/-- A number put among numbers in rising order, once. -/
def insertInt (i : Int) : List Int → List Int
  | [] => [i]
  | j :: t => if i < j then i :: j :: t else if i = j then j :: t else j :: insertInt i t

/-- The bands, not before `k`, that a placed sample belongs to: of those its valid points lie in, the 8 lowest (R167, R183).
Log 70 (DEDUCED). -/
def State.joins (s : State) (f : Nat) (k : BitVec 32) (x : Sample) : List (BitVec 32) :=
  (((x.coords.map (s.bandOf f k)).foldl (fun l i => insertInt i l) []).take 8).filterMap fun i =>
    if i < 0 then none else some (k + BitVec.ofInt 32 i)

/-- The bank that a band takes which begins to be assembled now (R178). -/
def State.bankNow (s : State) : Nat := if s.pan.swapPend then 1 - s.pan.bank else s.pan.bank

/-- The bank of band `k`: the one with which it began to be assembled, and for a band not begun the one it would take now (R178).
Log 73 (DEDUCED). -/
def State.bankFor (s : State) (f : Nat) (k : Option (BitVec 32)) : Nat :=
  (k.bind fun k => ((s.pf f).begun.find? fun x => decide (x.1 = k)).map fun x => x.2.1).getD s.bankNow

/-- A frame has changed over to the bank that a pending PAN_SWAP makes active. Log 73 (DEDUCED). -/
def State.changedOver (s : State) (f : Nat) : Bool := decide ((s.pf f).bank = 1 - s.pan.bank)

/-- The frame changes over when band `k`, the first to use the new bank or a later one, begins to be assembled. -/
def State.changeOver (s : State) (f : Nat) (k : BitVec 32) : State :=
  match (s.pf f).swapAt with
  | some a => if s.pan.swapPend && decide (0 ≤ ixSub k a) then s.modPf f fun p => { p with bank := 1 - s.pan.bank } else s
  | none => s

/-- Bands that a sample joins begin to be assembled, those that have not begun (R178). -/
def State.beginBands (s : State) (f : Nat) : List (BitVec 32) → State
  | [] => s
  | k :: t =>
    if (s.pf f).begun.any fun x => decide (x.1 = k) then s.beginBands f t
    else ((s.changeOver f k).modPf f fun p => { p with begun := p.begun ++ [(k, s.bankNow, s.now)] }).beginBands f t

/-! ### Records (R172) -/

/-- The value of an invalid coordinate. -/
def badCoord : List Byte := by4 0x80000000

/-- ALONG of a coordinate from BASE, saturated. -/
def alongOf (c base : WP48) : Int × Bool :=
  let d := wpSub c base
  (clampI (-2147483647) 2147483647 d, decide (d < -2147483647 ∨ 2147483647 < d))

/-- P(t) - STATION at the time of the first row. Log 67 (DEDUCED). -/
def Sample.base (x : Sample) : WP48 := ((x.pos.head?).elim 0 fun p => p.2) - x.station

/-- The PLACE or PPOINTS record of a placed sample, and whether it has SAT. Log 67 (DEDUCED). -/
def Sample.record (x : Sample) (epoch : Epoch) (rerel : Bool) : Rec × Bool :=
  let base := x.base
  let sat := x.pts.any fun p => !p.invalid && (p.sat || (alongOf (x.coord p) base).2)
  let pt (p : Proj) : List Byte := if p.invalid then badCoord ++ badCoord else by4i (alongOf (x.coord p) base).1 ++ by4i p.y
  let fl := flagIf (decide (epSeq epoch ≠ 0)) fPROV + flagIf rerel fREREL + flagIf (bit x.source.flags.toNat 4) fTUNC + flagIf sat fSAT
  let b48 := by8i base.toInt
  if x.source.type = 2 then
    (mkRec 0x13 0x58 fl epoch x.first (b48 ++ by2 x.pts.length ++ by2 (u16 x.source.body 4) ++ zeros 4 ++
      x.pts.flatMap fun p => pt p ++ by2 p.z ++ by2 p.inten), sat)
  else
    (mkRec 0x12 0x58 fl epoch x.first (b48 ++ by2 x.nc ++ by2 x.nr ++ by2 x.cs ++ by2 x.rs ++ x.pts.flatMap pt), sat)

/-- What a release says besides its samples. -/
structure RelHead where
  frame : Nat
  k : BitVec 32
  epoch : Epoch
  expect : Nat
  absent : Nat
  forfeit : Nat
  gap : Nat
  bank : Nat
  resume : Bool
  mabsent : Bool
  rerel : Bool
  replaces : Epoch
  /-- Entries beyond 4 096 were dropped at the band's first release. -/
  overfull : Bool
  deriving DecidableEq, Repr

/-- The PLACE and PPOINTS records of samples, for those that have none yet; none when the store has no room. -/
def State.writePlaces (s : State) (epoch : Epoch) (rerel : Bool) : List Sample → Option (List Sample × State)
  | [] => some ([], s)
  | x :: t =>
    if x.unplaced || x.written.isSome then (s.writePlaces epoch rerel t).map fun y => (x :: y.1, y.2)
    else
      let (r, sat) := x.record epoch rerel
      match s.storePut (recBytes r) with
      | none => none
      | some (o, s1) => (s1.writePlaces epoch rerel t).map fun y => ({ x with written := some (o, sat), wepoch := epoch } :: y.1, y.2)

/-- One entry of a BAND record. -/
def Sample.entry (x : Sample) : List Byte :=
  let split := decide (1 < x.bands.length)
  let sat := x.written.any fun w => w.2
  by1 x.slot ++ by1 x.source.type.toNat ++ by2 (if x.unplaced then 0xFFFF else x.xform) ++ by4 x.raw ++
    by4 (x.written.elim 0xFFFFFFFF fun w => w.1) ++ by1 (b2n split + 2 * b2n sat + 4 * b2n x.pred) ++ zeros 3

/-- The earliest TIME of entries. -/
def earliestTime : List Sample → Option DT64
  | [] => none
  | x :: t =>
    match earliestTime t with
    | none => some x.first
    | some u => if dtGe u x.first then some x.first else some u

/-- The GAP bits of samples: a marker preceded them (R172). -/
def gapMask (l : List Sample) : Nat := l.foldl (fun m x => if x.gap then m ||| 2 ^ x.slot else m) 0

/-- The BAND record (R172) of entries in order, `overfull` when some were dropped. -/
def State.bandRec (s : State) (h : RelHead) (l : List Sample) (excess : Bool) : Rec :=
  let gap := h.gap ||| gapMask l
  let pred := l.any fun x => x.pred
  let sat := l.any fun x => x.written.any fun w => w.2
  let (t, tunc) := match earliestTime l with
    | none => (s.dev, s.tunc)
    | some t => (t, l.any fun x => bit x.source.flags.toNat 4)
  let fl := fLAST + flagIf (decide (epSeq h.epoch ≠ 0)) fPROV + flagIf h.rerel fREREL +
    flagIf (decide (h.absent ≠ 0) || h.mabsent) fABSENT + flagIf (decide (gap ≠ 0)) fGAP + flagIf sat fSAT + flagIf tunc fTUNC
  mkRec 0x11 0x58 fl h.epoch t
    (by4 h.k.toNat ++ by4 (s.bandLen h.frame) ++ by8i (s.bandStart h.frame h.k).toInt ++ by8 h.expect ++ by8 h.absent ++
      by8 h.forfeit ++ by8 gap ++ by2 l.length ++ by1 (b2n pred + 2 * b2n h.resume + 4 * b2n excess + 8 * b2n h.mabsent) ++
      by1 h.bank ++ by2 h.replaces.toNat ++ zeros 2 ++ l.flatMap Sample.entry)

/-- Samples in order of stream, then of arrival. -/
def insertSample (x : Sample) : List Sample → List Sample
  | [] => [x]
  | y :: t => if x.slot < y.slot ∨ (x.slot = y.slot ∧ x.id < y.id) then x :: y :: t else y :: insertSample x t

/-- What the Sluice holds was given to it now by a frame above `f`. -/
def State.sluicedNow (s : State) (f : Nat) : BandTok → Bool
  | .band g _ _ o _ => decide (f < g) && (s.pf g).releases.any fun r => decide (r.off = o ∧ r.at_ = s.now)
  | .seal e t => decide (f < epFrame e ∧ t = s.dev)
  | .rcl e t => decide (f < epFrame e ∧ t = s.dev)

/-- The Sluice with a token of frame `f` given to it now: behind what it holds, but of two frames that release at one instant the lower
one passes first (R170). -/
def State.sluicePut (s : State) (f : Nat) (x : BandTok) : List BandTok :=
  let back := (s.pan.sluice.reverse.takeWhile (s.sluicedNow f)).length
  let n := s.pan.sluice.length - back
  s.pan.sluice.take n ++ x :: s.pan.sluice.drop n

/-- A release is written: the records its samples lack, and its BAND record, whose token goes to the Sluice (R170). None, with nothing
written, when the store has no room (R171). The samples come back with what was written for them. Entries beyond 4 096 are dropped, and
a marker that preceded one of them counts in GAP (R172). -/
def State.writeRelease (s : State) (h0 : RelHead) (members : List Sample) : Option (List Sample × State) :=
  let l := members.foldl (fun t x => insertSample x t) []
  let h : RelHead := { h0 with gap := h0.gap ||| gapMask (l.drop 4096) }
  match s.writePlaces h.epoch h.rerel (l.take 4096) with
  | none => none
  | some (l1, s1) =>
    let overfull := h.overfull || decide (4096 < l.length)
    let r := s1.bandRec h l1 overfull
    match s1.storePut (recBytes r) with
    | none => none
    | some (o, s2) =>
      let prov := decide (epSeq h.epoch ≠ 0)
      let rel : Release := {
        frame := h.frame, k := h.k, epoch := h.epoch, settle := if prov then .pending else .final, credit := false, off := o
        samples := l1, at_ := s.now, expect := h.expect, absent := h.absent, forfeit := h.forfeit, bank := h.bank, gap := h.gap
        overfull := overfull, resume := h.resume, again := false, mabsent := h.mabsent }
      let s3 := s2.modPf h.frame fun p => { p with
        releases := p.releases ++ [rel]
        outst := if prov then p.outst ++ [h.epoch] else p.outst
        lastSeq := if prov then epSeq h.epoch else p.lastSeq }
      some (l1, s3.modPan fun p => { p with sluice := s.sluicePut h.frame (.band h.frame h.k h.epoch o r.time) })

end Sys2Proof.Machine
end

