-- ==== Sys2Proof/Machine/Pan.lean ====
section
/-! DEFINITION. The Alignment Pan at work (04_motion_pan.md R163 to R190): samples read, placed and placed afresh, bands released, decided,
sealed, recalled and re-released, calibration loaded and swapped, frames enabled, disabled and absent. -/

namespace Sys2Proof.Machine

open Sys2Proof

/-! ### Due instants (R168) -/

/-- RUNAHEAD is in force: not for 1 s after the safe state is released (14_faults.md R517). -/
def State.runAhead (s : State) (f : Nat) : Bool := s.panFrameCfg_RUNAHEAD f && decide ((s.pf f).finalUntil ≤ s.now)

/-- The position at which band `k` falls due: end(k) + DUE_OFF. -/
def State.duePos (s : State) (f : Nat) (k : BitVec 32) : WP48 := s.bandEndPos f k + BitVec.ofNat 48 (s.panFrameDueOff_UNITS f)

/-- The interval time at which P(now) first stood at a position or beyond it, by the ticks processed, oldest first: as one is processed,
or with run-ahead on between one and the next, by prediction (R168). -/
def State.crossed (s : State) (f : Nat) (w : WP48) : List (Nat × Tick) → Option Nat
  | [] => none
  | (at_, j) :: rest =>
    if 0 ≤ wpSub (j.pos j.t) w then some at_
    else
      let seen := if s.runAhead f then (j.reach w).filter fun t => dtGe (dtAdd j.t (usToDt (s.motHorizon_US f))) t else none
      match seen.map fun t => max at_ (s.whenWas t) with
      | some x => if rest.head?.all fun e => decide (x < e.1) then some x else s.crossed f w rest
      | none => s.crossed f w rest

/-- The interval time at which band `k` of a frame falls due, or fell due: with run-ahead off by the confirmed position, which changes
with each tick processed, with it on by the predicted one. None while that is not in sight. Log 70 (DEDUCED). -/
def State.dueTime (s : State) (f : Nat) (k : BitVec 32) : Option Nat :=
  let m := s.motion f
  match m.headTick with
  | some j =>
    if 0 ≤ wpSub (j.pos j.t) (s.duePos f k) then some ((s.crossed f (s.duePos f k) m.trail.reverse).getD m.tickedAt)
    else if !s.runAhead f || m.absent then none
    else
      (j.reach (s.duePos f k)).bind fun t =>
        if dtGe (dtAdd j.t (usToDt (s.motHorizon_US f))) t then
          some (max m.tickedAt (if 0 < dtSub t s.dev then s.whenDev t else s.whenWas t))
        else none
  | none => none

/-- The interval time at which the next band of a frame falls due, or fell due. -/
def State.panDue (s : State) (f : Nat) : Option Nat :=
  match (s.pf f).dues.head? with
  | some t => some t
  | none => (s.pf f).next.bind (s.dueTime f)

/-- The due instants of the next band and of those after it, at most `n`, are noted once they have come, whether or not an earlier band
still waits (R168). -/
def State.panMarks (s : State) (f : Nat) : Nat → State
  | 0 => s
  | n + 1 =>
    match (s.pf f).next with
    | none => s
    | some k =>
      match s.dueTime f (k + BitVec.ofNat 32 (s.pf f).dues.length) with
      | none => s
      | some t => if t ≤ s.now then (s.modPf f fun p => { p with dues := p.dues ++ [t] }).panMarks f n else s

/-- The due instants that have come are noted. -/
def State.panMark (s : State) (f : Nat) : State := s.panMarks f 256

/-! ### Notices (R173 to R177) -/

/-- The Pan issues a notice: it goes to the Sluice behind the releases already given to it, and to the report ring (R170). -/
def State.panNotice (s : State) (rcl : Bool) (e : Epoch) : State :=
  let t := s.dev
  (s.modPan fun p => { p with sluice := p.sluice ++ [if rcl then .rcl e t else .seal e t] }).report s.panReport_EN
    s.panReport_RING (noticeRec rcl e t)

/-- Notices of some epochs of a frame are issued now. -/
def PanFrame.notice (p : PanFrame) (now : Nat) (l : List Epoch) : PanFrame :=
  { p with
    outst := p.outst.filter fun x => !l.contains x
    noticed := (l.map fun x => (epSeq x, now)) ++ p.noticed.filter fun y => decide (now < y.2 + 1000 * msTicks) }

/-- A sample of an unreleased band gives up the record that was written for it under a recalled epoch (R177). -/
def Sample.unwritten (gone : List Epoch) (x : Sample) : Sample :=
  if x.written.isSome && gone.contains x.wepoch then { x with written := none } else x

/-- The bookkeeping of a RECALL of `e`, an outstanding epoch of frame `f`: it and every later one are recalled (R43, R176, R177). -/
def State.recallMark (s : State) (f : Nat) (e : Epoch) (again mabsent : Bool) : State :=
  let gone := (s.pf f).outst.filter fun x => seqGe (epSeq x) (epSeq e)
  s.modPf f fun p =>
    let q := p.notice s.now gone
    { q with
      recalls := (q.recalls + 1) % 65536
      samples := q.samples.map (Sample.unwritten gone)
      releases := q.releases.map fun r =>
        if gone.contains r.epoch then { r with settle := .recalled, again := again, mabsent := mabsent } else r }

/-- A RECALL of `e` is issued (R175, R176). Log 75 (DEDUCED). -/
def State.panRecall (s : State) (f : Nat) (e : Epoch) (again mabsent : Bool) : State :=
  ((s.recallMark f e again mabsent).panNotice true e).panSweep

/-- SEAL_ISSUE: the oldest outstanding epoch of a frame is sealed once its release is confirmable (R43, R175). -/
def execSealIssue (f : Nat) (s : State) : Host.Outcome State Fault Refusal :=
  .next <|
    match (s.pf f).outst.head? with
    | none => s
    | some e =>
      if (s.pf f).releases.any fun r => decide (r.epoch = e ∧ r.settle = .confirmable) then
        ((s.modPf f fun p =>
            let q := p.notice s.now [e]
            { q with
              seals := (q.seals + 1) % 65536
              releases := q.releases.map fun r => if r.epoch = e then { r with settle := .settled } else r }).panNotice false e).panSweep
      else s

/-- P(t), now confirmed, differs from the value a release used by more than a tolerance at some row of a sample placed on predicted
motion (R175). -/
def State.differs (s : State) (f tol : Nat) (x : Sample) : Bool :=
  x.pred && x.rows.any fun r =>
    match (match x.fresh with
      | some l => some (Tab.get 0 r.1 l)
      | none => (s.motion f).confirmed r.2) with
    | some p => decide (tol < (wpSub p (Tab.get 0 r.1 x.pos)).natAbs)
    | none => true

/-- A member of a provisional release placed afresh on confirmed motion, which R175 compares and a re-release writes (R169). -/
def State.freshen (s : State) (f : Nat) (x : Sample) : Sample :=
  if x.unplaced || !x.pred || x.fresh.isSome || !s.confirmable f x then x else { x with fresh := s.rowPos f x }

/-- The members of a frame's releases, those that `want` picks, are placed afresh as far as motion confirms them (R169). -/
def State.freshenAll (s : State) (f : Nat) (want : Sample → Bool) : State :=
  s.modPf f fun p => { p with
    releases := p.releases.map fun r => { r with samples := r.samples.map fun x => if want x then s.freshen f x else x } }

/-- EPOCH_DECIDE: T_conf reaches the latest predicted row time of a provisional release: it is confirmable, or recalled at once
(R175). -/
def execEpochDecide (f : Nat) (s0 : State) : Host.Outcome State Fault Refusal :=
  .next <|
    let s := s0.freshenAll f fun _ => true
    match (s.pf f).releases.find? fun r => decide (r.settle = .pending) && r.samples.all fun x => !x.pred || s.confirmable f x with
    | none => s
    | some r =>
      if r.samples.any (s.differs f (s.panFrameRecallTol_UNITS f)) then s.panRecall f r.epoch true false
      else
        s.modPf f fun p => { p with
          releases := p.releases.map fun q => if q.epoch = r.epoch ∧ q.settle = .pending then { q with settle := .confirmable } else q }

/-- An engine of the device holds a record of an epoch, or state of it (01_line.md R42): a token, a record or a notice in a queue,
an open context, a tile, a returned record, a journal segment, a heat, a binding, a logged mutation, a record of a post buffer. Log
176 (DEDUCED). -/
def State.epochHeld (s : State) (e : Epoch) : Bool :=
  let tok (t : BandTok) : Bool := match t with
    | .band _ _ x _ _ => decide (x = e)
    | .seal x _ => decide (x = e)
    | .rcl x _ => decide (x = e)
  let trkTok (t : TrkTok) : Bool := match t with
    | .record _ _ r => decide (r.epoch = e)
    | .notice r => decide (r.epoch = e)
  let trkOut (t : TrkOut) : Bool := match t with
    | .record r => decide (r.epoch = e)
    | .notice r => decide (r.epoch = e)
  (s.pan.sluice.any tok || s.rly.bandq.any fun x => tok x.tok) || decide (s.rly.we = e) ||
    (s.rly.ctx.any fun c => decide (c.epoch = e)) || s.rly.trackq.any trkTok ||
    (s.rly.sent.any fun x => decide (x.2 = e)) ||
    (s.trk.intake.any fun p => (p.hand.any fun h => decide (h.epoch = e)) || p.recalls.any (fun x => decide (x.2.epoch = e)) ||
      p.seals.any fun x => decide (x.2.epoch = e)) ||
    s.trk.outq.any trkOut || s.trk.issued.contains e ||
    (s.trk.classes.any fun c => c.2.segs.any fun g => decide (g.epoch = e)) ||
    (s.slv.intake.any fun h => decide (h.epoch = e)) || (s.slv.heats.any fun h => decide (h.epoch = e)) ||
    (s.slv.notices.any fun x => decide (x.2.epoch = e)) || s.slv.posted.contains e ||
    (s.slv.owed.any fun x => decide (x.2.epoch = e)) ||
    (s.kvp.log.any fun m => decide (m.epoch = e)) ||
    (s.rly.lanes.any fun l => l.2.dq.any (fun q => q.2.any fun t => decide (t.epoch = e)) ||
      l.2.run.any fun r => r.taken.any fun x => x.2.any fun t => decide (t.2.epoch = e)) ||
    (s.rly.batons.any fun b => decide (b.2.state = 3 ∧ u16 (s.readMem b.2.addr 8) 4 = e.toNat)) ||
    (s.hl.posts.any fun b => b.2.any fun x => decide (56 ≤ x.ring ∧ u16 x.data 4 = e.toNat)) ||
    (s.act.intake.any fun x => decide (u16 x.data 4 = e.toNat)) || (s.act.notices.any fun x => decide (x.2.1 = e)) ||
    s.act.entries.any fun x => x.bind.any fun b => decide (b.epoch = e)

/-- The epoch of a release: SEQ 0 when nothing in it is placed on predicted motion; otherwise the frame's next SEQ, or none while R174
makes it wait, an engine still holds the earlier use of that SEQ (01_line.md R42), or run-ahead is off. -/
def State.nextEpoch (s : State) (f : Nat) (pred : Bool) : Option Epoch :=
  if !pred then some (mkEpoch f 0)
  else
    let p := s.pf f
    let q := nextSeq p.lastSeq
    if !s.runAhead f || decide (s.maxBands f ≤ p.outst.length) ||
        (p.noticed.any fun y => decide (y.1 = q ∧ s.now < y.2 + 1000 * msTicks)) || s.epochHeld (mkEpoch f q) then none
    else some (mkEpoch f q)

/-! ### Samples (R163 to R169, R186, R187) -/

/-- A sample read from stream `n` goes; a marker that preceded it counts for the next sample placed (R172). Log 72 (DEDUCED). -/
def State.gapOn (s : State) (n : Nat) (x : Sample) : State :=
  if !x.gap then s
  else
    s.modPs n fun p =>
      match p.waiting with
      | y :: t => { p with waiting := { y with gap := true } :: t }
      | [] => { p with gapNext := true }

/-- Waiting samples that go, from a list: a marker that preceded one of them counts for the next that stays; the samples that stay, and
whether a marker is left over (R172). -/
def dropGaps (go : Sample → Bool) : Bool → List Sample → List Sample × Bool
  | m, [] => ([], m)
  | m, x :: t =>
    if go x then dropGaps go (m || x.gap) t
    else
      let (l, b) := dropGaps go false t
      ({ x with gap := x.gap || m } :: l, b)

/-- Waiting samples of stream `n` go, counted LATE. -/
def State.dropWaiting (s : State) (n : Nat) (go : Sample → Bool) : State :=
  eachOf ((s.ps n).waiting.filter go) (fun _ s => s.panLate n) (s.modPs n fun p =>
    let (l, b) := dropGaps go false p.waiting
    { p with waiting := l, gapNext := p.gapNext || b })

/-- What the Pan does with a record it takes from the slot of an enabled stream of an enabled frame (R163, R165, R187); none while the
store has no room for it. -/
def State.panTake (s : State) (n f : Nat) (b : List Byte) : Option State :=
  let r := recOf b
  let x : Sample := {
    id := s.pan.sampleNo, slot := n, raw := 0, source := r, gap := (s.ps n).gapNext, unplaced := !projects r, first := r.time }
  let late : Bool := (s.pf f).absent && projects r &&
    match s.project (s.bankFor f (s.pf f).next) x with
    | some y => !s.confirmable f y || (s.motion f).tconf.isNone
    | none => false
  if projects r && !hasPoint r then some (s.panBadPt n 1)
  else if late then some (s.panLate n)
  else
    (s.storePut b).map fun (o, s1) =>
      let y := { x with raw := o, bands := if x.unplaced then (s.pf f).next.toList else [] }
      let s2 := (s1.modPan fun p => { p with sampleNo := p.sampleNo + 1 }).modPs n fun p => { p with gapNext := p.gapNext && x.unplaced }
      if x.unplaced then s2.modPf f fun p => { p with samples := p.samples ++ [{ y with gap := false }] }
      else s2.modPs n fun p => { p with waiting := p.waiting ++ [y] }

/-- The Pan takes what stands at the head of a slot's FIFO: a marker, a remnant or a record. It takes none for a stream whose storage R171
holds, and discards what no enabled stream and frame wants (R112, R163, R171, R189). Log 72 (DEDUCED). -/
def State.panRead (s : State) (n : Nat) : State :=
  let f := s.panStreamCfg_FRAME n
  let live := s.panStreamCfg_EN n && s.panFrameCfg_EN f && !s.flt.safe
  if !s.panCtrl_EN || !s.iocSlotCfg_EN n || s.iocSlotCfg_CONSUMER n then s
  else if live && (decide (s.storeFree < 32768) || decide (s.maxBands f ≤ (s.pf f).held)) then s
  else
    match s.slotTake n with
    | none => s
    | some (what, s1) =>
      match what with
      | .remnant e => if e.startsRec && decide (bits e.d.toNat 63 48 < 2) then s1.raiseU 0x1A 0x58 0xFF e.d.toNat else s1
      | .marker _ => if live then s1.modPs n fun p => { p with gapNext := true } else s1
      | .record b => if live then (s1.panTake n f b).getD s else s1

/-- PAN_SAMPLE_READ: the Pan reads a slot (R163). -/
def execPanSampleRead (n : Nat) (s : State) : Host.Outcome State Fault Refusal := .next (s.panRead n)

/-- A projected sample of frame `f` with its row positions; none while P(t) does not exist for one (R167). -/
def State.placed (s : State) (f : Nat) (x : Sample) : Option Sample :=
  (s.rowPos f x).map fun l => { x with pos := l, pred := !s.confirmable f x }

/-- What has become of a sample that is to be placed: its entry is not VALID, a position of it can never be confirmed, it waits for
motion, or it is placed (R165, R167). -/
inductive Lead where
  | invalid
  | lost
  | waits
  | placed (x : Sample)
  deriving DecidableEq, Repr

/-- A sample of frame `f` is placed with a bank. -/
def State.leadBy (s : State) (f bank : Nat) (w : Sample) : Lead :=
  match s.project bank w with
  | none => .invalid
  | some a =>
    if s.rowLost f a then .lost
    else
      match s.placed f a with
      | none => .waits
      | some y => .placed y

/-- The first band, not yet released, that a placed sample joins; the frame's next band for one with no valid point. -/
def State.leadBand (s : State) (f : Nat) (y : Sample) : BitVec 32 :=
  let k0 := (s.pf f).next.getD 0
  (lowest y.coords).elim k0 fun c => k0 + BitVec.ofInt 32 (max 0 (s.bandOf f k0 c))

/-- A sample of frame `f` is placed with the bank that is active for the first band it joins (R178). Log 73 (DEDUCED). -/
def State.leadOf (s : State) (f : Nat) (w : Sample) : Lead :=
  let b := s.bankFor f (s.pf f).next
  match s.leadBy f b w with
  | .placed y => if s.bankFor f (some (s.leadBand f y)) = b then .placed y else s.leadBy f (1 - b) w
  | .invalid =>
    match s.leadBy f (1 - b) w with
    | .placed y => if s.bankFor f (some (s.leadBand f y)) = b then .invalid else .placed y
    | .waits => if (s.pf f).begun.any fun x => decide (x.2.1 ≠ s.bankNow) then .waits else .invalid
    | _ => .invalid
  | r => r

/-- SAMPLE_PLACE's work on the oldest waiting sample of a stream (R165 to R168, R183). Log 69 (DEDUCED), 72 (DEDUCED). -/
def State.panPlace (s : State) (n : Nat) : State :=
  let f := s.panStreamCfg_FRAME n
  match (s.ps n).waiting with
  | [] => s
  | w :: rest =>
    let s0 := s.modPs n fun p => { p with waiting := rest }
    match s.leadOf f w with
    | .invalid => ((s0.panBadPt n 1).gapOn n w).panSweep
    | .lost => ((s0.panLate n).gapOn n w).panSweep
    | .waits => s
    | .placed y =>
      let s1 := s0.panBadPt n (y.pts.filter fun p => p.invalid).length
      match lowest y.coords with
      | none => (s1.gapOn n w).panSweep
      | some lo =>
        let first := (s1.pf f).next.getD (BitVec.ofInt 32 (wpSub lo (s1.bandStart f 0) / s1.bandLen f))
        let s2 := if (s1.pf f).next.isSome then s1
          else s1.modPf f fun p => { p with
            next := some first, samples := p.samples.map fun z => if z.unplaced then { z with bands := [first] } else z }
        let s3 := s2.modPs n fun p => { p with wm := some lo, last := y.id }
        let joined := s3.joins f first y
        if joined = [] then ((s3.panLate n).gapOn n w).panSweep
        else ((s3.beginBands f joined).modPf f fun p => { p with samples := p.samples ++ [{ y with bands := joined }] }).panMark f

/-- SAMPLE_PLACE: the oldest sample of a stream that waits is placed, once it can be (R167). -/
def execSamplePlace (stream : Nat) (s : State) : Host.Outcome State Fault Refusal :=
  .next (if s.panFrameCfg_EN (s.panStreamCfg_FRAME stream) then s.panPlace stream else s)

/-- A sample placed on predicted motion is placed afresh on confirmed motion; its membership in bands not yet released follows (R167,
R169). -/
def State.refresh (s : State) (f : Nat) (x : Sample) : Sample :=
  if x.unplaced || !x.pred || !s.confirmable f x then x
  else
    match s.rowPos f x with
    | none => x
    | some l =>
      let y := { x with pos := l, pred := false, written := none }
      let old := x.bands.filter fun k => !(s.pf f).unreleased k
      { y with bands := old ++ s.joins f ((s.pf f).next.getD 0) y }

/-- Samples placed afresh as far as motion confirms them; one that now belongs to no band not yet released goes, counted LATE when no
released band holds it. -/
def State.refreshAll (s : State) (f : Nat) (want : Sample → Bool) : State :=
  let l := (s.pf f).samples
  let k0 := s.pf f
  let new := l.map fun x => if want x then s.refresh f x else x
  let s1 := s.modPf f fun p => { p with samples := new.filter fun x => x.unplaced || x.bands.any k0.unreleased }
  let s2 := (eachOf (new.filter fun x => !x.unplaced && decide (x.bands = [])) (fun x s => s.panLate x.slot) s1).beginBands f
    ((new.filter fun x => !x.unplaced).flatMap fun x => x.bands.filter k0.unreleased)
  eachOf ((l.zip new).filter fun x => x.1.pred && !x.2.pred) (fun x s =>
    if (s.ps x.2.slot).last = x.2.id then s.modPs x.2.slot fun p => { p with wm := lowest x.2.coords } else s) s2

/-- SAMPLE_REPLACE: T_conf has reached the row times of a stream's oldest sample on predicted motion: it is placed afresh, and so are the
stream's members of releases (R169). Log 75 (DEDUCED). -/
def execSampleReplace (stream : Nat) (s0 : State) : Host.Outcome State Fault Refusal :=
  .next <|
    let f := s0.panStreamCfg_FRAME stream
    let s := s0.freshenAll f fun x => decide (x.slot = stream)
    match (s.pf f).samples.find? fun x => decide (x.slot = stream) && x.pred && s.confirmable f x with
    | none => s
    | some x => (s.refreshAll f fun y => decide (y.id = x.id)).panSweep

/-! ### Releases (R168, R170, R176, R187) -/

/-- The enabled streams of a frame. -/
def State.frameStreams (s : State) (f : Nat) : List Nat :=
  (upTo 48).filter fun n => s.panStreamCfg_EN n && decide (s.panStreamCfg_FRAME n = f)

/-- A stream has passed the end of band `k`. -/
def State.passed (s : State) (f n : Nat) (k : BitVec 32) : Bool :=
  ((s.ps n).wm).any fun w => decide (0 ≤ wpSub w (s.bandEndPos f k))

/-- A stream has used up its wait since the next band fell due: found at the tick after, for an arrival at the instant itself wins
(R168, R184). Log 159 (DEDUCED). -/
def State.waited (s : State) (f n : Nat) : Bool :=
  (s.panDue f).any fun t => decide (stallEnd t (s.panStreamWait_US n * usTicks) ≤ s.now)

/-- Waiting samples of a stream are placed, as many as can be. -/
def State.placeAll (s : State) (n : Nat) : Nat → State
  | 0 => s
  | k + 1 =>
    let t := s.panPlace n
    if (t.ps n).waiting.length < (s.ps n).waiting.length then t.placeAll n k else s

/-- What stands in a stream's slot is read, at most `k` pieces of it. -/
def State.readAll (s : State) (n : Nat) : Nat → State
  | 0 => s
  | k + 1 =>
    let t := s.panRead n
    if (t.slot n).fifo ≠ (s.slot n).fifo then t.readAll n k else s

/-- The samples of a stream that have arrived are read and placed as far as they can be, before the stream forfeits a band (R184). -/
def State.takeIn (s : State) (n : Nat) : State :=
  let s1 := s.readAll n (s.slotPieces n)
  s1.placeAll n (s1.ps n).waiting.length

/-- A stream forfeits the next band of its frame: noted and counted (R168). -/
def State.forfeitOne (s : State) (f n : Nat) : State :=
  (s.modPf f fun p => { p with forfeit := putBits p.forfeit n n 1 }).modPs n fun p => { p with forfeits := satAdd 65535 p.forfeits 1 }

/-- A stream forfeits the next band of its frame, unless it is absent, has passed the band, or forfeited it before; a sample that has
arrived is placed first (R168, R184). -/
def State.tryForfeit (s : State) (f n : Nat) : State :=
  let s1 := s.takeIn n
  match (s1.pf f).next with
  | none => s1
  | some k =>
    if (s1.slot n).absent || s1.passed f n k || bit (s1.pf f).forfeit n || !s1.waited f n then s1 else s1.forfeitOne f n

/-- STREAM_FORFEIT: a stream's wait limit since the due instant of the frame's next band runs out (R168). -/
def execStreamForfeit (f stream : Nat) (s : State) : Host.Outcome State Fault Refusal :=
  .next <|
    match s.panDue f with
    | some due =>
      if s.flt.safe || !(s.frameStreams f).contains stream || (s.slot stream).absent || bit (s.pf f).forfeit stream then s
      else
        (((s.modPf f fun p => { p with dues := if p.dues = [] then [due] else p.dues }).waitUntil
          (stallEnd due (s.panStreamWait_US stream * usTicks))).panMark f).tryForfeit f stream
    | none => s

/-- A set of streams as bits. -/
def maskOf (l : List Nat) : Nat := l.foldl (fun m n => m ||| 2 ^ n) 0

/-- The next band of a frame is released with the members, epoch and bits given (R168, R170); none while the store has no room. -/
def State.releaseBand (s : State) (f : Nat) (k : BitVec 32) (epoch : Epoch) (absent forfeit : Nat) (mabsent : Bool) : Option State :=
  let p := s.pf f
  let s0 := s.changeOver f k
  let h : RelHead := {
    frame := f, k := k, epoch := epoch, expect := maskOf (s.frameStreams f), absent := absent, forfeit := forfeit, gap := p.gapBits
    bank := s.bankFor f (some k), resume := p.resume, mabsent := mabsent, rerel := false, replaces := 0, overfull := false }
  (s0.writeRelease h (p.samples.filter fun x => x.bands.contains k)).map fun (l, s1) =>
    ((s1.modPf f fun p =>
      let next := k + 1
      { p with
        next := some next
        forfeit := 0
        dues := p.dues.drop 1
        gapBits := 0
        resume := false
        begun := p.begun.filter fun x => decide (0 ≤ ixSub x.1 next)
        samples := (p.samples.map fun x => (l.find? fun y => decide (y.id = x.id)).getD x).filter fun x =>
          x.bands.any fun b => decide (0 ≤ ixSub b next) }).panMark f).panSweep

/-- The release of the next band of a frame whose motion is present, once the conditions of R168 hold. Log 70 (DEDUCED). -/
def State.releaseNext (s : State) (f : Nat) : State :=
  match (s.pf f).next with
  | none => s
  | some k =>
    let streams := s.frameStreams f
    let gone := streams.filter fun n => (s.slot n).absent
    let forf := streams.filter fun n => bit (s.pf f).forfeit n
    if !(streams.all fun n => (s.slot n).absent || s.passed f n k || bit (s.pf f).forfeit n) then s
    else
      let s1 := s.refreshAll f fun _ => true
      let pred := (s1.pf f).samples.any fun x => x.bands.contains k && x.pred
      match s1.nextEpoch f pred with
      | none => s1
      | some e => (s1.releaseBand f k e (maskOf gone) (maskOf forf) false).getD s1

/-- A stream no longer holds the next band of its frame back: it is absent, has passed the band, or has forfeited it (R168). -/
def State.streamDone (s : State) (f n : Nat) : Bool :=
  (s.slot n).absent || bit (s.pf f).forfeit n || ((s.pf f).next).any fun k => s.passed f n k

/-- BAND_RELEASE while the frame's motion is present: nothing while a re-release of the frame is owed (R171, R176); streams whose wait is
over forfeit first. -/
def State.tryRelease (s : State) (f : Nat) : State :=
  if (s.pf f).releases.any fun r => r.again then s
  else
    let s0 := s.panMark f
    (eachOf ((s0.frameStreams f).filter fun n => s0.waited f n && !s0.streamDone f n) (fun n s => s.tryForfeit f n) s0).releaseNext f

/-- One of the releases that an absence still owes: final, with MABSENT (R187). -/
def State.drainOne (s : State) (f : Nat) : Option State :=
  match (s.pf f).drain, (s.pf f).next with
  | some hi, some k =>
    if ixSub hi k < 0 then some (s.modPf f fun p => { p with drain := none })
    else s.releaseBand f k (mkEpoch f 0) (maskOf ((s.frameStreams f).filter fun n => (s.slot n).absent)) (s.pf f).forfeit true
  | _, _ => none

/-- A sample of a re-release leaves it: under MABSENT one that is not confirmable (R187), and one that lies before the motion history
and was never placed afresh (R167, R583). -/
def State.leaves (s : State) (f : Nat) (mabsent : Bool) (x : Sample) : Bool :=
  !x.unplaced && x.fresh.isNone && ((mabsent && !s.confirmable f x) || (x.pred && s.rowLost f x))

/-- The samples of a re-release, placed again (R169, R176), and those that leave it; none while one cannot be placed. One still beyond
T_conf is predicted anew. Log 187 (DEDUCED). -/
def State.againSamples (s : State) (f : Nat) (r : Release) : Option (List Sample × List Sample) :=
  let place (x : Sample) : Option Sample :=
    if x.unplaced || !x.pred then some { x with written := none }
    else
      match x.fresh with
      | some l => some { x with pos := l, pred := false, written := none }
      | none => (s.rowPos f x).map fun l => { x with pos := l, pred := !s.confirmable f x, written := none }
  ((r.samples.filter fun x => !s.leaves f r.mabsent x).mapM place).map fun l => (l, r.samples.filter (s.leaves f r.mabsent))

/-- The release of the lowest band that waits for its re-release (R176). -/
def nextAgain : List Release → Option Release
  | [] => none
  | r :: t =>
    match nextAgain t with
    | none => if r.again then some r else none
    | some q => if r.again && decide (ixSub r.k q.k ≤ 0) then some r else some q

/-- The first re-release that a frame owes; none while it must wait (R174, R176). -/
def State.reRelease (s : State) (f : Nat) : Option State :=
  match nextAgain (s.pf f).releases with
  | none => none
  | some r =>
    (s.againSamples f r).bind fun (l, late) =>
      (s.nextEpoch f (l.any fun x => x.pred)).bind fun e =>
        let h : RelHead := {
          frame := f, k := r.k, epoch := e, expect := r.expect, absent := r.absent, forfeit := r.forfeit, gap := r.gap, bank := r.bank
          resume := r.resume, mabsent := r.mabsent, rerel := true, replaces := r.epoch, overfull := r.overfull }
        (s.writeRelease h l).map fun (_, s1) =>
          (eachOf late (fun x s => s.panLate x.slot) (s1.modPf f fun p => { p with
            releases := modFirst (fun q => q.again && decide (q.off = r.off)) (fun q => { q with again := false }) p.releases })).panSweep

/-- What an absent frame still owes is done as far as the store has room: re-releases first, then releases (R187). -/
def State.panDrain (s : State) (f : Nat) : Nat → State
  | 0 => s
  | n + 1 =>
    if (s.pf f).releases.any fun r => r.again then (s.reRelease f).elim s fun t => t.panDrain f n
    else (s.drainOne f).elim s fun t => t.panDrain f n

/-- RE_RELEASE: a band that a RECALL voided is placed again and released again (R176). -/
def execReRelease (f : Nat) (s : State) : Host.Outcome State Fault Refusal := .next ((s.reRelease f).getD s)

/-- The next band of a frame is released, once it may be; on a frame whose motion is absent, one of those R187 still owes (R168, R187);
none in the safe state (14_faults.md R515). -/
def State.bandRelease (s : State) (f : Nat) : State :=
  if !s.panCtrl_EN || !s.panFrameCfg_EN f || s.flt.safe then s
  else if (s.pf f).drain.isSome then
    (if (s.pf f).releases.any fun r => r.again then s else (s.drainOne f).getD s)
  else if (s.pf f).absent then s
  else s.tryRelease f

/-- The Pan's part when a frame's motion goes absent (R187): a RECALL with re-releases of confirmable samples alone, samples beyond
T_conf discarded, and every band up to the highest that holds a placed sample released final with MABSENT. -/
def State.panAbsent (s : State) (f : Nat) : State :=
  if !s.panFrameCfg_EN f then s.modPf f fun p => { p with absent := true }
  else
    let s0 := eachOf (s.frameStreams f) (fun n s => s.placeAll n (s.ps n).waiting.length) s
    let sr : State := match (s0.pf f).outst.head? with
      | some e => s0.panRecall f e true true
      | none => s0
    let s1 := sr.modPf f fun p => { p with releases := p.releases.map fun r => { r with mabsent := r.mabsent || r.again } }
    let s2 := (s1.freshenAll f fun _ => true).refreshAll f fun _ => true
    let late := (s2.pf f).samples.filter fun x => !x.unplaced && !s2.confirmable f x
    let s3 := eachOf late (fun x s => s.panLate x.slot) (s2.modPf f fun p => { p with
      samples := p.samples.filter fun x => x.unplaced || s2.confirmable f x })
    let s4 := eachOf (s.frameStreams f) (fun n s =>
      s.dropWaiting n fun x =>
        match s.project (s.bankFor f (s.pf f).next) x with
        | some y => !s.confirmable f y
        | none => false) s3
    let hi := ((s4.pf f).samples.flatMap fun x => if x.unplaced then [] else x.bands).foldl (fun h k =>
      match h with
      | some j => if 0 < ixSub k j then some k else h
      | none => some k) (none : Option (BitVec 32))
    let s5 := (s4.modPf f fun p => { p with absent := true, drain := hi }).panSweep
    let todo := (s5.pf f).releases.length + (hi.elim 0 fun h => ((s5.pf f).next).elim 0 fun k => (ixSub h k).toNat + 2)
    s5.panDrain f todo

/-- The Pan's part when the motion of a frame is present again: the next band carries RESUME (R188). -/
def State.panPresent (s : State) (f : Nat) : State := s.modPf f fun p => { p with absent := false, resume := true }

/-! ### The Sluice and credits (R170, R171) -/

/-- SLUICE_TOKEN_PLACE: the oldest token or notice enters the Relay's band queue, which holds 64 (R170). -/
def execSluiceTokenPlace (s : State) : Host.Outcome State Fault Refusal :=
  .next <|
    match s.pan.sluice with
    | [] => s
    | t :: rest => if 64 ≤ s.rly.bandq.length then s else (s.modPan fun p => { p with sluice := rest }).placeToken t

/-- BAND_DONE_CREDIT: a credit returns; storage that nothing needs is freed (R171). -/
def execBandDoneCredit (s : State) : Host.Outcome State Fault Refusal :=
  .next <|
    match s.pan.credits with
    | [] => s
    | o :: rest =>
      let mark (p : PanFrame) : PanFrame :=
        { p with releases := p.releases.map fun r => if r.off = o ∧ !r.credit then { r with credit := true } else r }
      (s.modPan fun p => { p with credits := rest, frames := p.frames.map fun e => (e.1, mark e.2) }).panSweep

/-! ### Calibration (R178, R190) -/

/-- Bytes of the shadow bank are written: an entry with an uncorrectable error is valid again once all its 128 bytes are (R190). -/
def ueWrite (bank lo n : Nat) (l : List (Nat × Nat × List Nat)) : List (Nat × Nat × List Nat) :=
  (l.map fun e =>
    if e.1 = bank then
      (e.1, e.2.1, (e.2.2 ++ ((upTo 128).filter fun k => decide (lo ≤ 128 * e.2.1 + k ∧ 128 * e.2.1 + k < lo + n))).eraseDups)
    else e).filter fun e => decide (e.2.2.length < 128)

/-- A PAN_SWAP stands before a PAN_LOAD aimed at the bank, or was dispatched from another ring at the same instant: the load waits for it
(R184). Log 175 (DEDUCED). -/
def State.swapBefore (s : State) (o : Op) : Bool :=
  let same (x : Op) : Bool := decide (x.ring = o.ring ∧ x.didx = o.didx)
  ((s.hl.ops.takeWhile fun x => !same x).any fun x => decide (x.code = 0x11)) ||
    s.hl.ops.any fun x => decide (x.code = 0x11 ∧ x.sentAt = o.sentAt ∧ x.ring ≠ o.ring)

/-- PAN_LOAD: bytes of DRAM are copied into the shadow bank, once no swap is pending, or into the lookup area (R178). -/
def execPanLoad (s : State) : Host.Outcome State Fault Refusal :=
  .next <|
    match s.nextOp 0x10 fun _ => true with
    | none => s
    | some o =>
      let lut := bit (o.inlNat 16 1) 0
      if !lut && (s.pan.swapPend || s.swapBefore o) then s
      else
        let src := o.inlNat 0 8 / 8 * 8
        let size := if lut then 0x10000 * s.panCtrl_LUT_UNITS else 0x10000
        let dest := if lut then o.inlNat 8 4 / 8 * 8 else o.inlNat 8 4 / 128 * 128
        let n := min (o.inlNat 12 4) (min (size - dest) (dramSize - src))
        let base := if lut then 0x20000 else 0x10000 * (1 - s.pan.bank)
        let s1 := s.jobRun o.ring o.didx n
        let s2 := s1.writeMem (panBase + base + dest) (s1.readMem src n)
        let s3 := if lut then s2 else s2.modPan fun p => { p with ue := ueWrite (1 - p.bank) dest n p.ue }
        (s3.jobValid o.ring o.didx n).complete o.ring o.didx 0 0 (by4 n)

/-- A frame has placed no sample since it was enabled, or is disabled: a swap takes effect for it at once (R178). -/
def State.swapsNow (s : State) (f : Nat) : Bool := !s.panFrameCfg_EN f || (s.pf f).next.isNone || s.flt.safe

/-- The first number from `k` on that is not among some. -/
def firstFree (l : List (BitVec 32)) : Nat → BitVec 32 → BitVec 32
  | 0, k => k
  | n + 1, k => if l.contains k then firstFree l n (k + 1) else k

/-- The first band that a frame has not begun to assemble; one that begins at this very instant has not (R178, R184). -/
def State.firstNew (s : State) (f : Nat) : BitVec 32 :=
  let l := ((s.pf f).begun.filter fun x => decide (x.2.2 ≠ s.now)).map fun x => x.1
  firstFree l l.length ((s.pf f).next.getD 0)

/-- A sample that joined a band at the instant of a PAN_SWAP is placed again, with the bank that the band uses now (R184). -/
def State.placeAgain (s : State) (f : Nat) (x : Sample) : State :=
  let s0 := s.modPf f fun p => { p with samples := p.samples.filter fun y => decide (y.id ≠ x.id) }
  match s0.leadBy f s.bankNow x with
  | .placed y =>
    let joined := s0.joins f ((s.pf f).next.getD 0) y
    if joined = [] then (s0.panLate x.slot).panSweep
    else (s0.beginBands f joined).modPf f fun p => { p with samples := p.samples ++ [{ y with bands := joined }] }
  | .waits => s0.modPs x.slot fun p => { p with waiting := x :: p.waiting }
  | .lost => (s0.panLate x.slot).panSweep
  | .invalid => (s0.panBadPt x.slot 1).panSweep

/-- The frame changes over at its first band not begun; bands that begin at the instant of the swap begin with the new bank (R178,
R184). -/
def State.swapFrame (s : State) (f : Nat) : State :=
  let young := ((s.pf f).begun.filter fun x => decide (x.2.2 = s.now)).map fun x => x.1
  let moved := (s.pf f).samples.filter fun x => !x.unplaced && x.bands.head?.any fun k => young.contains k
  eachOf moved (fun x s => s.placeAgain f x) (s.modPf f fun p => { p with
    swapAt := some (s.firstNew f), begun := p.begun.filter fun x => decide (x.2.2 ≠ s.now) })

/-- PAN_SWAP: the shadow bank is to become active, frame by frame (R178). Log 76 (DEDUCED). -/
def execPanSwap (s : State) : Host.Outcome State Fault Refusal :=
  .next <|
    match s.nextOp 0x11 fun _ => true with
    | none => s
    | some o =>
      if s.pan.swapPend then s
      else
        let s1 := (s.jobRun o.ring o.didx 0).modPan fun p => { p with swapPend := true }
        eachOf (upTo 8) (fun f s =>
          if s.swapsNow f then s.modPf f fun p => { p with bank := 1 - s.pan.bank, swapAt := none }
          else s.swapFrame f) s1

/-- PAN_SWAP_COPY_DONE: every frame has changed over: the new active bank is copied into the new shadow bank, and PAN_SWAP completes
(R178). -/
def execPanSwapCopyDone (s : State) : Host.Outcome State Fault Refusal :=
  .next <|
    if !s.pan.swapPend || !((upTo 8).all fun f => s.changedOver f) then s
    else
      let old := s.pan.bank
      let new := 1 - old
      let s1 := s.writeMem (panBase + 0x10000 * old) (s.readMem (panBase + 0x10000 * new) 0x10000)
      let s2 := s1.modPan fun p => { p with
        bank := new, swapPend := false, ue := p.ue.filter fun e => decide (e.1 ≠ old)
        frames := p.frames.map fun e => (e.1, { e.2 with swapAt := none }) }
      match s.hl.ops.find? fun o => decide (o.code = 0x11) && o.taken with
      | none => s2
      | some o => s2.complete o.ring o.didx 0 0 (by1 new)

/-- Samples of unreleased bands that an uncorrectable error concerns go; the next band released carries GAP for their streams (R190). -/
def State.panLose (s : State) (hit : Sample → Bool) : State :=
  eachOf (upTo 8) (fun f s =>
    let gone := (s.pf f).samples.filter hit
    s.modPf f fun p => { p with
      samples := p.samples.filter fun x => !hit x
      gapBits := gone.foldl (fun m x => m ||| 2 ^ x.slot) p.gapBits }) s

/-- A release whose records an uncorrectable error hits is discarded while its token stands in the Sluice or in the band queue, and the
next band of its frame carries GAP for its streams (R190). Log 76 (DEDUCED). -/
def State.panSpoil (s : State) (hit : Nat → Bool) : State :=
  let bad (r : Release) : Bool := r.holds && (hit r.off || r.samples.any fun x => x.written.any fun w => hit w.1)
  let offs := s.pan.frames.flatMap fun e => (e.2.releases.filter bad).map fun r => r.off
  let isTok (t : BandTok) : Bool := match t with
    | .band _ _ _ o _ => offs.contains o
    | _ => false
  let held := s.pan.sluice.filterMap fun t => match t with
    | .band _ _ _ o _ => if offs.contains o then some o else none
    | _ => none
  let mark (p : PanFrame) : PanFrame :=
    { p with
      releases := p.releases.map fun r => if held.contains r.off then { r with credit := true } else r
      gapBits := (p.releases.filter bad).foldl (fun m r => r.samples.foldl (fun m x => m ||| 2 ^ x.slot) m) p.gapBits }
  (s.modPan fun p => { p with
    sluice := p.sluice.filter fun t => !isTok t
    frames := p.frames.map fun e => (e.1, mark e.2) }).modRly fun r => { r with
      bandq := r.bandq.map fun x => if isTok x.tok then { x with isVoid := true } else x }

/-- PAN_SRAM_UE: an error at an offset of the Pan SRAM, corrected or not. By an uncorrectable one a transform entry becomes invalid until
it is written again, and samples and bands whose entry, lookup or records it concerns are discarded; raw records are checked by the engines
that read them (R190). Log 76 (DEDUCED), 167 (DESIGN CHOICE). -/
def execPanSramUe (dt : Nat) (w : EccErr) (s : State) : Host.Outcome State Fault Refusal :=
  .next <|
    let s0 := s.pass dt
    let arg := (panBase + w.at_) / 256
    let s1 := s0.raiseU 0x19 0x58 0xFF arg
    let bank := w.at_ / 0x10000
    let e := w.at_ / 128 % 512
    let within (o : Nat) : Bool := s1.pan.blocks.any fun b => decide (b.1 = o ∧ b.1 ≤ w.at_ ∧ w.at_ < b.1 + b.2)
    if !w.ue then s0.raiseU 0x18 0x58 0xFF arg
    else if w.at_ < 0x20000 then
      ((s1.modPan fun p => { p with
          ue := if p.ue.any fun x => decide (x.1 = bank ∧ x.2.1 = e) then
              p.ue.map fun x => if x.1 = bank ∧ x.2.1 = e then (bank, e, []) else x
            else p.ue ++ [(bank, e, [])] }).panLose fun x => !x.unplaced && decide (x.bank = bank ∧ x.xform = e)).panSweep
    else if w.at_ < s1.storeBase then
      (s1.panLose fun x =>
        let t := s1.xformAt x.bank x.xform
        !x.unplaced && decide (t.lutLen ≠ 0 ∧ 0x20000 + t.lutOff ≤ w.at_ ∧ w.at_ < 0x20000 + t.lutOff + 8 * t.lutLen)).panSweep
    else if s0.pan.frames.any fun p =>
        (p.2.releases.any fun r => within r.off || r.samples.any fun x => x.written.any fun v => within v.1) ||
          p.2.samples.any fun x => x.written.any fun v => within v.1 then
      ((s1.panLose fun x => x.written.any fun v => within v.1).panSpoil within).panSweep
    else s0

/-! ### Enables (R166, R168, R189, R191) -/

/-- PAN.FRAME.f.CFG.EN goes to 1: band formation starts afresh; SEQ goes on (R166, R189). -/
def State.panFrameOn (s : State) (f : Nat) : State :=
  s.modPf f fun p => { p with
    next := none, samples := [], forfeit := 0, dues := [], resume := false, drain := none, gapBits := 0, begun := []
    absent := (s.motion f).absent
    swapAt := none
    bank := if s.pan.swapPend then 1 - s.pan.bank else s.pan.bank }

/-- PAN.FRAME.f.CFG.EN goes to 0 (R189): a RECALL of the oldest outstanding epoch with no re-release, unreleased bands discarded, and
samples that belong to no released band counted LATE. -/
def State.panFrameOff (s : State) (f : Nat) : State :=
  let s1 := match (s.pf f).outst.head? with
    | some e => s.panRecall f e false false
    | none => s
  let kept (x : Sample) : Bool := x.bands.any fun k => !(s1.pf f).unreleased k
  let gone := ((s1.pf f).samples.filter fun x => !kept x).map (fun x => x.slot) ++
    (s1.frameStreams f).flatMap fun n => (s1.ps n).waiting.map fun _ => n
  let s2 := eachOf gone (fun n s => s.panLate n) s1
  let s3 := eachOf (s1.frameStreams f) (fun n s => s.modPs n fun p => { p with waiting := [] }) s2
  (s3.modPf f fun p => { p with
    next := none, samples := [], forfeit := 0, dues := [], drain := none, gapBits := 0, swapAt := none, begun := []
    releases := p.releases.map fun r => { r with again := false }
    bank := if s.pan.swapPend then 1 - s.pan.bank else p.bank }).panSweep

/-- PAN.STREAM.n.CFG.EN goes to 1: the stream has no watermark until it places a sample (R168). -/
def State.panStreamOn (s : State) (n : Nat) : State := s.modPs n fun p => { p with wm := none, gapNext := false }

/-- PAN.STREAM.n.CFG.EN goes to 0: samples read and not placed go. Log 75 (DEDUCED). -/
def State.panStreamOff (s : State) (n : Nat) : State := (s.modPs n fun p => { p with waiting := [] }).panSweep

end Sys2Proof.Machine
end

