-- ==== Sys2Proof/Machine/Motion.lean ====
section
/-! DEFINITION. The Motion Estimator (04_motion_pan.md R153 to R158, R187 to R189). -/

namespace Sys2Proof.Machine

open Sys2Proof

/-! ### Records taken from the slots (R104, R118, R119, R153) -/

/-- The edges of an ENC record: stamp, and the count after each (R118). -/
def encEdges (b : List Byte) : Nat → Nat → DT64 → BitVec 64 → List (DT64 × BitVec 64)
  | 0, _, _, _ => []
  | n + 1, o, t, c =>
    let w := u32 b o
    let t1 := t + BitVec.ofNat 64 (w % 2 ^ 30)
    let c1 := if bit w 31 then c else if bit w 30 then c + 1 else c - 1
    (t1, c1) :: encEdges b n (o + 4) t1 c1

/-- Stamps in order brought to the time after the steps that they came before (02_timekeeper.md R90). -/
def lateBy : List (Nat × Int) → List (DT64 × BitVec 64) → List (DT64 × BitVec 64)
  | _, [] => []
  | [], l => l
  | (0, _) :: late, l => lateBy late l
  | (k + 1, d) :: late, (u, c) :: l => (dtAdd u d, c) :: lateBy ((k, d) :: late) l

/-- What is left of the entries that come with stamps of the time before a step, once `n` of them came. -/
def lateLeft : Nat → List (Nat × Int) → List (Nat × Int)
  | _, [] => []
  | n, (k, d) :: late => if n < k then (k - n, d) :: late else lateLeft (n - k) late

/-- A frame takes an ENC record. COUNT0 brings the count up to date where an earlier record was lost; a batch is whole with the record
that has LAST. Log 179 (DEDUCED). -/
def Motion.takeEnc (m : Motion) (r : Rec) : Motion :=
  let c0 := BitVec.ofNat 64 (u64 r.body 0)
  { m with
    cStart := some (m.cStart.getD c0)
    count := if m.cStart.isNone then c0 else m.count
    edges := m.edges ++ (dtAdd r.time ((m.late.head?).elim 0 fun x => x.2),
      c0) :: lateBy m.late (encEdges r.body (u16 r.body 8) 16 r.time c0)
    late := if bit r.flags.toNat 1 then [] else lateLeft (u16 r.body 8) m.late
    close := if bit r.flags.toNat 1 then some (r.time + BitVec.ofNat 64 (u32 r.body 12)) else m.close }

/-- A frame takes an IMU record. -/
def Motion.takeImu (m : Motion) (r : Rec) : Motion := { m with imus := m.imus ++ [(r.time, sub r.body 8 (u8 r.body 2))] }

/-- A record of a slot goes to every enabled frame that names the slot; every other record is discarded (R153). -/
def State.motTake (s : State) (slot : Nat) (r : Rec) : State :=
  eachOf (upTo 8) (fun f s =>
    if !(s.motion f).enabled then s
    else if r.type = 3 ∧ s.motCtrl_ENC_SLOT f = slot then s.modMotion f fun m => m.takeEnc r
    else if r.type = 4 ∧ s.motCtrl_IMU_SLOT f = slot ∧ s.motCtrl_IMU_EN f then s.modMotion f fun m => m.takeImu r
    else s) s

/-- What stands in a slot whose consumer is the Motion Estimator is read. -/
def State.motDrainSlot (s : State) (slot : Nat) : Nat → State
  | 0 => s
  | n + 1 =>
    match s.slotTake slot with
    | none => s
    | some (what, s1) =>
      (match what with
        | .record b => s1.motTake slot (recOf b)
        | _ => s1).motDrainSlot slot n

/-- The Motion Estimator reads its slots. Log 63 (DEDUCED). -/
def State.motDrain (s : State) : State :=
  eachOf (upTo 48) (fun n s => if s.iocSlotCfg_EN n && s.iocSlotCfg_CONSUMER n then s.motDrainSlot n (s.slotPieces n) else s) s

/-- Device time steps: what the frame has taken from its slots goes on in the new time, and so will the entries of the batch that is
open, so that positions are unaffected (02_timekeeper.md R90). Log 179 (DEDUCED). -/
def State.motStep (s : State) (f : Nat) (shift : Int) : State :=
  let held := ((upTo 8).find? fun n => s.mpEncCfg_EN n && decide (s.mpEncCfg_SLOT n = s.motCtrl_ENC_SLOT f)).elim 0 fun n =>
    (s.enc n).edges.length
  s.modMotion f fun m =>
    let known := m.late.foldl (fun n x => n + x.1) 0
    { m with
      shift := m.shift + shift
      steps := (s.now, shift) :: m.steps
      edges := m.edges.map fun e => (dtAdd e.1 shift, e.2)
      close := m.close.map fun t => dtAdd t shift
      imus := m.imus.map fun x => (dtAdd x.1 shift, x.2)
      late := (m.late.map fun x => (x.1, x.2 + shift)) ++ [(held - known, shift)] }

/-! ### Records issued (R158) -/

/-- v in µm/s, rounded, ties away from zero, and saturated (R158). Log 180 (DESIGN CHOICE). -/
def velUm (v : BitVec 64) : Int := clampI (-2147483648) 2147483647 (rhaDiv (v.toInt * 100000) 1048576)
/-- a in µm/s², rounded, ties away from zero, and saturated (R158). Log 180 (DESIGN CHOICE). -/
def accUm (a : BitVec 64) : Int := clampI (-2147483648) 2147483647 (rhaDiv (a.toInt * 10000000000) 1048576)

/-- FRAME_STATE at `t`. POS is P(TIME) where it exists, otherwise the last position the frame can give, which is ORIGIN before the first
tick. Log 65 (DEDUCED). -/
def State.frameState (s : State) (f state cause : Nat) (t : DT64) : State :=
  let pos := (s.posAt f t).getD (s.framePos f)
  s.report s.motReport_EN s.motReport_RING
    (mkRec 0x14 (0x30 + f) (flagIf (s.tuncAt t) fTUNC) 0 t (by1 state ++ by1 cause ++ zeros 6 ++ by8i pos.toInt))

/-! ### Fusion (R155) -/

/-- The count after every edge stamped at or before t, with the edges later than it. -/
def countAt (t : DT64) : BitVec 64 → List (DT64 × BitVec 64) → BitVec 64 × List (DT64 × BitVec 64)
  | c, [] => (c, [])
  | c, (u, d) :: l => if dtGe t u then countAt t d l else (c, (u, d) :: l)

/-- The raw value of the inertial axis in a sample's bytes. -/
def State.imuRaw (s : State) (f : Nat) (b : List Byte) : Int :=
  let o := s.motImuFmt_OFFSET f
  let v := if s.motImuFmt_BE f then signed 16 (256 * u8 b o + u8 b (o + 1)) else s16 b o
  if s.motImuFmt_NEG f then -v else v

/-- The acceleration after one inertial sample is blended; one that holds no whole axis leaves it. -/
def State.blend (s : State) (f : Nat) (a : Int) (b : List Byte) : Int :=
  if b.length < s.motImuFmt_OFFSET f + 2 then a
  else
    let am := wrapS 64 (s.imuRaw f b * s.motImuScale_IMU_SCALE f) / 65536
    wrapS 64 (a + wrapS 64 (wrapS 64 (am - a) * s.motGainB_GI f) / 65536)

/-- The new p, v, a of a tick that is not the first, from those of the one before, and whether the residual was reset. Log 63 (DEDUCED). -/
def State.fuse (s : State) (f : Nat) (k : Tick) (pm : Int) : Int × Int × Int × Bool :=
  let p := k.p.toInt
  let v := k.v.toInt
  let a := k.a.toInt
  let pp := wrapS 64 (p + v + a / 2)
  let vp := wrapS 64 (v + a)
  let r := wrapS 64 (pm - pp)
  if s.motResid_UNITS f * 65536 < r.natAbs then (pm, vp, 0, true)
  else
    (wrapS 64 (pp + wrapS 64 (r * s.motGainA_GP f) / 65536), wrapS 64 (vp + wrapS 64 (r * s.motGainA_GV f) / 65536),
      wrapS 64 (a + wrapS 64 (r * s.motGainB_GA f) / 65536), false)

/-- The steps of device time since the next tick fell due (02_timekeeper.md R90). -/
def Motion.stepsAfter (m : Motion) : List (Nat × Int) := m.steps.filter fun x => decide (40000 * m.next < x.1)

/-- What brings the time in which the next tick fell due to the time now. -/
def Motion.ahead (m : Motion) : Int := m.stepsAfter.foldl (fun d x => d + x.2) 0

/-- A tick of frame `f` due at device time `t` is processed. What was taken from the slots is compared in the time now
(02_timekeeper.md R90). Log 179 (DEDUCED). -/
def State.tick (s : State) (f : Nat) (t : DT64) : State :=
  let m := s.motion f
  let u := dtAdd t m.ahead
  let (c, rest) := countAt u m.count m.edges
  let sgn : Int := if s.motCtrl_DIR f then -1 else 1
  let pm := wrapS 64 (s.motOrigin_ORIGIN f * 65536 + sgn * (c - m.cStart.getD c).toInt * s.motScale_SCALE f)
  let prev := if m.first then none else m.ticks.head?
  let (p, v, a0, reset) := match prev with
    | none => (pm, 0, 0, false)
    | some k => s.fuse f k pm
  let use := s.motCtrl_IMU_EN f && prev.isSome && !(s.slot (s.motCtrl_IMU_SLOT f)).absent
  let mine := m.imus.filter fun x => dtGe u x.1
  let a := if use then mine.foldl (fun a x => s.blend f a x.2) a0 else a0
  let k : Tick := ⟨t, BitVec.ofInt 64 p, BitVec.ofInt 64 v, BitVec.ofInt 64 a⟩
  let s1 := s.modMotion f fun m => { m with
    ticks := (k :: m.ticks).take 6400
    tconf := some t
    first := false
    next := m.next + 1
    count := c
    edges := rest
    imus := if use then m.imus.filter (fun x => !dtGe u x.1) else m.imus
    residCnt := if reset then satAdd 65535 m.residCnt 1 else m.residCnt
    resid := m.resid || reset
    tickedAt := s.now
    trail := ((s.now, k) :: m.trail).take 100000
    shift := m.ahead
    steps := m.stepsAfter
    sinceReport := m.sinceReport + 1 }
  if reset then s1.frameState f 0 2 t else s1

/-- Outputs whose expectation generator follows frame `f` by pitch and has no position yet begin at P(T_conf) (11_actuation.md R407).
Log 119 (DEDUCED). -/
def State.genStart (s : State) (f : Nat) : State :=
  eachOf (upTo 32) (fun n s =>
    if s.actExp_MODE n = 1 ∧ s.actExp_FRAME n = f ∧ (s.outp n).genPos.isNone ∧ s.outEnabled n then
      s.modOut n fun o => { o with genPos := (s.motion f).lastPos }
    else s) s

/-- The Motion Estimator reads its slots, and the next tick of frame `f` is processed once a batch that closes at or after it has been
taken (R155). The first tick after the encoder slot returned makes the frame present (R188). Log 63 (DEDUCED). -/
def State.fusionTick (s : State) (f : Nat) : State :=
  let s0 := s.motDrain
  let m := s0.motion f
  let t := s0.devAt (40000 * m.next)
  if !m.enabled || (s0.slot (s0.motCtrl_ENC_SLOT f)).absent || !(m.close.any fun c => dtGe c (dtAdd t m.ahead)) ||
      decide (s0.now < 40000 * m.next) then s0
  else
    let slow := m.slower 10
    let s1 := (s0.panMark f).tick f t
    let s2 := if m.absent then
        (((s1.modMotion f fun m => { m with absent := false }).frameState f 0 1 s1.dev).panPresent f).actPresent f
      else s1
    ((s2.gate f slow).genStart f).panMark f

/-- FUSION_TICK: the next tick of a frame is processed, once its encoder batch is in (R155). -/
def execFusionTick (f : Nat) (s : State) : Host.Outcome State Fault Refusal := .next (s.fusionTick f)

/-- The ticks of a frame that can be processed now are, at most `n` of them. -/
def State.ticksDue (s : State) (f : Nat) : Nat → State
  | 0 => s
  | n + 1 =>
    let t := s.fusionTick f
    if (t.motion f).next = (s.motion f).next then s else t.ticksDue f n

/-- The ticks that can be processed in the cycle of a release come first, so that T_conf is where they bring it (R184). -/
def State.ticked (s : State) (f : Nat) : State :=
  if s.panFrameCfg_EN f then s.ticksDue f (s.now / 40000 + 1 - (s.motion f).next) else s

/-- BAND_RELEASE: the next band of a frame is released, once it may be (R168, R187). -/
def execBandRelease (f : Nat) (s : State) : Host.Outcome State Fault Refusal := .next ((s.ticked f).bandRelease f)

/-- MOTION_REPORT: every DIV × 10 ticks a frame issues a MOTION record of its latest tick (R158). -/
def execMotionReport (f : Nat) (s : State) : Host.Outcome State Fault Refusal :=
  .next <|
    let m := s.motion f
    let n := 10 * s.motReport_DIV
    match m.ticks.head? with
    | none => s
    | some k =>
      if m.sinceReport < n then s
      else
        let s1 := s.modMotion f fun m => { m with sinceReport := m.sinceReport - n }
        if !s.motCtrl_REPORT f then s1
        else
          let imu := s.motCtrl_IMU_EN f && (s.slot (s.motCtrl_IMU_SLOT f)).absent
          let r := mkRec 0x10 (0x30 + f) (flagIf (s.tuncAt k.t) fTUNC) 0 k.t
            (by8i (k.pos k.t).toInt ++ by4i (velUm k.v) ++ by4i (accUm k.a) ++
              by1 (b2n m.absent + 2 * b2n imu + 4 * b2n m.resid) ++ zeros 7)
          (s1.modMotion f fun m => { m with resid := false }).report s.motReport_EN s.motReport_RING r

/-! ### Absence and enables (R154, R187, R189) -/

/-- Frame `f` goes absent with a CAUSE: speed 0, T_conf frozen; the Pan and the Actuation Unit follow (R187, R189, 11_actuation.md
R423). Log 64 (DEDUCED). -/
def State.motAbsent (s : State) (f cause : Nat) : State :=
  let slow := (s.motion f).slower 10
  (((((s.edgesDue f).modMotion f fun m => { m with absent := true }).frameState f 1 cause s.dev).panAbsent f).actAbsent f).gate f slow

/-- FRAME_ABSENT: the encoder slot of a frame is absent, and the frame with it (R187). -/
def execFrameAbsent (f : Nat) (s : State) : Host.Outcome State Fault Refusal :=
  .next <|
    let m := s.motion f
    if !m.enabled || m.absent || !(s.slot (s.motCtrl_ENC_SLOT f)).absent then s else s.motAbsent f 0

/-- MOT.f.CTRL.EN goes to 1: the frame's position takes ORIGIN, and its first tick is the next multiple of 10 µs (R154, R155).
Log 65 (DEDUCED). -/
def State.motOn (s : State) (f : Nat) : State :=
  let old := s.motion f
  let slow := old.slower 10
  let s1 := s.modMotion f fun _ =>
    { enabled := true, next := s.now / 40000 + 1, residCnt := old.residCnt, slowSince := old.slowSince }
  let s2 := s1.modIng fun g =>
    { g with ssp := g.ssp.map fun e => (e.1, if s.sspTrigCfg_FRAME e.1 = f then { e.2 with highPos := none } else e.2) }
  let s3 := if (s2.pf f).absent then s2.panPresent f else s2
  ((s3.frameState f 0 3 s3.dev).actPresent f).gate f slow

/-- MOT.f.CTRL.EN goes to 0: the frame is absent with CAUSE 4 (R189). -/
def State.motOff (s : State) (f : Nat) : State :=
  let s1 := if (s.motion f).absent then s.frameState f 1 4 s.dev else s.motAbsent f 4
  s1.modMotion f fun m => { m with enabled := false }

end Sys2Proof.Machine
end

