-- ==== Sys2Proof/Machine/Time.lean ====
section
/-! DEFINITION. The Timekeeper (02_timekeeper.md R59 to R99): device time, offsets, the Pacer and the states, parents, PTP and
802.1AS messages, the transparent clock, and the photo-finish units. -/

namespace Sys2Proof.Machine

open Sys2Proof

/-- SOURCE of the Timekeeper (01_line.md R39). -/
def tkSource : Nat := 0x5E

/-! ### Device time (R59 to R62, R72, R75) -/

/-- Device time with its era in 2^-16 ns (R71). -/
def nsU (total : Nat) : Int := ((total * 1000000000 + 32768) / 65536 : Nat)

/-- Device time now with its era, in 2^-16 ns. -/
def State.devU (s : State) : Int := nsU (s.tk.totalAt s.now)

/-- 2^-16 ns as DT64 units, rounded. -/
def uToDt (u : Int) : Int := rhaDiv (u * 65536) 1000000000

/-- A run of device time begins now, with an adjustment; what ran before is kept, newest first. Log 40 (DEDUCED). -/
def State.rebase (s : State) (shift : Int) (adj : Int) : State :=
  s.modTk fun k =>
    { k with
      total := wrapU 80 ((k.totalAt s.now : Int) + shift)
      phase := (k.phase + (s.now - k.baseAt) * devRate k.adj) % devDen
      baseAt := s.now
      adj := adj
      segs := ((k.baseAt, k.total, k.phase, k.adj) :: k.segs).take 32 }

/-- The interval time at which `d` more DT64 units have passed, at the rate in force. -/
def State.afterUnits (s : State) (d : Nat) : Nat :=
  let k := s.tk
  let run := k.phase + (s.now - k.baseAt) * devRate k.adj
  max s.now (k.baseAt + ((run / devDen + d) * devDen - k.phase + devRate k.adj - 1) / devRate k.adj)

/-- A time record goes to the report ring (R83, R84). -/
def State.timeRec (s : State) (type : Nat) (tunc : Bool) (body : List Byte) : State :=
  s.report s.tkReport_EN s.tkReport_RING (mkRec type tkSource (flagIf tunc fTUNC) 0 s.dev body)

/-- A bit of TK.EVENTS is set (R100). -/
def State.tkEvent (s : State) (i : Nat) : State :=
  s.modTk fun k => { k with events := putBits k.events i i 1, eventAt := Tab.set i s.now k.eventAt }

/-- A step of device time by a number of DT64 units (R75, R90): TIME_STEP, TK.EVENTS.STEP; schedules see it, positions are
unaffected, and the triggers that ports generate by device time go on from the new time (03_sensor_ports.md R125). A delay
measurement needs stamps of one device time (R71), and no stamp is adjusted afterwards: one that the step interrupts is given up. -/
def State.tkStep (s : State) (shift : Int) : State :=
  let old := s.dev
  let s1 := (((s.rebase shift s.tk.adj).tkEvent 1).modIng fun g =>
    { g with ssp := g.ssp.map fun e => (e.1, { e.2 with lastDue := none }) }).modTk fun k =>
    { k with
      pendSync := none, relaySync := none, syncDiff := none, reqT3 := none
      tuncs := (dtAdd old shift, s.tunc) :: k.tuncs
      pdelay := k.pdelay.map fun e => (e.1, { e.2 with t1 := none, wait := none, prev := none }) }
  let s2 := eachOf (upTo 8) (fun f s => s.motStep f shift) s1.motDrain
  (s2.timeRec 0x70 s2.tunc (by8 old.toNat ++ by8 s2.dev.toNat)).actStep old s2.dev

/-- ERA_WRAP: SEC passes from 0xFFFF_FFFF to 0 and the era counts up (01_line.md R32). -/
def execEraWrap (s : State) : Host.Outcome State Fault Refusal := .next (s.waitUntil (s.afterUnits (2 ^ 64 - s.dev.toNat)))

/-! ### States (R73, R74, R76 to R78) -/

/-- The receiver port: the one that RX_PORT names, or under AUTO the one on which the parent is seen (R79). Log 31 (DEDUCED). -/
def State.rxPort (s : State) : Option Nat :=
  if s.tkCtrl_SOURCE = 0 then none else if s.tkCtrl_RX_PORT < 2 then some s.tkCtrl_RX_PORT else s.tk.rx

/-- The PORT byte of a time record: the receiver port, or 0xFF (R83). Log 31 (DEDUCED). -/
def State.portByte (s : State) : Nat := s.rxPort.getD 0xFF

/-- The rail of adj and of integ (R72). -/
def State.railU (s : State) : Int := s.tkPacerLimit_PPB * 65536
/-- adj stands at the rail (R98). -/
def State.atRail (s : State) (adj : Int) : Bool := decide (adj = s.railU ∨ adj = -s.railU)

/-- TK.HOLD_UNC in 2^-16 ns at an interval time, in HOLDOVER or REFUSED (R78). -/
def Tk.unc (k : Tk) (t : Nat) : Nat := k.uncBase + (t - k.uncAt) * 65536 / 8000000

/-- The Timekeeper goes to a state, with a STATE record and its REASON (R73, R83). HOLDOVER and REFUSED hold integ as adj and
begin the uncertainty of R78; FREE holds integ as adj. A run at the rail ends where adj leaves it (R98). Log 28 (DEDUCED). -/
def State.tkGo (s : State) (new : TkState) (reason : Nat) : State :=
  let old := s.tk.state
  let s1 := if new = .free ∨ new = .holdover ∨ new = .refused then s.rebase 0 s.tk.integ else s
  let s2 := s1.modTk fun k =>
    { k with
      state := new
      tuncs := if new.tunc = old.tunc then k.tuncs else (s.dev, new.tunc) :: k.tuncs
      railRun := if s.atRail k.adj then k.railRun else 0
      run := 0
      acceptAt := if new = .acquire && decide (old ≠ .locked) then s.now else k.acceptAt
      uncBase := if new = .holdover ∨ new = .refused then k.lastMag else k.uncBase
      uncAt := if new = .holdover ∨ new = .refused then s.now else k.uncAt
      uncRaised := if new = .holdover ∨ new = .refused then false else k.uncRaised }
  let s3 := if new = .holdover then s2.tkEvent 3 else if new = .locked then s2.tkEvent 2 else s2
  s3.timeRec 0x72 s3.tunc (by1 new.code ++ by1 old.code ++ by1 s3.portByte ++ by1 reason ++
    by2 (s3.tk.totalAt s3.now / 2 ^ 64) ++ zeros 2)

/-- The Pacer acts on an accepted offset (R72); the 64th update of a run at the rail makes SERVO_RAIL due (R98). -/
def State.pace (s : State) (off : Int) : State :=
  let lim := s.railU
  let integ := clampI (-lim) lim (s.tk.integ + off * s.tkPacerGain_KI / 65536)
  let adj := clampI (-lim) lim (off * s.tkPacerGain_KP / 4096 + integ)
  let rail := s.atRail adj
  (s.rebase 0 adj).modTk fun k =>
    { k with
      integ := integ
      acceptAt := s.now
      lastMag := off.natAbs
      railRun := if rail then min 64 (k.railRun + 1) else 0
      railDue := k.railDue || (rail && decide (k.railRun = 63)) }

/-- An offset is refused (R74): count, event, FALSE_START; from another state the Timekeeper goes to REFUSED.
Log 28 (DEDUCED), 29 (DEDUCED). -/
def State.falseStart (s : State) (off : Int) : State :=
  let before := s.tk.state
  let s1 := (s.tkEvent 0).modTk fun k => { k with fsCount := satAdd 0xFFFFFFFF k.fsCount 1, stepPend := true, run := 0 }
  let s2 := s1.timeRec 0x71 s1.tunc (by8i off ++ by4 s1.tk.fsCount ++ by1 0 ++ by1 before.code ++ zeros 2)
  if before = .refused then s2 else s2.tkGo .refused 4

/-- The pending step is over (R76). -/
def State.stepOver (s : State) : State := s.modTk fun k => { k with stepPend := false, stepArmed := false }

/-- A step is armed, but not by a write at this very instant when the offset at hand would end the run of eight (R91). -/
def State.stepsNow (s : State) (big : Bool) : Bool :=
  s.tk.stepArmed && !(decide (s.tk.armedAt = s.now) && decide (s.tk.run = 7) && !big)

/-- A step by an accepted offset (R73): the offset counts as 0 for R78. Log 30 (DEDUCED). -/
def State.stepBy (s : State) (off : Int) : State :=
  (s.tkStep (-(uToDt off))).modTk fun k => { k with lastMag := 0, acceptAt := s.now, isSet := true }

/-- One more offset of a run of eight (R73). -/
def State.runOn (s : State) (yes : Bool) : State := s.modTk fun k => { k with run := if yes then k.run + 1 else 0 }

/-- An offset passes through the state rules (R73). Log 30 (DEDUCED). -/
def State.tkOffset (s : State) (off : Int) : State :=
  let s := s.modTk fun k => { k with offset := off }
  let big := decide ((s.tkFsLimit_LIMIT_NS : Int) * 65536 < off.natAbs)
  let near := decide ((off.natAbs : Int) < s.tkLockCfg_THRESH_NS * 65536)
  match s.tk.state with
  | .free => s
  | .acquire =>
    if !s.tk.isSet then (s.stepBy off).tkGo .acquire 7
    else if big then s.falseStart off
    else
      let s1 := (s.pace off).runOn near
      if s1.tk.run = 8 then s1.tkGo .locked 1 else s1
  | .locked =>
    if big then s.falseStart off
    else
      let s1 := (s.pace off).runOn (!near)
      if s1.tk.run = 8 then s1.tkGo .acquire 2 else s1
  | .holdover =>
    if !s.tk.isSet then (s.stepBy off).tkGo .acquire 7
    else if big then s.falseStart off
    else (s.pace off).tkGo .acquire 8
  | .refused =>
    if s.stepsNow big then ((s.stepBy off).stepOver).tkGo .acquire 6
    else if big then s.falseStart off
    else
      let s1 := s.runOn true
      if s1.tk.run = 8 then ((s1.pace off).stepOver).tkGo .acquire 5 else s1

/-- HOLD_TIMEOUT: no offset was accepted for TK.HOLD_CFG.TIMEOUT_MS (R73). -/
def execHoldTimeout (s : State) : Host.Outcome State Fault Refusal :=
  .next <|
    if s.tk.state = .acquire ∨ s.tk.state = .locked then
      (s.waitUntil (s.tk.acceptAt + s.tkHoldCfg_TIMEOUT_MS * msTicks)).tkGo .holdover 3
    else s

/-- HOLD_LIMIT: TK.HOLD_UNC, in ns, exceeds TK.HOLD_CFG.LIMIT_US, once for each entry (R98). -/
def execHoldLimit (s : State) : Host.Outcome State Fault Refusal :=
  .next <|
    if (s.tk.state = .holdover ∨ s.tk.state = .refused) ∧ s.tk.uncRaised = false then
      let past := (s.tkHoldCfg_LIMIT_US * 1000 + 1) * 65536
      let s1 := s.waitUntil (s.tk.uncAt + ((past - s.tk.uncBase) * 8000000 + 65535) / 65536)
      ((s1.raiseU 0x02 tkSource 0xFF (s1.tk.unc s1.now / 65536)).tkEvent 5).modTk fun k => { k with uncRaised := true }
    else s

/-- SERVO_RAIL: the 64th consecutive update at the rail, once for each run (R98). Log 36 (DEDUCED). -/
def execServoRail (s : State) : Host.Outcome State Fault Refusal :=
  .next <| if s.tk.railDue then (s.raiseU 0x03 tkSource 0xFF 0).modTk fun k => { k with railDue := false } else s

/-- COPY_SLIP: a unit's copy of device time slipped and was reloaded (R98). Log 24 (DESIGN CHOICE), 38 (DEDUCED). -/
def execCopySlip (_unit : Nat) (s : State) : Host.Outcome State Fault Refusal := .next (s.raiseU 0x01 tkSource 0xFF 0)

/-! ### Writes to TK registers with an effect of their own (R32, R75, R76, R88) -/

/-- TK.ACCEPT_STEP (R76, R91). -/
def State.tkAccept (s : State) : State :=
  if s.tk.stepPend then s.modTk fun k => { k with stepArmed := true, armedAt := if k.stepArmed then k.armedAt else s.now } else s

/-- TK.CTRL.SOURCE written from `old` to `new` (R73, R76). -/
def State.tkSourceWrite (s : State) (old new : Nat) : State :=
  let s1 := s.stepOver.modTk fun k => { k with run := if k.state = .refused then 0 else k.run }
  if new = 0 then
    (if s1.tk.state = .free then s1 else s1.tkGo .free 0).modTk fun k =>
      { k with parent := none, rx := none, foreign := [], pendSync := none, relaySync := none, syncDiff := none, reqT3 := none }
  else if old = 0 then (s1.modTk fun k => { k with nDelay := 0 }).tkGo .acquire 0
  else s1

/-- TK.SET_TIME written while SOURCE is FREE (R75, R100): a step by the signed difference of R33, which may carry into the era.
Log 153 (DEDUCED). -/
def State.tkSetTime (s : State) (v : DT64) : State := (s.tkStep (dtSub v s.dev)).modTk fun k => { k with isSet := true }

/-- TK.ERA written while SOURCE is FREE: no step (R100). -/
def State.tkEraWrite (s : State) (era : Nat) : State :=
  s.rebase (((era : Int) - (s.tk.totalAt s.now / 2 ^ 64 : Nat)) * ((2 ^ 64 : Nat) : Int)) s.tk.adj

/-! ### Parents (R79, R80) -/

/-- The members by which IEEE 1588 ranks what an Announce says, best first. Log 32 (PRESUMED). -/
def gmRank (g : PtpGm) : List Nat :=
  [g.priority1, g.clockClass, g.accuracy, g.variance, g.priority2, g.identity.toNat]

/-- The first list is before the second, entry by entry. Log 32 (PRESUMED). -/
def before : List Nat → List Nat → Bool
  | [], _ => false
  | _ :: _, [] => false
  | a :: s, b :: t => decide (a < b) || (decide (a = b) && before s t)

/-- One time transmitter is better than another: by its grandmaster, and with the same grandmaster by steps, identity and
port. Log 32 (PRESUMED). -/
def Foreign.better (x y : Foreign) : Bool :=
  if x.gm.identity = y.gm.identity then
    before [x.gm.stepsRemoved, x.clock.toNat, x.portNo.toNat, x.port] [y.gm.stepsRemoved, y.clock.toNat, y.portNo.toNat, y.port]
  else before (gmRank x.gm) (gmRank y.gm)

/-- The announce receipt timeout of a time transmitter, in ticks. -/
def State.annTimeout (s : State) (x : Foreign) : Nat := s.tkPtpCfg_ANN_TIMEOUT * x.gm.intervalMs * msTicks

/-- A host port on which the receiver listens (R79). -/
def State.rxEnabled (s : State) (p : Nat) : Bool :=
  decide (s.tkCtrl_SOURCE ≠ 0) && (decide (s.tkCtrl_RX_PORT = 2) || decide (s.tkCtrl_RX_PORT = p))

/-- A time transmitter qualifies: two Announces within four intervals, the last within the receipt timeout. Log 32 (PRESUMED). -/
def State.qualified (s : State) (x : Foreign) : Bool :=
  s.rxEnabled x.port && decide (x.gm.stepsRemoved < 255) && decide (s.now < x.last + s.annTimeout x) &&
    match x.prev with
    | some p => decide (x.last ≤ p + 4 * x.gm.intervalMs * msTicks)
    | none => false

/-- The best of the time transmitters that qualify. -/
def State.bestForeign (s : State) : Option Foreign :=
  (s.tk.foreign.filter s.qualified).foldl (fun b x => match b with
    | none => some x
    | some y => if x.better y then some x else b) none

/-- The parent becomes what the best clock algorithm chooses; a change keeps integ, starts the delay measurement afresh and
issues PARENT (R80). A parent after none is a change, the one that was lost before it too. Log 31 (DEDUCED), 154 (DEDUCED). -/
def State.choose (s : State) : State :=
  match s.bestForeign with
  | none => s
  | some x =>
    let p : Parent := ⟨x.gm, x.clock, x.portNo, s.tkCtrl_DOMAIN, x.port⟩
    let same := match s.tk.parent with
      | some q => decide (q.gm.identity = p.gm.identity ∧ q.clock = p.clock ∧ q.portNo = p.portNo ∧ q.port = p.port)
      | none => false
    if same then s.modTk fun k => { k with parent := some p }
    else
      let s1 := (s.modTk fun k =>
        { k with
          parent := some p, rx := some p.port, nDelay := 0, pendSync := none, relaySync := none, syncDiff := none
          reqT3 := none }).tkEvent 4
      s1.timeRec 0x73 s1.tunc ((leBytes 8 p.gm.identity.toNat).reverse ++ by2 p.portNo.toNat ++ by2 p.gm.stepsRemoved ++ by1 p.domain ++
        by1 p.port ++ zeros 2)

/-- There is no qualified parent any more. -/
def State.noParent (s : State) : State :=
  s.modTk fun k => { k with parent := none, rx := none, pendSync := none, relaySync := none, syncDiff := none }

/-- A message is one that the receiver takes: source selected, domain and transport as set (R63, R88). -/
def State.tkTakes (s : State) (m : PtpMsg) : Bool :=
  decide (s.tkCtrl_SOURCE ≠ 0) && decide (m.domain = s.tkCtrl_DOMAIN) && decide (m.transport = s.tkCtrl_TRANSPORT)

/-- A host port receives: its link is up and it does not settle. -/
def State.portHears (s : State) (p : Nat) : Bool := decide (p < 2) && (s.port p).up && !(s.port p).settling

/-- ANNOUNCE_RECEIVE (R79, R80). -/
def execAnnounceReceive (dt port : Nat) (m : PtpMsg) (s : State) : Host.Outcome State Fault Refusal :=
  .next <|
    let s1 := s.pass dt
    if m.kind ≠ .announce ∨ s1.portHears port = false ∨ s1.tkTakes m = false ∨ s1.rxEnabled port = false then s1
    else
      let mine := fun (x : Foreign) => decide (x.clock = m.clock ∧ x.portNo = m.portNo ∧ x.port = port)
      let prev := (s1.tk.foreign.find? mine).map fun x => x.last
      (s1.modTk fun k =>
        { k with foreign := k.foreign.filter (fun x => !mine x) ++ [⟨m.gm, m.clock, m.portNo, port, s1.now, prev⟩] }).choose

/-- ANNOUNCE_TIMEOUT: the parent's announce receipt timeout expires. Another qualified parent takes its place; with none, the
Timekeeper goes from ACQUIRE or LOCKED to HOLDOVER (R73, R79). -/
def execAnnounceTimeout (s : State) : Host.Outcome State Fault Refusal :=
  .next <|
    match s.tk.parent with
    | none => s
    | some p =>
      match s.tk.foreign.find? fun x => decide (x.clock = p.clock ∧ x.portNo = p.portNo ∧ x.port = p.port) with
      | none => s
      | some x =>
        let s1 := (s.waitUntil (x.last + s.annTimeout x)).modTk fun k => { k with foreign := k.foreign.filter fun y => decide (y ≠ x) }
        if s1.bestForeign.isSome then s1.choose
        else if s1.tk.state = .acquire ∨ s1.tk.state = .locked then s1.noParent.tkGo .holdover 3
        else s1.noParent

/-- The link of the receiver port drops: under AUTO another port with a qualified parent takes its place, otherwise HOLDOVER
comes at once (R73, R79, R93). -/
def State.tkLinkDrop (s : State) (p : Nat) : State :=
  let was := decide (s.rxPort = some p)
  let s1 := s.modTk fun k => { k with foreign := k.foreign.filter fun x => decide (x.port ≠ p) }
  if !was then s1
  else if s1.tkCtrl_RX_PORT = 2 ∧ s1.bestForeign.isSome then s1.choose
  else if s1.tk.state = .acquire ∨ s1.tk.state = .locked then s1.noParent.tkGo .holdover 9
  else s1.noParent

/-- RX_LINK_DROP: the receiver port's link drops (R79). -/
def execRxLinkDrop (dt : Nat) (s : State) : Host.Outcome State Fault Refusal :=
  .next <|
    let s1 := s.pass dt
    match s1.rxPort with
    | some p => s1.tkLinkDrop p
    | none => s1

/-! ### Stamps and the device's own messages (R63, R65, R68, R95) -/

/-- The device's clockIdentity: its MAC address as an EUI-64. Log 11 (DESIGN CHOICE), 33 (PRESUMED). -/
def ownClock : BitVec 64 :=
  BitVec.ofNat 64 (Config.mac 0 % 2 ^ 48 / 2 ^ 24 * 2 ^ 40 + 0xFFFE * 2 ^ 24 + Config.mac 0 % 2 ^ 24)

/-- The ingress stamp of a message that arrives now at a host port (R68). -/
def State.ingressU (s : State) (p : Nat) : Int := s.devU - 4096 * s.tkPortLat_ING p
/-- The egress stamp of a message that leaves a host port now (R68). -/
def State.egressU (s : State) (p : Nat) : Int := s.devU + 4096 * s.tkPortLat_EGR p
/-- delayAsymmetry of a host port (R68). -/
def State.asymU (s : State) (p : Nat) : Int := 4096 * s.tkAsym_ASYM p

/-- A timestamp in 2^-16 ns. -/
def stampU (t : PtpStamp) : Int := ((t.sec * 1000000000 + t.ns) * 65536 : Nat)
/-- Whole nanoseconds of a time in 2^-16 ns as a timestamp. -/
def stampOf (u : Int) : PtpStamp := let n := (u / 65536).toNat; ⟨n / 1000000000, n % 1000000000⟩

/-- A message of the device's own. Log 33 (PRESUMED). -/
def State.ownMsg (s : State) (kind : PtpKind) (port : Nat) (seq : BitVec 16) : PtpMsg where
  kind := kind
  domain := s.tkCtrl_DOMAIN
  transport := s.tkCtrl_TRANSPORT
  seq := seq
  clock := ownClock
  portNo := BitVec.ofNat 16 (port + 1)
  twoStep := false
  correction := 0
  stamp := ⟨0, 0⟩
  reqClock := 0
  reqPort := 0
  logInterval := 0x7F
  rateRatio := 0
  gm := ⟨0, 0, 0, 0, 0, 0, 0, 0, false, 0⟩

/-- The peer-delay state of a host port. -/
def State.pdelay (s : State) (p : Nat) : Pdelay := Tab.get {} p s.tk.pdelay
/-- The peer-delay state of a host port changed. -/
def State.modPdelay (s : State) (p : Nat) (f : Pdelay → Pdelay) : State := s.modTk fun k => { k with pdelay := Tab.mod {} p f k.pdelay }

/-- A PTP message leaves a host port: the egress stamps of the device's own requests are taken (R95). -/
def State.ptpLeave (s : State) (p : Nat) (m : PtpMsg) : State :=
  let s1 := s.send (.ptp p m)
  if m.clock ≠ ownClock then s1
  else
    match m.kind with
    | .delayReq => if s1.tk.reqSeq = m.seq then s1.modTk fun k => { k with reqT3 := some (s1.egressU p) } else s1
    | .pdelayReq => if (s1.pdelay p).seq = m.seq then s1.modPdelay p fun d => { d with t1 := some (s1.egressU p) } else s1
    | _ => s1

/-- A forwarded message leaves a host port and counts in FWD (R100). -/
def State.tcSend (s : State) (p : Nat) (m : PtpMsg) : State :=
  (s.send (.ptp p m)).modTk fun k => { k with tcFwd := (k.tcFwd + 1) % 65536 }

/-- The message awaits a follower that is this one, which the members R65 names match. -/
def TcHeld.awaits (m : PtpMsg) (h : TcHeld) : Bool :=
  let key := if m.kind = .delayResp then (m.reqClock, m.reqPort) else (m.clock, m.portNo)
  decide (h.follower = m.kind ∧ h.seq = m.seq ∧ h.clock = key.1 ∧ h.portNo = key.2 ∧ h.domain = m.domain)

/-- A PTP message leaves a host port now: its egress stamp is the actual one (R65 to R67, R95). A forwarded message that needs a
follower is held for it, at most 32 (R89). Log 39 (DESIGN CHOICE), 155 (DEDUCED). -/
def State.fwdLeave (s : State) (p : Nat) (m : PtpMsg) (f : Fwd) : State :=
  match f with
  | .own => s.ptpLeave p m
  | .plain => s.tcSend p m
  | .event base => s.tcSend p { m with correction := m.correction + (s.egressU p + base) }
  | .awaited base kind =>
    if 32 ≤ s.tk.tcHeld.length then (s.modTk fun k => { k with tcOrphan := satAdd 65535 k.tcOrphan 1 }).tcSend p m
    else
      (s.modTk fun k =>
        { k with tcHeld := k.tcHeld ++ [⟨m.seq, m.clock, m.portNo, m.domain, kind, s.egressU p + base, s.now⟩] }).tcSend p m
  | .follower =>
    match s.tk.tcHeld.find? (TcHeld.awaits m) with
    | some h =>
      (s.modTk fun k => { k with tcHeld := dropFirst (TcHeld.awaits m) k.tcHeld }).tcSend p { m with correction := m.correction + h.add }
    | none => s.tcSend p m
  | .relay base cum =>
    let d := s.egressU p + base
    s.tcSend p { m with correction := m.correction + d + d * cum / 2 ^ 41 }

/-- What a settling port holds with one more PTP message: it goes before every Imcel frame, behind the PTP messages that wait
(R86, 12_imcel.md R471). -/
def holdPtp (m : HeldOut) (l : List HeldOut) : List HeldOut :=
  let isPtp := fun (x : HeldOut) => match x.out with
    | .ptp _ _ => true
    | _ => false
  l.takeWhile isPtp ++ m :: l.dropWhile isPtp

/-- A PTP message is to leave a host port: it is held while the port settles (R95), and is not sent on a port that is down. -/
def State.ptpSend (s : State) (p : Nat) (m : PtpMsg) (f : Fwd := .own) : State :=
  if (s.port p).settling then s.modPort p fun x => { x with held := holdPtp ⟨.ptp p m, f⟩ x.held }
  else if (s.port p).up then s.fwdLeave p m f
  else s

/-- A power of two of seconds in ticks, for a logarithmic interval. -/
def logTicks (l : Int) : Nat := if 0 ≤ l then 4000000000 * 2 ^ l.toNat else 4000000000 / 2 ^ (-l).toNat

/-! ### Offsets and delays (R71) -/

/-- One measurement of the path delay (R71). -/
def State.addDelay (s : State) (raw : Int) : State :=
  s.modTk fun k =>
    { k with
      meanDelay := if k.nDelay = 0 then raw else k.meanDelay + (raw - k.meanDelay) / 8
      nDelay := k.nDelay + 1 }

/-- t2 − t1 − c_sync of a Sync is known: an offset is computed once two delays are (R71). -/
def State.syncKnown (s : State) (port : Nat) (diff : Int) : State :=
  let s1 := s.modTk fun k => { k with syncDiff := some diff, pendSync := none }
  if s1.tk.nDelay < 2 then s1 else s1.tkOffset (diff - s1.tk.meanDelay - s1.asymU port)

/-- A message comes from the parent, on the receiver port. Log 31 (DEDUCED). -/
def State.fromParent (s : State) (port : Nat) (m : PtpMsg) : Bool :=
  s.portHears port && s.tkTakes m && decide (s.rxPort = some port) &&
    match s.tk.parent with
    | some p => decide (p.clock = m.clock ∧ p.portNo = m.portNo)
    | none => false

/-- SYNC_RECEIVE (R71): a one-step Sync gives its offset; a two-step one waits for its Follow_Up, and for the relay (R67). -/
def execSyncReceive (dt port : Nat) (m : PtpMsg) (s : State) : Host.Outcome State Fault Refusal :=
  .next <|
    let s1 := s.pass dt
    if m.kind ≠ .sync ∨ s1.fromParent port m = false then s1
    else
      let t2 := s1.ingressU port
      if m.twoStep then
        let x : PendSync := ⟨port, m.seq, m.clock, m.portNo, t2, m.correction⟩
        s1.modTk fun k => { k with pendSync := some x, relaySync := some x }
      else (s1.syncKnown port (t2 - stampU m.stamp - m.correction)).relevel

/-- A Follow_Up completes a Sync: sequenceId and sourcePortIdentity match, on one port (R71). -/
def PendSync.matched (x : PendSync) (port : Nat) (m : PtpMsg) : Bool :=
  decide (x.port = port ∧ x.seq = m.seq ∧ x.clock = m.clock ∧ x.portNo = m.portNo)

/-- FOLLOW_UP_RECEIVE (R71). -/
def execFollowUpReceive (dt port : Nat) (m : PtpMsg) (s : State) : Host.Outcome State Fault Refusal :=
  .next <|
    let s1 := s.pass dt
    if m.kind ≠ .followUp ∨ s1.fromParent port m = false then s1
    else
      match s1.tk.pendSync with
      | some x =>
        if x.matched port m then
          (s1.syncKnown port
            (x.t2 - stampU m.stamp - x.corr - m.correction)).relevel
        else s1
      | none => s1

/-- DELAY_REQ_SEND: the receiver sends a Delay_Req, paced by the parent's interval, under E2E (R71, R100). Log 40 (DEDUCED). -/
def execDelayReqSend (s : State) : Host.Outcome State Fault Refusal :=
  .next <|
    match s.rxPort with
    | some p =>
      if s.tkCtrl_SOURCE = 0 ∨ s.tkCtrl_DELAY_MECH = true ∨ s.tk.syncDiff = none then s
      else
        let s1 := s.waitUntil (s.tk.reqAt + logTicks s.tk.reqLog)
        let q := s1.tk.reqSeq + 1
        (s1.modTk fun k => { k with reqSeq := q, reqT3 := none, reqAt := s1.now }).ptpSend p (s1.ownMsg .delayReq p q)
    | none => s

/-- DELAY_RESP_RECEIVE: one raw path delay (R71). -/
def execDelayRespReceive (dt port : Nat) (m : PtpMsg) (s : State) : Host.Outcome State Fault Refusal :=
  .next <|
    let s1 := s.pass dt
    if m.kind ≠ .delayResp ∨ s1.fromParent port m = false ∨ m.seq ≠ s1.tk.reqSeq ∨ m.reqClock ≠ ownClock ∨
        m.reqPort ≠ BitVec.ofNat 16 (port + 1) then s1
    else
      match s1.tk.reqT3, s1.tk.syncDiff with
      | some t3, some diff =>
        (s1.addDelay ((diff + (stampU m.stamp - t3 - m.correction)) / 2)).modTk fun k =>
          { k with reqT3 := none, reqLog := m.logInterval }
      | _, _ => s1

/-! ### Peer delay (R65, R71) -/

/-- Peer delay runs: P2P under PTP, or 802.1AS. -/
def State.peerDelay (s : State) : Bool := decide (s.tkCtrl_SOURCE ≠ 0) && s.tkCtrl_DELAY_MECH

/-- PDELAY_REQ_SEND: at the device's logMinPdelayReqInterval (R65, R100). -/
def execPdelayReqSend (port : Nat) (s : State) : Host.Outcome State Fault Refusal :=
  .next <|
    if !s.peerDelay || decide (2 ≤ port) then s
    else
      let s1 := s.waitUntil ((s.pdelay port).sentAt + logTicks s.tkPtpCfg_LOG_PDELAY)
      let q := (s1.pdelay port).seq + 1
      (s1.modPdelay port fun d =>
        { d with seq := q, t1 := none, wait := none, sentAt := s1.now }).ptpSend port (s1.ownMsg .pdelayReq port q)

/-- PDELAY_REQ_RECEIVE: the device answers as peer-delay responder (R65): in TWO_STEP mode and in 802.1AS with a follow-up,
otherwise with the turnaround time in the correctionField. -/
def execPdelayReqReceive (dt port : Nat) (m : PtpMsg) (s : State) : Host.Outcome State Fault Refusal :=
  .next <|
    let s1 := s.pass dt
    if m.kind ≠ .pdelayReq ∨ s1.portHears port = false ∨ s1.tkTakes m = false ∨ s1.peerDelay = false then s1
    else
      let t2 := s1.ingressU port
      let t3 := s1.egressU port
      let base := fun k => { s1.ownMsg k port m.seq with reqClock := m.clock, reqPort := m.portNo }
      if s1.tkCtrl_TC_MODE || decide (s1.tkCtrl_SOURCE = 2) then
        (s1.ptpSend port { base .pdelayResp with twoStep := true, stamp := stampOf t2, correction := -(t2 % 65536) }).ptpSend port
          { base .pdelayRespFollowUp with stamp := stampOf t3, correction := m.correction + t3 % 65536 }
      else s1.ptpSend port { base .pdelayResp with correction := m.correction + (t3 - t2) }

/-- A peer delay is measured on a port (R65, R71): it is the link delay, and a raw delay when the port is the receiver port. `x` is
t3 and t4, by which 802.1AS forms the neighbour rate ratio. Log 34 (PRESUMED). -/
def State.peerMeasured (s : State) (port : Nat) (raw : Int) (x : Option (Int × Int)) : State :=
  let d := s.pdelay port
  let ratio := match x, d.prev with
    | some (t3, t4), some (p3, p4) => if t4 - p4 = 0 then d.ratio else ((t3 - p3) - (t4 - p4)) * 2 ^ 41 / (t4 - p4)
    | _, _ => d.ratio
  let s1 := s.modPdelay port fun d =>
    { d with link := some raw, prev := x.orElse fun _ => d.prev, ratio := ratio, t1 := none, wait := none }
  if s1.rxPort = some port then s1.addDelay raw else s1

/-- PDELAY_RESP_RECEIVE: a response, or the follow-up of a two-step one, completes a measurement (R65). -/
def execPdelayRespReceive (dt port : Nat) (m : PtpMsg) (s : State) : Host.Outcome State Fault Refusal :=
  .next <|
    let s1 := s.pass dt
    let d := s1.pdelay port
    if s1.portHears port = false ∨ s1.tkTakes m = false ∨ s1.peerDelay = false ∨ m.seq ≠ d.seq ∨ m.reqClock ≠ ownClock ∨
        m.reqPort ≠ BitVec.ofNat 16 (port + 1) then s1
    else
      match d.t1, m.kind with
      | some t1, .pdelayResp =>
        let t4 := s1.ingressU port
        if m.twoStep then s1.modPdelay port fun d => { d with wait := some (stampU m.stamp, t4, m.correction) }
        else s1.peerMeasured port ((t4 - t1 - m.correction) / 2) none
      | some t1, .pdelayRespFollowUp =>
        match d.wait with
        | some (t2, t4, c) =>
          s1.peerMeasured port (((t4 - t1) - (stampU m.stamp - t2) - c - m.correction) / 2) (some (stampU m.stamp, t4))
        | none => s1
      | _, _ => s1

/-! ### Transparent clock and relay (R64 to R67, R89) -/

/-- The transparent clock forwards: IEEE 1588 selected and TC_EN (R65, R88). -/
def State.tcOn (s : State) : Bool := decide (s.tkCtrl_SOURCE = 1) && s.tkCtrl_TC_EN

/-- The kind of a message's follower, whose matching R65 describes; none for one that has no follower to correct. -/
def followerOf (m : PtpMsg) : Option PtpKind :=
  match m.kind with
  | .sync => if m.twoStep then some .followUp else none
  | .delayReq => some .delayResp
  | .pdelayResp => some .pdelayRespFollowUp
  | _ => none

/-- How the transparent clock corrects a message that came in with a stamp (R65): an event message, or in TWO_STEP mode its follower,
takes the residence time; a Sync under P2P the link delay of the ingress port as well, which is 0 until one was measured.
Log 177 (DESIGN CHOICE). -/
def State.tcHow (s : State) (port : Nat) (m : PtpMsg) (ingress : Int) : Fwd :=
  let base := (if s.tkCtrl_DELAY_MECH && decide (m.kind = .sync) then ((s.pdelay port).link).getD 0 else 0) - ingress
  match m.kind with
  | .followUp | .delayResp | .pdelayRespFollowUp => .follower
  | .sync | .delayReq | .pdelayReq | .pdelayResp =>
    if !s.tkCtrl_TC_MODE || decide (m.kind = .sync ∧ m.twoStep = false) then .event base
    else (followerOf m).elim .plain fun k => .awaited base k
  | _ => .plain

/-- TC_FORWARD: a PTP message received on a port leaves the other one, `residence` ticks later (R65, R66). Under P2P the Pdelay messages
are not forwarded. Messages of other kinds are forwarded unchanged. Log 39 (DESIGN CHOICE). -/
def execTcForward (dt port residence : Nat) (m : PtpMsg) (s : State) : Host.Outcome State Fault Refusal :=
  .next <|
    let s1 := s.pass dt
    if !s1.tcOn || !s1.portHears port then s1
    else if s1.tkCtrl_DELAY_MECH && decide (m.kind = .pdelayReq ∨ m.kind = .pdelayResp ∨ m.kind = .pdelayRespFollowUp) then s1
    else (s1.pass residence).ptpSend (1 - port) m (s1.tcHow port m (s1.ingressU port))

/-- TC_FOLLOWER_FORWARD (R65). -/
def execTcFollowerForward (dt port : Nat) (m : PtpMsg) (s : State) : Host.Outcome State Fault Refusal :=
  .next <|
    let s1 := s.pass dt
    if !s1.tcOn || !s1.portHears port || (s1.tkCtrl_DELAY_MECH && decide (m.kind = .pdelayRespFollowUp)) then s1
    else if m.kind = .followUp ∨ m.kind = .delayResp ∨ m.kind = .pdelayRespFollowUp then s1.ptpSend (1 - port) m .follower
    else s1

/-- TC_ORPHAN_TIMEOUT: the oldest held message whose follower has not arrived within 1 s is discarded and counted (R89). -/
def execTcOrphanTimeout (s : State) : Host.Outcome State Fault Refusal :=
  .next <|
    match s.tk.tcHeld with
    | [] => s
    | h :: t => (s.waitUntil (h.at_ + 1000 * msTicks)).modTk fun k => { k with tcHeld := t, tcOrphan := satAdd 65535 k.tcOrphan 1 }

/-- AS_RELAY_SYNC: a Sync and Follow_Up pair received on the receiver port is transmitted as a new pair on the other port (R67).
`m` is the Follow_Up of the Sync last received; the pair leaves `residence` ticks after it, and the residence time runs from the Sync.
A pair counts once in FWD. Log 34 (PRESUMED), 39 (DESIGN CHOICE), 156 (DEDUCED). -/
def execAsRelaySync (dt port residence : Nat) (m : PtpMsg) (s : State) : Host.Outcome State Fault Refusal :=
  .next <|
    let s1 := s.pass dt
    if s1.tkCtrl_SOURCE ≠ 2 ∨ s1.tkCtrl_TC_EN = false ∨ m.kind ≠ .followUp ∨ s1.fromParent port m = false then s1
    else
      match s1.tk.relaySync with
      | none => s1
      | some x =>
        if !x.matched port m then s1
        else
          let out := 1 - port
          let cum := m.rateRatio + (s1.pdelay port).ratio
          let q := s1.tk.relaySeq + 1
          let s2 := (s1.pass residence).modTk fun k => { k with relaySeq := q, relaySync := none }
          (s2.ptpSend out { s2.ownMsg .sync out q with twoStep := true, gm := m.gm }).ptpSend out
            { s2.ownMsg .followUp out q with
              stamp := m.stamp, correction := x.corr + m.correction, rateRatio := cum, gm := m.gm }
            (.relay (((s1.pdelay port).link).getD 0 - x.t2) cum)

/-! ### Photo-finish units (R69, R70, R81, R94, R96, R97) -/

/-- CAP.n as a stream source (03_sensor_ports.md R103). -/
def capSrc (n : Nat) : Source := ⟨9, n⟩

/-- A slot that carries only CAP inputs is absent while every stall-checked one of them is (R97); one that stays absent after its
detector was disabled counts with them (R96). -/
def State.capSlot (s : State) (slot : Nat) : State :=
  let l := (upTo 32).filter fun k =>
    decide (s.tkCapCfg_SLOT k = slot) && ((s.cap k).absent || (s.tkCapStall_EN k && s.tkCapCfg_EN k))
  let now := decide (l ≠ []) && l.all fun k => (s.cap k).absent
  if (s.slot slot).srcs.all fun x => decide (x.kind = 9) then
    (if (s.slot slot).absent && !now then s.slotBack slot else s).modSlot slot fun x => { x with absent := now }
  else s

/-- A record of CAP.n enters its slot, unless the slot was refused to it. -/
def State.capRec (s : State) (n : Nat) (r : Rec) : State :=
  if s.ing.refused.contains (capSrc n) then s else s.recIn (s.tkCapCfg_SLOT n) r

/-- CAP_STATE of an input (R83). -/
def State.capState (s : State) (n state : Nat) (t : DT64) (tunc : Bool) : State :=
  let c := s.cap n
  s.capRec n (mkRec 0x09 (0x38 + n) (flagIf tunc fTUNC) 0 t (by1 state ++ by1 (b2n c.level) ++ zeros 2 ++ by4 c.count.toNat))

/-- CAP.n is declared absent (R96). -/
def State.capAbsent (s : State) (n : Nat) : State :=
  let s1 := (s.modCap n fun c => { c with absent := true }).tkEvent 6
  (s1.capState n 1 s1.dev s1.tunc).capSlot (s1.tkCapCfg_SLOT n)

/-- TK.CAP_CFG.n.EDGE selects a polarity. -/
def State.capSelects (s : State) (n : Nat) (level : Bool) : Bool :=
  if level then decide (s.tkCapCfg_EDGE n = 1 ∨ s.tkCapCfg_EDGE n = 3) else decide (s.tkCapCfg_EDGE n = 2 ∨ s.tkCapCfg_EDGE n = 3)

/-- The filter time of CAP.n, in ticks: at least the stamp interval of the edge, at whose end its level is known (R94).
Log 35 (DEDUCED). -/
def State.capFilter (s : State) (n : Nat) : Nat := max 1 (400 * s.tkCapCfg_FILTER n)

/-- The stamp of an edge now: device time rounded to the nearest DT64 unit, less the delay of the input stage (R69).
Log 24 (DESIGN CHOICE). -/
def State.capStamp (s : State) (n : Nat) : DT64 :=
  dtAdd (BitVec.ofNat 64 (s.tk.totalNear s.now)) (-(rhaDiv (s.tkCapComp_DELAY n * 4294967296) 16000000000))

/-- The stamps that CAP.n holds: those of edges of a selected polarity that were not dropped, and those recorded that are not written
yet (R69, R70). Log 35 (DEDUCED). -/
def State.capHeld (s : State) (n : Nat) (l : List CapCand) : Nat :=
  (l.filter fun x => s.capSelects n x.level && !x.lost && !x.blind).length + ((s.cap n).freeAt.filter fun t => decide (s.now < t)).length

/-- The edges of CAP.n after one edge now to a level, from the unit before its stamp interval (R69, R70): the level before it is discarded
when it did not hold for the filter time; an edge of a selected polarity finds no place while 16 stamps are held or within 4 ns of
another. While the unit is disabled an edge is validated and has no stamp. Log 35 (DEDUCED), 157 (DEDUCED). -/
def State.capTake (s : State) (n : Nat) (level : Bool) (b : CapSnap) : List CapCand :=
  let x : CapCand := ⟨s.capStamp n, level, s.now, s.tuncAt (s.capStamp n),
    decide (16 ≤ s.capHeld n b.cands ∨ b.edgeAt.any fun t => decide (s.now < t + 16)) && s.capSelects n level, !s.tkCapCfg_EN n⟩
  match b.cands.getLast? with
  | some y => if s.now < y.at_ + s.capFilter n then b.cands.dropLast else b.cands ++ [x]
  | none => [x]

/-- The unit of CAP.n before the stamp interval of now (R94). -/
def Cap.before (c : Cap) (now : Nat) : CapSnap :=
  match c.snap with
  | some x => if x.at_ = now then x else ⟨now, c.pin, c.cands, c.edgeAt⟩
  | none => ⟨now, c.pin, c.cands, c.edgeAt⟩

/-- CAP_EDGE: an edge at a CAP pin is stamped (R69, R70). Edges of one stamp interval are taken together as the level at its end (R94).
An edge at a disabled unit moves its level after the filter time and is not stamped; while the Timekeeper is in reset only the pin is
known. Log 35 (DEDUCED), 157 (DEDUCED). -/
def execCapEdge (dt n : Nat) (level : Bool) (s : State) : Host.Outcome State Fault Refusal :=
  .next <|
    let s1 := s.pass dt
    if 32 ≤ n ∨ (s1.cap n).pin = level then s1
    else if !s1.islandUp 0 then s1.modCap n fun c => { c with pin := level }
    else
      let b := (s1.cap n).before s1.now
      s1.modCap n fun c =>
        { c with
          pin := level
          cands := if b.level = level then b.cands else s1.capTake n level b
          edgeAt := if b.level = level then b.edgeAt else some s1.now
          snap := some b }

/-- A recorded edge of CAP.n is told to those who trigger on it: SSP ports in CAP mode (03_sensor_ports.md R125) and expectation
generators (11_actuation.md R407). -/
def State.capTell (s : State) (n : Nat) (t : DT64) : State :=
  let s1 := s.modIng fun g =>
    { g with ssp := (upTo 16).foldl (fun l p =>
        if s.sspTrigCfg_MODE p = 3 ∧ s.sspTrigCfg_CAP p = n then
          Tab.mod {} p (fun x => { x with capDue := x.capDue ++ [dtAdd t (nsToDt (s.sspTrigDelay_NS p))] }) l else l) g.ssp }
  eachOf (upTo 32) (fun o s =>
    if s.actExp_MODE o = 2 ∧ s.actExp_CAP o = n ∧ s.outEnabled o then s.modOut o fun x => { x with genCap := x.genCap ++ [t] } else s) s1

/-- The places of recorded stamps once one more is recorded now: the unit writes one in 100 ns (R70). Log 35 (DEDUCED). -/
def Cap.written (c : Cap) (now : Nat) : List Nat :=
  (c.freeAt.filter fun t => decide (now < t + 400)) ++ [c.freeAt.getLast?.elim now fun t => max now (t + 400)]

/-- CAP_FILTER_VALIDATE: the filter time of the oldest edge elapses: it is kept, the level follows, an absence ends, and a recorded
edge writes its CAP_EDGE record, or counts in COUNT and MISSED where it was dropped, and is told to those who trigger on it (R70, R81,
R96). COUNT of the CAP_STATE record is that before the edge, and LEVEL the edge's. Log 35 (DEDUCED), 178 (DESIGN CHOICE). -/
def execCapFilterValidate (n : Nat) (s : State) : Host.Outcome State Fault Refusal :=
  .next <|
    match (s.cap n).cands with
    | [] => s
    | x :: t =>
      let s1 := s.waitUntil (x.at_ + s.capFilter n)
      let on := s1.tkCapCfg_EN n && !x.blind
      let s2 := s1.modCap n fun c => { c with cands := t, snap := none, level := x.level, stallAt := s1.now, stallRan := 0 }
      let s3 := if on && (s2.cap n).absent then
          ((s2.modCap n fun c => { c with absent := false }).capState n 0 x.stamp x.tunc).capSlot (s2.tkCapCfg_SLOT n)
        else s2
      if on && s3.capSelects n x.level then
        let s4 := s3.modCap n fun c => { c with count := c.count + 1, missed := if x.lost then satAdd 255 c.missed 1 else c.missed }
        if x.lost then s4.capTell n x.stamp
        else
          let c := s4.cap n
          ((s4.capRec n (mkRec 0x08 (0x38 + n) (flagIf x.tunc fTUNC) 0 x.stamp
            (by4 c.count.toNat ++ by1 c.missed ++ by1 (b2n x.level) ++ zeros 2))).modCap n fun c =>
              { c with missed := 0, freeAt := c.written s4.now }).capTell n x.stamp
      else s3

/-- CAP_STALL: no kept edge for STALL_MS, while the detector's timer runs (R96). -/
def execCapStall (n : Nat) (s : State) : Host.Outcome State Fault Refusal :=
  .next <|
    if 32 ≤ n ∨ s.tkCapCfg_EN n = false ∨ s.tkCapStall_EN n = false ∨ (s.cap n).absent = true ∨
        (s.tkCapStall_GATE_EN n = true ∧ (s.motion (s.tkCapStall_GATE_FRAME n)).slower 10 = true) then s
    else (s.waitUntil (stallEnd (s.cap n).stallAt (s.tkCapStall_STALL_MS n * msTicks - (s.cap n).stallRan))).capAbsent n

/-- TK.CAP_CFG.n.EN goes to 1: COUNT starts again, and the detector's timer (R83, R96). Log 157 (DEDUCED). -/
def State.capOn (s : State) (n : Nat) : State :=
  ((s.attach (capSrc n) (s.tkCapCfg_SLOT n)).modCap n fun c =>
    { c with missed := 0, count := 0, freeAt := [], stallAt := s.now, stallRan := 0 }).capSlot
      (s.tkCapCfg_SLOT n)

/-- TK.CAP_CFG.n.EN goes to 0: with its detector enabled the input is absent at once (R96); the slot is free of it. -/
def State.capOff (s : State) (n : Nat) : State :=
  let s1 := s.modCap n fun c => { c with cands := c.cands.map fun x => { x with blind := true }, snap := none }
  let s2 := if s1.tkCapStall_EN n && !(s1.cap n).absent then s1.capAbsent n else s1
  let slot := s2.tkCapCfg_SLOT n
  ((s2.modIng fun g => { g with refused := g.refused.filter fun x => decide (x ≠ capSrc n) }).modSlot slot fun x =>
    { x with srcs := x.srcs.filter fun y => decide (y ≠ capSrc n) }).capSlot slot

/-- Interval time since which the gate holds the stall timer of CAP.n, while it does (R96). -/
def State.capPause (s : State) (n : Nat) : Option Nat := s.gatePause (s.tkCapStall_GATE_EN n) (s.tkCapStall_GATE_FRAME n)

/-- TK.CAP_STALL.n is written, from the state before it (R96, R97): the detector's timer starts from 0 as it is enabled, keeps what it
has run when its gate changes, and stops as it is disabled; the slot's absence follows. -/
def State.capStallWrite (s old : State) (n : Nat) : State :=
  let on := s.tkCapStall_EN n && !old.tkCapStall_EN n
  (s.modCap n fun c =>
    { c with
      stallAt := s.now
      stallRan := if on then 0 else timerRan s.now c.stallRan c.stallAt (old.capPause n) }).capSlot (s.tkCapCfg_SLOT n)

/-- The Timekeeper restarts in FREE after its own fatal code (14_faults.md R515): the pending step is dropped and STATE carries REASON
10. TK.CTRL.SOURCE is set to FREE by the caller. -/
def State.tkRestart (s : State) : State :=
  (s.stepOver.tkGo .free 10).modTk fun k =>
    { k with
      isSet := false, parent := none, rx := none, foreign := [], pendSync := none, relaySync := none, syncDiff := none, reqT3 := none }

end Sys2Proof.Machine
end

