-- ==== Sys2Proof/Machine/Ports.lean ====
section
/-! DEFINITION. Host ports (12_imcel.md R470 to R473), device requests (R448, R458), the loss of a session (R450) and the
disabling of a ring (13_rings.md R500, R501). -/

namespace Sys2Proof.Machine

open Sys2Proof

/-! ### Device requests (12_imcel.md R448, R458) -/

/-- MAX_DATA of a session (R438). -/
def Session.maxData (x : Session) : Nat := if x.jumbo then 8192 else 1024

/-- A FETCH, not a POST (R459). -/
def ReqKind.fetches : ReqKind → Bool
  | .doorbell => true
  | .descriptors _ _ => true
  | .record _ => false
  | .index => false

/-- The payload of a device request (R458). -/
def DevReq.payload (q : DevReq) : List Byte :=
  by8 q.haddr.toNat ++ by4 q.len ++
    (if q.kind.fetches then by1 (if q.kind = .doorbell then 0 else 1) ++ by1 q.ring else by1 q.ring ++ zeros 3 ++ q.data)

/-- A frame of a session leaves for its current port and peer (R451). -/
def State.sessFrame (s : State) (i kind : Nat) (seq : BitVec 32) (retx : Bool) (payload : List Byte) : State :=
  let x := s.sess i
  s.hlFrame x.port x.peer (mkFrame kind i x.token.toNat seq retx payload)

/-- A device request is sent, or sent again. -/
def State.reqSend (s : State) (i : Nat) (q : DevReq) (retx : Bool) : State :=
  s.sessFrame i (if q.kind.fetches then 0x20 else 0x21) q.seq retx q.payload

/-- The requests that wait take places in the device window, 32 at most, in order (R448). -/
def State.pumpGo (i : Nat) : Nat → State → State
  | 0, s => s
  | n + 1, s =>
    let x := s.sess i
    match x.todo with
    | [] => s
    | q :: rest =>
      if 32 ≤ x.outst.length then s
      else
        let q1 := { q with seq := x.devNext, tries := 0, rto := s.hlRetx_RTO_US, sentAt := s.now }
        State.pumpGo i n
          ((s.modSess i fun x => { x with todo := rest, outst := x.outst ++ [q1], devNext := x.devNext + 1 }).reqSend i q1 false)

/-- The requests that wait take places in the device window. -/
def State.pump (s : State) (i : Nat) : State := State.pumpGo i 32 s

/-- The device fetches from and posts to a ring: it is enabled, it is not stopped, and its session is open (13_rings.md R478, R501);
never for a RECOVER session (R443). -/
def State.ringLive (s : State) (r : Nat) : Bool :=
  let x := s.sess (s.hlRingCfg_SESSION r)
  s.hlRingCfg_EN r && !(s.ring r).stopped && x.isOpen && !x.recover

/-- A device request of a ring is made. -/
def State.ask (s : State) (r : Nat) (kind : ReqKind) (haddr len : Nat) (data : List Byte) : State :=
  let i := s.hlRingCfg_SESSION r
  let q : DevReq :=
    { kind := kind
      ring := r
      haddr := BitVec.ofNat 64 haddr
      len := len
      data := data
      seq := 0
      tries := 0
      rto := 0
      sentAt := 0
      dead := false }
  (s.modSess i fun x => { x with todo := x.todo ++ [q] }).pump i

/-! ### A ring's end (13_rings.md R500, R501) -/

/-- The requests of a ring: the ones that wait are dropped, and the answers of the ones outstanding change nothing. Log 130 (DEDUCED). -/
def State.ringCut (s : State) (r : Nat) : State :=
  s.modSess (s.hlRingCfg_SESSION r) fun x => { x with
    todo := x.todo.filter fun q => decide (q.ring ≠ r)
    outst := x.outst.map fun q => if q.ring = r then { q with dead := true } else q }

/-- The records of a ring are discarded from the post buffer and counted. -/
def State.ringDrop (s : State) (r : Nat) : State :=
  let i := s.hlRingCfg_SESSION r
  let b := Tab.get [] i s.hl.posts
  let s1 := s.modHl fun h => { h with posts := Tab.set i (b.filter fun e => decide (e.ring ≠ r)) h.posts }
  eachOf (b.filter fun e => decide (e.ring = r)) (fun _ s => s.dropPost r) s1

/-- A ring is disabled: staged descriptors are discarded without completions, waiting records are discarded and counted, and both
indices restart at 0. -/
def State.ringOff (s : State) (r : Nat) : State :=
  ((s.ringCut r).ringDrop r).modRing r fun x => { x with hidx := 0, own := 0, didx := 0, staging := [], asked := 0, life := x.life + 1 }

/-- A ring is enabled: both indices and its loss count start at 0, and STOPPED is clear. -/
def State.ringOn (s : State) (r : Nat) : State :=
  s.modRing r fun x => { x with
    hidx := 0
    own := 0
    didx := 0
    staging := []
    asked := 0
    stopped := false
    loss := 0
    lossSince := 0
    lossRec := 0
    pollAt := s.now }

/-- An FDATA or PACK with STATUS 1 stops its ring (R501). -/
def State.ringStop (s : State) (r : Nat) : State :=
  ((s.ringCut r).ringDrop r).modRing r fun x => { x with stopped := true, asked := 0 }

/-! ### Sessions lost (12_imcel.md R450) -/

/-- A session is closed or lost: its index becomes FREE; held requests, the cache and device requests are discarded; records posted
and not acknowledged stay in the post buffer, to be posted again (R463). Log 129 (DEDUCED). -/
def State.sessLost (s : State) (i : Nat) : State :=
  let s1 := s.modSess i fun x =>
    { isOpen := false
      window := 0
      devRetx := x.devRetx
      hostDup := x.hostDup
      dropHold := x.dropHold
      dropStale := x.dropStale
      discards := x.discards
      chal := x.chal }
  s1.modHl fun h => { h with
    posts := (Tab.set i ((Tab.get [] i h.posts).map fun e => { e with left := 0 }) h.posts)
    rings := h.rings.map fun x => if s.hlRingCfg_SESSION x.1 = i then (x.1, { x.2 with asked := 0 }) else x }

/-! ### Host ports (12_imcel.md R470 to R473) -/

/-- HL.CTRL.PORT_EN of a port. -/
def State.portOn (s : State) (p : Nat) : Bool := bit s.hlCtrl_PORT_EN p

/-- A session whose timers paused has them resume: each request falls due as much later as its timer stood (R470).
Log 129 (DEDUCED). -/
def Session.resumed (x : Session) (now : Nat) : Session :=
  { x with outst := x.outst.map fun q => { q with sentAt := q.sentAt + (now - max x.pausedFrom q.sentAt) } }

/-- Retransmission timers of the sessions on a port resume after a settle in which they paused (R470). Log 129 (DEDUCED). -/
def State.timersOn (s : State) (p : Nat) : State :=
  eachOf (upTo 8) (fun i s => if (s.sess i).port = p then s.modSess i (Session.resumed · s.now) else s) s

/-- Retransmission timers of the sessions on a port pause as it begins to settle (R470). -/
def State.timersOff (s : State) (p : Nat) : State :=
  eachOf (upTo 8) (fun i s => if (s.sess i).port = p then s.modSess i fun x => { x with pausedFrom := s.now } else s) s

/-- A port's synthesiser leaves lock: the port settles (R470). A link that was up is lost to the Timekeeper (R79). -/
def State.portSettle (s : State) (p rate : Nat) : State :=
  let was := (s.port p).up
  let s0 := (if (s.port p).settling then s.timersOn p else s).timersOff p
  let s1 := s0.modPort p fun x => { x with
    up := false
    rate := 0
    settling := true
    settleAt := s.now
    stepAt := s.now
    tryRate := rate }
  if was then s1.tkLinkDrop p else s1

/-- A port starts from anew: it settles at its SPEED, or searches from 25GBASE-R on (R470, R472). -/
def State.portStart (s : State) (p : Nat) : State := s.portSettle p (if s.hlPCfg_SPEED p = 0 then 1 else s.hlPCfg_SPEED p)

/-- A port's link goes down: nothing settles, and what was held is discarded. Log 129 (DEDUCED). -/
def State.portDown (s : State) (p : Nat) : State :=
  let was := (s.port p).up
  let s0 := if (s.port p).settling then s.timersOn p else s
  let s1 := s0.modPort p fun x => { x with up := false, rate := 0, settling := false, held := [] }
  if was then s1.tkLinkDrop p else s1

/-- After a write of HL.CTRL or HL.p.CFG, from the state before it: a port that is enabled or changes rate settles, and one that is
disabled goes down (R470). -/
def State.portsFollow (s old : State) : State :=
  eachOf (upTo 2) (fun p s =>
    if s.portOn p then
      if !old.portOn p || decide (old.hlPCfg_SPEED p ≠ s.hlPCfg_SPEED p) then s.portStart p else s
    else if old.portOn p then s.portDown p
    else s) s

/-- SL1 is declared once zeroing is done and a host port has locked since reset, unless the Host Link failed its self-test
(15_startup.md R543, R547). Log 189 (DEDUCED). -/
def State.declare (s : State) : State :=
  if s.aon.phase = .done ∧ !s.aon.sl1 ∧ s.aon.hostLocked ∧ !s.aon.hlFail then (s.modAon fun a => { a with sl1 := true }).relevel else s

/-- The host ports have begun to settle since reset was released (15_startup.md R547). -/
def State.portsStarted (s : State) : Bool :=
  decide (s.aon.phase = .training ∨ s.aon.phase = .zeroing ∨ s.aon.phase = .done)

/-- What a port held leaves it, in order (R470, R95). -/
def State.portFlush (s : State) (p : Nat) (l : List HeldOut) : State :=
  eachOf l (fun o s =>
    match o.out with
    | .ptp _ m => s.fwdLeave p m o.fwd
    | x => s.send x) s

/-- HL_PORT_LOCK: a settling port locks (R470); held frames leave, timers resume, FAULT clears. -/
def execHlPortLock (dt port : Nat) (s : State) : Host.Outcome State Fault Refusal :=
  .next <|
    let s1 := s.pass dt
    let x := s1.port port
    if !s1.portOn port || x.up || !(x.settling || decide (s1.hlPCfg_SPEED port = 0)) || !s1.portsStarted then s1
    else
      let s2 := s1.modPort port fun y => { y with
        up := true
        rate := y.tryRate
        settling := false
        fault := false
        lockedSince := true
        held := [] }
      let s3 := s2.modAon fun a => { a with hostLocked := true, lastRate := if port = 0 then x.tryRate else a.lastRate }
      let s4 := if x.settling then s3.timersOn port else s3
      ((s4.portFlush port x.held).declare).relevel

/-- HL_SETTLE_LIMIT: a port has not locked by the settle limit (R470): held frames are discarded, and the port is contained, but for
one that searches (R472). Log 131 (DEDUCED). -/
def execHlSettleLimit (port : Nat) (s : State) : Host.Outcome State Fault Refusal :=
  .next <|
    let x := s.port port
    if !x.settling then s
    else
      let s1 := s.waitUntil (x.settleAt + s.hlSettle_LIMIT_US * usTicks)
      let s2 := (s1.modPort port fun y => { y with settling := false, held := [] }).timersOn port
      if s.hlPCfg_SPEED port = 0 then s2
      else
        let s3 := s2.modPort port fun y => { y with fault := true, lockedSince := false, stepAt := if x.fault then y.stepAt else s2.now }
        (if x.lockedSince then s3.raiseU 0x72 0x70 port 0 else s3).relevel

/-- HL_PORT_RETRY: a contained port retries a settle 1 s after the limit and every 1 s after (R470). -/
def execHlPortRetry (port : Nat) (s : State) : Host.Outcome State Fault Refusal :=
  .next <|
    let x := s.port port
    if !x.fault || x.settling || !s.portOn port then s
    else
      let s1 := s.waitUntil (x.stepAt + 1000 * msTicks)
      (s1.modPort port fun y => { y with retries := satAdd 65535 y.retries 1 }).portStart port

/-- HL_SPEED_SEARCH: a searching port moves to the next rate after 400 ms (R472). Log 131 (DEDUCED). -/
def execHlSpeedSearch (port : Nat) (s : State) : Host.Outcome State Fault Refusal :=
  .next <|
    let x := s.port port
    if x.up || decide (s.hlPCfg_SPEED port ≠ 0) || !s.portOn port || !s.portsStarted then s
    else (s.waitUntil (x.stepAt + 400 * msTicks)).portSettle port (x.tryRate % 3 + 1)

/-- HL_LINK_DOWN: a port's link drops (R473); a port of SPEED 0 searches (R472). Log 131 (DEDUCED). -/
def execHlLinkDown (dt port : Nat) (s : State) : Host.Outcome State Fault Refusal :=
  .next <|
    let s1 := s.pass dt
    if !(s1.port port).up then s1
    else if s1.hlPCfg_SPEED port = 0 then s1.portStart port
    else s1.portDown port

/-- HL_SIGNAL_REGAINED: a port that had lost signal regains it and settles (R470). -/
def execHlSignalRegained (dt port : Nat) (s : State) : Host.Outcome State Fault Refusal :=
  .next <|
    let s1 := s.pass dt
    let x := s1.port port
    if x.up || x.settling || x.fault || !s1.portOn port || !s1.portsStarted then s1
    else s1.portSettle port (if s1.hlPCfg_SPEED port = 0 then max 1 x.tryRate else s1.hlPCfg_SPEED port)

end Sys2Proof.Machine
end

