-- ==== Sys2Proof/Machine/Verify.lean ====
section
/-! DEFINITION. The loader's verifier for program images (10_programs.md R367, R373 to R375): CRC-32, the reason codes in
their order, and the uniform-counter procedure. -/

namespace Sys2Proof.Machine

open Sys2Proof

/-! ### CRC-32 of IEEE 802.3 (R367) -/

/-- Eight bit steps of the reflected CRC. -/
def crcBits : Nat → Nat → Nat
  | 0, c => c
  | k + 1, c => crcBits k (if c % 2 = 1 then (c / 2) ^^^ 0xEDB88320 else c / 2)

/-- CRC-32 of IEEE 802.3 over bytes. -/
def crc32 (l : List Byte) : Nat := (l.foldl (fun c b => crcBits 8 (c ^^^ b.toNat)) 0xFFFFFFFF) ^^^ 0xFFFFFFFF

/-- The image's CRC, with its field at 0. -/
def imgCrc (img : List Byte) : Nat := crc32 (img.take 12 ++ zeros 4 ++ img.drop 16)

/-- The first failing check of a list, in order. -/
def firstFail : List (Bool × Nat) → Option Nat
  | [] => none
  | (bad, r) :: t => if bad then some r else firstFail t

/-- INDEX of R372. -/
def loadIndex (sect i : Nat) : Nat := sect * 2 ^ 28 + i % 2 ^ 28

/-- The header checks common to both kinds of image, by the byte offset of the field (R367, R374). -/
def headChecks (img : List Byte) (len kind : Nat) : List (Nat × Bool × Nat) :=
  [(0, decide (leNat (sub img 0 4) ≠ 0x4B525541), 0x01), (4, decide (u8 img 4 ≠ 1), 0x02), (5, decide (u8 img 5 ≠ kind), 0x03),
   (8, decide (len < u32 img 8), 0x04)]

/-- The header checks of a program image. -/
def progHead (img : List Byte) (len : Nat) : List (Nat × Bool × Nat) :=
  let na := imgNA img
  let ne := imgNE img
  let kb := u32 img 32
  headChecks img len 1 ++
    [(8, decide (u32 img 8 ≠ 64 + 32 * (na + ne + imgNDesc img)), 0x04),
     (12, decide (u32 img 12 ≠ imgCrc (img.take (u32 img 8))), 0x05),
     (16, decide (65536 < na + ne), 0x04), (16, decide (na = 0), 0x06), (20, decide (ne = 0), 0x06),
     (24, decide (256 < imgNDesc img), 0x04),
     (28, decide (na ≤ u16 img 28), 0x06), (30, decide (ne ≤ u16 img 30), 0x06),
     (32, decide (kb < 2048) || decide (spSize / 1024 < kb), 0x07)]

/-- The first violation of a list of header checks. -/
def headFail (sect : Nat) : List (Nat × Bool × Nat) → Option (Nat × Nat)
  | [] => none
  | (off, bad, r) :: t => if bad then some (r, loadIndex sect off) else headFail sect t

/-! ### Descriptors (section 3) -/

/-- The first reason that rejects a descriptor. -/
def descFail (spsz : Nat) (b : List Byte) : Option Nat :=
  let d := descOf b
  firstFail
    [(!fmtOk d.fmt, 0x20),
     (decide (d.d0 = 0 ∨ d.d1 = 0 ∨ d.d2 = 0 ∨ d.d3 = 0) || decide (1 < d.loc) || (decide (d.loc = 0) && decide (spsz < d.extent))
        || (fmtMx d.fmt && decide (d.d0 % 32 ≠ 0)), 0x21)]

/-! ### Commands (sections 1 and 2) -/

/-- Opcodes of the access stream (R243, R310). -/
def accessOps : List Nat :=
  [0x01, 0x02, 0x03, 0x04, 0x05, 0x08, 0x09, 0x0A, 0x0B, 0x0C, 0x10, 0x20, 0x21, 0x22, 0x23, 0x24, 0x25, 0x28, 0x2F, 0x84, 0x85,
   0x86, 0x87]
/-- Opcodes of the execute stream (R243, R281, R310). -/
def executeOps : List Nat :=
  [0x0A, 0x0B, 0x0C, 0x10, 0x12, 0x14, 0x2F, 0x40, 0x41, 0x42, 0x43, 0x44, 0x45, 0x46, 0x47, 0x48, 0x49, 0x4A, 0x80]
/-- A Relay-level opcode (R243). -/
def relayOp (op : Nat) : Bool := decide (0x20 ≤ op ∧ op ≤ 0x25)
/-- A macro-operation (R281, R310). -/
def macroOpc (op : Nat) : Bool := decide (0x40 ≤ op ∧ op ≤ 0x4A) || decide (op = 0x80)
/-- A KV access command (R310). -/
def kvOp (op : Nat) : Bool := decide (0x84 ≤ op ∧ op ≤ 0x87)

/-- The source operands that a macro-operation reads: 0 A, 1 B, 2 C. -/
def macroSrcs (c : List Byte) : List Nat :=
  match cOp c with
  | 0x40 | 0x41 => withC c [0, 1]
  | 0x42 => [0, 1]
  | 0x43 => [1]
  | 0x44 => [0]
  | 0x45 => [0] ++ (if eltTakesB (u8 c 14) then [1] else []) ++ (if u8 c 14 = 11 then [2] else [])
  | 0x46 => withC c (if bit (u8 c 21) 1 then [0, 1] else [0])
  | 0x47 | 0x48 => [0, 1]
  | 0x49 => [0]
  | 0x4A => withC c (if mBUSE c then [0, 1] else [0])
  | _ => [0, 2]

/-- A counter number outside a stream's own (R232). -/
def badC (st : Stream) (x : Nat) : Bool := !(if st = .access then decide (x ≤ 3) else decide (4 ≤ x ∧ x ≤ 7))
/-- A comparator number outside a stream's own (R232). -/
def badK (st : Stream) (x : Nat) : Bool := !(if st = .access then decide (x ≤ 1) else decide (2 ≤ x ∧ x ≤ 3))
/-- A scalar source that names a counter or an address register of the other stream, or an address register out of range
(R232, R234). -/
def badSrcReg (st : Stream) (src reg : Nat) : Bool :=
  (decide (src < 8) && badC st src) || (decide (src = 0xD) && (decide (st = .execute) || decide (7 < reg)))
/-- A scalar source code that a stream may not read (R234). Log 88 (DEDUCED). -/
def badSrc (st : Stream) (src : Nat) : Bool := decide (0xD < src) || (st = .execute && decide (0xB ≤ src))

/-- BAD_REGISTER of a command (R374). -/
def badRegister (st : Stream) (c : List Byte) : Bool :=
  (cPen c && badK st (u8 c 7 % 4)) || (decide (st = .execute) && decide (u8 c 6 ≠ 0)) ||
  match cOp c with
  | 0x05 => decide (7 < u8 c 8) || decide (7 < u8 c 9)
  | 0x08 => decide (7 < u8 c 8)
  | 0x09 => decide (7 < u8 c 8) || (bit (u8 c 9) 3 && badC st (u8 c 9 % 8))
  | 0x0A => badC st (u8 c 8) || badSrcReg st (u8 c 9) (u8 c 10)
  | 0x0B => badC st (u8 c 8) || (bit (u8 c 10) 0 && badSrcReg st (u8 c 9) (u8 c 11))
  | 0x0C => badK st (u8 c 8) || badSrcReg st (u8 c 9) (u8 c 10) || (bit (u8 c 16) 0 && badC st (u8 c 17))
  | 0x10 => match u8 c 8 with
    | 1 | 2 => badK st (u8 c 9)
    | 3 => badC st (u8 c 9)
    | _ => false
  | 0x12 => badK st (u8 c 8)
  | 0x14 => badC st (u8 c 8)
  | 0x20 => decide (7 < u8 c 8)
  | 0x22 | 0x25 => badC st (u8 c 8)
  | 0x23 => badC st (u8 c 8) || decide (7 < u8 c 10)
  | 0x24 => badC st (u8 c 8) || decide (7 < u8 c 9)
  | 0x28 => decide (7 < u8 c 8)
  | 0x84 | 0x87 => badC st (u8 c 23) || badSrcReg st (u8 c 11) (u8 c 22)
  | 0x85 | 0x86 => badC st (u8 c 23) || badSrcReg st (u8 c 11) (u8 c 22) || badSrcReg st (u8 c 16) (u8 c 17)
  | _ => false

/-- BAD_SCALAR of a command (R374): a source that the stream or the command may not read. -/
def badScalar (st : Stream) (c : List Byte) : Bool :=
  let seq := !([0, 1, 2, 3, 0x8, 0xB, 0xD].contains (u8 c 11))
  match cOp c with
  | 0x0A | 0x0C => badSrc st (u8 c 9)
  | 0x0B => bit (u8 c 10) 0 && badSrc st (u8 c 9)
  | 0x84 | 0x87 => seq
  | 0x85 | 0x86 => seq || badSrc st (u8 c 16)
  | _ => false

/-- The descriptors that a macro-operation names, by operand. -/
def macroDesc (img c : List Byte) (x : Nat) : Desc := descOf (imgDesc img (macroHandle c x))

/-- BAD_QUEUE of a command (R282, R374): of a handle not below NDESC, which is a BAD_HANDLE, nothing is known. Log 87 (DEDUCED). -/
def badQueue (img c : List Byte) : Bool :=
  let known := fun x => decide (macroHandle c x < imgNDesc img)
  match cOp c with
  | 0x03 => decide (3 < u8 c 8) || !imgInbound img (u8 c 8)
  | 0x04 => decide (3 < u8 c 8) || imgInbound img (u8 c 8)
  | 0x14 => let d := descOf (imgDesc img (u16 c 12)); decide (u16 c 12 < imgNDesc img) && decide (d.loc = 1) && !imgInbound img d.queue
  | op =>
    if macroOpc op then
      let d := macroDesc img c 3
      let out := known 3 && decide (d.loc = 1)
      let src := (((macroSrcs c).filter known).map (macroDesc img c)).filter fun d => decide (d.loc = 1)
      let qs := src.map (fun d => d.queue) ++ (if out then [d.queue] else [])
      decide (qs.eraseDups.length ≠ qs.length) || (out && (imgInbound img d.queue || decide (op = 0x48)))
        || src.any fun d => !imgInbound img d.queue
    else false

/-- BAD_ADDRESS of a command: a scratchpad extent with SUSE 0 beyond MIN_SPSZ (R374). A token of KV_APPEND has 32 bytes or more, whatever
the cache (08_attention.md R304). -/
def badAddress (spsz : Nat) (c : List Byte) : Bool :=
  !bit (u8 c 9) 3 &&
  match cOp c with
  | 0x01 | 0x02 => decide (u16 c 16 ≠ 0) && decide (u16 c 10 ≠ 0) && decide (spsz < u32 c 12 + (u16 c 16 - 1) * u32 c 24 + u16 c 10)
  | 0x03 | 0x04 => decide (spsz < u32 c 12 + 31 * u32 c 16 + rowBytes (u8 c 10) 32)
  | 0x84 => decide (spsz < u32 c 12 + 32 * max 1 (u16 c 20)) || decide (spsz < u32 c 12 + u32 c 16 + 32 * max 1 (u16 c 20))
  | _ => false

/-- BAD_FIELD of a command: an enumerated operand outside its codes (R374). Log 88 (DEDUCED). -/
def badField (c : List Byte) : Bool :=
  (macroOpc (cOp c) && decide (1 < bits (u8 c 13) 4 3)) ||
  match cOp c with
  | 0x03 | 0x04 => !fmtOk (u8 c 10)
  | 0x05 => decide (1 < u8 c 10)
  | 0x0C => decide (3 < u8 c 11)
  | 0x12 => decide (1 < u8 c 9)
  | 0x14 => decide (3 < u8 c 9) || decide (1 < u8 c 10)
  | 0x23 => decide (1 < u8 c 9)
  | 0x28 => decide (2 < u8 c 9) || !decide (56 ≤ u8 c 10 ∧ u8 c 10 ≤ 63)
  | 0x42 => decide (1 < u8 c 14) || decide (1 < u8 c 20)
  | 0x44 => decide (6 < u8 c 14) || decide (3 < u8 c 16)
  | 0x45 => decide (16 < u8 c 14)
  | 0x47 => decide (1 < u8 c 16)
  | 0x48 => decide (2 < u8 c 14) || decide (1 < u8 c 16)
  | 0x4A => decide (2 < u8 c 14)
  | 0x80 => decide (2 < u8 c 20)
  | 0x87 => decide (3 < u8 c 12)
  | _ => false

/-- BAD_HANDLE of a command (R374). -/
def badHandle (img c : List Byte) : Bool :=
  let n := imgNDesc img
  match cOp c with
  | 0x14 => decide (n ≤ u16 c 12)
  | op =>
    if macroOpc op then
      (macroSrcs c ++ [3]).any (fun x => decide (n ≤ macroHandle c x)) ||
        (decide (op = 0x80) && (decide (u8 c 10 ≠ 0) || !mCUSE c)) || (decide (op = 0x45 ∧ u8 c 14 = 11) && !mCUSE c) ||
        (decide (op = 0x46) && bit (u8 c 21) 1 && !mBUSE c)
    else false

/-- Two dimensions agree, or the first is 1 (R283, R290). -/
def fits (x d : Nat) : Bool := decide (x = d) || decide (x = 1)
/-- Every dimension fits. -/
def fitsAll (x d : Desc) : Bool := fits x.d0 d.d0 && fits x.d1 d.d1 && fits x.d2 d.d2 && fits x.d3 d.d3
/-- Two tensors have the same dimensions. -/
def sameDims (x d : Desc) : Bool := decide (x.d0 = d.d0 ∧ x.d1 = d.d1 ∧ x.d2 = d.d2 ∧ x.d3 = d.d3)

/-- One side of the output of CONV2D (R285); none when it is not positive. -/
def convSide (w pads dil k stride : Nat) : Option Nat :=
  if dil * (k - 1) + 1 ≤ w + pads then some ((w + pads - dil * (k - 1) - 1) / stride + 1) else none

/-- The shapes of a command satisfy the rules of its operation (R283 to R296). Log 109 (DEDUCED). -/
def shapeOk (img c : List Byte) : Bool :=
  let a := macroDesc img c 0
  let b := macroDesc img c 1
  let k := macroDesc img c 2
  let d := macroDesc img c 3
  match cOp c with
  | 0x40 =>
    let ka := if mTA c then a.d1 else a.d0
    let m := if mTA c then a.d0 else a.d1
    let kb := if mTB c then b.d0 else b.d1
    let n := if mTB c then b.d1 else b.d0
    decide (ka = kb ∧ d.d0 = n ∧ d.d1 = m) && fits a.d2 d.d2 && fits a.d3 d.d3 && fits b.d2 d.d2 && fits b.d3 d.d3 &&
      (!mCUSE c || (decide (k.d0 = d.d0 ∧ k.d2 = d.d2 ∧ k.d3 = d.d3) && fits k.d1 d.d1)) &&
      !(fmtMx a.fmt && mTA c) && !(fmtMx b.fmt && !mTB c)
  | 0x41 =>
    let tl := u8 c 28
    let br := u8 c 29
    decide (b.d0 = (if mDW c then 1 else a.d0) ∧ b.d3 = d.d0 ∧ a.d3 = d.d3) && (!mDW c || decide (d.d0 = a.d0)) &&
      (!mCUSE c || decide (k.d0 = d.d0 ∧ k.d1 = 1 ∧ k.d2 = 1 ∧ k.d3 = 1)) &&
      decide (convSide a.d1 (tl / 16 + br / 16) (u8 c 27) b.d1 (u8 c 25) = some d.d1) &&
      decide (convSide a.d2 (tl % 16 + br % 16) (u8 c 26) b.d2 (u8 c 24) = some d.d2)
  | 0x42 =>
    decide (a.d0 = d.d0 ∧ a.d3 = d.d3 ∧ b.fmt = 0x11 ∧ b.d3 = 1) &&
      (if u8 c 14 = 0 then decide (b.d0 = 2) else decide (b.d0 = 3 ∧ b.d1 = 3 ∧ b.d2 = 1))
  | 0x43 =>
    decide (b.fmt = 0x07 ∧ b.d0 = 2 ∧ b.d3 = 1 ∧ d.fmt = 0x07 ∧ d.d0 = 2 ∧ d.d1 = u16 c 20 + 1 ∧ d.d2 = u16 c 22 + 1 ∧ d.d3 = 1)
  | 0x44 =>
    let x := u8 c 16
    decide (d.d0 = if x = 0 then 1 else a.d0) && decide (d.d1 = if x = 1 then 1 else a.d1) &&
      decide (d.d2 = if x = 2 then 1 else a.d2) && decide (d.d3 = if x = 3 then 1 else a.d3) &&
      (!(u8 c 14 = 4 || u8 c 14 = 5) || decide (5 ≤ d.fmt ∧ d.fmt ≤ 7))
  | 0x45 =>
    fitsAll a d &&
      (if u8 c 14 = 14 then decide (b.fmt = 0x0C ∧ b.d0 = 257 ∧ b.d1 = 1 ∧ b.d2 = 1 ∧ b.d3 = 1)
       else !eltTakesB (u8 c 14) || fitsAll b d) && (!(u8 c 14 = 11) || fitsAll k d)
  | 0x46 =>
    (fmtI a.fmt || decide (a.fmt = 0x11)) && decide (d.fmt = 0x07 ∧ d.d1 = 1 ∧ d.d2 = 1 ∧ d.d3 = 1) && decide (u8 c 20 ≤ 31) &&
      (!bit (u8 c 21) 1 || (fmtI b.fmt && sameDims b a)) && (!mCUSE c || (fmtI k.fmt && sameDims k d))
  | 0x47 =>
    decide (5 ≤ b.fmt ∧ b.fmt ≤ 7) && decide (a.fmt = d.fmt ∧ a.d0 = d.d0 ∧ d.d1 = b.elems) &&
      decide (a.d2 = 1 ∧ a.d3 = 1 ∧ d.d2 = 1 ∧ d.d3 = 1)
  | 0x48 =>
    decide (5 ≤ b.fmt ∧ b.fmt ≤ 7) && decide (a.fmt = d.fmt ∧ a.d0 = d.d0 ∧ a.d1 = b.elems) &&
      decide (a.d2 = 1 ∧ a.d3 = 1 ∧ d.d2 = 1 ∧ d.d3 = 1)
  | 0x49 => decide (d.d0 = (if mTA c then a.d1 else a.d0) ∧ d.d1 = (if mTA c then a.d0 else a.d1) ∧ d.d2 = a.d2 ∧ d.d3 = a.d3)
  | 0x4A =>
    let vec := fun (x : Desc) =>
      decide (x.d0 = a.d0 ∧ x.d1 = 1 ∧ x.d2 = 1 ∧ x.d3 = 1) && [0x0A, 0x0B, 0x0C].contains x.fmt
    sameDims a d && (!mBUSE c || vec b) && (!mCUSE c || vec k)
  | _ => true

/-- The rows of a scratchpad tensor, as first byte and length. -/
def Desc.rowSpans (d : Desc) : List (Nat × Nat) := (upTo (d.d1 * d.d2 * d.d3)).map fun r => (d.rowOff r, rowBytes d.fmt d.d0)

/-- Two scratchpad tensors share a byte. -/
def overlaps (x y : Desc) : Bool :=
  decide (x.loc = 0) && decide (y.loc = 0) &&
    x.rowSpans.any fun p => y.rowSpans.any fun q => decide (p.1 < q.1 + q.2) && decide (q.1 < p.1 + p.2)

/-- OVERLAP (R282): D overlaps a source in scratchpad, but for the three exceptions. Log 109 (DEDUCED). -/
def badOverlap (img c : List Byte) : Bool :=
  let op := cOp c
  let d := macroDesc img c 3
  macroOpc op && (macroSrcs c).any fun x =>
    let y := macroDesc img c x
    overlaps d y &&
      !((decide (x = 2) && [0x40, 0x41, 0x46].contains op && decide (u8 c 11 = u8 c 8)) ||
        ([0x45, 0x49].contains op && decide (x ≤ 1) && decide (y = d)))

/-- BAD_REQUANT (R284). -/
def badRequant (img c : List Byte) : Bool :=
  (cOp c = 0x40 || cOp c = 0x41) &&
    if fmtI (macroDesc img c 0).fmt && fmtI (macroDesc img c 3).fmt then decide (u32 c 16 = 0) && decide (u16 c 22 ≠ 0)
    else decide (u64 c 16 ≠ 0)

/-- OVER_LIMIT (R301). -/
def overLimit (img c : List Byte) : Bool :=
  let a := macroDesc img c 0
  let b := macroDesc img c 1
  let out := fun lo hi x => decide (x < lo) || decide (hi < x)
  match cOp c with
  | 0x40 => out 1 1048576 (if mTA c then a.d1 else a.d0) || decide (63 < u8 c 20)
  | 0x41 =>
    out 1 1048576 (b.d0 * b.d1 * b.d2) || out 1 15 b.d1 || out 1 15 b.d2 || out 1 8 (u8 c 24) || out 1 8 (u8 c 25) ||
      out 1 8 (u8 c 26) || out 1 8 (u8 c 27) || decide (63 < u8 c 20)
  | 0x42 => decide (u8 c 14 = 0) && (out 1 4096 (u16 c 16) || out 1 4096 (u16 c 18) || out 2 4096 b.d1 || out 2 4096 b.d2)
  | 0x43 => out 1 4096 (u16 c 16) || out 1 4096 (u16 c 18) || out 1 4096 b.d1 || out 1 4096 b.d2
  | 0x45 =>
    let lo := floatVal fp32 (u32 c 16)
    let hi := floatVal fp32 (u32 c 20)
    decide (u8 c 14 = 14) && (!lo.lt hi || (lo matches .inf _) || (hi matches .inf _))
  | _ => false

/-- BAD_ATTEND (08_attention.md R317). Log 109 (DEDUCED). -/
def badAttend (img c : List Byte) : Bool :=
  let a := macroDesc img c 0
  let k := macroDesc img c 2
  let d := macroDesc img c 3
  let f := fun (x : Desc) => [0x0A, 0x0B, 0x0C].contains x.fmt
  decide (cOp c = 0x80) &&
    !(f a && f d && sameDims a d && decide (1 ≤ a.d1 ∧ a.d1 ≤ 4096) && decide (a.d3 ≤ 256) &&
      decide (k.fmt = 0x07 ∧ k.d0 = 3 ∧ k.d1 = a.d3 ∧ k.d2 = 1 ∧ k.d3 = 1) && decide (1 ≤ u16 c 22 ∧ u16 c 22 ≤ 32) &&
      decide (bits (u8 c 13) 4 3 = 0) && decide (u8 c 12 % 32 = 1))

/-- BAD_RSCALAR (R245): a floating, block-scaled or packed format. Log 87 (DEDUCED). -/
def badRscalar (img c : List Byte) : Bool :=
  decide (cOp c = 0x14) &&
    let f := (descOf (imgDesc img (u16 c 12))).fmt
    fmtF f || decide (f = 0x0F) || decide (f = 0x10)

/-! ### Uniform counters (R375) -/

/-- A register by kind and number: counters from 0 on, address registers from 16 on. -/
def nonuniSrc (l : List Nat) (src reg : Nat) : Bool :=
  decide (src = 0x8) || (decide (src < 8) && l.contains src) || (decide (src = 0xD) && l.contains (16 + reg))

/-- The register that a command makes non-uniform, given those known. -/
def nonuniBy (l : List Nat) (c : List Byte) : Option Nat :=
  match cOp c with
  | 0x0A => if nonuniSrc l (u8 c 9) (u8 c 10) then some (u8 c 8) else none
  | 0x08 => if u32 c 12 ≠ 0 then some (16 + u8 c 8) else none
  | 0x09 => if bit (u8 c 9) 3 && l.contains (u8 c 9 % 8) then some (16 + u8 c 8) else none
  | 0x0B => if bit (u8 c 10) 0 && nonuniSrc l (u8 c 9) (u8 c 11) then some (u8 c 8) else none
  | 0x05 => if l.contains (16 + u8 c 9) then some (16 + u8 c 8) else none
  | 0x14 => if u8 c 10 = 0 then some (u8 c 8) else none
  | op => if kvOp op then some (u8 c 23) else none

/-- One pass of the procedure over the commands of a stream. -/
def nonuniPass (cs : List (List Byte)) (l : List Nat) : List Nat :=
  cs.foldl (fun l c => match nonuniBy l c with | some r => if l.contains r then l else r :: l | none => l) l

/-- The registers that may differ between Lanes: the pass repeated, at most once per register. -/
def nonuni (cs : List (List Byte)) : List Nat := (upTo 24).foldl (fun l _ => nonuniPass cs l) []

/-- The commands of a stream. -/
def imgCmds (img : List Byte) (st : Stream) : List (List Byte) := (upTo (imgCount img st)).map (imgCmd img st)

/-- The first reason that rejects a command, in ascending order of reasons (R373, R374). Log 109 (DEDUCED). -/
def cmdFail (img : List Byte) (st : Stream) (non : List Nat) (c : List Byte) : Option Nat :=
  let op := cOp c
  let spsz := 1024 * u32 img 32
  let own := if st = .access then accessOps else executeOps
  let br := decide (op = 0x10)
  firstFail
    [(!(accessOps.contains op || executeOps.contains op), 0x10),
     (decide (u8 c 1 % 2 ≠ (if st = .access then 0 else 1)) || !own.contains op, 0x11),
     (decide (cRepeat c = 0), 0x12),
     (badRegister st c, 0x13),
     (cPen c && (relayOp op || br || decide (op = 0x85) || decide (op = 0x86)), 0x14),
     (br && (decide (imgCount img st ≤ u32 c 12) || decide (4 < u8 c 8) || (decide (u8 c 8 = 4) && decide (st = .execute))), 0x15),
     (br && decide (u8 c 8 = 3) && non.contains (u8 c 9), 0x16),
     (badScalar st c, 0x17),
     (badQueue img c, 0x18),
     (badAddress spsz c, 0x19),
     (badField c, 0x1A),
     (badHandle img c, 0x1B),
     ((op = 0x40 || op = 0x41) && decide (fmtClass (macroDesc img c 0).fmt ≠ fmtClass (macroDesc img c 1).fmt), 0x1C),
     (macroOpc op && !shapeOk img c, 0x1D),
     (badOverlap img c, 0x1E),
     (badRequant img c, 0x1F),
     (overLimit img c, 0x22),
     (badRscalar img c, 0x23),
     (badAttend img c, 0x24)]

/-- The first violation among the entries of a table, with its INDEX. -/
def tableFail (sect : Nat) (f : List Byte → Option Nat) (l : List (List Byte)) : Option (Nat × Nat) :=
  l.zipIdx.findSome? fun x => (f x.1).map fun r => (r, loadIndex sect x.2)

/-- The verifier's answer for a program image taken with a LENGTH: REASON and INDEX of the first violation, in the order of
sections 0, 3, 1, 2, 4 (R373); none when the image is accepted. Log 109 (DEDUCED). -/
def progVerify (img : List Byte) (len : Nat) : Option (Nat × Nat) :=
  (headFail 0 (progHead img len)).orElse fun _ =>
  (tableFail 3 (descFail (1024 * u32 img 32)) ((upTo (imgNDesc img)).map (imgDesc img))).orElse fun _ =>
  let a := imgCmds img .access
  let e := imgCmds img .execute
  (tableFail 1 (cmdFail img .access (nonuni a)) a).orElse fun _ =>
  (tableFail 2 (cmdFail img .execute (nonuni e)) e).orElse fun _ =>
  if a.any fun c => decide (cOp c = 0x20) then none else some (0x30, loadIndex 4 0)

end Sys2Proof.Machine
end

