-- ==== Sys2Proof/Machine/Programs.lean ====
section
/-! DEFINITION. Programs (10_programs.md): loading and verification, exchange, change of program and retirement, breaks and
stepping; and the watchdog and failures of the Relay and the Lanes (06_aurik_machine.md R261 to R263). -/

namespace Sys2Proof.Machine

open Sys2Proof

/-- The Relay's program state changed by `f`. -/
def State.modProg (s : State) (f : Prog → Prog) : State := s.modRly fun r => { r with prog := f r.prog }

/-! ### Loading (R369 to R372) -/

/-- PROG_LOAD: the loader takes the oldest load, when it is free, no exchange is pending and STANDBY is not RETIRING; STANDBY
becomes LOADING (R371). Log 4 (DESIGN CHOICE). -/
def execProgLoad (s : State) : Host.Outcome State Fault Refusal :=
  .next <|
    match s.nextOp 0x20 fun _ => true with
    | none => s
    | some o =>
      let p := s.rly.prog
      if p.load.isSome || p.exch.isSome || decide (p.standby = 3) then s
      else
        (s.modProg fun p =>
          { p with
            standby := 1
            slots := Tab.erase p.other p.slots
            load := some { addr := o.inlNat 0 8, len := o.inlNat 8 4, ring := o.ring, didx := o.didx } }).jobRun
          o.ring o.didx (o.inlNat 8 4)

/-- A load ends: REASON and INDEX as RLY.LOAD shows them, the completion with INDEX and the image ID (R372,
13_rings.md R486, R487). -/
def State.loadEnds (s : State) (x : Load) (sched : Bool) (img : List Byte) (v : Option (Nat × Nat)) : State :=
  let r := v.elim 0 fun y => y.1
  let i := v.elim 0 fun y => y.2
  ((s.modProg fun p => { p with reason := r, index := i, sched := sched }).jobValid x.ring x.didx x.len).complete
    x.ring x.didx (if r = 0 then 0 else 8) r (by4 i ++ sub img 36 4)

/-- PROG_VERIFY_DONE: the image is copied and verified, and STANDBY becomes READY or EMPTY (R371). Log 107 (DEDUCED). -/
def execProgVerifyDone (s : State) : Host.Outcome State Fault Refusal :=
  .next <|
    match s.rly.prog.load with
    | none => s
    | some x =>
      let img := s.readMem x.addr x.len
      let v := progVerify img x.len
      (s.modProg fun p =>
        { p with
          load := none
          standby := if v.isNone then 2 else 0
          slots := if v.isNone then Tab.set p.other (img.take (u32 img 8)) p.slots else p.slots }).loadEnds x false img v

/-! ### Exchange (R377 to R386) -/

/-- The fences of an accepted EXCHANGE for the frames in FMASK (R379). -/
def fencesOf (p : Prog) (fmask : Nat) (o : Op) : Tab (BitVec 32) :=
  (upTo 8).foldl (fun t f =>
    if bit fmask f then
      let k := BitVec.ofNat 32 (o.inlNat (4 + 4 * f) 4)
      match p.highK.find? (fun x => decide (x.1 = f)) with
      | some x => Tab.set f (if 0 ≤ ixSub x.2 k then x.2 + 1 else k) t
      | none => Tab.set f k t
    else t) p.fence

/-- Frames of FMASK that the Pan has disabled, or of which a token after the fence stands in the band queue (R384). -/
def State.reachedBy (s : State) (fmask : Nat) (p : Prog) : Nat :=
  (upTo 8).foldl (fun m f =>
    if bit fmask f && (!s.panFrameCfg_EN f || s.rly.bandq.any (fun b => match b.tok with
        | .band g k _ _ _ => decide (g = f) && p.after f k
        | _ => false)) then m ||| 2 ^ f else m) 0

/-- EXCHANGE (R377 to R379). Log 4 (DESIGN CHOICE), 108 (DEDUCED). -/
def execExchange (s : State) : Host.Outcome State Fault Refusal :=
  .next <|
    match s.nextOp 0x21 fun _ => true with
    | none => s
    | some o =>
      let p := s.rly.prog
      if p.exch.isSome || decide (p.standby = 3) then s.complete o.ring o.didx 1 2 []
      else if p.standby ≠ 2 then s.complete o.ring o.didx 1 1 []
      else
        let fmask := o.inlNat 1 1
        let x : Exchange := { cancel := bit (o.inlNat 0 1) 0, fmask := fmask, ring := o.ring, didx := o.didx }
        let p1 := { p with fence := fencesOf p fmask o, exch := some x }
        if !s.rlyCtrl_EN || decide (s.activeImage = []) || s.flt.safe then
          (s.modProg fun _ => { p1 with fence := p.fence, exch := none }).switchNow x
        else (s.modProg fun _ => { p1 with reached := s.reachedBy fmask p1 }).takeOp o

/-- ABORT written: a pending exchange that has not switched completes ABORTED (R377). -/
def State.abortExchange (s : State) : State :=
  match s.rly.prog.exch with
  | some x =>
    if x.switched then s
    else (s.modProg fun p => { p with exch := none }).complete x.ring x.didx 9 0 (zeros 16)
  | none => s

/-- A Lane's execute stream waits for a tile on an empty inbound queue (R381); one that a break holds back does not (R394). -/
def State.tileWait (s : State) (n : Nat) : Bool :=
  let l := s.lane n
  let img := s.image
  decide (l.epc < imgCount img .execute) && !s.breakPending &&
    let c := imgCmd img .execute l.epc
    let ds := if macroOpc (cOp c) then (macroSrcs c).map fun x => (x, macroDesc img c x)
      else if cOp c = 0x14 then [(0, descOf (imgDesc img (u16 c 12)))] else []
    ds.any fun d => decide (d.2.loc = 1) && decide (l.tiles d.2.queue = []) &&
      decide ((l.run.getD {}).count d.1 < d.2.tiles)

/-- The leaving program rests: its access stream waits at BAND_OPEN, every execute stream waits for a tile, and every queue is
empty (R381). -/
def State.atRest (s : State) : Bool :=
  (match s.barrier .access with
   | some c => decide (cOp c = 0x20)
   | none => false) &&
  decide (s.rly.decq = []) && s.lanesIn.all fun n => s.tileWait n && (upTo 4).all fun q => decide ((s.lane n).tiles q = [])

/-- The change of program (R381). -/
def State.changeProgram (s : State) (slot : Nat) : State :=
  let old := s.rly.prog.running
  ((s.dropBatons fun b => decide (b.slot = old)).modProg fun p =>
    { p with change := none, changes := (p.changes + 1) % 65536 }).restartStreams slot

/-- PROGRAM_CHANGE: once the leaving program rests, the entering one starts (R381). A stopped stream holds the change back
(R394). -/
def execProgramChange (s : State) : Host.Outcome State Fault Refusal :=
  .next <|
    match s.rly.prog.change with
    | none => s
    | some slot => if s.rly.prog.stopA || s.rly.prog.stopE || !s.atRest then s else s.changeProgram slot

/-- Every frame has reached its fence, has no queued token before it and no pending band (R385). -/
def State.retired (s : State) : Bool :=
  (upTo 8).all fun f =>
    s.reachedFence f && !s.stillPending f && s.rly.bandq.all fun b =>
      match b.tok with
      | .band g k e _ _ => decide (g ≠ f) || b.isVoid || recalledIn s.rly.tracker e || s.rly.prog.after f k
      | _ => true

/-- The old program retires: STANDBY is READY and still holds it (R385). -/
def State.retire (s : State) : State :=
  s.modProg fun p => { p with standby := if Tab.get [] p.other p.slots = [] then 0 else 2, exch := none }

/-- PROGRAM_RETIRE (R385). A band context of the old program that is still open ends first. -/
def execProgramRetire (s : State) : Host.Outcome State Fault Refusal :=
  .next <|
    if s.rly.prog.standby = 3 ∧ s.retired ∧ ¬(s.rly.ctx.isSome ∧ s.rly.prog.running ≠ s.rly.prog.active) then s.retire else s

/-! ### Breaks, stepping and halts (R388, R389) -/

/-- Debug is about to stop a stream: from here on the watchdog does not run (R389). -/
def State.stopping (s : State) : State := s.modProg fun p => if p.stopA || p.stopE then p else { p with stopAt := s.now }

/-- BREAK_HIT: a stream stops at a break unit once every Lane has completed every earlier command (R388). -/
def execBreakHit (b : Nat) (s : State) : Host.Outcome State Fault Refusal :=
  .next <|
    let st : Stream := if s.rlyBrkCtrl_STREAM b then .execute else .access
    let p := s.rly.prog
    let stopped := if st = .access then p.stopA else p.stopE
    let l0 := s.lane s.lane0
    let img := s.image
    if 2 ≤ b ∨ stopped ∨ s.rlyCtrl_EN = false ∨ s.lanesIn = [] ∨ (imgCount img st ≤ l0.pc st ∧ s.rlyBrkCtrl_KIND b = true) then s
    else if s.lanesIn.all fun n =>
        decide ((s.lane n).pos st = l0.pos st) && decide ((s.lane n).runs st = 0) && s.breakHolds b st n (imgCmd img st (l0.pc st)) then
      s.stopping.modProg fun p =>
        if st = .access then { p with hit := b + 1, stopA := true, byA := some (b, l0.pos st) }
        else { p with hit := b + 1, stopE := true, byE := some (b, l0.pos st) }
    else s

/-- HALT: both streams stop at their next command boundary (R388). -/
def State.halt (s : State) : State :=
  s.stopping.modProg fun p => { p with stopA := true, stopE := true, hit := if p.hit = 0 then 3 else p.hit }

/-- Every wait under the watchdog, as if the time for which debug has stopped a stream had not passed (R389). -/
def State.waitsOn (s : State) : State :=
  let p := s.rly.prog
  let on (t : Nat) : Nat := if p.stopA || p.stopE then t + (s.now - max p.stopAt t) else t
  s.modRly fun r => { r with
    lanes := r.lanes.map fun x => (x.1, { x.2 with waitA := x.2.waitA.map on, waitE := x.2.waitE.map on })
    prog := { r.prog with changeAt := on r.prog.changeAt } }

/-- RESUME: both streams go on and HIT is cleared; a unit that stopped a stream does not stop it again on the same command
(R389). -/
def State.resume (s : State) : State :=
  s.waitsOn.modProg fun p =>
    { p with
      stopA := false
      stopE := false
      hit := 0
      stepA := none
      stepE := none
      passA := if p.byA.isSome then p.byA else p.passA
      passE := if p.byE.isSome then p.byE else p.passE
      byA := none
      byE := none }

/-- STEP_A or STEP_E: one further command of a stopped stream is issued (R389). -/
def State.stepStream (s : State) (st : Stream) : State :=
  if st = .access then
    (if s.rly.prog.stopA then s.modProg fun p => { p with stepA := some (s.issuedTo .access) } else s)
  else (if s.rly.prog.stopE then s.modProg fun p => { p with stepE := some (s.issuedTo .execute) } else s)

/-- A write to RLY.DBG_CMD (R398). -/
def State.dbgCmd (s : State) (v : Word) : State :=
  let s1 := if bit v.toNat 3 then s.halt else s
  let s2 := if bit v.toNat 2 then s1.resume else s1
  let s3 := if bit v.toNat 1 then s2.stepStream .execute else s2
  if bit v.toNat 0 then s3.stepStream .access else s3

/-! ### Failures (R261 to R263, R395) -/

/-- PROG_MEM_UE: an error in a program slot: PROG_MEM_CE when it was corrected, and otherwise ACTIVE holds no program and the open band is
abandoned, and a pending exchange switches at once (R378), or STANDBY is EMPTY, and a load that was filling it ends with the fault (R395);
a band that the retiring program runs ends with its slot. Log 107 (DEDUCED), 167 (DESIGN CHOICE). -/
def execProgMemUe (dt : Nat) (w : ProgErr) (s : State) : Host.Outcome State Fault Refusal :=
  .next <|
    let s1 := (s.pass dt).takeFree 0x3A
    let s2 := s1.2.raiseU (if w.ue then 0x3A else 0x39) 0x5A 0xFF s1.1
    let p := s2.rly.prog
    if !w.ue then s2
    else if w.active then
      let s3 := if s2.rly.ctx.isSome then s2.abandon 6 0xFF else s2
      (s3.modProg fun p => { p with slots := Tab.erase p.active p.slots }).switchIdle.relevel
    else
      let s3 := if s2.rly.ctx.isSome ∧ p.running = p.other then s2.abandon 6 0xFF else s2
      let s4 := if p.standby = 3 then s3.retire else s3.abortExchange
      let s5 := s4.rly.prog.load.elim s4 fun x => s4.complete x.ring x.didx 11 0x3A []
      s5.modProg fun p => { p with
        load := none
        standby := 0
        slots := Tab.erase p.other p.slots
        change := if p.change = some p.other then none else p.change }

/-- LANE_FAIL: the Lane is fenced and the band is abandoned (R263). -/
def execLaneFail (dt lane : Nat) (s : State) : Host.Outcome State Fault Refusal :=
  .next <|
    if 16 ≤ lane then s
    else
      let s1 := (s.pass dt).raiseU 0x32 (0x60 + lane) 0xFF 0
      ((s1.modRly fun r => { r with
        fenced := r.fenced ||| 2 ^ lane
        fencedAt := Tab.set lane s1.now r.fencedAt
        rejoin := putBits r.rejoin lane lane 0 }).abandon 3 lane).relevel

/-- LANE_SP_UE: an error in the 8-byte word of a scratchpad is counted in LANE.n.SP_ERR (R265): one that was corrected is LANE_SP_CE, and of
another the word is rewritten as zero and the band is abandoned (R263). Log 93 (DEDUCED), 167 (DESIGN CHOICE). -/
def execLaneSpUe (dt lane : Nat) (w : EccErr) (s : State) : Host.Outcome State Fault Refusal :=
  .next <|
    if 16 ≤ lane ∨ spSize ≤ w.at_ then s
    else
      let a := spBase + lane * spSize + w.at_ / 8 * 8
      let s1 := (s.pass dt).raiseU (if w.ue then 0x31 else 0x30) (0x60 + lane) 0xFF (a / 256)
      if w.ue then ((s1.writeMem a (zeros 8)).modLane lane fun l => { l with ue := satAdd 65535 l.ue 1 }).abandon 2 lane
      else s1.modLane lane fun l => { l with ce := satAdd 65535 l.ce 1 }

/-- Fenced Lanes that the line host writes 1 to run their self-test (R263), but for one fenced at this very instant, whose bit stays set
(00_scope.md R17): one that passes has its scratchpad zeroed and
rejoins at the next BAND_OPEN, one that fails stays fenced and raises LANE_FAIL again. Log 19 (DESIGN CHOICE), 92 (DEDUCED). -/
def State.laneSelfTest (s : State) (mask failing : Nat) : State :=
  eachOf ((upTo 16).filter fun n => s.clears s.rly.fencedAt n mask && bit s.rly.fencedNow n)
    (fun n s =>
      if bit failing n then s.raiseU 0x32 (0x60 + n) 0xFF 0
      else
        { s with
          rly := { s.rly with rejoin := s.rly.rejoin ||| 2 ^ n }
          mem := s.mem.filter fun m => !(decide (spBase + n * spSize ≤ m.1) && decide (m.1 < spBase + (n + 1) * spSize)) }) s

end Sys2Proof.Machine
end

