-- ==== Sys2Proof/Machine/MotionPort.lean ====
section
/-! DEFINITION. Motion ports: encoder and inertial channels, and the I2C controllers with the accessory bus (03_sensor_ports.md R118,
R119, R133 to R135, R146 to R149). -/

namespace Sys2Proof.Machine

open Sys2Proof

/-- Inertial channel `n`. -/
def State.spi (s : State) (n : Nat) : Spi := Tab.get {} n s.ing.spi
/-- The state with inertial channel `n` changed. -/
def State.modSpi (s : State) (n : Nat) (f : Spi → Spi) : State := s.modIng fun g => { g with spi := Tab.mod {} n f g.spi }
/-- I2C controller `n`: 0 to 7 the motion ports', 8 the accessory bus. -/
def State.i2c (s : State) (n : Nat) : I2c := Tab.get {} n s.ing.i2c
/-- The state with I2C controller `n` changed. -/
def State.modI2c (s : State) (n : Nat) (f : I2c → I2c) : State := s.modIng fun g => { g with i2c := Tab.mod {} n f g.i2c }

/-! ### Encoders (R118, R133, R147, R148) -/

/-- An encoder channel's source code (R103). -/
def encSrc (n : Nat) : Source := ⟨6, n⟩
/-- An encoder holds its slot. -/
def State.encHolds (s : State) (n : Nat) : Bool := s.holds (encSrc n) (s.mpEncCfg_SLOT n)

/-- The validated level of line 0 A, 1 B, 2 Z. -/
def Enc.level (x : Enc) (line : Nat) : Bool := if line = 0 then x.a else if line = 1 then x.b else x.z
/-- The channel with the validated level of a line changed. -/
def Enc.setLevel (x : Enc) (line : Nat) (v : Bool) : Enc :=
  if line = 0 then { x with a := v } else if line = 1 then { x with b := v } else { x with z := v }

/-- The latest transition of a line that the filter has not validated. -/
def Enc.lastCand (x : Enc) (line : Nat) : Option EncCand := x.cands.reverse.find? fun c => decide (c.line = line)

/-- The filter time of a channel, in ticks. -/
def State.encFilter (s : State) (n : Nat) : Nat := 40 * s.mpEncCfg_FILTER n

/-- A line of a channel takes a level at the pin now, stamped when that is a change; a level that did not hold for the filter time is
discarded whole (R133). -/
def State.encPin (s : State) (n line : Nat) (level : Bool) : State :=
  let x := s.enc n
  if !s.mpEncCfg_EN n then s.modEnc n fun x => x.setLevel line level
  else
    match x.lastCand line with
    | some c =>
      if c.level = level then s
      else if s.now < c.at_ + s.encFilter n then
        s.modEnc n fun x => { x with cands := (dropFirst (fun y => decide (y.line = line)) x.cands.reverse).reverse }
      else s.modEnc n fun x => { x with cands := x.cands ++ [⟨line, level, s.dev, s.now, s.tunc⟩] }
    | none =>
      if x.level line = level then s
      else s.modEnc n fun x => { x with cands := x.cands ++ [⟨line, level, s.dev, s.now, s.tunc⟩] }

/-- ENC_EDGE: a line changes at the pin (R133). -/
def execEncEdge (dt n line : Nat) (level : Bool) (s : State) : Host.Outcome State Fault Refusal :=
  .next ((s.pass dt).encPin n line level)

/-- An illegal transition: the count stays, QERR is counted. Log 57 (DEDUCED). -/
def Enc.illegal (x : Enc) (at_ : Nat) : Enc :=
  { x with qerr := satAdd 65535 x.qerr 1, batchQerr := true, edgeAt := some at_ }

/-- A transition of A or B that the filter kept: counted up or down, or illegal within 40 ns of the one before (R133). A that leads B
counts up; INV reverses it. Log 56 (PRESUMED), 57 (DEDUCED). -/
def Enc.quad (x : Enc) (inv : Bool) (c : EncCand) : Enc :=
  let y := x.setLevel c.line c.level
  if x.edgeAt.any fun t => decide (c.at_ < t + 160) then y.illegal c.at_
  else
    let up := (if c.line = 0 then y.a != y.b else y.a == y.b) != inv
    { y with
      edges := y.edges ++ [⟨false, up, c.stamp, y.count, c.tunc⟩]
      count := if up then y.count + 1 else y.count - 1
      edgeAt := some c.at_
      stallAt := c.at_
      stallRan := 0 }

/-- A transition of Z that the filter kept: a rising one is an entry when Z_EN is 1. -/
def Enc.index (x : Enc) (zen : Bool) (c : EncCand) : Enc :=
  let y := x.setLevel 2 c.level
  if zen && c.level then { y with edges := y.edges ++ [⟨true, false, c.stamp, y.count, c.tunc⟩] } else y

/-- ENC_FILTER_VALIDATE: the filter time of a line's oldest transition elapses. A change of A and B in one sample is one illegal
transition (R133). -/
def execEncFilterValidate (n line : Nat) (s : State) : Host.Outcome State Fault Refusal :=
  .next <|
    match (s.enc n).cands.find? (fun c => decide (c.line = line)) with
    | none => s
    | some c =>
      let s1 := s.waitUntil (c.at_ + s.encFilter n)
      s1.modEnc n fun x =>
        let y := { x with cands := dropFirst (fun d => decide (d.line = line)) x.cands }
        if line = 2 then y.index (s1.mpEncCfg_Z_EN n) c
        else
          match y.cands.find? (fun d => decide (d.line = 1 - line ∧ d.at_ = c.at_)) with
          | some d =>
            (({ y with cands := dropFirst (fun e => decide (e.line = 1 - line)) y.cands }.setLevel line c.level).setLevel
              (1 - line) d.level).illegal c.at_
          | none => y.quad (s1.mpEncCfg_INV n) c

/-- The word of one entry: Z, DIR, DELTA (R118). -/
def EncEdge.word (e : EncEdge) (prev : DT64) : Nat := 2 ^ 31 * b2n e.z + 2 ^ 30 * b2n e.up + (e.stamp - prev).toNat % 2 ^ 30

/-- The words of entries that follow one another, from the stamp before the first. -/
def edgeWords (prev : DT64) : List EncEdge → List Byte
  | [] => []
  | e :: t => by4 (e.word prev) ++ edgeWords e.stamp t

/-- One ENC record: of the entries of a batch that closed at `close`, or of an empty one. -/
def encRecord (slot : Nat) (l : List EncEdge) (count : BitVec 64) (close : DT64) (tunc qerr fault last : Bool) : Rec :=
  let t := (l.head?).elim close fun e => e.stamp
  let c0 := (l.head?).elim count fun e => e.before
  let tu := (l.head?).elim tunc fun e => e.tunc
  let sf := b2n (l.any fun e => e.z) + 2 * b2n qerr + 4 * b2n fault
  mkRec 0x03 slot (flagIf tu fTUNC + flagIf last fLAST) 0 t
    (by8 c0.toNat ++ by2 l.length ++ by1 sf ++ zeros 1 ++ by4 (close - t).toNat ++ edgeWords t l)

/-- The ENC records of a batch: at most 2 500 entries in each (R118). -/
def encRecords (slot : Nat) (count : BitVec 64) (close : DT64) (tunc qerr fault : Bool) : Nat → List EncEdge → List Rec
  | 0, _ => []
  | k + 1, l =>
    encRecord slot (l.take 2500) count close tunc qerr fault (decide (l.length ≤ 2500)) ::
      (if l.length ≤ 2500 then [] else encRecords slot count close tunc qerr fault k (l.drop 2500))

/-- ENC_BATCH_CLOSE: BATCH_US after the one before, the batch closes and its records are written. An absence ends with a record that
holds a count edge, or the first one after the channel was enabled (R118, R133, R147). Log 58 (DEDUCED). -/
def execEncBatchClose (n : Nat) (s : State) : Host.Outcome State Fault Refusal :=
  .next <|
    if !s.mpEncCfg_EN n then s
    else
      let s1 := s.waitUntil ((s.enc n).batchAt + s.mpEncCfg_BATCH_US n * usTicks)
      let x := s1.enc n
      let slot := s1.mpEncCfg_SLOT n
      let l := encRecords slot x.count s1.dev s1.tunc x.batchQerr x.batchFault (x.edges.length + 1) x.edges
      let alive := x.fresh || x.edges.any fun e => !e.z
      let s2 := s1.modEnc n fun x => { x with
        edges := [], batchAt := s1.now, batchQerr := false, batchFault := decide (x.lineFault ≠ 0), fresh := false
        absent := x.absent && !alive }
      if !s2.encHolds n then s2
      else
        let s3 := match l with
          | r :: _ => if alive then s2.slotPresent slot r.time (bit r.flags.toNat 4) else s2
          | [] => s2
        eachOf l (fun r s => s.recIn slot r) s3

/-- ENC_STALL_TIMEOUT: no count edge for STALL_MS: the channel is absent (R147). -/
def execEncStallTimeout (n : Nat) (s : State) : Host.Outcome State Fault Refusal :=
  .next <|
    if !s.mpEncCfg_EN n || !s.mpEncStall_EN n || (s.enc n).absent ||
        (s.mpEncStall_GATE_EN n && (s.motion (s.mpEncStall_GATE_FRAME n)).slower 10) then s
    else
      let s1 := (s.waitUntil (stallEnd (s.enc n).stallAt (s.mpEncStall_STALL_MS n * msTicks - (s.enc n).stallRan))).modEnc n fun x =>
        { x with absent := true }
      if s1.encHolds n then s1.slotAbsent (s1.mpEncCfg_SLOT n) 0 else s1

/-- MP.n.ENC_STALL is written, from the state before it: the timer starts from 0 as the detector is enabled, and keeps what it has run
when its gate changes (R147). -/
def State.encStallWrite (s old : State) (n : Nat) : State :=
  let on := s.mpEncStall_EN n && !old.mpEncStall_EN n
  s.modEnc n fun x =>
    { x with
      stallAt := s.now
      stallRan :=
        if on then 0 else timerRan s.now x.stallRan x.stallAt (old.gatePause (old.mpEncStall_GATE_EN n) (old.mpEncStall_GATE_FRAME n)) }

/-- ENC_LINE_FAULT: a pair is without valid signal for 1 µs; RS-422 mode only (R148). Its receiver gives the fail-safe level 1
(16_module.md R569). Log 164 (DESIGN CHOICE), 182 (DEDUCED). -/
def execEncLineFault (dt n line : Nat) (s : State) : Host.Outcome State Fault Refusal :=
  .next <|
    let s0 := s.pass dt
    let s1 := if s0.mpEncCfg_ELEC n then s0 else s0.encPin n line true
    if !s1.mpEncCfg_EN n || s1.mpEncCfg_ELEC n || bit (s1.enc n).lineFault line then s1
    else
      let s2 := s1.modEnc n fun x => { x with lineFault := x.lineFault + 2 ^ line, batchFault := true }
      s2.notify 0x030B 6 n (s2.enc n).lineFault

/-- ENC_LINE_FAULT_CLEAR: a pair is valid again for 1 µs (R148). -/
def execEncLineFaultClear (dt n line : Nat) (s : State) : Host.Outcome State Fault Refusal :=
  .next <| (s.pass dt).modEnc n fun x => { x with lineFault := putBits x.lineFault line line 0 }

/-- The channel with the levels at its pins: those of the latest transitions. -/
def Enc.atPins (x : Enc) : Enc := x.cands.foldl (fun y c => y.setLevel c.line c.level) x

/-- MP.n.ENC_CFG.EN goes to 1: ENC_COUNT goes on from where it was. Log 164 (DESIGN CHOICE). -/
def State.encOn (s : State) (n : Nat) : State :=
  (s.modEnc n fun x => { x with
    cands := [], edges := [], batchAt := s.now, edgeAt := none, batchQerr := false, batchFault := false, lineFault := 0
    fresh := true, stallAt := s.now, stallRan := 0 }).attach (encSrc n) (s.mpEncCfg_SLOT n)

/-- MP.n.ENC_CFG.EN goes to 0: the open batch goes, the slot is absent with CAUSE 3 (R147). Log 183 (DESIGN CHOICE). -/
def State.encOff (s : State) (n : Nat) : State :=
  let x := s.enc n
  let s1 := s.modEnc n fun _ =>
    { x.atPins with cands := [], edges := [], lineFault := 0, absent := true }
  s1.detach (encSrc n) (s1.mpEncCfg_SLOT n)

/-! ### Inertial channels (R119, R134, R147) -/

/-- An inertial channel's source code (R103). -/
def spiSrc (n : Nat) : Source := ⟨8, n⟩
/-- An inertial channel holds its slot. -/
def State.spiHolds (s : State) (n : Nat) : Bool := s.holds (spiSrc n) (s.mpSpiCfg_SLOT n)

/-- The divisor of 200 MHz that gives the highest SCK not above CLK_KHZ, 10 or more (R134). -/
def State.spiDiv (s : State) (n : Nat) : Nat := max 10 ((200000 + s.mpSpiCfg_CLK_KHZ n - 1) / max 1 (s.mpSpiCfg_CLK_KHZ n))

/-- The stamp of a sample that starts now: of a data-ready edge as of a CAP edge, rounded to the nearest DT64 unit; in timer mode the
instant chip select asserts (R134, 02_timekeeper.md R69). -/
def State.spiStamp (s : State) (timer : Bool) : DT64 := if timer then s.dev else BitVec.ofNat 64 (s.tk.totalNear s.now)

/-- A sample starts now: a transaction begins, or an overrun skips the sample (R134). Log 59 (DEDUCED). -/
def State.spiStart (s : State) (n : Nat) (timer : Bool) : State :=
  match (s.spi n).run with
  | some _ =>
    let s1 := s.modSpi n fun x => { x with overrun := satAdd 65535 x.overrun 1 }
    let s2 := if s1.spiHolds n then s1.gapIn (s1.mpSpiCfg_SLOT n) 1 else s1
    s2.notify 0x030E 6 n (s2.spi n).overrun
  | none =>
    let len := s.mpSpiXact_RD_LEN n
    (s.modSpi n fun x => { x with run := some ⟨s.spiStamp timer, s.tuncAt (s.spiStamp timer), timer, len⟩ }).send
      (.spi n ((by4 (s.mpSpiCmd_CMD n)).take (s.mpSpiXact_CMD_LEN n)) len (s.mpSpiCfg_MODE n) (s.spiDiv n) (s.mpSpiCfg_RX_DELAY n))

/-- SPI_DATA_READY: the selected edge at the data-ready pin (R134). -/
def execSpiDataReady (dt n : Nat) (s : State) : Host.Outcome State Fault Refusal :=
  .next <|
    let s1 := s.pass dt
    if !s1.mpSpiCfg_EN n || decide (s1.mpSpiXact_TRIG n = 2) then s1
    else (s1.modSpi n fun x => { x with stallAt := s1.now }).spiStart n false

/-- SPI_TIMER: in timer mode, SPI_PERIOD after the start before, or after the enabling (R134). Log 165 (DESIGN CHOICE). -/
def execSpiTimer (n : Nat) (s : State) : Host.Outcome State Fault Refusal :=
  .next <|
    if !s.mpSpiCfg_EN n || decide (s.mpSpiXact_TRIG n ≠ 2) then s
    else
      let due := (s.spi n).timerAt + s.mpSpiPeriod_NS n * nsTicks
      ((s.waitUntil due).modSpi n fun x => { x with timerAt := due }).spiStart n true

/-- SPI_XACT_DONE: the transaction ends and its IMU record is written (R119). Log 59 (DEDUCED). -/
def execSpiXactDone (dt n : Nat) (data : List Byte) (s : State) : Host.Outcome State Fault Refusal :=
  .next <|
    let s1 := s.pass dt
    match (s1.spi n).run with
    | none => s1
    | some r =>
      let no := (s1.spi n).sample
      let s2 := s1.modSpi n fun x => { x with run := none, sample := x.sample + 1, absent := false }
      if s2.spiHolds n then
        s2.deliver (s2.mpSpiCfg_SLOT n) (mkRec 0x04 (s2.mpSpiCfg_SLOT n) (flagIf r.tunc fTUNC) 0 r.stamp
          (by2 no.toNat ++ by1 r.len ++ by1 (b2n r.timer) ++ zeros 4 ++ sub data 0 r.len))
      else s2

/-- SPI_STALL_TIMEOUT: no data-ready edge for STALL_MS, never in timer mode (R147). -/
def execSpiStallTimeout (n : Nat) (s : State) : Host.Outcome State Fault Refusal :=
  .next <|
    if !s.mpSpiCfg_EN n || !s.mpSpiStall_EN n || (s.spi n).absent || decide (s.mpSpiXact_TRIG n = 2) then s
    else
      let s1 := (s.waitUntil (stallEnd (s.spi n).stallAt (s.mpSpiStall_STALL_MS n * msTicks))).modSpi n fun x => { x with absent := true }
      if s1.spiHolds n then s1.slotAbsent (s1.mpSpiCfg_SLOT n) 0 else s1

/-- MP.n.SPI_CFG.EN goes to 1: SAMPLE goes on from where it was. Log 59 (DEDUCED). -/
def State.spiOn (s : State) (n : Nat) : State :=
  (s.modSpi n fun x => { x with run := none, stallAt := s.now, timerAt := s.now }).attach (spiSrc n) (s.mpSpiCfg_SLOT n)

/-- MP.n.SPI_CFG.EN goes to 0: a transaction that runs is given up, the slot is absent with CAUSE 3 (R147). Log 183 (DESIGN
CHOICE). -/
def State.spiOff (s : State) (n : Nat) : State :=
  (s.modSpi n fun x => { x with run := none, absent := true }).detach (spiSrc n) (s.mpSpiCfg_SLOT n)

/-! ### I2C controllers (R135, R146, R149) -/

/-- I2C_CFG.EN of controller `n`. -/
def State.i2cEn (s : State) (n : Nat) : Bool := if n = 8 then s.iocAccI2cCfg_EN else s.mpI2cCfg_EN n
/-- I2C_CFG.STRETCH_MS of controller `n`. -/
def State.i2cStretch (s : State) (n : Nat) : Nat := if n = 8 then s.iocAccI2cCfg_STRETCH_MS else s.mpI2cCfg_STRETCH_MS n

/-- Ticks of one clock of a controller's bus (R135). -/
def State.i2cClock (s : State) (n : Nat) : Nat :=
  if (if n = 8 then s.iocAccI2cCfg_SPEED else s.mpI2cCfg_SPEED n) then 10000 else 40000

/-- A bus clear runs on a controller. -/
def State.i2cClearing (s : State) (n : Nat) : Bool := decide (s.now < (s.i2c n).clearEnd)

/-- HELD of a controller: as it was while a bus clear runs, and from the end of one that fails on. -/
def State.i2cIsHeld (s : State) (n : Nat) : Bool :=
  if s.i2cClearing n then (s.i2c n).was else (s.i2c n).held || (s.i2c n).stuck.isSome

/-- I2C_STAT of a controller (R152). -/
def State.i2cStat (s : State) (n : Nat) : Nat :=
  (s.i2c n).clears * 65536 + b2n (s.i2cClearing n) * 4 + b2n (s.i2c n).busy * 2 + b2n (s.i2cIsHeld n)

/-- The bus of a controller is declared held: I2C_HELD, 1 for SCL and 0 for SDA (R149). -/
def State.i2cHeld (s : State) (n : Nat) (scl : Bool) : State :=
  (s.modI2c n fun x => { x with held := true }).notify 0x030C (if n = 8 then 7 else 6) (if n = 8 then 0 else n) (b2n scl)

/-- The bus clear of R149 starts, to end after its pulses: `low` is the number of SCL pulses after which SDA is high, and `scl` says that
SCL is what holds a bus that stays held. Log 60 (DEDUCED). -/
def State.i2cClear (s : State) (n low : Nat) (scl : Bool) : State :=
  (s.modI2c n fun x => { x with
    clears := satAdd 65535 x.clears 1, was := s.i2cIsHeld n, held := false, clearEnd := s.now + min 9 low * s.i2cClock n
    stuck := if low ≤ 9 then none else some scl }).send (.i2cClear n)

/-- A bus clear that failed has ended: the bus is declared held (R149). Log 60 (DEDUCED). -/
def State.i2cDeclare (s : State) (n : Nat) : State :=
  match (s.i2c n).stuck with
  | none => s
  | some scl => (s.modI2c n fun x => { x with stuck := none }).i2cHeld n scl

/-- A bus clear that failed ends, and the bus is declared held (R149). -/
def State.i2cStuck (s : State) (n : Nat) : State :=
  match (s.i2c n).stuck with
  | none => s
  | some _ => (s.waitUntil (s.i2c n).clearEnd).i2cDeclare n

/-- A bus clear that failed and has ended by now is followed by its declaration. -/
def State.i2cSettled (s : State) (n : Nat) : State := if s.i2cClearing n then s else s.i2cDeclare n

/-- PORT_XACT_I2C: the oldest I2C transaction that can begin does, after a bus clear that runs: NOT_READY on a disabled controller,
BUS_HELD on a held bus and for one that was accepted while the bus was held (R135, R146). Log 61 (DEDUCED). -/
def execPortXactI2c (s : State) : Host.Outcome State Fault Refusal :=
  .next <|
    match startable s.hl.ops [] fun o => decide (16 ≤ o.xactPort) with
    | none => s
    | some o =>
      let n := o.xactPort - 16
      let s1 := ((s.i2cStuck n).waitUntil (s.i2c n).clearEnd).takeOp o
      if !s.i2cEn n then s1.complete o.ring o.didx 2 0 []
      else if o.busHeld || (s1.i2c n).held then s1.complete o.ring o.didx 7 0 []
      else
        (s1.modI2c n fun x => { x with busy := true, since := s1.now }).send
          (.i2c n (u8 o.desc 8 % 128) (o.inl 0 (min 40 (u8 o.desc 9))) (min 32 (u8 o.desc 10)))

/-- The transfer that runs on a controller ends. Log 61 (DEDUCED). -/
def State.i2cEnd (s : State) (n cstatus reason : Nat) (result : List Byte) : State :=
  match s.xactOf (16 + n) with
  | none => s
  | some o => (s.modI2c n fun x => { x with busy := false, since := s.now }).complete o.ring o.didx cstatus reason result

/-- I2C_XFER_DONE: a transfer ends at the pins (R135). -/
def execI2cXferDone (dt n : Nat) (e : I2cEnd) (s : State) : Host.Outcome State Fault Refusal :=
  .next <|
    let s1 := s.pass dt
    if !(s1.i2c n).busy then s1
    else
      match e with
      | .ok data =>
        let o := s1.xactOf (16 + n)
        let rd := o.elim 0 fun o => min 32 (u8 o.desc 10)
        let wr := o.elim 0 fun o => min 40 (u8 o.desc 9)
        s1.i2cEnd n 0 0 (if rd = 0 then by2 wr else sub data 0 rd)
      | .nack byte => s1.i2cEnd n 5 (byte % 256) []
      | .busError low => (s1.i2cEnd n 6 0 []).i2cClear n low false

/-- I2C_STRETCH_TIMEOUT: a target has held SCL for longer than STRETCH_MS, and so the transfer has run for longer (R135). -/
def execI2cStretchTimeout (dt n sdaLow : Nat) (s : State) : Host.Outcome State Fault Refusal :=
  .next <|
    let s1 := s.pass dt
    if !(s1.i2c n).busy then s1
    else ((s1.waitUntil ((s1.i2c n).since + s1.i2cStretch n * msTicks + 1)).i2cEnd n 3 0 []).i2cClear n sdaLow false

/-- I2C_SCL_HELD_IDLE: SCL has stayed low for STRETCH_MS with no transfer running, or a bus clear ends that does not free the bus
(R149). Log 60 (DEDUCED). -/
def execI2cSclHeldIdle (dt n : Nat) (s : State) : Host.Outcome State Fault Refusal :=
  .next <|
    let s1 := s.pass dt
    if !s1.i2cEn n || (s1.i2c n).busy || (s1.i2c n).held then s1
    else if (s1.i2c n).stuck.isSome then s1.i2cStuck n
    else (s1.waitUntil (max (s1.i2c n).clearEnd ((s1.i2c n).since + s1.i2cStretch n * msTicks))).i2cHeld n true

/-- REENABLE of a controller is written 1: the bus clear runs again, but not while one runs (R146). After how many pulses SDA of a held
bus is high, or which line still holds it, is a free value; a bus that is not held stays so (R149). Nothing happens at a disabled
controller or while a transfer runs. Log 60 (DEDUCED), 166 (DESIGN CHOICE). -/
def State.i2cReenable (s : State) (n : Nat) : State :=
  if !s.i2cEn n || (s.i2c n).busy || s.i2cClearing n then s
  else
    let s0 := s.i2cSettled n
    if (s0.i2c n).held then
      let (k, s1) := s0.takeFree 0x030C
      s1.i2cClear n (min 10 (k % 12)) (decide (k % 12 = 11))
    else s0.i2cClear n 0 false

/-- I2C_CFG.EN goes to 1: the controller comes out of its own reset and clears the bus when it finds SDA low (R149). The pulses that SDA
stays low for are a free value. Log 60 (DEDUCED). -/
def State.i2cOn (s : State) (n : Nat) : State :=
  let (k, s1) := (s.modI2c n fun x => { x with since := s.now }).takeFree 0x030E
  if k % 11 = 0 then s1 else s1.i2cClear n (k % 11) false

/-- I2C_CFG.EN goes to 0: a transfer that runs ends NOT_READY, and the bus is no longer held. Log 166 (DESIGN CHOICE). -/
def State.i2cOff (s : State) (n : Nat) : State :=
  (if (s.i2c n).busy then s.i2cEnd n 2 0 [] else s).modI2c n fun x => { x with held := false, clearEnd := 0, stuck := none }

end Sys2Proof.Machine
end

