-- ==== Sys2Proof/Machine/SensorNet.lean ====
section
/-! DEFINITION. Sensor Ethernet ports: matching of datagrams, GigE Vision images, range profiles, links, and the containment of a
quad (03_sensor_ports.md R111, R117, R128 to R132, R142, R143). -/

namespace Sys2Proof.Machine

open Sys2Proof

/-- SEN port `p`. -/
def State.sen (s : State) (p : Nat) : Sen := Tab.get {} p s.ing.sen
/-- The state with SEN port `p` changed. -/
def State.modSen (s : State) (p : Nat) (f : Sen → Sen) : State := s.modIng fun g => { g with sen := Tab.mod {} p f g.sen }
/-- Stream `q` of SEN port `p`. -/
def State.stream (s : State) (p q : Nat) : SenStream := Tab.get {} q (s.sen p).streams
/-- The state with stream `q` of SEN port `p` changed. -/
def State.modStream (s : State) (p q : Nat) (f : SenStream → SenStream) : State :=
  s.modSen p fun x => { x with streams := Tab.mod {} q f x.streams }

/-- A SEN stream's source code (R103). -/
def senSrc (p q : Nat) : Source := ⟨3, 4 * p + q⟩

/-- The SEN streams of port `p` that are enabled. -/
def State.senLive (s : State) (p : Nat) : List Nat := if s.senCtrl_EN p then (upTo 4).filter fun k => s.senStreamCfg_EN p k else []

/-- A stream holds its slot. -/
def State.senHolds (s : State) (p q : Nat) : Bool := s.holds (senSrc p q) (s.senStreamCfg_SLOT p q)

/-- A frame leaves a SEN port: held while quad 4 settles (R143), and lost while the link is down. -/
def State.senSend (s : State) (p : Nat) (o : Out) : State :=
  if (s.quad 4).settling then s.modQuad 4 fun x => { x with held := x.held ++ [o] }
  else if (s.sen p).up then s.send o
  else s

/-! ### Enables (R128, R129, R147) -/

/-- A stream takes its source's place. -/
def State.streamOn (s : State) (p q : Nat) : State :=
  (s.modStream p q fun x => { x with
    stage := none, prof := none, block := none, badFmt := none, lastId := none, skip := 0, size := 0, packet := 0 }).attach (senSrc p q)
      (s.senStreamCfg_SLOT p q)

/-- A stream gives it up: staged data goes, its slot is absent with CAUSE 3. -/
def State.streamOff (s : State) (p q : Nat) : State :=
  (s.modStream p q fun x => { x with stage := none, prof := none, block := none }).detach (senSrc p q) (s.senStreamCfg_SLOT p q)

/-- SEN.p.CTRL.EN goes to 1: the port's streams attach and the quad settles. -/
def State.senOn (s : State) (p : Nat) : State := eachOf (s.senLive p) (fun q s => s.streamOn p q) (s.quadEnable 4 true)

/-- SEN.p.CTRL.EN goes to 0: the link goes, the streams that were enabled detach, and the quad stops with its last port. -/
def State.senOff (s : State) (p : Nat) : State :=
  let s1 := s.modSen p fun x => { x with up := false, speed := 0 }
  (eachOf ((upTo 4).filter fun q => s.senStreamCfg_EN p q) (fun q s => s.streamOff p q) s1).quadEnable 4
    ((upTo 4).any fun k => s.senCtrl_EN k)

/-- Staged data of a stream is discarded behind a SOURCE_GAP of the packets or points received (R142). -/
def State.streamBreak (s : State) (p q : Nat) : State :=
  let x := s.stream p q
  let k := x.stage.elim 0 (fun y => y.pkts) + x.prof.elim 0 fun y => y.points.length
  let s1 := s.modStream p q fun x => { x with stage := none, prof := none, block := none }
  if s1.senHolds p q then s1.gapIn (s1.senStreamCfg_SLOT p q) k else s1

/-- The link of a SEN port goes down, and its streams are declared absent with CAUSE 1 when `declare` is set (R142). -/
def State.senDown (s : State) (p : Nat) (declare : Bool) : State :=
  if (s.sen p).up then
    let sp := (s.sen p).speed
    let s1 := s.modSen p fun x => { x with up := false, speed := 0 }
    let s2 := eachOf (s1.senLive p) (fun q s =>
      let t := s.streamBreak p q
      if declare && t.senHolds p q then t.slotAbsent (t.senStreamCfg_SLOT p q) 1 else t) s1
    s2.notify 0x0301 2 p sp
  else s

/-- SEN_LINK_DOWN: a SEN link drops; the quad retrains it (R142, R143). -/
def execSenLinkDown (dt p : Nat) (s : State) : Host.Outcome State Fault Refusal :=
  .next <|
    let s1 := s.pass dt
    if (s1.sen p).up then ((s1.senDown p true).quadSettle 4).relevel else s1

/-- SEN_LINK_UP: a SEN link comes up, at the forced rate or the one negotiated: 1 to 4 as CTRL.SPEED (R142). Log 62 (DEDUCED). -/
def execSenLinkUp (dt p speed : Nat) (s : State) : Host.Outcome State Fault Refusal :=
  .next <|
    let s1 := s.pass dt
    if !s1.senCtrl_EN p || (s1.sen p).up || !(s1.quad 4).running || (s1.quad 4).settling || (s1.quad 4).fault then s1
    else
      let v := if s1.senCtrl_SPEED p = 0 then clampN 1 4 speed else s1.senCtrl_SPEED p
      ((s1.modSen p fun x => { x with up := true, speed := v }).notify 0x0302 2 p v).relevel

/-- The sources fed by a quad, with their slots (R143). -/
def State.quadSources (s : State) (q : Nat) : List (Source × Nat) :=
  if q < 4 then ((quadPorts q).filter fun k => s.sspLive k).map fun k => (camSrc k, s.sspCtrl_SLOT k)
  else (upTo 4).flatMap fun p => (s.senLive p).map fun k => (senSrc p k, s.senStreamCfg_SLOT p k)

/-- QUAD_SETTLE_LIMIT: a quad not locked by the settle limit is contained: held work goes, links go down, its slots are absent with
CAUSE 2 (R143, R144). -/
def execQuadSettleLimit (q : Nat) (s : State) : Host.Outcome State Fault Refusal :=
  .next <|
    if !(s.quad q).settling then s
    else
      let s1 := s.waitUntil ((s.quad q).settleAt + s.iocSettle_LIMIT_US * usTicks)
      let s2 := s1.modQuad q fun x => { x with settling := false, running := false, retry := false, fault := true, held := [] }
      let s3 := eachOf (quadPorts q) (fun n s => (s.xactsFail n false).trigsGo n true 10) s2
      let s4 :=
        if q = 4 then eachOf (upTo 4) (fun p s => s.senDown p false) s3
        else eachOf (quadPorts q) (fun n s => (s.camDown n false).modSsp n fun p => { p with link := false }) s3
      let s5 := eachOf (s4.quadSources q) (fun x s => if s.holds x.1 x.2 then s.slotAbsent x.2 2 else s) s4
      (s5.notify 0x0303 4 q s.iocSettle_LIMIT_US).relevel

/-! ### Addresses (R128, R129, R152) -/

/-- The addresses of SEN port `p`; 0 is none. -/
def State.senOwns (s : State) (p : Nat) (a : BitVec 128) : Bool :=
  (decide (s.senAddr4_ADDR4 p ≠ 0) && decide (a = mapped (netOrder 4 (s.senAddr4_ADDR4 p)))) ||
    (decide (s.senAddr6_ADDR6 p ≠ 0) && decide (a = BitVec.ofNat 128 (netOrder 16 (s.senAddr6_ADDR6 p))))

/-- A datagram belongs to a stream (R129). -/
def State.senMatch (s : State) (p : Nat) (d : Datagram) (q : Nat) : Bool :=
  (s.senOwns p d.dst ||
      (decide (s.senStreamGroup4_GROUP4 p q ≠ 0) && decide (d.dst = mapped (s.senStreamGroup4_GROUP4 p q)))) &&
    decide (d.dport.toNat = s.senStreamPorts_DPORT p q) &&
    decide (s.senStreamPorts_SPORT p q = 0 ∨ d.sport.toNat = s.senStreamPorts_SPORT p q) &&
    decide (s.senStreamSrc_SRC p q = 0 ∨ d.src = BitVec.ofNat 128 (netOrder 16 (s.senStreamSrc_SRC p q)))

/-- A frame is counted in BADFRAME. -/
def State.senBad (s : State) (p : Nat) : State := s.modSen p fun x => { x with badFrame := satAdd 65535 x.badFrame 1 }

/-- Packets are counted in COUNT.LOST. -/
def State.senLost (s : State) (p q k : Nat) : State := s.modStream p q fun x => { x with lost := satAdd 65535 x.lost k }

/-- A block or profile was delivered. Log 51 (DEDUCED). -/
def State.senBlock (s : State) (p q : Nat) : State := s.modStream p q fun x => { x with blocks := (x.blocks + 1) % 65536 }

/-- Records of a stream are written, unless the slot was refused to it. Log 52 (DEDUCED). -/
def State.senRecs (s : State) (p q : Nat) (l : List Rec) : State :=
  if s.senHolds p q then eachOf l (fun r s => s.deliver (s.senStreamCfg_SLOT p q) r) s else s

/-- A SOURCE_GAP of a stream. -/
def State.senGap (s : State) (p q k : Nat) : State := if s.senHolds p q then s.gapIn (s.senStreamCfg_SLOT p q) k else s

/-! ### GigE Vision images (R130) -/

/-- A GVSP leader timestamp in ns as a DT64. -/
def gvspTime (ts : Nat) : DT64 :=
  BitVec.ofNat 64 (ts / 1000000000 % 2 ^ 32 * 2 ^ 32 + (ts % 1000000000 * 4294967296 + 500000000) / 1000000000)

/-- The records a stream's stage can give are written. -/
def State.senGive (s : State) (p q : Nat) (flush : Bool) : State :=
  match (s.stream p q).stage with
  | none => s
  | some x =>
    let (l, y) := x.give (s.senStreamCfg_SLOT p q) (s.senStreamCfg_KIND p q) flush (x.height + 1)
    (s.modStream p q fun z => { z with stage := some y }).senRecs p q l

/-- `k` packets are missing before the one at hand: the whole rows before them are written, a SOURCE_GAP stands for the rows they
touch, and the image goes on with the row after those. With the size of a packet not known, the rest of the block is lost.
Log 51 (DEDUCED). -/
def State.senMiss (s : State) (p q k size : Nat) : State :=
  if k = 0 then s
  else
    let s1 := (s.senGive p q true).senLost p q k
    let s2 := s1.senGap p q k
    s2.modStream p q fun z => { z with
      stage := z.stage.map fun x =>
        let ri := max 1 x.rowIn
        let gone := x.row * x.rowIn + x.data.length - z.skip + k * size
        if size = 0 then { x with row := x.height, data := [] }
        else { x with row := min x.height ((gone + ri - 1) / ri), data := [], pkts := 0 }
      skip := match z.stage with
        | none => 0
        | some x =>
          let ri := max 1 x.rowIn
          let gone := x.row * x.rowIn + x.data.length - z.skip + k * size
          (gone + ri - 1) / ri * ri - gone }

/-- The block in assembly ends: rows not received are a break of unknown extent when no missing packet was found for them. -/
def State.senEnd (s : State) (p q : Nat) (told : Bool) : State :=
  match (s.stream p q).stage with
  | none => s.modStream p q fun z => { z with block := none, lastId := z.block.elim z.lastId some }
  | some x =>
    let s1 := s.senGive p q true
    let s2 := if x.row < x.height ∧ !told then
        (match (s1.stream p q).stage with
        | some y => if y.row < y.height then s1.senGap p q 0 else s1
        | none => s1)
      else s1
    (s2.senBlock p q).modStream p q fun z => { z with stage := none, block := none, lastId := z.block.elim z.lastId some }

/-- A leader begins a block. Log 51 (DEDUCED). -/
def State.senLeader (s : State) (p q : Nat) (block : BitVec 32) (image : Bool) (ts w h : Nat) (pfnc : BitVec 32) : State :=
  let s1 := s.senEnd p q false
  let begin (other : Bool) (st : Option ImgStage) (bad : Option (BitVec 32)) : State :=
    s1.modStream p q fun z => { z with
      block := some block, other := other, packet := 1, size := 0, skip := 0, stage := st, badFmt := bad }
  if !image then (begin true none none).senBad p
  else
    match pixFmt pfnc with
    | none =>
      let s2 := begin false none (some pfnc)
      if (s1.stream p q).badFmt = some pfnc then s2 else s2.notify 0x0307 3 (4 * p + q) pfnc.toNat
    | some f =>
      let cam := s.senStreamCfg_TIME_SRC p q
      let time := if cam then gvspTime ts else s.arrival (s.senLat_NS p)
      begin false (some {
        frame := if s.senStreamCfg_KIND p q then BitVec.ofNat 32 (block.toNat * h) else block
        width := w, height := h, pixfmt := f.code, phase := f.phase, bpp := f.bpp
        unpack := decide (f.bpp = 16 ∧ f.out < 16), row := 0, data := []
        time := time, tunc := s.tuncAt time, trig := false, camTime := cam, first := true, pkts := 0, broken := false }) none

/-- A packet of a block whose leader, packet 0, did not come: the packets before it are missing, and the block is of no use (R111, R130).
A packet of the block that ended last is late and ignored. Log 51 (DEDUCED). -/
def State.senLate (s : State) (p q : Nat) (block : BitVec 32) (packet : Nat) : State :=
  if (s.stream p q).lastId = some block then s
  else
    let s1 := s.senEnd p q false
    ((s1.modStream p q fun z =>
      { z with block := some block, other := false, packet := packet + 1, size := 0, stage := none, skip := 0 }).senLost p q packet).senGap
      p q packet

/-- A payload packet of a block. -/
def State.senPayload (s : State) (p q : Nat) (block : BitVec 32) (packet : Nat) (data : List Byte) : State :=
  if (s.stream p q).block ≠ some block then s.senLate p q block packet
  else if (s.stream p q).other then s.senBad p
  else if packet < (s.stream p q).packet then s
  else
    let z0 := s.stream p q
    let s1 := s.senMiss p q (packet - z0.packet) (if z0.size = 0 then data.length else z0.size)
    ((s1.modStream p q fun z => { z with
      packet := packet + 1
      size := max z.size data.length
      skip := z.skip - data.length
      stage := z.stage.map fun x => if x.height ≤ x.row then x else { x with data := x.data ++ data.drop z.skip } }).senGive
        p q false).modStream p q fun z =>
      { z with stage := z.stage.map fun x => { x with pkts := if x.data = [] then 0 else x.pkts + 1 } }

/-- A trailer ends a block. -/
def State.senTrailer (s : State) (p q : Nat) (block : BitVec 32) (packet : Nat) : State :=
  if (s.stream p q).block ≠ some block then
    (if (s.stream p q).lastId = some block then s else (s.senLate p q block packet).senEnd p q true)
  else if (s.stream p q).other then (s.senEnd p q true).senBad p
  else
    let z := s.stream p q
    (s.senMiss p q (packet - z.packet) z.size).senEnd p q (decide (z.packet < packet))

/-! ### Range profiles (R117, R131, R132) -/

/-- Bytes of a point, by POINT_FMT. -/
def pointSize (fmt : Nat) : Nat := if fmt = 1 then 2 else if fmt = 2 then 4 else 8

/-- A point that was not received. -/
def noPoint (fmt : Nat) : List Byte :=
  if fmt = 1 then [0x00, 0x80] else if fmt = 2 then [0x00, 0x80, 0x00, 0x80] else [0x00, 0x80, 0x00, 0x80, 0, 0, 0, 0]

/-- The PROFILE records of a profile (R114, R117). -/
def ProfStage.records (x : ProfStage) (slot : Nat) : List Rec :=
  let sz := pointSize x.fmt
  let w := imgRoom / sz
  let n := (x.total + w - 1) / w
  (upTo n).map fun k =>
    let m := min w (x.total - k * w)
    mkRec 0x02 slot (flagIf x.tunc fTUNC + flagIf (decide (k + 1 = n)) fLAST) 0 x.time
      (by4 x.id.toNat ++ by2 (k * w) ++ by2 m ++ by2 x.total ++ by1 x.fmt ++ by1 (2 * b2n x.camTime) ++ zeros 4 ++
        (upTo m).flatMap fun i => Tab.get (noPoint x.fmt) (k * w + i) x.points)

/-- The profile in assembly closes and is written, behind a SOURCE_GAP of its missing points (R132). Log 53 (DEDUCED). -/
def State.profClose (s : State) (p q : Nat) : State :=
  match (s.stream p q).prof with
  | none => s
  | some x =>
    let miss := x.total - x.points.length
    let s1 := s.modStream p q fun z => { z with prof := none, lastId := some x.id }
    let s2 := if miss = 0 then s1 else (s1.senLost p q 1).senGap p q miss
    (s2.senRecs p q (x.records (s2.senStreamCfg_SLOT p q))).senBlock p q

/-- A profile packet that R131 does not discard is taken into the profile in assembly; one of an earlier PROFILE_ID is dropped. With no
profile in assembly a packet begins one, whatever its PROFILE_ID. Log 162 (DESIGN CHOICE). -/
def State.profTake (s : State) (p q : Nat) (d : List Byte) : State :=
  let id := BitVec.ofNat 32 (u32 d 4)
  let late := ((s.stream p q).prof).any fun x => decide (ixSub id x.id < 0)
  if late then s.senBad p
  else
    let s1 := if ((s.stream p q).prof).any fun x => decide (x.id ≠ id) then s.profClose p q else s
    let fresh : ProfStage :=
      let cam := s.senStreamCfg_TIME_SRC p q && bit (u8 d 3) 0
      let time := if cam then BitVec.ofNat 64 (u64 d 8) else s.arrival (s.senLat_NS p)
      { id := id, total := u16 d 20, fmt := u8 d 22, points := []
        time := time, tunc := s.tuncAt time, camTime := cam, at_ := s.now }
    let s2 := match (s1.stream p q).prof with
      | some _ => s1
      | none =>
        let gone := (s1.stream p q).lastId.elim 0 fun k => if 0 < ixSub id k then (ixSub id k).toNat - 1 else 0
        (s1.modStream p q fun z => { z with prof := some fresh }).senLost p q gone
    let s3 := s2.modStream p q fun z => { z with
      prof := z.prof.map fun x =>
        let sz := pointSize x.fmt
        { x with points := (upTo (u16 d 18)).foldl (fun t i =>
            if u16 d 16 + i < x.total then
              let b := sub d (24 + i * sz) sz
              Tab.set (u16 d 16 + i) (if x.fmt = 3 then patch b 6 (zeros 2) else b) t
            else t) x.points } }
    if ((s3.stream p q).prof).any fun x => decide (x.points.length = x.total) then s3.profClose p q else s3

/-- A profile packet (R131). Log 53 (DEDUCED). -/
def State.senProfile (s : State) (p q : Nat) (d : List Byte) : State :=
  let n := u16 d 18
  let bad := decide (d.length < 24 ∨ u16 d 0 ≠ 0x5A3C ∨ u8 d 2 ≠ 1 ∨ u8 d 22 < 1 ∨ 3 < u8 d 22 ∨
    d.length < 24 + n * pointSize (u8 d 22) ∨ u16 d 20 < u16 d 16 + n ∨ u16 d 20 = 0 ∨ 16384 < u16 d 20)
  if bad then s.senBad p else s.profTake p q d

/-- Bytes of the Ethernet frame that carries a datagram: Ethernet, IP and UDP headers, the check sequence and the payload, GVSP headers
as in standard ID mode. Log 163 (PRESUMED). -/
def frameLen (d : Datagram) : Nat :=
  18 + (if d.dst.toNat / 2 ^ 32 = 0xFFFF then 20 else 40) + 8 +
    match d.data with
    | .leader .. => 44
    | .payload _ _ x => 8 + x.length
    | .trailer .. => 16
    | .profile b => b.length

/-- SEN_DATAGRAM: a datagram is taken into the first stream it matches (R129); a frame above 9 216 bytes is not taken (R128, R137).
Log 163 (PRESUMED). -/
def execSenDatagram (dt p : Nat) (d : Datagram) (s : State) : Host.Outcome State Fault Refusal :=
  .next <|
    let s1 := s.pass dt
    if !(s1.sen p).up || decide (9216 < frameLen d) then s1
    else if !d.sumOk then s1.senBad p
    else
      match (s1.senLive p).find? (s1.senMatch p d) with
      | none => s1.modSen p fun x => { x with noMatch := satAdd 65535 x.noMatch 1 }
      | some q =>
        match d.data, s1.senStreamCfg_PROTO p q with
        | .profile b, true => s1.senProfile p q b
        | .leader b image ts w h f, false => s1.senLeader p q b image ts w h f
        | .payload b k x, false => s1.senPayload p q b k x
        | .trailer b k, false => s1.senTrailer p q b k
        | _, _ => s1.senBad p

/-- PROFILE_CLOSE_TIMEOUT: 1 ms after its first packet an incomplete profile is closed (R132). -/
def execProfileCloseTimeout (p q : Nat) (s : State) : Host.Outcome State Fault Refusal :=
  .next <|
    match (s.stream p q).prof with
    | none => s
    | some x => (s.waitUntil (x.at_ + msTicks)).profClose p q

/-- Bytes of the Ethernet frame that carries a request; of an echo, its headers and data. Log 163 (PRESUMED). -/
def reqFrameLen (r : NetRequest) : Nat :=
  match r.kind with
  | .echo4 => 18 + 20 + 8 + r.data.length
  | .echo6 => 18 + 40 + 8 + r.data.length
  | _ => 64

/-- A request at a SEN port is answered: address resolution of the port's own addresses, echoes sent to them, and membership queries
with a report for each multicast group of its streams; a frame above 9 216 bytes, or one that is not plain, is not taken (R128).
Log 55 (DESIGN CHOICE). -/
def State.senNet (s : State) (p : Nat) (r : NetRequest) : State :=
  if (!(s.sen p).up && !(s.quad 4).settling) || decide (9216 < reqFrameLen r) || r.via.odd || decide (r.via.tags ≠ []) then s
  else
    match r.kind with
    | .igmp | .mld =>
      eachOf ((s.senLive p).filter fun q => decide (s.senStreamGroup4_GROUP4 p q ≠ 0))
        (fun q s => s.senSend p (.net true p r.kind (mapped (s.senStreamGroup4_GROUP4 p q)) [] {})) s
    | .arp | .nd | .echo4 | .echo6 =>
      if s.senOwns p r.target then s.senSend p (.net true p r.kind r.src r.data { addr := some r.target }) else s
    | .other => s

end Sys2Proof.Machine
end

