-- ==== Sys2Proof/Machine/Fit.lean ====
section
/-! DEFINITION. What one problem of the Solver computes (09_solver.md R336 to R343, R352 to R356): FX32 entries, exact sums in
an FX64 accumulator, pivots, the five kinds, refinement, cycles, and the range certificate (R344). -/

namespace Sys2Proof.Machine

open Sys2Proof

/-! ### Schedules (R341 to R344) -/

/-- KIND of a schedule body. -/
def sdKind (b : List Byte) : Nat := u8 b 0
/-- n, the unknowns. -/
def sdN (b : List Byte) : Nat := u8 b 1 + 1
/-- m, the rows: n but for QR. -/
def sdM (b : List Byte) : Nat := if sdKind b = 4 then u8 b 2 + 1 else sdN b
/-- KMAX. -/
def sdKmax (b : List Byte) : Nat := u8 b 3
/-- BP_A. -/
def sdBpA (b : List Byte) : Nat := u8 b 4
/-- BP_B. -/
def sdBpB (b : List Byte) : Nat := u8 b 5
/-- BP_F. -/
def sdBpF (b : List Byte) : Nat := u8 b 6
/-- BP_X. -/
def sdBpX (b : List Byte) : Nat := u8 b 7
/-- PIVMIN, raw at BP_A. -/
def sdPivmin (b : List Byte) : Int := s32 b 8
/-- LAMBDA, raw at BP_A. -/
def sdLambda (b : List Byte) : Int := s32 b 12
/-- RTOL, raw at BP_B. -/
def sdRtol (b : List Byte) : Int := s32 b 16
/-- NOPS. -/
def sdNops (b : List Byte) : Nat := if sdKind b = 5 then u16 b 20 else 0
/-- NASM. -/
def sdNasm (b : List Byte) : Nat := u16 b 22
/-- MEAS_WORDS. -/
def sdMeasWords (b : List Byte) : Nat := u8 b 28
/-- PARAM_STRIDE. -/
def sdStride (b : List Byte) : Nat := u32 b 32
/-- NA, the A slots of SPARSE. -/
def sdNA (b : List Byte) : Nat := if sdKind b = 5 then u16 b 36 else 0
/-- NSLOT. -/
def sdNslot (b : List Byte) : Nat := u16 b 38
/-- Assembly operation `i`. -/
def sdAsm (b : List Byte) (i : Nat) : List Byte := sub b (64 + 16 * i) 16
/-- A-slot position `k`: row and column. -/
def sdPos (b : List Byte) (k : Nat) : Nat × Nat := let o := 64 + 16 * sdNasm b + 4 * k; (u8 b o, u8 b (o + 1))
/-- Sparse operation `i`. -/
def sdOp (b : List Byte) (i : Nat) : List Byte := sub b (64 + 16 * sdNasm b + 4 * sdNA b + 8 * i) 8
/-- The bytes before the certificate. -/
def sdBare (b : List Byte) : Nat := 64 + 16 * sdNasm b + 4 * sdNA b + 8 * sdNops b
/-- The certificate's bound of class `q`, raw. -/
def sdBound (b : List Byte) (q : Nat) : Nat := u64 b (sdBare b + 8 * q)
/-- A is symmetric: CHOL, LDLT and SPARSE. -/
def sdSym (b : List Byte) : Bool := [1, 2, 5].contains (sdKind b)

/-! ### Arithmetic (R336, R337) -/

/-- An FX32 entry by its raw value; none is NaR. -/
abbrev Fx := Option Int

/-- A term: a raw value and its binary point; none is NaR. -/
structure Term where
  raw : Option Int
  bp : Nat
  deriving DecidableEq, Repr

/-- What a problem gathers as it goes: SAT, TINY, the first tiny pivot and the pivots regularised. -/
structure SlvAcc where
  sat : Bool := false
  tiny : Bool := false
  piv : Option Nat := none
  nreg : Nat := 0
  deriving DecidableEq, Repr

/-- A computation of a problem. -/
abbrev SlvM (α : Type) := StateM SlvAcc α

/-- SAT is set. Log 105 (DEDUCED). -/
def slvSat : SlvM Unit := modify fun a => { a with sat := true }

/-- The greatest raw value of FX32. -/
def fxMax : Int := 2147483647

/-- A word as an FX32 entry. -/
def fxWord (w : Nat) : Fx := if w % 2 ^ 32 = 0x80000000 then none else some (signed 32 w)

/-- An entry as the word it is stored in. -/
def fxStore (x : Fx) : List Byte := match x with | none => by4 0x80000000 | some v => by4i v

/-- cv: n/d, a value times 2^t already, rounded with ties away from zero and saturated. -/
def slvCv (n : Int) (d : Nat) : SlvM Fx := do
  let r := rhaDiv n d
  if fxMax < r then slvSat; return some fxMax
  else if r < -fxMax then slvSat; return some (-fxMax)
  else return some r

/-- cv of a term into a binary point. -/
def Term.cv (t : Term) (bp : Nat) : SlvM Fx :=
  match t.raw with
  | none => return none
  | some r => slvCv (r * ((2 ^ bp : Nat) : Int)) (2 ^ t.bp)

/-- The exact product of two terms. -/
def Term.mul (x y : Term) : Term := ⟨x.raw.bind fun a => y.raw.map fun b => a * b, x.bp + y.bp⟩
/-- The negated term. -/
def Term.neg (x : Term) : Term := ⟨x.raw.map fun a => -a, x.bp⟩

/-- The exact sum of terms, at the largest binary point. -/
def Term.sum (l : List Term) : Term :=
  let bp := l.foldl (fun m t => max m t.bp) 0
  ⟨l.foldl (fun a t => a.bind fun a => t.raw.map fun r => a + r * ((2 ^ (bp - t.bp) : Nat) : Int)) (some 0), bp⟩

/-- The FX64 accumulator saturates at ±(2^63 − 1), its binary point at most 62 (R336). Log 105 (DEDUCED). -/
def Term.acc (t : Term) : SlvM Term :=
  match t.raw with
  | none => return t
  | some r =>
    let lim : Int := ((2 ^ 63 - 1 : Nat) : Int) * ((2 ^ (t.bp - 62) : Nat) : Int)
    if lim < r then do slvSat; return ⟨some lim, t.bp⟩
    else if r < -lim then do slvSat; return ⟨some (-lim), t.bp⟩
    else return t

/-- A sum accumulated and converted once. -/
def sumCv (l : List Term) (bp : Nat) : SlvM Fx := do (← (Term.sum l).acc).cv bp

/-- cv of an exact quotient; by zero it is NaR. -/
def quoCv (x y : Term) (bp : Nat) : SlvM Fx :=
  match x.raw, y.raw with
  | some a, some b =>
    if b = 0 then return none
    else slvCv ((if b < 0 then -a else a) * ((2 ^ (y.bp + bp) : Nat) : Int)) (b.natAbs * 2 ^ x.bp)
  | _, _ => return none

/-- A sum accumulated, divided and converted once. -/
def sumQuo (l : List Term) (y : Term) (bp : Nat) : SlvM Fx := do quoCv (← (Term.sum l).acc) y bp

/-- √(raw / 2^b) × 2^t rounded to nearest. -/
def rootRaw (raw b t : Nat) : Nat := (isqrt (4 * raw * 2 ^ (2 * t) / 2 ^ b) + 1) / 2

/-- cv of a square root; of a negative value it is NaR. -/
def rootCv (x : Term) (bp : Nat) : SlvM Fx :=
  match x.raw with
  | none => return none
  | some r => if r < 0 then return none else slvCv (rootRaw r.toNat x.bp bp) 1

/-! ### Pivots (R338) -/

/-- piv(p, j) in a schedule and a MODE: false NAR, true REG. -/
def slvPiv (b : List Byte) (reg : Bool) (p : Fx) (j : Nat) : SlvM Fx := do
  match p with
  | none => return none
  | some v =>
    let sym := sdSym b
    if (if sym then v < sdPivmin b else (v.natAbs : Int) < sdPivmin b) then
      modify fun a => { a with tiny := true, piv := a.piv.orElse fun _ => some j }
      if reg then
        modify fun a => { a with nreg := a.nreg + 1 }
        if sym then slvCv (max v 0 + sdLambda b) 1
        else if 0 ≤ v then slvCv (v + sdLambda b) 1 else slvCv (v - sdLambda b) 1
      else return none
    else return p

/-! ### Vectors and matrices -/

/-- A matrix of entries by rows. -/
abbrev Mat := List (List Fx)

/-- An entry of a matrix. -/
def mget (m : Mat) (i j : Nat) : Fx := (m.getD i []).getD j (some 0)
/-- A matrix with one entry replaced. -/
def mset (m : Mat) (i j : Nat) (x : Fx) : Mat := m.set i ((m.getD i []).set j x)
/-- A matrix of zeros. -/
def mzero (r c : Nat) : Mat := List.replicate r (List.replicate c (some 0))
/-- An entry of a vector. -/
def vget (v : List Fx) (i : Nat) : Fx := v.getD i (some 0)
/-- Numbers lo to hi − 1. -/
def rangeOf (lo hi : Nat) : List Nat := (upTo (hi - lo)).map fun i => lo + i

/-- Two rows of a list exchanged. -/
def swapAt {α : Type} (l : List α) (i j : Nat) (d : α) : List α := (l.set i (l.getD j d)).set j (l.getD i d)

/-- A factorisation: the factors of the dense kinds, or the slots of SPARSE with its accumulator. -/
structure Factor where
  l : Mat := []
  d : List Fx := []
  perm : List Nat := []
  v : Mat := []
  h : List Term := []
  slots : List Term := []
  acc : Term := ⟨some 0, 0⟩
  deriving DecidableEq, Repr

/-! ### Dense factorisation and solve (R353) -/

/-- CHOL. -/
def cholFactor (b : List Byte) (reg : Bool) (a : Mat) : SlvM Factor := do
  let n := sdN b
  let fa := sdBpA b
  let ff := sdBpF b
  let t := fun (x : Fx) (p : Nat) => (⟨x, p⟩ : Term)
  let l ← (upTo n).foldlM (fun (l : Mat) j => do
    let lj := fun i => rangeOf 0 j |>.map fun k => ((t (mget l i k) ff).mul (t (mget l j k) ff)).neg
    let p ← slvPiv b reg (← sumCv (t (mget a j j) fa :: lj j) fa) j
    let l1 := mset l j j (← rootCv (t p fa) ff)
    (rangeOf (j + 1) n).foldlM (fun (l : Mat) i => do
      return mset l i j (← sumQuo (t (mget a i j) fa :: lj i) (t (mget l1 j j) ff) ff)) l1) (mzero n n)
  return { l := l }

/-- CHOL solve. -/
def cholSolve (b : List Byte) (f : Factor) (r : List Fx) : SlvM (List Fx) := do
  let n := sdN b
  let ff := sdBpF b
  let fx := sdBpX b
  let t := fun (x : Fx) (p : Nat) => (⟨x, p⟩ : Term)
  let y ← (upTo n).foldlM (fun (y : List Fx) i => do
    return y.set i (← sumQuo (t (vget r i) (sdBpB b) :: (rangeOf 0 i).map fun k => ((t (mget f.l i k) ff).mul (t (vget y k) fx)).neg)
      (t (mget f.l i i) ff) fx)) (List.replicate n (some 0))
  (upTo n).reverse.foldlM (fun (x : List Fx) i => do
    return x.set i (← sumQuo (t (vget y i) fx :: (rangeOf (i + 1) n).map fun k => ((t (mget f.l k i) ff).mul (t (vget x k) fx)).neg)
      (t (mget f.l i i) ff) fx)) (List.replicate n (some 0))

/-- LDLT. -/
def ldltFactor (b : List Byte) (reg : Bool) (a : Mat) : SlvM Factor := do
  let n := sdN b
  let fa := sdBpA b
  let ff := sdBpF b
  let t := fun (x : Fx) (p : Nat) => (⟨x, p⟩ : Term)
  let (l, d) ← (upTo n).foldlM (fun (ld : Mat × List Fx) j => do
    let l := ld.1
    let s := fun i => (rangeOf 0 j).map fun k =>
      (((t (mget l i k) ff).mul (t (mget l j k) ff)).mul (t (vget ld.2 k) fa)).neg
    let p ← slvPiv b reg (← sumCv (t (mget a j j) fa :: s j) fa) j
    let l1 ← (rangeOf (j + 1) n).foldlM (fun (l : Mat) i => do
      return mset l i j (← sumQuo (t (mget a i j) fa :: s i) (t p fa) ff)) l
    return (l1, ld.2.set j p)) (mzero n n, List.replicate n (some 0))
  return { l := l, d := d }

/-- LDLT solve. -/
def ldltSolve (b : List Byte) (f : Factor) (r : List Fx) : SlvM (List Fx) := do
  let n := sdN b
  let ff := sdBpF b
  let fx := sdBpX b
  let t := fun (x : Fx) (p : Nat) => (⟨x, p⟩ : Term)
  let z ← (upTo n).foldlM (fun (z : List Fx) i => do
    return z.set i (← sumCv (t (vget r i) (sdBpB b) :: (rangeOf 0 i).map fun k => ((t (mget f.l i k) ff).mul (t (vget z k) fx)).neg) fx))
    (List.replicate n (some 0))
  let w ← (upTo n).mapM fun i => quoCv (t (vget z i) fx) (t (vget f.d i) (sdBpA b)) fx
  (upTo n).reverse.foldlM (fun (x : List Fx) i => do
    return x.set i (← sumCv (t (vget w i) fx :: (rangeOf (i + 1) n).map fun k => ((t (mget f.l k i) ff).mul (t (vget x k) fx)).neg) fx))
    (List.replicate n (some 0))

/-- |x| as LU compares it: NaR counts as greatest. -/
def fxLt (x y : Fx) : Bool :=
  match x, y with
  | none, _ => false
  | some _, none => true
  | some a, some b => decide (a.natAbs < b.natAbs)

/-- The least row from `j` on whose candidate is greatest. -/
def pivotRow (c : List Fx) (j n : Nat) : Nat :=
  (rangeOf (j + 1) n).foldl (fun r i => if fxLt (vget c r) (vget c i) then i else r) j

/-- LU with partial pivoting: `l` holds the multipliers, `v` the rows of U. -/
def luFactor (b : List Byte) (reg : Bool) (a : Mat) : SlvM Factor := do
  let n := sdN b
  let fa := sdBpA b
  let ff := sdBpF b
  let t := fun (x : Fx) (p : Nat) => (⟨x, p⟩ : Term)
  let go := fun (s : Mat × Mat × Mat × List Nat) (j : Nat) => (do
    let (a, l, u, perm) := s
    let sums := fun (a l : Mat) (i c : Nat) => t (mget a i c) fa :: (rangeOf 0 j).map fun k =>
      ((t (mget l i k) ff).mul (t (mget u k c) fa)).neg
    let c ← (rangeOf j n).foldlM (fun (c : List Fx) i => do return c.set i (← sumCv (sums a l i j) fa)) (List.replicate n (some 0))
    let r := pivotRow c j n
    let a1 := swapAt a r j []
    let l1 := swapAt l r j []
    let c1 := swapAt c r j none
    let p ← slvPiv b reg (vget c1 j) j
    let u1 := mset u j j p
    let l2 ← (rangeOf (j + 1) n).foldlM (fun (l : Mat) i => do
      return mset l i j (← quoCv (t (vget c1 i) fa) (t p fa) ff)) l1
    let u2 ← (rangeOf (j + 1) n).foldlM (fun (u' : Mat) i => do return mset u' j i (← sumCv (sums a1 l1 j i) fa)) u1
    return (a1, l2, u2, swapAt perm r j 0) : SlvM (Mat × Mat × Mat × List Nat))
  let (_, l, u, perm) ← (upTo n).foldlM go (a, mzero n n, mzero n n, upTo n)
  return { l := l, v := u, perm := perm }

/-- LU solve. -/
def luSolve (b : List Byte) (f : Factor) (r : List Fx) : SlvM (List Fx) := do
  let n := sdN b
  let ff := sdBpF b
  let fx := sdBpX b
  let fa := sdBpA b
  let t := fun (x : Fx) (p : Nat) => (⟨x, p⟩ : Term)
  let z ← (upTo n).foldlM (fun (z : List Fx) i => do
    return z.set i (← sumCv (t (vget r (f.perm.getD i 0)) (sdBpB b) ::
      (rangeOf 0 i).map fun k => ((t (mget f.l i k) ff).mul (t (vget z k) fx)).neg) fx)) (List.replicate n (some 0))
  (upTo n).reverse.foldlM (fun (x : List Fx) i => do
    return x.set i (← sumQuo (t (vget z i) fx :: (rangeOf (i + 1) n).map fun k => ((t (mget f.v i k) fa).mul (t (vget x k) fx)).neg)
      (t (mget f.v i i) fa) fx)) (List.replicate n (some 0))

/-- x − v × t ÷ h, converted once. -/
def houseCv (x v t h : Term) (bp : Nat) : SlvM Fx :=
  match x.raw, v.raw, t.raw, h.raw with
  | some a, some v', some t', some h' =>
    if h' = 0 then return none
    else
      -- a / 2^x - v' t' 2^(h - v - t) / h'
      let n : Int := a * h' * ((2 ^ (v.bp + t.bp) : Nat) : Int) - v' * t' * ((2 ^ (h.bp + x.bp) : Nat) : Int)
      slvCv ((if h' < 0 then -n else n) * ((2 ^ bp : Nat) : Int)) (h'.natAbs * 2 ^ (x.bp + v.bp + t.bp))
  | _, _, _, _ => return none

/-- QR by Householder: `l` holds the transformed A, `v` the vectors by column, `h` and `d` the scales and the diagonal. -/
def qrFactor (b : List Byte) (reg : Bool) (a : Mat) : SlvM Factor := do
  let n := sdN b
  let m := sdM b
  let fa := sdBpA b
  let t := fun (x : Fx) => (⟨x, fa⟩ : Term)
  let go := fun (s : Mat × Mat × List Term × List Fx) (j : Nat) => (do
    let (a, vs, hs, rd) := s
    let r ← rootCv (← (Term.sum ((rangeOf j m).map fun i => (t (mget a i j)).mul (t (mget a i j)))).acc) fa
    let neg := match mget a j j with | some x => decide (0 ≤ x) | none => false
    let al ← slvPiv b reg (if neg then r.map fun x => -x else r) j
    let vj ← sumCv [t (mget a j j), (t al).neg] fa
    let v := (upTo m).map fun i => if i < j then some 0 else if i = j then vj else mget a i j
    let h := ((t al).mul (t vj)).neg
    let a1 ← (rangeOf (j + 1) n).foldlM (fun (a : Mat) c => do
      let s ← (Term.sum ((rangeOf j m).map fun i => (t (vget v i)).mul (t (mget a i c)))).acc
      (rangeOf j m).foldlM (fun (a' : Mat) i => do return mset a' i c (← houseCv (t (mget a i c)) (t (vget v i)) s h fa)) a) a
    return (a1, vs ++ [v], hs ++ [h], rd ++ [al]) : SlvM (Mat × Mat × List Term × List Fx))
  let (a1, vs, hs, rd) ← (upTo n).foldlM go (a, [], [], [])
  return { l := a1, v := vs, h := hs, d := rd }

/-- QR solve. -/
def qrSolve (b : List Byte) (f : Factor) (r : List Fx) : SlvM (List Fx) := do
  let n := sdN b
  let m := sdM b
  let fa := sdBpA b
  let fb := sdBpB b
  let fx := sdBpX b
  let t := fun (x : Fx) (p : Nat) => (⟨x, p⟩ : Term)
  let q ← (upTo n).foldlM (fun (q : List Fx) j => do
    let v := f.v.getD j []
    let s ← (Term.sum ((rangeOf j m).map fun i => (t (vget v i) fa).mul (t (vget q i) fb))).acc
    (rangeOf j m).foldlM (fun (q' : List Fx) i => do
      return q'.set i (← houseCv (t (vget q i) fb) (t (vget v i) fa) s (f.h.getD j ⟨none, 0⟩) fb)) q) r
  (upTo n).reverse.foldlM (fun (x : List Fx) i => do
    return x.set i (← sumQuo (t (vget q i) fb :: (rangeOf (i + 1) n).map fun k => ((t (mget f.l i k) fa).mul (t (vget x k) fx)).neg)
      (t (vget f.d i) fa) fx)) (List.replicate n (some 0))

/-! ### SPARSE (R343) -/

/-- The binary point of the class of a slot. -/
def slotBp (b : List Byte) (k : Nat) : Nat :=
  let na := sdNA b
  let n := sdN b
  if k < na then sdBpA b else if k < na + n then sdBpB b else if k < na + 2 * n then sdBpX b else sdBpF b

/-- One sparse operation, with its index. -/
def sparseStep (b : List Byte) (reg : Bool) (f : Factor) (i : Nat) : SlvM Factor := do
  let o := sdOp b i
  let d := u16 o 2
  let v := fun k => f.slots.getD k ⟨some 0, 0⟩
  let s1 := v (u16 o 4)
  let put := fun (x : Fx) (bp : Nat) => { f with slots := f.slots.set d ⟨x, bp⟩ }
  match u8 o 0 with
  | 1 => return { f with acc := s1 }
  | 2 => return { f with acc := Term.sum [f.acc, (s1.mul (v (u16 o 6))).neg] }
  | 3 => return put (← slvPiv b reg (← (← f.acc.acc).cv (sdBpA b)) i) (sdBpA b)
  | 4 => return put (← rootCv ⟨← slvPiv b reg (← (← f.acc.acc).cv (sdBpA b)) i, sdBpA b⟩ (slotBp b d)) (slotBp b d)
  | 5 => return put (← quoCv (← f.acc.acc) s1 (slotBp b d)) (slotBp b d)
  | 6 => return put (← (← f.acc.acc).cv (slotBp b d)) (slotBp b d)
  | 7 => return put (← (s1.mul (v (u16 o 6))).cv (slotBp b d)) (slotBp b d)
  | _ => return f

/-- The index of SOLVE; the operation count when there is none. -/
def sdSolve (b : List Byte) : Nat := ((upTo (sdNops b)).find? fun i => decide (u8 (sdOp b i) 0 = 0x0F)).getD (sdNops b)

/-- The factorisation of SPARSE: the operations before SOLVE. `a` holds the A slots in one row. Log 105 (DEDUCED). -/
def sparseFactor (b : List Byte) (reg : Bool) (a : Mat) : SlvM Factor :=
  let f : Factor :=
    { slots := (upTo (sdNslot b)).map fun k => if k < sdNA b then ⟨vget (a.getD 0 []) k, sdBpA b⟩ else ⟨some 0, slotBp b k⟩ }
  (upTo (sdSolve b)).foldlM (sparseStep b reg) f

/-- A solve of SPARSE: the operations from SOLVE on. -/
def sparseSolve (b : List Byte) (reg : Bool) (f : Factor) (r : List Fx) : SlvM (List Fx) := do
  let na := sdNA b
  let n := sdN b
  let s := (upTo n).foldl (fun (l : List Term) i => l.set (na + i) ⟨vget r i, sdBpB b⟩) f.slots
  let g ← (rangeOf (sdSolve b) (sdNops b)).foldlM (sparseStep b reg) { f with slots := s }
  return (upTo n).map fun i => (g.slots.getD (na + n + i) ⟨some 0, 0⟩).raw

/-! ### Factor, solve and measure by kind (R353, R354) -/

/-- The factorisation of a kind. -/
def slvFactor (b : List Byte) (reg : Bool) (a : Mat) : SlvM Factor :=
  match sdKind b with
  | 1 => cholFactor b reg a
  | 2 => ldltFactor b reg a
  | 3 => luFactor b reg a
  | 4 => qrFactor b reg a
  | _ => sparseFactor b reg a

/-- A solve of a kind. -/
def slvSolve (b : List Byte) (reg : Bool) (f : Factor) (r : List Fx) : SlvM (List Fx) :=
  match sdKind b with
  | 1 => cholSolve b f r
  | 2 => ldltSolve b f r
  | 3 => luSolve b f r
  | 4 => qrSolve b f r
  | _ => sparseSolve b reg f r

/-- Entry (i, k) of the assembled A: of a symmetric kind from its lower triangle; of SPARSE from its slots. -/
def aEntry (b : List Byte) (a : Mat) (i k : Nat) : Fx :=
  if sdKind b = 5 then
    match (upTo (sdNA b)).find? fun s => decide (sdPos b s = (max i k, min i k)) with
    | some s => vget (a.getD 0 []) s
    | none => some 0
  else if sdSym b then mget a (max i k) (min i k) else mget a i k

/-- The greatest magnitude of a list of entries; NaR when one is NaR. -/
def fxMaxAbs (l : List Fx) : Fx := l.foldl (fun m x => m.bind fun m => x.map fun v => max m (v.natAbs : Int)) (some 0)

/-- The terms of b_i − Σ A_ik x_k. For SPARSE every A slot of row i and column k ≠ i contributes to rows i and k. -/
def resTerms (b : List Byte) (a : Mat) (r x : List Fx) (i : Nat) : List Term :=
  let ax := fun (e : Fx) (k : Nat) => ((⟨e, sdBpA b⟩ : Term).mul ⟨vget x k, sdBpX b⟩).neg
  ⟨vget r i, sdBpB b⟩ ::
    if sdKind b = 5 then
      (upTo (sdNA b)).flatMap fun s =>
        let p := sdPos b s
        let e := vget (a.getD 0 []) s
        (if p.1 = i then [ax e p.2] else []) ++ (if p.2 = i ∧ p.1 ≠ i then [ax e p.1] else [])
    else (upTo (sdN b)).map fun k => ax (aEntry b a i k) k

/-- meas(x): the residual and its measure (R354). -/
def slvMeas (b : List Byte) (a : Mat) (r x : List Fx) : SlvM (List Fx × Fx) := do
  let q ← (upTo (sdM b)).mapM fun i => (Term.sum (resTerms b a r x i)).acc
  let res ← q.mapM fun t => t.cv (sdBpB b)
  if sdKind b = 4 then
    let g ← (upTo (sdN b)).mapM fun c =>
      sumCv ((upTo (sdM b)).map fun i => (⟨mget a i c, sdBpA b⟩ : Term).mul (q.getD i ⟨none, 0⟩)) (sdBpB b)
    return (res, if res.any Option.isNone then none else fxMaxAbs g)
  else return (res, fxMaxAbs res)

/-! ### Cycles (R356) -/

/-- ⌈a ÷ b⌉. -/
def ceilDiv (a b : Nat) : Nat := (a + b - 1) / b

/-- Words that LOADA or LOADB reads. -/
def loadWords (b : List Byte) (op : Nat) : Nat :=
  if op = 2 then sdM b else if sdSym b then sdN b * (sdN b + 1) / 2 else sdM b * sdN b

/-- Measurement entries that an assembly operation takes of a problem. -/
def measTaken (b : List Byte) (op nmeas : Nat) : Nat := if op = 4 then min nmeas (sdM b) else nmeas

/-- Assembly cycles of a problem with NMEAS measurement entries. -/
def asmCycles (b : List Byte) (nmeas : Nat) : Nat :=
  (upTo (sdNasm b)).foldl (fun t i =>
    let o := sdAsm b i
    let nc := u8 o 9
    t + match u8 o 0 with
      | 3 => 8 + nmeas * ceilDiv (nc * (nc + 3) / 2) 16
      | 4 => 8 + measTaken b 4 nmeas * ceilDiv nc 16
      | op => 8 + ceilDiv (loadWords b op) 16) 0

/-- The longest chain of dependent PIV, SQRTP and DIV operations among sparse operations. -/
def sparseDepth (b : List Byte) (l : List Nat) : Nat :=
  (l.foldl (fun (s : Tab Nat × Nat × Nat) i =>
    let (dep, acc, best) := s
    let o := sdOp b i
    let g := fun k => Tab.get 0 k dep
    let put := fun v => (Tab.set (u16 o 2) v dep, acc, max best v)
    match u8 o 0 with
    | 1 => (dep, g (u16 o 4), best)
    | 2 => (dep, max acc (max (g (u16 o 4)) (g (u16 o 6))), best)
    | 3 | 4 => put (acc + 1)
    | 5 => put (max acc (g (u16 o 4)) + 1)
    | 6 => put acc
    | 7 => put (max (g (u16 o 4)) (g (u16 o 6)))
    | _ => s) ([], 0, 0)).2.2

/-- Cycles of factorisation, of a solve and of a residual. -/
def slvCycles (b : List Byte) : Nat × Nat × Nat :=
  let n := sdN b
  let m := sdM b
  let solve := 8 + 22 * n + ceilDiv (n * n) 16
  let res := 8 + ceilDiv (m * n) 16
  match sdKind b with
  | 1 => (16 + 24 * n + ceilDiv (n * n * n) 96, solve, res)
  | 2 => (16 + 24 * n + ceilDiv (n * n * n) 64, solve, res)
  | 3 => (16 + 28 * n + ceilDiv (n * n * n) 48, solve, res)
  | 4 => (16 + 48 * n + ceilDiv (m * n * n) 16, solve + ceilDiv (m * n) 16, 8 + 2 * ceilDiv (m * n) 16)
  | _ =>
    let k := sdSolve b
    let s := sdNops b - k - 1
    (16 + k + 20 * sparseDepth b (upTo k), 8 + s + 20 * sparseDepth b (rangeOf k (sdNops b)), 8 + 2 * sdNA b)

/-- CYC_BOUND (R356). -/
def cycBound (b : List Byte) : Nat :=
  let (f, s, r) := slvCycles b
  f + s + r + sdKmax b * (s + r)

/-! ### Assembly (R352) -/

/-- A word clamped to the certificate's bound of a class, and whether it was. -/
def clampWord (b : List Byte) (q w : Nat) : Fx × Bool :=
  match fxWord w with
  | none => (none, false)
  | some v =>
    let u : Int := sdBound b q
    if u < v then (some u, true) else if v < -u then (some (-u), true) else (some v, false)

/-- The place that word `i` of LOADA fills. -/
def loadPlaces (b : List Byte) : List (Nat × Nat) :=
  if sdSym b then (upTo (sdN b)).flatMap fun r => (upTo (r + 1)).map fun c => (r, c)
  else (upTo (sdM b)).flatMap fun r => (upTo (sdN b)).map fun c => (r, c)

/-- A with an entry assembled: SPARSE keeps the slots of its pattern in one row. -/
def asmPut (b : List Byte) (a : Mat) (r c : Nat) (x : Fx) : Mat :=
  if sdKind b = 5 then
    (upTo (sdNA b)).foldl (fun a s => if sdPos b s = (r, c) then mset a 0 s x else a) a
  else mset a r c x

/-- Assembly of a problem: A, b and RANGE, from its parameter set and its measurement words by entry. -/
def slvAssemble (b par : List Byte) (meas : List (List Byte)) : SlvM (Mat × List Fx × Bool) := do
  let start : Mat × List Fx × Bool :=
    (if sdKind b = 5 then mzero 1 (sdNA b) else mzero (sdM b) (sdN b), List.replicate (sdM b) (some 0), false)
  (upTo (sdNasm b)).foldlM (fun (s : Mat × List Fx × Bool) i => do
    let (a, r, rng) := s
    let o := sdAsm b i
    let off := u32 o 4
    let col := u8 o 8
    let nc := u8 o 9
    let word := fun (e : List Byte) (q k : Nat) => clampWord b q (u32 e (4 * k))
    let w := fun (e : List Byte) => if u8 o 1 = 0xFF then ((⟨some 1, 0⟩ : Term), false)
      else let x := word e 3 (u8 o 1); (⟨x.1, u8 o 11⟩, x.2)
    let j := fun (e : List Byte) (c : Nat) => let x := word e 1 (u8 o 10 + (c - col)); ((⟨x.1, u8 o 3⟩ : Term), x.2)
    let rw := fun (e : List Byte) => let x := word e 2 (u8 o 2); ((⟨x.1, u8 o 3⟩ : Term), x.2)
    let touched := fun (es : List (List Byte)) => es.any fun e =>
      (w e).2 || (rw e).2 || (rangeOf col (col + nc)).any fun c => (j e c).2
    match u8 o 0 with
    | 1 =>
      let l := (loadPlaces b).zipIdx.map fun p => (p.1, clampWord b 0 (u32 par (off + 4 * p.2)))
      return (l.foldl (fun a x => asmPut b a x.1.1 x.1.2 x.2.1) a, r, rng || l.any fun x => x.2.2)
    | 2 =>
      let l := (upTo (sdM b)).map fun k => clampWord b 0 (u32 par (off + 4 * k))
      return (a, l.map (fun x => x.1), rng || l.any fun x => x.2)
    | 3 =>
      let cols := rangeOf col (col + nc)
      let a1 ← cols.foldlM (fun (m : Mat) c => do
        (cols.filter fun c' => !sdSym b || decide (c' ≤ c)).foldlM (fun (m : Mat) c' => do
          return mset m c c' (← sumCv ((⟨mget a c c', sdBpA b⟩ : Term) ::
            meas.map fun e => ((w e).1.mul (j e c).1).mul (j e c').1) (sdBpA b))) m) a
      let r1 ← cols.foldlM (fun (v : List Fx) c => do
        return v.set c (← sumCv ((⟨vget r c, sdBpB b⟩ : Term) :: meas.map fun e => ((w e).1.mul (j e c).1).mul (rw e).1) (sdBpB b))) r
      return (a1, r1, rng || touched meas)
    | _ =>
      let es := meas.take (sdM b)
      let a1 ← es.zipIdx.foldlM (fun (m : Mat) x => do
        (rangeOf col (col + nc)).foldlM (fun (m : Mat) c => do
          return mset m x.2 c (← ((w x.1).1.mul (j x.1 c).1).cv (sdBpA b))) m) a
      let r1 ← es.zipIdx.foldlM (fun (v : List Fx) x => do
        return v.set x.2 (← ((w x.1).1.mul (rw x.1).1).cv (sdBpB b))) r
      return (a1, r1, rng || touched es)) start

/-! ### Refinement (R354, R355) -/

/-- An iterate: x, its residual, its measure, and whether its computation saturated. -/
structure Iter where
  x : List Fx
  res : List Fx
  e : Fx
  sat : Bool
  deriving DecidableEq, Repr

/-- A measure counts only when it is a number and its iterate did not saturate. -/
def Iter.num (i : Iter) : Option Int := if i.sat then none else i.e

/-- e of one iterate is below that of another: a number is below what is not one. -/
def Iter.lt (i k : Iter) : Bool :=
  match i.num, k.num with
  | some a, some b => decide (a < b)
  | some _, none => true
  | none, _ => false

/-- What a problem comes to (R347). -/
structure FitOut where
  x : List Fx
  reg : Bool
  sat : Bool
  tiny : Bool
  cut : Bool
  converged : Bool
  range : Bool
  iter : Nat
  best : Nat
  piv : Nat
  nreg : Nat
  resid : Nat
  cyc : Nat
  deriving DecidableEq, Repr

/-- A computation that starts with SAT clear: its value, whether it saturated, and what it gathered beside. -/
def fresh {α : Type} (m : SlvM α) (a : SlvAcc) : α × Bool × SlvAcc :=
  let (x, a1) := m.run { a with sat := false }
  (x, a1.sat, { a1 with sat := a.sat })

/-- The refinement loop: `k` bounds the iterations that may still run. The answer is the best iterate, its index, the
iterations made, and CUT. Log 105 (DEDUCED). -/
def refine (b : List Byte) (reg : Bool) (f : Factor) (a : Mat) (r : List Fx) (late : Nat → Nat → Bool) (step : Nat) :
    Nat → SlvAcc → Nat → Nat → Iter → Nat → Iter → SlvAcc × Iter × Nat × Nat × Bool
  | fuel, acc, cyc, k, last, bi, best =>
    if (match best.num with | some e => decide (e ≤ sdRtol b) | none => false) then (acc, best, bi, k, false)
    else
      match fuel with
      | 0 => (acc, best, bi, k, false)
      | fuel + 1 =>
        if late cyc step then (acc, best, bi, k, true)
        else
          let ((x, res, e), sat, acc1) := fresh (do
            let c ← slvSolve b reg f last.res
            let x ← (upTo (sdN b)).mapM fun i => sumCv [⟨vget last.x i, sdBpX b⟩, ⟨vget c i, sdBpX b⟩] (sdBpX b)
            let m ← slvMeas b a r x
            return (x, m.1, m.2)) acc
          let it : Iter := ⟨x, res, e, sat⟩
          if it.lt best then refine b reg f a r late step fuel acc1 (cyc + step) (k + 1) it (k + 1) it
          else refine b reg f a r late step fuel acc1 (cyc + step) (k + 1) it bi best

/-- One problem: `late` tells whether an iteration that begins some cycles from its start, of a length, would end beyond the deadline. -/
def slvProblem (b : List Byte) (reg : Bool) (par : List Byte) (meas : List (List Byte)) (nmeas : Nat) (late : Nat → Nat → Bool) : FitOut :=
  let ((a, r, rng), a1) := (slvAssemble b par meas).run {}
  let (f, a2) := (slvFactor b reg a).run a1
  let ((x0, res0, e0), sat0, a3) := fresh (do
    let x ← slvSolve b reg f r
    let m ← slvMeas b a r x
    return (x, m.1, m.2)) a2
  let cy := slvCycles b
  let c0 := asmCycles b nmeas + cy.1 + cy.2.1 + cy.2.2
  let step := cy.2.1 + cy.2.2
  let it0 : Iter := ⟨x0, res0, e0, sat0⟩
  let (a4, best, bi, k, cut) := refine b reg f a r late step (sdKmax b) a3 c0 0 it0 0 it0
  { x := best.x
    reg := decide (0 < a4.nreg)
    sat := a2.sat || best.sat
    tiny := a4.tiny
    cut := cut
    converged := match best.num with | some e => decide (e ≤ sdRtol b) | none => false
    range := rng
    iter := k
    best := bi
    piv := a4.piv.getD 0xFFFF
    nreg := a4.nreg
    resid := match best.num with | some e => e.toNat | none => 0x7FFFFFFF
    cyc := c0 + k * step }

/-- The bytes of a result (R347). -/
def resultBytes (n : Nat) (code pflags iter best piv nreg resid cyc : Nat) (x : List Fx) : List Byte :=
  by1 code ++ by1 pflags ++ by1 iter ++ by1 best ++ by2 piv ++ by2 nreg ++ by4 resid ++ by4 cyc ++
    sub (((upTo n).map fun i => fxStore (x.getD i none)).flatten) 0 (8 * ((n + 1) / 2))

/-- PFLAGS of a problem. -/
def FitOut.pflags (o : FitOut) : Nat :=
  b2n o.reg + 2 * b2n o.sat + 4 * b2n o.tiny + 8 * b2n o.cut + 16 * b2n o.converged + 32 * b2n o.range

/-- CODE 0 or 1 of a problem that ran. -/
def FitOut.code (o : FitOut) : Nat := b2n (o.x.any Option.isNone)

/-- The result of a problem that ran. -/
def FitOut.bytes (o : FitOut) (n : Nat) : List Byte :=
  resultBytes n o.code o.pflags o.iter o.best o.piv (min 65535 o.nreg) o.resid (min 0xFFFFFFFF o.cyc) o.x

/-- The result of a problem with CODE 2 to 5: NaR in every entry (R347). -/
def deadBytes (n code : Nat) : List Byte := resultBytes n code 0 0 0 0xFFFF 0 0x7FFFFFFF 0 []

end Sys2Proof.Machine
end

