-- ==== Sys2Proof/Machine/Certify.lean ====
section
/-! DEFINITION. The loader's verifier for schedule images (10_programs.md R367, R373, R374, sections 5 to 9): the header, the
assembly operations, the sparse tables, and the range certificate by interval rules (09_solver.md R341 to R344, R356). -/

namespace Sys2Proof.Machine

open Sys2Proof

/-! ### Header (section 5) -/

/-- The body length that a schedule header implies (R341, R344, 10_programs.md R368). -/
def sdLen (b : List Byte) : Nat := sdBare b + 128

/-- n is within R335 for its kind. -/
def sizeNBad (b : List Byte) : Bool := decide (sdN b < 2) || (decide (sdKind b ≠ 5) && decide (32 < sdN b))
/-- m is within R335 for QR. -/
def sizeMBad (b : List Byte) : Bool := decide (sdKind b = 4) && (decide (64 < sdM b) || decide (sdM b < sdN b))

/-- The header checks of a schedule image, in the order of the fields. A TOTAL 128 bytes short of the body is NO_CERT. -/
def schedHead (img : List Byte) (len : Nat) : List (Nat × Bool × Nat) :=
  let b := img.drop 64
  let total := u32 img 8
  let short := decide (total + 128 = 64 + sdLen b)
  headChecks img len 2 ++
    [(8, decide (total ≠ 64 + sdLen b) && !short, 0x04), (8, short, 0x46), (12, decide (u32 img 12 ≠ imgCrc (img.take total)), 0x05),
     (64, decide (sdKind b = 0 ∨ 5 < sdKind b), 0x40), (65, sizeNBad b, 0x41), (66, sizeMBad b, 0x41),
     (68, decide (31 < sdBpA b), 0x42), (69, decide (31 < sdBpB b), 0x42), (70, decide (31 < sdBpF b), 0x42),
     (71, decide (31 < sdBpX b), 0x42), (72, decide (sdPivmin b < 1), 0x43), (76, decide (sdLambda b < sdPivmin b), 0x43),
     (80, decide (sdRtol b < 0), 0x43), (86, decide (sdNasm b = 0 ∨ 16 < sdNasm b), 0x41),
     (88, decide (u32 b 24 ≠ cycBound b), 0x48), (92, decide (sdMeasWords b = 0 ∨ 64 < sdMeasWords b), 0x41),
     (96, decide (sdStride b % 4 ≠ 0), 0x41), (102, decide (sdKind b = 5) && decide (8192 < sdNslot b), 0x41)]

/-! ### Assembly operations (section 6; R342) -/

/-- An assembly operation is ACCUM or ROWS. -/
def asmMeas (o : List Byte) : Bool := decide (u8 o 0 = 3) || decide (u8 o 0 = 4)

/-- Assembly operation `i` breaks a rule of R342, or names a column or word outside the problem. Log 103 (DEDUCED). -/
def asmBad (b : List Byte) (i : Nat) : Bool :=
  let o := sdAsm b i
  let words := sdMeasWords b
  match u8 o 0 with
  | 1 | 2 => decide (u32 o 4 % 4 ≠ 0) || decide (sdStride b < u32 o 4 + 4 * loadWords b (u8 o 0))
  | 3 | 4 =>
    (if u8 o 0 = 4 then decide (sdKind b ≠ 4) else decide (sdKind b = 4 ∨ sdKind b = 5)) ||
      (upTo i).any (fun k => asmMeas (sdAsm b k)) || decide (u8 o 9 = 0 ∨ 32 < u8 o 9) || decide (sdN b < u8 o 8 + u8 o 9) ||
      decide (words < u8 o 10 + u8 o 9) || decide (words ≤ u8 o 2) || decide (31 < u8 o 3) ||
      (decide (u8 o 1 ≠ 0xFF) && (decide (words ≤ u8 o 1) || decide (31 < u8 o 11)))
  | _ => true

/-! ### Sparse tables (sections 7 and 8; R343) -/

/-- A-slot position `k` breaks R343. -/
def posBad (b : List Byte) (k : Nat) : Bool := let p := sdPos b k; decide (p.1 < p.2) || decide (sdN b ≤ p.1)

/-- The slots that a sparse operation reads. -/
def opReads (o : List Byte) : List Nat :=
  match u8 o 0 with
  | 1 | 5 => [u16 o 4]
  | 2 | 7 => [u16 o 4, u16 o 6]
  | _ => []

/-- A sparse operation writes a slot. -/
def opWrites (o : List Byte) : Bool := decide (3 ≤ u8 o 0 ∧ u8 o 0 ≤ 7)

/-- One sparse operation checked, with the slots written so far and whether SOLVE has come. -/
def opCheck (b : List Byte) (written : List Nat) (solved : Bool) (o : List Byte) : Bool :=
  let na := sdNA b
  let n := sdN b
  let code := u8 o 0
  decide (code = 0 ∨ (7 < code ∧ code ≠ 0x0F)) || (decide (code = 0x0F) && solved) ||
    (opReads o).any (fun k => decide (sdNslot b ≤ k) || (decide (na + n ≤ k) && !written.contains k) ||
      (!solved && decide (na ≤ k ∧ k < na + 2 * n))) ||
    (opWrites o && (decide (sdNslot b ≤ u16 o 2) || decide (u16 o 2 < na + n)))

/-- Every x slot is written in the solve section. -/
def solvesAll (b : List Byte) : Bool :=
  let done := (rangeOf (sdSolve b) (sdNops b)).filterMap fun k =>
    let o := sdOp b k
    if opWrites o then some (u16 o 2) else none
  (upTo (sdN b)).all fun k => done.contains (sdNA b + sdN b + k)

/-- The first sparse operation that breaks R343; the operation count for a rule of the whole list. -/
def sparseBad (b : List Byte) : List Nat → List Nat → Bool → Option Nat
  | [], _, solved => if solved && solvesAll b then none else some (sdNops b)
  | i :: t, written, solved =>
    let o := sdOp b i
    if opCheck b written solved o then some i
    else sparseBad b t (if opWrites o then u16 o 2 :: written else written) (solved || decide (u8 o 0 = 0x0F))

/-! ### The range certificate (section 9; R344) -/

/-- A magnitude bound: raw value and binary point. Log 102 (DEDUCED). -/
structure Bnd where
  raw : Nat
  bp : Nat
  deriving DecidableEq, Repr

/-- Derived bounds by class, raw at the class's binary point. -/
abbrev CertM (α : Type) := StateM (List (Nat × Nat)) α

/-- A derived bound is noted. -/
def certNote (q raw : Nat) : CertM Unit := modify fun l => (q, raw) :: l

/-- The bound of a product. -/
def Bnd.mul (x y : Bnd) : Bnd := ⟨x.raw * y.raw, x.bp + y.bp⟩
/-- The bound of `k` terms of one bound. -/
def Bnd.times (k : Nat) (x : Bnd) : Bnd := ⟨k * x.raw, x.bp⟩
/-- The larger of two bounds of one binary point. -/
def Bnd.max (x y : Bnd) : Bnd := ⟨Nat.max x.raw y.raw, x.bp⟩

/-- The bound of a sum in the accumulator (class 12). -/
def certSum (l : List Bnd) : CertM Bnd := do
  let bp := l.foldl (fun m t => Nat.max m t.bp) 0
  let raw := l.foldl (fun a t => a + t.raw * 2 ^ (bp - t.bp)) 0
  certNote 12 (ceilDiv raw (2 ^ (bp - 62)))
  return ⟨raw, bp⟩

/-- The bound of a quotient, or of a plain conversion by a divisor of 1 at binary point 0, rounded into class `q`. -/
def certQuo (x d : Bnd) (q bp : Nat) : CertM Bnd := do
  let r := (rhaDiv ((x.raw * 2 ^ (d.bp + bp) : Nat) : Int) (Nat.max 1 d.raw * 2 ^ x.bp)).toNat
  certNote q r
  return ⟨r, bp⟩

/-- The divisor of a plain conversion. -/
def bOne : Bnd := ⟨1, 0⟩

/-- PIVMIN as a bound. -/
def bPivmin (b : List Byte) : Bnd := ⟨(sdPivmin b).toNat, sdBpA b⟩
/-- cv(√PIVMIN, BP_F): the least diagonal of a CHOL factor. -/
def bRoot (b : List Byte) : Bnd := ⟨rootRaw (sdPivmin b).toNat (sdBpA b) (sdBpF b), sdBpF b⟩

/-- The bound of a pivot as piv returns it (R338), noted in class 6. -/
def certPiv (b : List Byte) (p : Bnd) : CertM Bnd := do
  let r := p.max ⟨((sdPivmin b) - 1 + sdLambda b).toNat, sdBpA b⟩
  certNote 6 r.raw
  return r

/-- Assembly: the bounds of A and b after the operations in order (R352). -/
def certAsm (b : List Byte) : CertM (Bnd × Bnd) :=
  (upTo (sdNasm b)).foldlM (fun (s : Bnd × Bnd) i => do
    let o := sdAsm b i
    let j : Bnd := ⟨sdBound b 1, u8 o 3⟩
    let r : Bnd := ⟨sdBound b 2, u8 o 3⟩
    let w : Bnd := if u8 o 1 = 0xFF then bOne else ⟨sdBound b 3, u8 o 11⟩
    match u8 o 0 with
    | 1 => do certNote 4 (sdBound b 0); return (s.1.max ⟨sdBound b 0, sdBpA b⟩, s.2)
    | 2 => do certNote 5 (sdBound b 0); return (s.1, s.2.max ⟨sdBound b 0, sdBpB b⟩)
    | 3 =>
      let a ← certQuo (← certSum [s.1, ((w.mul j).mul j).times 65535]) bOne 4 (sdBpA b)
      let c ← certQuo (← certSum [s.2, ((w.mul j).mul r).times 65535]) bOne 5 (sdBpB b)
      return (s.1.max a, s.2.max c)
    | _ =>
      let a ← certQuo (w.mul j) bOne 4 (sdBpA b)
      let c ← certQuo (w.mul r) bOne 5 (sdBpB b)
      return (s.1.max a, s.2.max c)) (⟨0, sdBpA b⟩, ⟨0, sdBpB b⟩)

/-- Products of paired bounds. -/
def bDots (l r : List Bnd) : List Bnd := (l.zip r).map fun p => p.1.mul p.2

/-- A triangular solve downwards: entry i from the right-hand side and the entries before it, column bounds `l`. -/
def certDown (n : Nat) (l : List Bnd) (rhs d : Bnd) (q bp : Nat) : CertM (List Bnd) :=
  (upTo n).foldlM (fun (y : List Bnd) _ => do return y ++ [← certQuo (← certSum (rhs :: bDots l y)) d q bp]) []

/-- A triangular solve upwards: entry i from `rhs i` and the entries after it; `l i` bounds their factors. The answer lists
the entries from i = 0 on. -/
def certUp (n : Nat) (l rhs : Nat → Bnd) (d : Bnd) (q bp : Nat) : CertM (List Bnd) :=
  (upTo n).reverse.foldlM (fun (x : List Bnd) i => do
    return (← certQuo (← certSum (rhs i :: x.map fun y => (l i).mul y)) d q bp) :: x) []

/-- The residual of a dense kind. -/
def certRes (b : List Byte) (a r : Bnd) (x : List Bnd) : CertM Bnd := do
  let q ← certSum (r :: x.map fun y => a.mul y)
  let _ ← certQuo q bOne 10 (sdBpB b)
  return q

/-- CHOL: column bounds, solve and residual. Log 102 (DEDUCED). -/
def certChol (b : List Byte) (a r : Bnd) : CertM Unit := do
  let n := sdN b
  let l ← (upTo n).foldlM (fun (l : List Bnd) j => do
    let s ← certSum (a :: bDots l l)
    let p ← certPiv b (← certQuo s bOne 6 (sdBpA b))
    certNote 7 (rootRaw p.raw (sdBpA b) (sdBpF b))
    if j + 1 < n then return l ++ [← certQuo s (bRoot b) 7 (sdBpF b)] else return l) []
  let y ← certDown n l r (bRoot b) 8 (sdBpX b)
  let x ← certUp n (fun i => l.getD i bOne) (fun i => y.getD i bOne) (bRoot b) 9 (sdBpX b)
  let _ ← certRes b a r x

/-- LDLT: column bounds, solve and residual. Log 102 (DEDUCED). -/
def certLdlt (b : List Byte) (a r : Bnd) : CertM Unit := do
  let n := sdN b
  let (l, _) ← (upTo n).foldlM (fun (s : List Bnd × List Bnd) j => do
    let t ← certSum (a :: bDots (bDots s.1 s.1) s.2)
    let p ← certPiv b (← certQuo t bOne 6 (sdBpA b))
    let l1 ← if j + 1 < n then (do return s.1 ++ [← certQuo t (bPivmin b) 7 (sdBpF b)]) else pure s.1
    return (l1, s.2 ++ [p])) ([], [])
  let z ← certDown n l r bOne 8 (sdBpX b)
  let w ← z.mapM fun t => certQuo t (bPivmin b) 8 (sdBpX b)
  let x ← certUp n (fun i => l.getD i bOne) (fun i => w.getD i bOne) bOne 9 (sdBpX b)
  let _ ← certRes b a r x

/-- LU: column bounds of the multipliers, row bounds of U, solve and residual. Log 102 (DEDUCED). -/
def certLu (b : List Byte) (a r : Bnd) : CertM Unit := do
  let n := sdN b
  let (l, u) ← (upTo n).foldlM (fun (s : List Bnd × List Bnd) j => do
    let t ← certSum (a :: bDots s.1 s.2)
    let c ← certQuo t bOne 6 (sdBpA b)
    let _ ← certPiv b c
    if j + 1 < n then
      certNote 4 c.raw
      return (s.1 ++ [← certQuo c (bPivmin b) 7 (sdBpF b)], s.2 ++ [c])
    else return s) ([], [])
  let z ← certDown n l r bOne 8 (sdBpX b)
  let x ← certUp n (fun i => u.getD i bOne) (fun i => z.getD i bOne) (bPivmin b) 9 (sdBpX b)
  let _ ← certRes b a r x

/-- QR: the bounds of A and b as the reflections go, solve and residual. Log 102 (DEDUCED). -/
def certQr (b : List Byte) (a r : Bnd) : CertM Unit := do
  let n := sdN b
  let m := sdM b
  let h := (bPivmin b).mul (bPivmin b)
  let (a1, r1) ← (upTo n).foldlM (fun (s : Bnd × Bnd) j => do
    let (a', r') := s
    let sq ← certSum [(a'.mul a').times (m - j)]
    let al ← certPiv b ⟨rootRaw sq.raw sq.bp (sdBpA b), sdBpA b⟩
    let v ← certQuo (← certSum [a', al]) bOne 4 (sdBpA b)
    let v := v.max a'
    let ta ← certSum [(v.mul a').times (m - j)]
    let tb ← certSum [(v.mul r').times (m - j)]
    let da ← certQuo (v.mul ta) h 4 (sdBpA b)
    let db ← certQuo (v.mul tb) h 5 (sdBpB b)
    certNote 4 (a'.raw + da.raw)
    certNote 5 (r'.raw + db.raw)
    return (⟨a'.raw + da.raw, a'.bp⟩, ⟨r'.raw + db.raw, r'.bp⟩)) (a, r)
  let x ← certUp n (fun _ => a1) (fun _ => r1) (bPivmin b) 9 (sdBpX b)
  let q ← certRes b a r x
  let g ← certSum [(a.mul q).times m]
  let _ ← certQuo g bOne 10 (sdBpB b)

/-- SPARSE: the bounds of the slots as the operations go, and the residual. Log 102 (DEDUCED). -/
def certSparse (b : List Byte) (a r : Bnd) : CertM Unit := do
  let na := sdNA b
  let n := sdN b
  let nops := sdNops b
  let cls := fun (i d : Nat) =>
    if na + n ≤ d ∧ d < na + 2 * n then
      (if (rangeOf (i + 1) nops).any fun k => opWrites (sdOp b k) && decide (u16 (sdOp b k) 2 = d) then 8 else 9)
    else 7
  let get := fun (t : Tab (Bnd × Bool)) (k : Nat) =>
    Tab.get ((if k < na then a else if k < na + n then r else ⟨0, slotBp b k⟩), false) k t
  let (t, _) ← (upTo nops).foldlM (fun (s : Tab (Bnd × Bool) × Bnd) i => do
    let (t, acc) := s
    let o := sdOp b i
    let d := u16 o 2
    let s1 := get t (u16 o 4)
    let s2 := get t (u16 o 6)
    match u8 o 0 with
    | 1 => return (t, s1.1)
    | 2 => return (t, ← certSum [acc, s1.1.mul s2.1])
    | 3 => return (Tab.set d (← certPiv b (← certQuo (← certSum [acc]) bOne 6 (sdBpA b)), false) t, acc)
    | 4 =>
      let p ← certPiv b (← certQuo (← certSum [acc]) bOne 6 (sdBpA b))
      let root := rootRaw p.raw (sdBpA b) (slotBp b d)
      certNote (cls i d) root
      return (Tab.set d (⟨root, slotBp b d⟩, true) t, acc)
    | 5 => return (Tab.set d (← certQuo (← certSum [acc]) (if s1.2 then bRoot b else bPivmin b) (cls i d) (slotBp b d), false) t, acc)
    | 6 => return (Tab.set d (← certQuo (← certSum [acc]) bOne (cls i d) (slotBp b d), false) t, acc)
    | 7 => return (Tab.set d (← certQuo (s1.1.mul s2.1) bOne (cls i d) (slotBp b d), false) t, acc)
    | _ => return s) ([], ⟨0, 0⟩)
  let x := fun k => (get t (na + n + k)).1
  let _ ← (upTo n).mapM fun i => do
    let ts := (upTo na).flatMap fun k =>
      let p := sdPos b k
      (if p.1 = i then [a.mul (x p.2)] else []) ++ (if p.2 = i ∧ p.1 ≠ i then [a.mul (x p.1)] else [])
    certQuo (← certSum (r :: ts)) bOne 10 (sdBpB b)

/-- The derived bounds of a schedule. Log 102 (DEDUCED). -/
def certBounds (b : List Byte) : List (Nat × Nat) :=
  (StateT.run (do
    let (a, r) ← certAsm b
    match sdKind b with
    | 1 => certChol b a r
    | 2 => certLdlt b a r
    | 3 => certLu b a r
    | 4 => certQr b a r
    | _ => certSparse b a r : CertM Unit) []).2

/-- A schedule divides by the root of a pivot: CHOL, and SPARSE with SQRTP. -/
def sdRoots (b : List Byte) : Bool :=
  decide (sdKind b = 1) || (decide (sdKind b = 5) && (upTo (sdNops b)).any fun i => decide (u8 (sdOp b i) 0 = 4))

/-- The lowest class whose check of R344 fails. Log 103 (DEDUCED). -/
def certFail (b : List Byte) : Option Nat :=
  let l := certBounds b
  (upTo 13).find? fun q =>
    decide ((if q = 12 then 2 ^ 63 - 1 else 2 ^ 31 - 1) < sdBound b q) || l.any (fun p => decide (p.1 = q) && decide (sdBound b q < p.2)) ||
      (decide (q = 7) && sdRoots b && decide ((bRoot b).raw = 0))

/-- The verifier's answer for a schedule image taken with a LENGTH: REASON and INDEX of the first violation, in the order of
sections 5 to 9; none when the image is accepted. Log 103 (DEDUCED). -/
def schedVerify (img : List Byte) (len : Nat) : Option (Nat × Nat) :=
  let b := img.drop 64
  (headFail 5 (schedHead img len)).orElse fun _ =>
  (((upTo (sdNasm b)).find? (asmBad b)).map fun i => (0x44, loadIndex 6 i)).orElse fun _ =>
  (((upTo (sdNA b)).find? (posBad b)).map fun k => (0x45, loadIndex 7 k)).orElse fun _ =>
  ((if sdKind b = 5 then sparseBad b (upTo (sdNops b)) [] false else none).map fun i => (0x45, loadIndex 8 i)).orElse fun _ =>
  (certFail b).map fun q => (0x47, loadIndex 9 q)

end Sys2Proof.Machine
end

