-- ==== Sys2Proof/Machine/Solver.lean ====
section
/-! DEFINITION. The Solver Engine (09_solver.md R333 to R366): heats, problems, results, epochs, deadlines, schedules and
failures. What a problem computes stands in Machine/Fit.lean. -/

namespace Sys2Proof.Machine

open Sys2Proof

/-- SOURCE of the Solver (01_line.md R39). -/
def slvSource : Nat := 0x5C

/-! ### Heats and their fields (R345 to R347) -/

/-- SCHED of a heat. -/
def Heat.sched (h : Heat) : Nat := u16 h.head 16 % 64
/-- MODE: false NAR, true REG. -/
def Heat.reg (h : Heat) : Bool := bit (u8 h.head 20) 0
/-- TIME. -/
def Heat.time (h : Heat) : DT64 := BitVec.ofNat 64 (u64 h.head 8)
/-- OUT_ADDR. -/
def Heat.out (h : Heat) : Nat := u64 h.head 48
/-- NPROB as taken (R346). Log 104 (DEDUCED). -/
def headNprob (head : List Byte) : Nat := min (min (u16 head 18) 4096) (u16 head 6 - 8)
/-- The deadline, when DOFF is above 0 (R355). Log 104 (DEDUCED). -/
def Heat.deadline (h : Heat) : Option DT64 :=
  let d := u32 h.head 24
  if d = 0 then none else some (h.time + BitVec.ofNat 64 (nsToDt (1000 * d)))
/-- RS, the bytes of a result of order n. -/
def resultSize (n : Nat) : Nat := 16 + 8 * ((n + 1) / 2)
/-- Problems that no unit has started. -/
def Heat.undealt (h : Heat) : List Nat := rangeOf h.next h.nprob
/-- Problems to deal, in order: those to restart, then those that no unit has started (R351, R361). -/
def Heat.todeal (h : Heat) : List Nat := h.redo ++ h.undealt

/-- The schedule in a slot; none when the slot is empty (R340). -/
def State.schedule (s : State) (k : Nat) : Option (List Byte) := (s.slv.scheds.find? fun x => decide (x.1 = k)).map fun x => x.2

/-- The units that may run problems: enabled and not fenced (R351, R364). -/
def State.slvUnits (s : State) : List Nat := (upTo 16).filter fun u => bit s.slvUnits_EN u && !bit s.slv.fenced u

/-- The heat of a number that runs, changed. -/
def State.modHeat (s : State) (no : Nat) (f : Heat → Heat) : State :=
  s.modSlv fun v => { v with heats := modFirst (fun h => decide (h.no = no)) f v.heats }

/-- The heat of a number that runs. -/
def State.heat (s : State) (no : Nat) : Option Heat := s.slv.heats.find? fun h => decide (h.no = no)

/-! ### The end of a heat (R348, R350, R362) -/

/-- Problems of a heat with a CODE. -/
def Heat.withCode (h : Heat) (p : Nat → Bool) : Nat := (h.results.filter fun x => p x.2.1).length
/-- Problems of a heat with a PFLAGS bit. -/
def Heat.withFlag (h : Heat) (i : Nat) : Nat := (h.results.filter fun x => bit x.2.2 i).length

/-- NOK, NNAR, NEXP, NVOID and NBAD (R348). -/
def Heat.counts (h : Heat) : List Byte :=
  by2 (h.withCode fun c => decide (c = 0)) ++ by2 (h.withCode fun c => decide (c = 1)) ++ by2 (h.withCode fun c => decide (c = 2)) ++
    by2 (h.withCode fun c => decide (c = 3)) ++ by2 (h.withCode fun c => decide (c = 4 ∨ c = 5))

/-- The HEAT_DONE record of a heat (R348). -/
def State.heatDone (s : State) (h : Heat) (hcode reason : Nat) : Rec :=
  let flags := fLAST + (u8 h.head 3 &&& 0x78) + flagIf (!settledIn s.slv.view h.epoch) fPROV +
    flagIf (decide (0 < h.withFlag 1)) fSAT + flagIf h.baton.isSome fBAT
  { mkRec 0x51 slvSource flags h.epoch h.time
      (by2 h.nprob ++ h.counts ++ by2 (h.withFlag 0) ++ by2 (h.withFlag 3) ++ by1 hcode ++ by1 reason ++ by2 (u16 h.head 16) ++
        by4 (min 0xFFFFFFFF ((s.now - h.startAt) / nsTicks)) ++ by8 h.addr ++ zeros 16) with
    baton := BitVec.ofNat 8 (h.baton.getD 0) }

/-- Heats that wait or run have still to post a HEAT_DONE of an epoch that a notice concerns (01_line.md R44). -/
def Slv.behind (v : Slv) (x : Bool × Notice) : Bool := (v.intake ++ v.heats).any fun h => concerns x.1 x.2.epoch h.epoch

/-- A notice that no heat keeps back any more goes to the report ring when a HEAT_DONE of an epoch it concerns went there, and is dropped
otherwise (R334). -/
def State.slvPass (s : State) (x : Bool × Notice) : State :=
  let e := x.2.epoch
  let s1 := s.modSlv fun v => { v with owed := dropFirst (fun y => decide (y = x)) v.owed }
  if s1.slv.posted.any (concerns x.1 e) then
    (s1.modSlv fun v => { v with posted := v.posted.filter fun y => !concerns x.1 e y }).report s1.slvReport_EN s1.slvReport_RING
      (noticeRec x.1 e x.2.time)
  else s1

/-- The notices that no heat keeps back go on, in order (01_line.md R44). -/
def State.slvNotify (s : State) : State := eachOf (s.slv.owed.filter fun x => !s.slv.behind x) (fun x s => s.slvPass x) s

/-- A heat ends: HEAT_DONE at OUT_ADDR, or in the refusal area when OUT_ADDR cannot be used; its report, with the notices behind it; then
the baton is RETURNED or the completion posted (R334, R348, R350). An epoch whose notice came before the heat gets none after it. -/
def State.heatEnd (s : State) (h : Heat) (hcode reason : Nat) : State :=
  let at_ := if reason = 3 ∨ reason = 4 then s.slvRefuseBase_REFUSE_BASE else h.out
  let r := s.heatDone h hcode reason
  let s1 := (s.writeMem at_ (recBytes r)).report s.slvReport_EN s.slvReport_RING r
  let s2 := s1.modSlv fun v =>
    { v with
      heats := v.heats.filter fun x => decide (x.no ≠ h.no)
      endedHeats := (v.endedHeats + 1) % 65536
      voided := satAdd 255 v.voided (b2n (decide (hcode = 1)))
      refused := satAdd 255 v.refused (b2n (decide (hcode = 2)))
      posted := if s.slvReport_EN && decide (epSeq h.epoch ≠ 0) && !v.posted.contains h.epoch &&
          (decide (viewOf v.view h.epoch = 0) || v.owed.any fun x => concerns x.1 x.2.epoch h.epoch) then
        v.posted ++ [h.epoch] else v.posted }
  let s3 := s2.slvNotify
  match h.baton, h.host with
  | some b, _ => s3.returnBaton b at_ none
  | none, some (r, d) =>
    s3.complete r d (if hcode = 2 then 1 else if h.cancelled then 9 else 0) (if hcode = 2 then reason else 0) (h.counts ++ by1 hcode)
  | none, none => s2

/-- The leading problems of a heat whose results are written (R350). -/
def Heat.valid (h : Heat) : Nat := ((upTo h.nprob).find? fun p => !(h.results.any fun x => decide (x.1 = p))).getD h.nprob

/-- A host heat's Job Status Word shows how far its results go (13_rings.md R493). -/
def State.heatJob (s : State) (no : Nat) : State :=
  match s.heat no with
  | some h => h.host.elim s fun j => s.jobValid j.1 j.2 h.valid
  | none => s

/-- A heat all of whose results are written ends. -/
def State.heatCheck (s : State) (no : Nat) : State :=
  match s.heat no with
  | some h => if h.results.length = h.nprob then s.heatEnd h 0 0 else s
  | none => s

/-- The result of a problem is written, with its CODE and PFLAGS (R347). -/
def State.putResult (s : State) (no p code pflags : Nat) (b : List Byte) : State :=
  match s.heat no with
  | none => s
  | some h =>
    let s1 := s.writeMem (h.out + 64 + p * resultSize h.order) b
    let s2 := s1.modHeat no fun h => { h with results := Tab.set p (code, pflags) h.results }
    s2.modSlv fun v => { v with
      expired := satAdd 65535 v.expired (b2n (decide (code = 2)))
      tiny := satAdd 65535 v.tiny (b2n (bit pflags 2))
      satp := satAdd 65535 v.satp (b2n (bit pflags 1 || bit pflags 5))
      cut := satAdd 65535 v.cut (b2n (bit pflags 3)) }

/-- Problems of a heat end unsolved with a CODE of 2 to 5 (R347); the heat ends with its last result. -/
def State.killProblems (s : State) (no code : Nat) (l : List Nat) : State :=
  match s.heat no with
  | none => s
  | some h =>
    let s1 := eachOf l (fun p s => s.putResult no p code 0 (deadBytes h.order code)) s
    let s2 := s1.modHeat no fun h =>
      { h with redo := h.redo.filter fun p => !l.contains p, next := if l.any fun p => decide (h.next ≤ p) then h.nprob else h.next }
    (s2.heatJob no).heatCheck no

/-- Every problem of a heat that has not started ends with a CODE; one that was started finishes (R349, R355). -/
def State.killRest (s : State) (no code : Nat) : State :=
  match s.heat no with
  | some h => s.killProblems no code h.undealt
  | none => s

/-- With no unit that may run, every problem of a heat that is still to be dealt ends with CODE 5 (R364). -/
def State.killAll (s : State) (no : Nat) : State :=
  match s.heat no with
  | some h => s.killProblems no 5 h.todeal
  | none => s

/-! ### Epochs (R334, R349) -/

/-- A notice enters the Solver's epoch view at once, and waits for its place behind the records that it concerns (R334). -/
def State.slvSee (s : State) (rcl : Bool) (n : Notice) : State :=
  (s.modSlv fun v => { v with view := viewNotice v.view rcl n.epoch n.named, owed := v.owed ++ [(rcl, n)] }).slvNotify

/-- The Solver takes one notice: a RECALL ends the problems not yet started of the running heats it recalls (R349). One with SEQ 0 or of
an epoch already settled is discarded and reported (01_line.md R56, R363). -/
def State.slvTake (s : State) (x : Bool × Notice) : State :=
  let e := x.2.epoch
  if epSeq e = 0 ∨ viewOf s.slv.view e ≠ 0 then s.raiseU 0x54 slvSource 0xFF (noticeHead x.1 e)
  else
    let s1 := s.slvSee x.1 x.2
    eachOf (s1.slv.heats.filter fun h => decide (h.undealt ≠ []) && recalledIn s1.slv.view h.epoch) (fun h s => s.killRest h.no 3) s1

/-- Every notice that the Relay has passed on is taken, as the Solver does at once, before anything else (R334, R361). -/
def State.slvNow (s : State) : State := eachOf s.slv.notices (fun x s => s.slvTake x) (s.modSlv fun v => { v with notices := [] })

/-- SLV_NOTICE: the Solver takes the oldest notice that the Relay has passed on (R334). Log 151 (DEDUCED). -/
def execSlvNotice (s : State) : Host.Outcome State Fault Refusal :=
  .next <|
    match s.slv.notices with
    | [] => s
    | x :: rest => (s.modSlv fun v => { v with notices := rest }).slvTake x

/-! ### Intake (R333, R350; 13_rings.md R483) -/

/-- SLV_HEAT: a host heat enters the intake, while it has a free entry and fewer than SLV.HOST.MAX host heats (R333), with the
header bytes of 13_rings.md R483 written first. In the safe state it completes with CSTATUS 11 (14_faults.md R516). -/
def execSlvHeat (s : State) : Host.Outcome State Fault Refusal :=
  .next <|
    match s.nextOp 0x23 fun _ => true with
    | none => s
    | some o =>
      if s.flt.safe then s.complete o.ring o.didx 11 (s.flt.cause % 256) []
      else if 32 ≤ s.slv.intake.length ∨ s.slvHost_MAX ≤ (s.slv.intake.filter fun h => h.host.isSome).length then s
      else
        let a := o.inlNat 0 8
        let s1 := if s.inDram a 8 then s.writeMem (a + 1) (by1 (0x78 + o.session) ++ zeros 4) else s
        (s1.takeOp o).slvHeatIn a none (some (o.ring, o.didx)) 0

/-! ### Starting a heat (R349, R351, R359, R362, R364) -/

/-- The heat that the Solver takes next: the oldest Lane heat, and only when there is none the oldest host heat (R350). -/
def Slv.candidate (v : Slv) : Option Heat :=
  (v.intake.find? fun h => h.baton.isSome).orElse fun _ => v.intake.head?

/-- Every problem of the current heat has started; a Lane heat need not wait for a host heat (R350, R351). -/
def Slv.mayStart (v : Slv) (h : Heat) : Bool :=
  v.heats.all fun x => decide (x.undealt = []) || (h.baton.isSome && x.host.isSome)

/-- A heat that arrived after a pending load of its schedule slot waits for the load (R361). -/
def Slv.loadFirst (v : Slv) (h : Heat) : Bool :=
  v.load.elim false fun x => decide (x.slot = h.sched ∧ x.heatNo ≤ h.no)

/-- The reason that refuses a heat (R362), from its record as read. Log 104 (DEDUCED). -/
def State.heatRefusal (s : State) (h : Heat) : Option Nat :=
  if !s.slvCtrl_EN then some 1
  else if !s.inDram h.addr 64 || decide (u8 h.head 0 ≠ 0x50) || decide (u16 h.head 6 < 8) || !s.inDram h.addr (8 * u16 h.head 6) then some 4
  else
    match s.schedule (u16 h.head 16) with
    | none => some 2
    | some b =>
      let out := u64 h.head 48
      if u64 h.head 32 % 8 ≠ 0 ∨ u64 h.head 40 % 8 ≠ 0 ∨ out % 64 ≠ 0 ∨
          s.inDram out (64 + headNprob h.head * resultSize (sdN b)) = false then some 3
      else none

/-- HEAT_START: the Solver takes the next heat of its intake, once every problem of the current heat has started. It
reads the HEAT record and refuses it (R362), voids it (R349), ends it when no unit may run (R364) or it has no problem
(R358), or begins to deal it (R351). Log 106 (DEDUCED). -/
def execHeatStart (s0 : State) : Host.Outcome State Fault Refusal :=
  .next <|
    let s := s0.slvNow
    match s.slv.candidate with
    | none => s
    | some h0 =>
      if !s.islandUp 7 || !s.slv.mayStart h0 || s.slv.loadFirst h0 then s
      else
        let h1 := { h0 with head := if s.inDram h0.addr 8 then s.readMem h0.addr 64 else zeros 64 }
        let readable := s.inDram h1.addr 64
        let h := { h1 with
          startAt := s.now
          nprob := if readable then headNprob h1.head else 0
          order := ((s.schedule (u16 h1.head 16)).map sdN).getD 0 }
        let s1 := s.modSlv fun v => { v with intake := v.intake.filter fun x => decide (x.no ≠ h0.no) }
        match s.heatRefusal h with
        | some r =>
          let bad := decide (r = 4) && s.inDram h.addr 8 && badHead h.head
          (if bad then s1.raiseU 0x54 slvSource 0xFF (u32 h.head 0) else s1).heatEnd h 2 r
        | none =>
          let h2 := { h with entries := s.readMem (h.addr + 64) (8 * h.nprob) }
          let s2 := s1.modSlv fun v => { v with heats := v.heats ++ [h2] }
          if recalledIn s.slv.view h.epoch then
            let s3 := eachOf (upTo h.nprob) (fun p s => s.putResult h.no p 3 0 (deadBytes h.order 3)) s2
            s3.heatEnd ((s3.heat h.no).getD h2) 1 0
          else
            let s3 := h.host.elim s2 fun j => s2.jobRun j.1 j.2 h.nprob
            if s.slvUnits = [] then (if h.nprob = 0 then s3.heatEnd h2 0 0 else s3.killAll h.no)
            else s3.heatCheck h.no

/-! ### Problems (R350 to R356, R359) -/

/-- The heat whose problems are dealt next: the first Lane heat that has one left, and a host heat only while no Lane heat waits
in the intake (R350). -/
def Slv.dealing (v : Slv) : Option Heat :=
  (v.heats.find? fun h => h.baton.isSome && decide (h.todeal ≠ [])).orElse fun _ =>
    if v.intake.any fun h => h.baton.isSome then none else v.heats.find? fun h => decide (h.todeal ≠ [])

/-- Measurement entries that a schedule takes of a problem; none when it has no ACCUM or ROWS. -/
def measCount (b : List Byte) (nmeas : Nat) : Nat :=
  match (upTo (sdNasm b)).find? fun i => asmMeas (sdAsm b i) with
  | some i => measTaken b (u8 (sdAsm b i) 0) nmeas
  | none => 0

/-- MEAS0, NMEAS and PARAM of problem `p` of a heat (R345). -/
def Heat.problem (h : Heat) (p : Nat) : Nat × Nat × Nat := (u32 h.entries (8 * p), u16 h.entries (8 * p + 4), u16 h.entries (8 * p + 6))

/-- Where the parameter set of a problem lies (R345). -/
def Heat.parAt (h : Heat) (b : List Byte) (p : Nat) : Nat := u64 h.head 32 + (h.problem p).2.2 * sdStride b
/-- Where the measurement entries of a problem begin (R345). -/
def Heat.measAt (h : Heat) (b : List Byte) (p : Nat) : Nat := u64 h.head 40 + (h.problem p).1 * sdMeasWords b * 4

/-- Bytes that are read, if any, do not lie wholly in DRAM. -/
def State.outside (s : State) (a n : Nat) : Bool := decide (n ≠ 0) && !s.inDram a n

/-- A problem reads outside DRAM (R359). -/
def State.problemBad (s : State) (h : Heat) (b : List Byte) (p : Nat) : Bool :=
  s.outside (h.parAt b p) (sdStride b) || s.outside (h.measAt b p) (measCount b (h.problem p).2.1 * sdMeasWords b * 4)

/-- CANCEL in a host heat's Job Status Word reads 1 (13_rings.md R494). -/
def State.heatCancel (s : State) (h : Heat) : Bool :=
  match h.host with
  | none => false
  | some j =>
    match s.hl.ops.find? (Op.is j.1 j.2) with
    | some o => o.jsw.elim false fun a => bit (u8 (s.readMem (a + 40) 1) 0) 0
    | none => false

/-- Device time has reached a heat's deadline (R355). -/
def State.heatLate (s : State) (h : Heat) : Bool := h.deadline.elim false fun d => dtGe s.dev d

/-- The next problem of a heat is taken out of those to deal. -/
def Heat.dealt (h : Heat) : Heat :=
  match h.redo with
  | _ :: t => { h with redo := t }
  | [] => { h with next := h.next + 1 }

/-- What ends the problems of a heat that no unit has started, with its CODE: CANCEL read as 1 (13_rings.md R494), its recall (R349), its
deadline (R355). -/
def State.heatStop (s : State) (h : Heat) : Option Nat :=
  if h.undealt = [] then none
  else if s.heatCancel h then some 5
  else if recalledIn s.slv.view h.epoch then some 3
  else if s.heatLate h then some 2
  else none

/-- PROBLEM_DEAL: a free unit takes the next problem (R351), unless CANCEL, a recall or the deadline ends those not started. A problem
outside DRAM ends with CODE 4. With no unit that may run, what is left ends with CODE 5 (R364). Log 106 (DEDUCED). -/
def execProblemDeal (unit : Nat) (s0 : State) : Host.Outcome State Fault Refusal :=
  .next <|
    let s := s0.slvNow
    match s.slv.dealing with
    | none => s
    | some h =>
      if s.slvUnits = [] then s.killAll h.no
      else if !s.slvUnits.contains unit || s.slv.units.any (fun x => decide (x.1 = unit)) then s
      else
      match s.heatStop h with
      | some code => (s.modHeat h.no fun h => { h with cancelled := h.cancelled || decide (code = 5) }).killRest h.no code
      | none =>
        match h.todeal, s.schedule h.sched with
        | p :: _, some b =>
          let s1 := s.modHeat h.no Heat.dealt
          if s.problemBad h b p then ((s1.putResult h.no p 4 0 (deadBytes h.order 4)).heatJob h.no).heatCheck h.no
          else s1.modSlv fun v => { v with units := Tab.set unit ⟨h.no, p, s.now⟩ v.units }
        | _ :: _, none => s.killAll h.no
        | [], _ => s

/-- What problem `p` of a heat comes to, started at interval time `t` (R352 to R355): an iteration is compared with the deadline at
the device time of its decision. -/
def State.solve (s : State) (h : Heat) (b : List Byte) (p t : Nat) : FitOut :=
  let n := (h.problem p).2.1
  let words := 4 * sdMeasWords b
  let meas := (upTo (measCount b n)).map fun i => s.readMem (h.measAt b p + i * words) words
  slvProblem b h.reg (s.readMem (h.parAt b p) (sdStride b)) meas n fun c len =>
    h.deadline.elim false fun d => decide (0 < dtSub (s.devAt (t + c * nsTicks) + BitVec.ofNat 64 (nsToDt len)) d)

/-- PROBLEM_DONE: the unit's problem ends CYC ns after it started, and its result is written (R347, R351, R356). -/
def execProblemDone (unit : Nat) (s0 : State) : Host.Outcome State Fault Refusal :=
  .next <|
    let s := s0.slvNow
    match s.slv.units.find? fun x => decide (x.1 = unit) with
    | none => s
    | some (_, r) =>
        match s.heat r.heat with
        | none => s.modSlv fun v => { v with units := Tab.erase unit v.units }
        | some h =>
          match s.schedule h.sched with
          | none => (s.modSlv fun v => { v with units := Tab.erase unit v.units }).killProblems r.heat 5 [r.prob]
          | some b =>
            let o := s.solve h b r.prob r.startAt
            let s1 := (s.waitUntil (r.startAt + o.cyc * nsTicks)).modSlv fun v => { v with units := Tab.erase unit v.units }
            ((s1.putResult h.no r.prob o.code o.pflags (o.bytes (sdN b))).heatJob h.no).heatCheck h.no

/-- The earliest deadline of the heats with problems left. -/
def earliestHeat (l : List Heat) : Option DT64 :=
  (l.filterMap fun h => if h.undealt = [] then none else h.deadline).foldl (fun m d =>
    match m with
    | none => some d
    | some x => if dtGe d x then some x else some d) none

/-- HEAT_DEADLINE: the earliest deadline of a running heat falls, and its problems not yet started get CODE 2 (R355). -/
def execHeatDeadline (s0 : State) : Host.Outcome State Fault Refusal :=
  .next <|
    let s := s0.slvNow
    match earliestHeat s.slv.heats with
    | none => s
    | some d =>
      let s1 := s.waitUntil (s.whenDev d)
      eachOf (s1.slv.heats.filter fun h => decide (h.undealt ≠ []) && s1.heatLate h) (fun h s => s.killRest h.no 2) s1

/-! ### Schedules (R340, R361; 10_programs.md R371, R376) -/

/-- SLV_LOAD: the Solver's loader takes the oldest load when it is free (10_programs.md R371). -/
def execSlvLoad (s : State) : Host.Outcome State Fault Refusal :=
  .next <|
    match s.nextOp 0x22 fun _ => true with
    | none => s
    | some o =>
      if s.slv.load.isSome then s
      else
        (s.modSlv fun v =>
          { v with load := some { addr := o.inlNat 0 8, len := o.inlNat 8 4, slot := o.inlNat 12 1, ring := o.ring, didx := o.didx,
                                  heatNo := v.heatNo } }).jobRun o.ring o.didx (o.inlNat 8 4)

/-- SCHED_VERIFY_DONE: once no heat that arrived before the load names its slot, the image is verified: accepted, it replaces the
slot's contents; rejected, it leaves the slot empty (R340, R361, 10_programs.md R376). -/
def execSchedVerifyDone (s : State) : Host.Outcome State Fault Refusal :=
  .next <|
    match s.slv.load with
    | none => s
    | some x =>
      if (s.slv.intake ++ s.slv.heats).any fun h => decide (h.sched = x.slot ∧ h.no < x.heatNo) then s
      else
        let img := s.readMem x.addr x.len
        let v := schedVerify img x.len
        (s.modSlv fun k =>
          { k with
            load := none
            scheds := if v.isNone then Tab.set x.slot ((img.take (u32 img 8)).drop 64) k.scheds else Tab.erase x.slot k.scheds }).loadEnds
          x true img v

/-! ### Failures (R361, R363, R364) -/

/-- SLV_UNIT_FAIL: the unit is fenced, and the problem it runs starts again on another unit (R361, R363); with no unit left,
what is not started ends with CODE 5 (R364). -/
def execSlvUnitFail (dt unit : Nat) (s0 : State) : Host.Outcome State Fault Refusal :=
  .next <|
    if 16 ≤ unit then s0
    else
      let s := s0.slvNow
      let s1 := ((s.pass dt).raiseU 0x52 slvSource unit 0).modSlv fun v =>
        { v with fenced := v.fenced ||| 2 ^ unit, fencedAt := Tab.set unit (s.now + dt) v.fencedAt, units := Tab.erase unit v.units }
      let s2 := match s.slv.units.find? fun x => decide (x.1 = unit) with
        | some (_, r) => s1.modHeat r.heat fun h => { h with redo := r.prob :: h.redo }
        | none => s1
      (if s2.slvUnits = [] then
        eachOf (s2.slv.heats.filter fun h => decide (h.todeal ≠ [])) (fun h s => s.killAll h.no) s2
      else s2).relevel

/-- SLV_SCHED_UE: the slot is emptied, and the problems of the heats that run on it get CODE 5 (R363). An error that was corrected
changes nothing: SLV_SRAM_CE. Where a slot lies in the memory is not said, so the word index in the message is a free value. Log 167
(DESIGN CHOICE). -/
def execSlvSchedUe (dt : Nat) (w : EccErr) (s0 : State) : Host.Outcome State Fault Refusal :=
  .next <|
    if 64 ≤ w.at_ then s0
    else
      let (i, s) := (s0.slvNow.pass dt).takeFree 0x53
      if !w.ue then s.raiseU 0x50 slvSource 0xFF i
      else
        let s1 := (s.raiseU 0x53 slvSource 0xFF i).modSlv fun v => { v with scheds := Tab.erase w.at_ v.scheds }
        let on := s1.slv.heats.filter fun h => decide (h.sched = w.at_)
        eachOf on (fun h s =>
          let mine := (s.slv.units.filter fun x => decide (x.2.heat = h.no))
          (s.modSlv fun v => { v with units := v.units.filter fun x => decide (x.2.heat ≠ h.no) }).killProblems h.no 5
            (mine.map (fun x => x.2.prob) ++ h.todeal)) s1

/-- An error in the memory of a problem unit: one that cannot be corrected gives the problem it runs CODE 5, and the heat goes on (R363). -/
def State.slvUnitMem (s0 : State) (unit : Nat) (ue : Bool) : State :=
  let (w, s) := s0.slvNow.takeFree 0x51
  let s1 := s.raiseU (if ue then 0x51 else 0x50) slvSource unit w
  match s1.slv.units.find? fun x => decide (x.1 = unit) with
  | some (_, r) =>
    if ue then (s1.modSlv fun v => { v with units := Tab.erase unit v.units }).killProblems r.heat 5 [r.prob] else s1
  | none => s1

/-- Fenced units that the line host writes 1 to run their self-test (R364), but for one fenced at this very instant (00_scope.md
R17): one that passes rejoins, one that fails stays fenced and raises SLV_UNIT_FAIL again. Log 19 (DESIGN CHOICE). -/
def State.unitSelfTest (s : State) (mask failing : Nat) : State :=
  eachOf ((upTo 16).filter fun u => s.clears s.slv.fencedAt u mask && bit s.slv.fenced u)
    (fun u s => if bit failing u then s.raiseU 0x52 slvSource u 0 else s.modSlv fun v => { v with fenced := putBits v.fenced u u 0 }) s

/-- The Solver takes the safe state (14_faults.md R515): it stops every problem, discards program heats, completes host heats with
CSTATUS 11 and a REASON, and keeps its schedules. -/
def State.slvSafe (s : State) (reason : Nat) : State :=
  let hosts := (s.slv.heats ++ s.slv.intake).filterMap fun h => h.host
  ((eachOf hosts (fun j s => s.complete j.1 j.2 11 reason []) s).modSlv fun v =>
    { v with intake := [], heats := [], units := [] }).slvNotify

end Sys2Proof.Machine
end

