-- ==== Sys2Proof/Machine/Track.lean ====
section
/-! DEFINITION. The Track Engine (05_track.md R193 to R225). -/

namespace Sys2Proof.Machine

open Sys2Proof

/-- SOURCE of the Track Engine. -/
def trkSource : Nat := 0x59

/-- Class `c`. -/
def State.cls (s : State) (c : Nat) : TrkClass := Tab.get {} c s.trk.classes
/-- The state with class `c` changed. -/
def State.modCls (s : State) (c : Nat) (f : TrkClass → TrkClass) : State :=
  s.modTrk fun k => { k with classes := Tab.mod {} c f k.classes }

/-- The slots of class `c`: CAP × 16 (R195). -/
def State.clsSize (s : State) (c : Nat) : Nat := 16 * s.trkClassCfg_CAP c
/-- The first table entry of class `c` (R195). -/
def State.clsBase (s : State) (c : Nat) : Nat := ((upTo c).map s.clsSize).foldl (· + ·) 0
/-- A table entry belongs to class `c`. -/
def State.inCls (s : State) (c e : Nat) : Bool := decide (s.clsBase c ≤ e) && decide (e < s.clsBase c + s.clsSize c)
/-- The occupied slots of class `c`, in slot order, by table entry. -/
def State.tracks (s : State) (c : Nat) : Tab Track := s.trk.table.filter fun x => s.inCls c x.1

/-! ### What the engine issues (R206 to R210) -/

/-- A record is issued: it waits for the track queue and the output area; its epoch is one that notices concern (R209, R210). -/
def State.trkIssue (s : State) (r : Rec) : State :=
  s.modTrk fun k => { k with
    outq := k.outq ++ [.record r]
    issued := if epSeq r.epoch = 0 ∨ k.issued.contains r.epoch then k.issued else k.issued ++ [r.epoch] }

/-- A notice is passed on, when records of an epoch it concerns were issued (R210). -/
def State.trkPass (s : State) (rcl : Bool) (e : Epoch) (t : DT64) : State :=
  if s.trk.issued.any (concerns rcl e) then
    s.modTrk fun k => { k with
      outq := k.outq ++ [.notice (noticeRec rcl e t)], issued := k.issued.filter fun x => !concerns rcl e x }
  else s

/-- The baton of an absorbed batch that is not replayed is returned (R208). -/
def State.batonReturn (s : State) (h : DetHand) : State :=
  s.trkIssue { mkRec 0x22 trkSource (fBAT + flagIf s.tunc fTUNC) 0 s.dev [] with baton := BitVec.ofNat 8 h.baton }

/-- What a TRACK_BATCH says besides its entries (R206). -/
structure BatchHead where
  flags : Nat
  baton : Nat := 0
  epoch : Epoch
  time : DT64
  k : Nat
  cls : Nat
  mode : Bool
  ndet : Nat
  nlive : Nat
  tb : Nat
  reason : Nat
  rake : Nat := 0
  total : Nat := 0
  addr : Nat
  deriving DecidableEq, Repr

/-- The TRACK_BATCH record (R206). -/
def BatchHead.record (h : BatchHead) (entries : List (List Byte)) : Rec :=
  { mkRec 0x21 trkSource h.flags h.epoch h.time
      (by4 h.k ++ by1 h.cls ++ by1 (b2n h.mode) ++ by2 h.ndet ++ by2 entries.length ++ by2 h.nlive ++ by1 h.tb ++ by1 h.reason ++
        zeros 2 ++ by4 h.rake ++ by4 h.total ++ by8 h.addr ++ entries.flatten) with
    baton := BitVec.ofNat 8 h.baton }

/-! ### Notices and the journal (R199, R210 to R215) -/

/-- Every slot of a class is freed, with its segments; absorbed batons are returned (R215, R220). -/
def State.clsClear (s : State) (c : Nat) : State :=
  let back := (s.cls c).segs.flatMap fun g => g.absorbed
  eachOf back (fun h s => s.batonReturn h)
    ((s.modTrk fun k => { k with table := k.table.filter fun x => !s.inCls c x.1 }).modCls c fun x =>
      { x with segs := [], unjournaled := false, freed := [] })

/-- The clearing is announced (R215): K is a free value, for the record has no batch. Log 79 (DEDUCED). -/
def State.clsAnnounce (s : State) (c : Nat) : State :=
  let (k, s1) := s.takeFree 0x21
  s1.trkIssue ({ flags := fLAST + flagIf s.tunc fTUNC, epoch := 0, time := s.dev, k := k % 2 ^ 32, cls := c, mode := s.trkClassCfg_MODE c
                 ndet := 0, nlive := 0, tb := 4, reason := 6, addr := 0 : BatchHead }.record [])

/-- A segment is undone: the entries it saved and the class state return (R212). -/
def State.undoSeg (s : State) (c : Nat) (g : Segment) : State :=
  let put (t : Tab Track) (e : Nat × Track) : Tab Track := if e.2.state = 0 then Tab.erase e.1 t else Tab.set e.1 e.2 t
  (s.modTrk fun k => { k with table := g.saved.foldl put k.table }).modCls c fun x =>
    { x with n := g.n, serial := g.serial, recalled := satAdd 255 x.recalled 1 }

/-- A journal read fails its ECC: the 32-byte unit of the journal that is uncorrectable (R223). Log 83 (DEDUCED). -/
def State.journalBad (s : State) : Option Nat :=
  let lo := s.trkJbase_JBASE
  s.aon.ueUnits.find? fun u => decide (lo ≤ 32 * u ∧ 32 * u < lo + 0x100000 * s.trkJsize_JSIZE)

/-- A RECALL reaches class `c` (R212, R215): its segments of the epoch and later ones are undone, newest first, or the class is cleared.
The absorbed batches to replay come back, in their original order. Log 83 (DEDUCED). -/
def State.recallCls (s : State) (c : Nat) (e : Epoch) : List DetHand × State :=
  let x := s.cls c
  let hit := x.segs.filter fun g => concerns true e g.epoch
  if x.unjournaled then ([], (s.clsClear c).clsAnnounce c)
  else if hit = [] then ([], s)
  else match s.journalBad with
  | some u => ([], ((s.raiseU 0x22 trkSource c (u * 32 / 256)).clsClear c).clsAnnounce c)
  | none =>
    (hit.flatMap fun g => g.absorbed,
      (eachOf hit.reverse (fun g s => s.undoSeg c g) s).modCls c fun x =>
        { x with segs := x.segs.filter fun g => !concerns true e g.epoch })

/-- A SEAL confirms: segments up to its epoch are discarded, absorbed batons returned, an unjournaled class with no segment left is
journaled again, and the notice is passed on (R199, R208, R211, R215). -/
def State.trkSeal (s : State) (n : Notice) : State :=
  let e := n.epoch
  let s1 := s.modTrk fun k => { k with view := viewNotice k.view false e n.named }
  let s2 := eachOf ((upTo 16).filter fun c => decide (s.trkClassCfg_FRAME c = epFrame e)) (fun c s =>
    let gone := (s.cls c).segs.filter fun g => concerns false e g.epoch
    let t := s.modCls c fun x =>
      let l := x.segs.filter fun g => !concerns false e g.epoch
      { x with segs := l, unjournaled := x.unjournaled && decide (l ≠ []) }
    eachOf (gone.flatMap fun g => g.absorbed) (fun h s => s.batonReturn h) t) s1
  s2.trkPass false e n.time

/-- A notice that R56 discards: SEQ 0, or an epoch already settled or recalled. -/
def State.badNotice (s : State) (e : Epoch) : Bool := decide (epSeq e = 0) || decide (viewOf s.trk.view e ≠ 0)

/-- It is reported. -/
def State.trkBadNotice (s : State) (rcl : Bool) (e : Epoch) : State :=
  s.raiseU 0x23 trkSource 0xFF (noticeHead rcl e)

/-! ### Costs and association (R200 to R204) -/

/-- One detection of a DET_BATCH (R197). -/
structure Det where
  pos : WP48
  cross : Int
  key : Nat
  feat : BitVec 64
  deriving DecidableEq, Repr

/-- The detection at an offset of a DET_BATCH. -/
def detAt (b : List Byte) (o : Nat) : Det := ⟨BitVec.ofNat 48 (u64 b o), s32 b (o + 8), u16 b (o + 14), BitVec.ofNat 64 (u64 b (o + 16))⟩

/-- The residuals ra and rc of a detection against a track in a band (R200). -/
def residual (rep : Nat) (k : BitVec 32) (t : Track) (d : Det) : Int × Int :=
  let n := ixSub k t.kLast
  let pa := t.pos + wpOf (t.driftA * n)
  let ra := wpSub d.pos pa
  (if rep = 0 then ra else (ra + (rep / 2 : Nat)) % rep - (rep / 2 : Nat), d.cross - (t.cross + t.driftC * n))

/-- The cost of a pair, none when it is forbidden (R201, R202). `m` is the supplied matrix's element. -/
def State.pairCost (s : State) (c : Nat) (k : BitVec 32) (t : Track) (d : Det) (m : Option Nat) : Option Nat :=
  let gate := s.trkClassGateCost_GATE_COST c
  let ok (x : Nat) : Option Nat := if gate ≤ x then none else some x
  match m with
  | some x => if x = 0xFFFF then none else ok x
  | none =>
    let (ra, rc) := residual (s.trkClassRepeat_UNITS c) k t d
    let a := ra.natAbs
    let b := rc.natAbs
    if s.trkClassGateA_UNITS c < a ∨ s.trkClassGateC_UNITS c < b ∨ (d.key ≠ 0 ∧ t.key ≠ 0 ∧ d.key ≠ t.key) then none
    else ok (min 65535 ((a * s.trkClassWeight_WA c + b * s.trkClassWeight_WC c) / 65536))

/-- The column of least cost among those not taken; the lower wins a tie (R203). -/
def leastCol (used : List Nat) : Nat → List (Option Nat) → Option (Nat × Nat)
  | _, [] => none
  | j, x :: t =>
    let r := leastCol used (j + 1) t
    match x with
    | none => r
    | some c =>
      if used.contains j then r
      else
        match r with
        | some (i, d) => if c ≤ d then some (j, c) else some (i, d)
        | none => some (j, c)

/-- RULES mode: each row in order takes the least column left (R203). -/
def rulesPairs : List Nat → List (List (Option Nat)) → List (Option Nat)
  | _, [] => []
  | used, r :: t =>
    match leastCol used 0 r with
    | some (j, _) => some j :: rulesPairs (j :: used) t
    | none => none :: rulesPairs used t

/-- Beyond every sum of costs: the inf of R204. -/
def rakeInf : Int := 2 ^ 60

/-- The variables of R204, by index. -/
structure Rake where
  u : List Int
  v : List Int
  p : List Nat
  way : List Nat
  minv : List Int
  used : List Bool
  deriving DecidableEq, Repr

/-- c(i, j) of R204, 1-based. -/
def rakeCost (gate m : Nat) (costs : List (List (Option Nat))) (i j : Nat) : Int :=
  if j ≤ m then ((costs.getD (i - 1) []).getD (j - 1) none).elim rakeInf fun x => (x : Int)
  else if j = m + i then (gate : Int)
  else rakeInf

/-- The pass of R204 over the columns not used: minv, way, and the least minv with its column. -/
def rakeScan (cost : Nat → Int) (k : Rake) (j0 i0 : Nat) : List Nat → Rake × Int × Nat
  | [] => (k, rakeInf, 0)
  | j :: t =>
    let (k, d, j1) := rakeScan cost k j0 i0 t
    if k.used.getD j false then (k, d, j1)
    else
      let r := cost j - k.u.getD i0 0 - k.v.getD j 0
      let k := if r < k.minv.getD j rakeInf then { k with minv := k.minv.set j r, way := k.way.set j j0 } else k
      if k.minv.getD j rakeInf ≤ d ∧ k.minv.getD j rakeInf < rakeInf then (k, k.minv.getD j rakeInf, j) else (k, d, j1)

/-- The step of R204 over every column after a pass. -/
def rakeShift (delta : Int) (k : Rake) : List Nat → Rake
  | [] => k
  | j :: t =>
    let k := rakeShift delta k t
    if k.used.getD j false then
      let i := k.p.getD j 0
      { k with u := k.u.set i (k.u.getD i 0 + delta), v := k.v.set j (k.v.getD j 0 - delta) }
    else { k with minv := k.minv.set j (k.minv.getD j rakeInf - delta) }

/-- The inner repeat of R204, until an unused row's column is reached. -/
def rakeSearch (gate m w : Nat) (costs : List (List (Option Nat))) : Nat → Rake → Nat → Rake × Nat
  | 0, k, j0 => (k, j0)
  | n + 1, k, j0 =>
    let k := { k with used := k.used.set j0 true }
    let i0 := k.p.getD j0 0
    let (k, delta, j1) := rakeScan (rakeCost gate m costs i0) k j0 i0 ((upTo w).map fun j => j + 1)
    let k := rakeShift delta k (upTo (w + 1))
    if k.p.getD j1 0 = 0 then (k, j1) else rakeSearch gate m w costs n k j1

/-- The second repeat of R204: the pairs along the path change. -/
def rakeFlip : Nat → Rake → Nat → Rake
  | 0, k, _ => k
  | n + 1, k, j0 =>
    let j1 := k.way.getD j0 0
    let k := { k with p := k.p.set j0 (k.p.getD j1 0) }
    if j1 = 0 then k else rakeFlip n k j1

/-- The variables of R204 as row `i` begins. -/
def Rake.begin (k : Rake) (w i : Nat) : Rake :=
  { k with p := k.p.set 0 (i + 1), minv := List.replicate (w + 1) rakeInf, used := List.replicate (w + 1) false }

/-- The variables of R204 before the first of `n` rows, with `w` columns. -/
def Rake.start (n w : Nat) : Rake :=
  ⟨List.replicate (n + 1) 0, List.replicate (w + 1) 0, List.replicate (w + 1) 0, List.replicate (w + 1) 0, [], []⟩

/-- One row of R204. -/
def rakeRow (gate m w : Nat) (costs : List (List (Option Nat))) (k : Rake) (i : Nat) : Rake :=
  let (k, j0) := rakeSearch gate m w costs (w + 1) (k.begin w i) 0
  rakeFlip (w + 1) k j0

/-- The Rake (R204): the column each row pairs with. -/
def rakePairs (gate m : Nat) (costs : List (List (Option Nat))) : List (Option Nat) :=
  let n := costs.length
  let k := (upTo n).foldl (rakeRow gate m (m + n) costs) (Rake.start n (m + n))
  (upTo n).map fun i => ((upTo m).find? fun j => decide (k.p.getD (j + 1) 0 = i + 1))

/-- Every row of R204 finds a free column in its first pass (R205). -/
def rakeAtOnce (gate m : Nat) (costs : List (List (Option Nat))) : Bool :=
  let n := costs.length
  let w := m + n
  ((upTo n).foldl (fun (x : Rake × Bool) i =>
    let (k, j0) := rakeSearch gate m w costs 1 (x.1.begin w i) 0
    (rakeRow gate m w costs x.1 i, x.2 && decide (k.p.getD j0 0 = 0))) (Rake.start n w, true)).2

/-- The most cycles that the Rake takes for `n` detections and `l` occupied slots (R205). -/
def rakeBound (atOnce : Bool) (n l : Nat) : Nat := 32 + (if atOnce then n else n * (n + 1) / 2) * ((l + n + 63) / 64 + 6)

/-! ### Update and lifecycle (R216) -/

/-- sat32 of R216. -/
def sat32 (i : Int) : Int × Bool := (clampI (-2147483647) 2147483647 i, decide (i < -2147483647 ∨ 2147483647 < i))

/-- A track after a hit, and whether anything saturated. -/
def State.hit (s : State) (c : Nat) (k : BitVec 32) (nc : BitVec 32) (t : Track) (d : Det) : Track × Bool :=
  let (ra, rc) := residual (s.trkClassRepeat_UNITS c) k t d
  let gp : Int := s.trkClassGain_GP c
  let gd : Int := s.trkClassGain_GD c
  let (x, s1) := sat32 (d.cross - rc + rc * gp / 65536)
  let (da, s2) := sat32 (t.driftA + ra * gd / 65536)
  let (dc, s3) := sat32 (t.driftC + rc * gd / 65536)
  ({ t with
     pos := d.pos - wpOf ra + wpOf (ra * gp / 65536), cross := x, driftA := da, driftC := dc, kLast := k, hitN := nc
     hits := min 65535 (t.hits + 1), feat := d.feat }, s1 || s2 || s3)

/-- The lifecycle rules on one track: its state afterwards, the last event if one befell it, and whether it is freed. -/
def State.life (s : State) (c : Nat) (nc : BitVec 32) (t : Track) : Track × Option Nat × Bool :=
  let m := s.trkClassLife_BIRTH_M c
  if t.state = 1 ∧ t.hits < m ∧ s.trkClassLife_BIRTH_N c ≤ (nc - t.bornN + 1).toNat then (t, some 6, true)
  else
    let (t1, e1) := if t.state = 1 ∧ m ≤ t.hits then ({ t with state := 2 }, some 2) else (t, none)
    let (t2, e2) := if t1.state = 2 ∧ s.trkClassLife_CONF_HITS c ≤ t1.hits then ({ t1 with state := 3 }, some 3) else (t1, e1)
    if 2 ≤ t2.state ∧ s.trkClassLife_DEL_MISS c ≤ (nc - t2.hitN).toNat then (t2, some 5, true) else (t2, e2, false)

/-- What befell one track in a batch: its table entry, its state at the end (before it was freed), its last event, its detection and
cost, and whether it was freed. -/
structure Fate where
  entry : Nat
  t : Track
  event : Nat
  det : Option Nat
  cost : Nat
  freed : Bool
  deriving DecidableEq, Repr

/-- An entry of a TRACK_BATCH (R207). -/
def fateEntry (nc : BitVec 32) (x : Fate) : List Byte :=
  by4 x.t.id.toNat ++ by2 (x.det.getD 0xFFFF) ++ by1 (if x.freed then 0 else x.t.state) ++ by1 x.event ++ by8i x.t.pos.toInt ++
    by4i x.t.cross ++ by2 x.cost ++ by2 x.t.hits ++ by2 (min 65535 (nc - x.t.hitN).toNat) ++ by2 x.t.key ++ zeros 4

/-- The entry of a detection without a track. Log 84 (DEDUCED). -/
def unassocEntry (i : Nat) (d : Det) : List Byte :=
  by4 0xFFFFFFFF ++ by2 i ++ by1 0 ++ by1 7 ++ by8i d.pos.toInt ++ by4i d.cross ++ by2 0xFFFF ++ zeros 10

/-- The lowest free slot of a class. -/
def freeSlot (base size : Nat) (tab : Tab Track) : Option Nat :=
  ((upTo size).map fun j => base + j).find? fun e => !(tab.any fun x => decide (x.1 = e))

/-- What births give: the table, the serial, and for each detection its fate; none where no slot was free. -/
def State.births (s : State) (c : Nat) (k nc : BitVec 32) :
    List (Nat × Det) → Tab Track → BitVec 16 → Tab Track × BitVec 16 × List (Nat × Option Fate)
  | [], tab, ser => (tab, ser, [])
  | (i, d) :: l, tab, ser =>
    match freeSlot (s.clsBase c) (s.clsSize c) tab with
    | none =>
      let (tab', ser', r) := s.births c k nc l tab ser
      (tab', ser', (i, none) :: r)
    | some e =>
      let ser1 := ser + 1
      let t0 : Track := {
        id := BitVec.ofNat 32 (c * 2 ^ 28 + e % 4096 * 2 ^ 16 + ser1.toNat), state := 1
        pos := d.pos, cross := d.cross, kLast := k, hits := 1
        bornN := nc, hitN := nc, key := d.key, feat := d.feat }
      let (t1, ev, gone) := if s.trkClassLife_BIRTH_M c = 1 then s.life c nc t0 else (t0, none, false)
      let tab1 := if gone then tab else Tab.set e t1 tab
      let (tab', ser', r) := s.births c k nc l tab1 ser1
      (tab', ser', (i, some ⟨e, t1, ev.getD 1, some i, 0xFFFF, gone⟩) :: r)

/-! ### One batch (R213, R214, R216, R222) -/

/-- NDET as taken (R198), at most 1 024 (R217). Log 172 (DEDUCED). -/
def ndetOf (b : List Byte) : Nat := min (min (u16 b 22) 1024) ((u16 b 6 * 8 - 32) / 32)

/-- The fields of a TRACK_BATCH that come from the DET_BATCH or, where the address holds none, are free values (R206, R222). -/
def State.batchHead (s : State) (h : DetHand) (b : List Byte) (replay : Bool) : BatchHead :=
  let prov := epSeq h.epoch ≠ 0 && !settledIn s.trk.view h.epoch
  let f := u8 b 3
  { flags := fLAST + flagIf (bit f 5) fGAP + flagIf (bit f 3) fABSENT + flagIf (bit f 4) fTUNC + flagIf (bit f 6 || replay) fREREL +
      flagIf prov fPROV + fBAT
    baton := h.baton
    epoch := h.epoch
    time := BitVec.ofNat 64 (u64 b 8)
    k := u32 b 16
    cls := u8 b 20 % 16
    mode := s.trkClassCfg_MODE (u8 b 20 % 16)
    ndet := ndetOf b
    nlive := (s.tracks (u8 b 20 % 16)).length
    tb := 8 * b2n replay
    reason := 0
    addr := h.addr }

/-- Why a DET_BATCH is refused; 0 for none (R222). Log 78 (DEDUCED). -/
def State.batchReason (s : State) (h : DetHand) (b : List Byte) : Nat :=
  let c := u8 b 20 % 16
  let m := u64 b 24
  if !s.trkClassCfg_EN c || !s.trkCtrl_EN then 1
  else if s.trkClassCfg_FRAME c ≠ epFrame h.epoch then 2
  else if bit (u8 b 21) 0 && (decide (m % 8 ≠ 0) || !s.inDram m (min (ndetOf b) 256 * 32 * s.trkClassCfg_CAP c)) then 3
  else if recalledIn s.trk.view h.epoch then 5
  else 0

/-- A refused hand-off: no track state changes (R222). Log 78 (DEDUCED). -/
def State.batchRefuse (s : State) (h : DetHand) (b : List Byte) (reason : Nat) (replay : Bool) : State :=
  let x := s.batchHead h b replay
  (s.modCls x.cls fun y => { y with refused := satAdd 255 y.refused 1 }).trkIssue ({ x with tb := x.tb + 4, reason := reason }.record [])

/-- Entries that a batch changed, as they were before (R211); one that was free has STATE 0. -/
def changed (before after : Tab Track) (entries : List Nat) : List (Nat × Track) :=
  (entries.filter fun e => decide (Tab.get {} e before ≠ Tab.get {} e after)).map fun e => (e, Tab.get {} e before)

/-- Entries saved by a segment, with those of a batch it absorbs: what was saved first stays. -/
def mergeSaved (old new : List (Nat × Track)) : List (Nat × Track) := old ++ new.filter fun x => !(old.any fun y => decide (y.1 = x.1))

/-- What the batch's work gives: the table, the serial, the entries to write, the pairs' TOTAL, SAT and FULL, and how many detections
found no slot. -/
structure BatchWork where
  table : Tab Track
  serial : BitVec 16
  entries : List (List Byte)
  total : Nat
  sat : Bool
  full : Nat
  excess : Nat
  /-- The Rake needed one pass for each detection (R205). -/
  atOnce : Bool
  deriving DecidableEq, Repr

/-- Steps 4 to 7 of R216 on a batch of class `c`, whose N_C is `nc`. -/
def State.batchWork (s : State) (c : Nat) (b : List Byte) (nc : BitVec 32) : BatchWork :=
  let nd := ndetOf b
  let n := min nd 256
  let k := BitVec.ofNat 32 (u32 b 16)
  let dets := (upTo n).map fun i => (i, detAt b (32 + 32 * i))
  let slots := s.tracks c
  let cell (i e : Nat) : Option Nat :=
    if bit (u8 b 21) 0 then some (u16 (s.readMem (u64 b 24 + i * 32 * s.trkClassCfg_CAP c + 2 * (e - s.clsBase c)) 2) 0) else none
  let costs := dets.map fun (i, d) => slots.map fun (e, t) => s.pairCost c k t d (cell i e)
  let pairs := if s.trkClassCfg_MODE c then rakePairs (s.trkClassGateCost_GATE_COST c) slots.length costs else rulesPairs [] costs
  let detOf (j : Nat) : Option Nat := (upTo n).find? fun i => decide (pairs.getD i none = some j)
  let fates : List (Fate × Bool) := (upTo slots.length).map fun j =>
    let (e, t) := slots.getD j (0, {})
    let i := detOf j
    let (t1, sat) := match i with
      | some i => s.hit c k nc t (detAt b (32 + 32 * i))
      | none => (t, false)
    let (t2, ev, gone) := s.life c nc t1
    let cost := i.elim 0xFFFF fun i => ((costs.getD i []).getD j none).getD 0xFFFF
    (⟨e, t2, ev.getD (if i.isSome then 0 else 4), i, cost, gone⟩, sat)
  let tab0 := s.trk.table.filter fun x => !s.inCls c x.1
  let tab1 := fates.foldl (fun t x => if x.1.freed then t else Tab.set x.1.entry x.1.t t) tab0
  let lone := dets.filter fun (i, _) => (pairs.getD i none).isNone
  let (tab2, ser, born) := s.births c k nc lone tab1 (s.cls c).serial
  let first : List (List Byte) := dets.map fun (i, d) =>
    match fates.find? fun x => decide (x.1.det = some i) with
    | some x => fateEntry nc x.1
    | none =>
      match (born.find? fun x => decide (x.1 = i)).bind fun x => x.2 with
      | some x => fateEntry nc x
      | none => unassocEntry i d
  let extra : List (List Byte) := (upTo (nd - n)).map fun i => unassocEntry (n + i) (detAt b (32 + 32 * (n + i)))
  let dead : List Fate := (s.cls c).freed.map fun x => ⟨x.1, x.2, 5, none, 0xFFFF, true⟩
  let rest := (fates.map fun x => x.1).filter fun x => x.det.isNone && (s.trkClassCfg_MODE c || decide (x.event = 5 ∨ x.event = 6))
  let second := (upTo (s.clsSize c)).flatMap fun j => (dead ++ rest).filter fun x => decide (x.entry = s.clsBase c + j)
  { table := tab2
    serial := ser
    entries := first ++ extra ++ second.map (fateEntry nc)
    total := fates.foldl (fun t x => if x.1.det.isSome then t + x.1.cost else t) 0
    sat := (fates.any fun x => x.2) || decide (dead ≠ [])
    full := (born.filter fun x => x.2.isNone).length
    excess := nd - n
    atOnce := rakeAtOnce (s.trkClassGateCost_GATE_COST c) slots.length costs }

/-- A hand-off that is not refused: steps 3 to 8 of R216. Log 80 (DESIGN CHOICE). -/
def State.batchRun (s : State) (h : DetHand) (b : List Byte) (replay : Bool) : State :=
  let hd := s.batchHead h b replay
  let c := hd.cls
  let x := s.cls c
  let nc := x.n + 1
  let w := s.batchWork c b nc
  let saved := changed s.trk.table w.table ((upTo (s.clsSize c)).map fun j => s.clsBase c + j)
  let prov := epSeq h.epoch ≠ 0 && !settledIn s.trk.view h.epoch
  let newest := x.segs.getLast?
  let absorbs := !prov && newest.isSome
  let seg : Option Segment :=
    if prov then
      some { epoch := h.epoch, n := x.n, serial := x.serial, saved := saved, absorbed := [], bytes := Config.segmentBytes saved.length }
    else
      newest.map fun g =>
        let l := mergeSaved g.saved saved
        { g with saved := l, absorbed := g.absorbed ++ [{ h with no := s.trk.absorbNo }], bytes := Config.segmentBytes l.length }
  let used := (s.trk.classes.flatMap fun e => e.2.segs).foldl (fun n g => n + g.bytes) 0 - (if absorbs then newest.elim 0 fun g => g.bytes else 0)
  let fits := seg.all fun g => decide (used + g.bytes ≤ 0x100000 * s.trkJsize_JSIZE)
  let absorbed := absorbs && fits
  let (cyc, s0) := if hd.mode then s.takeFree 0x2C else (0, s)
  let n := min hd.ndet 256
  let live := (s.tracks c).length
  let rake := if hd.mode then min cyc (rakeBound w.atOnce n live) else 0
  let s1 := (s0.modTrk fun k => { k with
    table := w.table
    absorbNo := k.absorbNo + b2n absorbed
    lost := if fits then k.lost else satAdd 65535 k.lost 1 }).modCls c fun y => { y with
    n := nc
    serial := w.serial
    unjournaled := y.unjournaled || !fits
    segs := if !fits then y.segs else if prov then y.segs ++ seg.toList else if absorbed then y.segs.dropLast ++ seg.toList else y.segs
    freed := []
    batches := (y.batches + 1) % 65536
    maxCyc := max y.maxCyc rake
    excess := satAdd 65535 y.excess w.excess
    full := satAdd 65535 y.full w.full }
  let fl0 := if absorbed then hd.flags - fBAT + (if prov then 0 else fPROV) else hd.flags
  s1.trkIssue ({ hd with
      flags := fl0 + flagIf w.sat fSAT
      baton := if absorbed then 0 else h.baton
      epoch := if absorbed then newest.elim h.epoch fun g => g.epoch else h.epoch
      nlive := (s1.tracks c).length
      tb := b2n (decide (w.excess ≠ 0)) + 2 * b2n (decide (w.full ≠ 0)) + 8 * b2n replay + 16 * b2n absorbed
      rake := rake
      total := w.total }.record w.entries)

/-- One hand-off, or a replay of one, is read, checked and processed (R216, R222). Log 82 (DEDUCED). -/
def State.batch (s : State) (h : DetHand) (replay : Bool) : State :=
  let head := s.readMem h.addr 8
  let len := 8 * u16 head 6
  let b := s.readMem h.addr len
  if s.inDram h.addr (max 8 len) && decide (u8 head 0 = 0x20 ∧ 2 ≤ u16 head 6) then
    let s1 := s.modTrk fun k => { k with view := viewHand k.view h.epoch }
    let reason := s1.batchReason h b
    if reason = 0 then s1.batchRun h b replay else s1.batchRefuse h b reason replay
  else
    let bad := s.inDram h.addr 8 && badHead head
    let s1 := if bad then s.raiseU 0x23 trkSource 0xFF (u32 head 0) else s
    let (v, s2) := s1.takeFree 0x20
    s2.batchRefuse h (leBytes 32 v) 4 replay

/-- Batches to replay, in the order in which they were absorbed. -/
def putHand (h : DetHand) : List DetHand → List DetHand
  | [] => [h]
  | x :: l => if h.no ≤ x.no then h :: x :: l else x :: putHand h l

/-- A RECALL is applied: every class of its frame is undone in class order, the notice is passed on, and what was absorbed is replayed
(R210, R212, R214, R220). Log 83 (DEDUCED). -/
def State.trkRecall (s : State) (n : Notice) : State :=
  let e := n.epoch
  let s1 := s.modTrk fun k => { k with view := viewNotice k.view true e n.named }
  let (again, s2) := ((upTo 16).filter fun c => decide (s.trkClassCfg_FRAME c = epFrame e)).foldl
    (fun (acc : List DetHand × State) c =>
      let (l, t) := acc.2.recallCls c e
      (acc.1 ++ l, t)) ([], s1)
  eachOf (again.foldr putHand []) (fun h s => s.batch h true) (s2.trkPass true e n.time)

/-- A merged notice of a place is applied, or reported under R56. -/
def State.trkApply (s : State) (rcl : Bool) (x : Option Notice) : State :=
  match x with
  | none => s
  | some n => if s.badNotice n.epoch then s.trkBadNotice rcl n.epoch else if rcl then s.trkRecall n else s.trkSeal n

/-- The notices of a place are applied: of each frame the RECALL, then the SEAL (R199). -/
def State.trkNotices (s : State) (p : TrkPlace) : State :=
  eachOf (upTo 8) (fun f s =>
    (s.trkApply true ((p.recalls.find? fun x => decide (x.1 = f)).map fun x => x.2)).trkApply false
      ((p.seals.find? fun x => decide (x.1 = f)).map fun x => x.2)) s

/-- TRK_NOTICE: the engine, between two hand-offs and with nothing waiting at its output, applies the notices at the head of its intake
(R199, R210). Log 85 (DEDUCED), 151 (DEDUCED). -/
def execTrkNotice (s : State) : Host.Outcome State Fault Refusal :=
  .next <|
    match s.trk.intake, s.trk.outq with
    | p :: rest, [] =>
      (s.modTrk fun k => { k with
        intake := if p.hand.isSome then { p with recalls := [], seals := [] } :: rest else rest }).trkNotices p
    | _, _ => s

/-- TRACK_BATCH_PROCESS: the next hand-off is taken: the notices before it are applied, then its batch is processed (R216).
Log 85 (DEDUCED). -/
def execTrackBatchProcess (s : State) : Host.Outcome State Fault Refusal :=
  .next <|
    match s.trk.intake, s.trk.outq with
    | p :: rest, [] =>
      match p.hand with
      | some h => ((s.modTrk fun k => { k with intake := rest }).trkNotices p).batch h false
      | none => s
    | _, _ => s

/-- Where a record of `len` bytes goes in the output area, when there is room (R209). -/
def State.outPlace (s : State) (len : Nat) : Option Nat :=
  let size := 0x10000 * s.trkOutSize_OUT_SIZE
  let o := if s.trk.outPtr + len ≤ size then s.trk.outPtr else 0
  if o + len ≤ size ∧ s.trk.outHeld.all (fun x => decide (x.1 + x.2 ≤ o ∨ o + len ≤ x.1)) then some o else none

/-- TRK_TOKEN_PLACE: the oldest record or notice issued goes out, once the track queue, and for a record the output area, has room: a
token into the queue, and a post to the report ring (R209). -/
def execTrkTokenPlace (s : State) : Host.Outcome State Fault Refusal :=
  .next <|
    if 512 ≤ s.rly.trackq.length then s
    else
      match s.trk.outq with
      | [] => s
      | .notice r :: rest =>
        (((s.modTrk fun k => { k with outq := rest }).modRly fun y => { y with trackq := y.trackq ++ [.notice r] }).report s.trkReport_EN
          s.trkReport_RING r)
      | .record r :: rest =>
        let b := recBytes r
        match s.outPlace b.length with
        | none => s
        | some o =>
          let a := s.trkOutBase_OUT_BASE + o
          (((s.writeMem a b).modTrk fun k => { k with
              outq := rest, outPtr := o + b.length, outHeld := k.outHeld ++ [(o, b.length)] }).modRly fun y =>
            { y with trackq := y.trackq ++ [.record o a r] }).report s.trkReport_EN s.trkReport_RING r

/-- TRK_CLEAR: the classes named are cleared at the next place of the intake, which the engine stands at (R220). Log 83 (DEDUCED). -/
def execTrkClear (s : State) : Host.Outcome State Fault Refusal :=
  .next <|
    match s.nextOp 0x18 fun _ => true with
    | none => s
    | some o =>
      (eachOf ((upTo 16).filter fun c => bit (o.inlNat 0 2) c) (fun c s => s.clsClear c) (s.takeOp o)).complete o.ring o.didx 0 0 []

/-- TRK_SRAM_UE: an uncorrectable error in a table entry frees the slot; the class's next TRACK_BATCH lists it as DELETED (R223).
One that was corrected changes nothing: TRK_SRAM_CE. Log 84 (DEDUCED), 167 (DESIGN CHOICE). -/
def execTrkSramUe (dt : Nat) (w : EccErr) (s : State) : Host.Outcome State Fault Refusal :=
  .next <|
    let c := (upTo 16).find? fun c => s.inCls c w.at_
    let s1 := (s.pass dt).raiseU (if w.ue then 0x21 else 0x20) trkSource (c.getD 0xFF) w.at_
    if !w.ue then s1
    else
      match s1.trk.table.find? fun x => decide (x.1 = w.at_) with
      | none => s1
      | some x =>
        let s2 := s1.modTrk fun k => { k with table := Tab.erase w.at_ k.table }
        match c with
        | some c => s2.modCls c fun y => { y with freed := y.freed ++ [x] }
        | none => s2

end Sys2Proof.Machine
end

