-- ==== Sys2Proof/Machine/RegRead.lean ====
section
/-! DEFINITION. Reading setup registers (00_scope.md R14 to R20): the read-only and event fields of every register, from the
state of the unit that keeps them, and the read of a word with the latch of R15. -/

namespace Sys2Proof.Machine

open Sys2Proof

/-- The number whose bytes in rising order are the octets of `v`, first octet on top. -/
def octets (n v : Nat) : Nat := leNat (leBytes n v).reverse

/-- Bit `i` of the result tells whether `p i` holds, for i below `n`. -/
def maskIf (n : Nat) (p : Nat → Bool) : Nat := (upTo n).foldl (fun m i => m + b2n (p i) * 2 ^ i) 0

/-- The Timekeeper's registers (02_timekeeper.md R100). -/
def State.tkRo (s : State) (r : Reg) : Nat :=
  let k := s.tk
  match r with
  | .tkStatus =>
    k.run * 4096 + s.rxPort.getD 3 * 256 + b2n k.parent.isSome * 64 + b2n k.stepArmed * 32 + b2n k.stepPend * 16 + b2n k.isSet * 8 +
      k.state.code
  | .tkEvents => k.events
  | .tkFsCount => k.fsCount
  | .tkTime => s.dev.toNat
  | .tkEra => k.totalAt s.now / 2 ^ 64 % 65536
  | .tkUtcOffset => k.parent.elim 0 fun p => b2n p.gm.utcValid * 65536 + p.gm.utcOffset.toNat
  | .tkOffset => wrapU 64 k.offset
  | .tkPathDelay => wrapU 64 k.meanDelay
  | .tkFreqAdj => wrapU 64 k.adj
  | .tkHoldUnc =>
    (match k.state with
     | .free => 0xFFFFFFFF
     | .holdover | .refused => min 0xFFFFFFFF (k.unc s.now / 65536)
     | _ => 0)
  | .tkGmId => k.parent.elim 0 fun p => octets 8 p.gm.identity.toNat
  | .tkTcCount => k.tcOrphan * 65536 + k.tcFwd
  | .tkCapLevel => maskIf 32 fun n => (s.cap n).level
  | .tkCapAbsent => maskIf 32 fun n => (s.cap n).absent
  | _ => 0

/-- The Host Link's registers (12_imcel.md R476, 13_rings.md R503). -/
def State.hlRo (s : State) (r : Reg) (i : Nat) : Nat :=
  let p := s.port i
  let x := s.sess i
  let g := s.ring i
  match r with
  | .hlStat => s.openMask * 256 + maskIf 2 fun p => (s.port p).up
  | .hlAuth => s.hl.authFail * 65536 + s.aon.keyGen * 256 + b2n s.aon.linkKey.isNone
  | .hlDrop => s.hl.badFrame * 65536 + s.hl.noSession
  | .hlPStat => p.retries * 65536 + b2n p.fault * 64 + b2n p.settling * 32 + b2n p.up * 16 + p.rate
  | .hlPMac => octets 6 (s.macOf i)
  | .hlSessStat =>
    (if x.isOpen then 2 else if x.chal.isSome then 1 else 0) * 2 ^ 28 + x.port * 2 ^ 24 + b2n x.slide * 2 ^ 20 + b2n x.jumbo * 2 ^ 19 +
      b2n x.recover * 2 ^ 18
  | .hlSessWin => x.window
  | .hlSessRetx => x.devRetx * 65536 + x.hostDup
  | .hlSessPostbuf => postBytes (Tab.get [] i s.hl.posts)
  | .hlSessDrop => x.dropHold * 65536 + x.dropStale
  | .hlRingStat =>
    g.staleDb * 65536 + b2n g.stopped * 512 + b2n (s.hlRingCfg_EN i && (s.sess (s.hlRingCfg_SESSION i)).isOpen) * 256 +
      g.staging.length
  | .hlRingHidx => g.hidx.toNat
  | .hlRingDidx => g.didx.toNat
  | .hlRingLoss => g.loss
  | _ => 0

/-- The sensor side's registers (03_sensor_ports.md R152). -/
def State.sensorRo (s : State) (r : Reg) (i j : Nat) : Nat :=
  match r with
  | .sspStatus =>
    let m := s.ssp (s.sspMaster i)
    let p := s.ssp i
    m.rate * 256 + b2n (decide (s.sspMaster i ≠ i)) * 64 + b2n p.pocxpTrip * 32 + b2n p.pocxpOn * 16 + b2n m.camera * 8 + b2n m.hs * 4 +
      b2n (s.quad (i / 4)).fault * 2 + b2n m.up
  | .sspTrigCount => (s.ssp i).dropped * 2 ^ 24 + (s.ssp i).late * 65536 + (s.ssp i).sent
  | .sspRxCount => (s.ssp i).pktErr * 65536 + (s.ssp i).refused
  | .senStatus => b2n (s.quad 4).fault * 16 + (s.sen i).speed * 2 + b2n (s.sen i).up
  | .senDrop => (s.sen i).noMatch * 65536 + (s.sen i).badFrame
  | .senStreamCount => (s.stream i j).lost * 65536 + (s.stream i j).blocks
  | .mpEncCount => (s.enc i).count.toNat
  | .mpEncStat => (s.enc i).qerr * 65536 + (s.enc i).lineFault * 16 + b2n (s.enc i).absent
  | .mpSpiStat => (s.spi i).overrun * 65536 + b2n (s.spi i).absent
  | .mpI2cStat => s.i2cStat i
  | .iocSlotStat =>
    let x := s.slot i
    (x.hwm + 511) / 512 * 65536 + b2n x.gapOpen * 4 + b2n (decide (x.srcs ≠ [])) * 2 + b2n x.absent
  | .iocSlotDrop => (s.slot i).drop
  | .iocPool => 512 - s.poolUsed
  | .iocQuadStat => (maskIf 5 fun q => (s.quad q).fault) * 256 + maskIf 5 fun q => (s.quad q).settling
  | .iocQuadRetry => maskIf 5 fun q => (s.quad q).retry
  | .iocAccI2cStat => s.i2cStat 8
  | _ => 0

/-- R171 holds reads: the free band store is below 32 KiB, or a frame holds MAX_BANDS bands (04_motion_pan.md R192). -/
def State.panFull (s : State) : Bool :=
  decide (s.storeFree < 32768) || (upTo 8).any fun f => s.panFrameCfg_EN f && decide (s.maxBands f ≤ (s.pf f).held)

/-- The registers of the Motion Estimator and the Pan (04_motion_pan.md R192); TCONF and POS read 0 while T_conf is unset.
Log 198 (DESIGN CHOICE). -/
def State.placeRo (s : State) (r : Reg) (i : Nat) : Nat :=
  let m := s.motion i
  let f := s.pf i
  match r with
  | .motPos => wrapU 64 (s.framePos i).toInt
  | .motTconf => m.tconf.elim 0 fun t => t.toNat
  | .motVel => if m.absent then 0 else (m.ticks.head?).elim 0 fun k => wrapU 32 (velUm k.v)
  | .motStat =>
    m.residCnt * 65536 + b2n (s.motCtrl_IMU_EN i && (s.slot (s.motCtrl_IMU_SLOT i)).absent) * 2 + b2n m.absent
  | .panCtrl => (if s.pan.swapPend && (upTo 8).all fun f => s.changedOver f then 1 - s.pan.bank else s.pan.bank) * 16
  | .panStat => s.storeFree / 4096 * 65536 + b2n s.pan.swapPend * 2 + b2n s.panFull
  | .panFrameNext => f.next.elim 0 fun k => k.toNat
  | .panFrameStat => f.outst.length * 65536 + min 64 f.held
  | .panFrameCount => f.recalls * 65536 + f.seals
  | .panStreamStat => (s.ps i).forfeits * 65536
  | .panStreamDrop => (s.ps i).late * 65536 + (s.ps i).badPt
  | _ => 0

/-- The Track Engine's registers (05_track.md R225). -/
def State.trkRo (s : State) (r : Reg) (i : Nat) : Nat :=
  let c := s.cls i
  match r with
  | .trkStat =>
    (s.trk.intake.filter fun p => p.hand.isSome).length * 65536 +
      b2n (s.trk.outq.any fun x => match x with
        | .record r => decide (r.type = 0x21)
        | .notice _ => false) * 16384 + (s.trk.table.filter fun x => decide (x.2.state ≠ 0)).length
  | .trkJstat =>
    let used := ((upTo 16).map fun c => ((s.cls c).segs.map fun g => g.bytes).foldl (· + ·) 0).foldl (· + ·) 0
    (used + 1048575) / 1048576 * 65536 + s.trk.lost
  | .trkClassStat =>
    b2n c.unjournaled * 2 ^ 29 + ((s.tracks i).filter fun x => decide (x.2.state ≠ 0)).length * 65536 +
      ((s.tracks i).filter fun x => decide (x.2.state = 1)).length
  | .trkClassCount => c.batches * 65536 + c.refused * 256 + c.recalled
  | .trkClassRake => c.maxCyc
  | .trkClassDrop => c.excess * 65536 + c.full
  | _ => 0

/-- A stream is stopped by debug and every Lane has completed every issued command (10_programs.md R390). Log 110 (DEDUCED). -/
def State.readable (s : State) (st : Stream) : Bool :=
  let p := s.rly.prog
  (if st = .access then p.stopA else p.stopE) &&
    s.lanesIn.all fun n =>
      decide ((s.lane n).pos st = s.issuedTo st) && decide ((if st = .access then p.stepA else p.stepE) ≠ some ((s.lane n).pos st))

/-- The Relay's registers (06_aurik_machine.md R265, 10_programs.md R398). Log 149 (DEDUCED). -/
def State.rlyRo (s : State) (r : Reg) (i : Nat) : Nat :=
  let y := s.rly
  let p := y.prog
  match r with
  | .rlyStat =>
    popcount y.laneSet 16 * 65536 + b2n y.ctx.isSome * 4 +
      (if y.ctx.isSome then 2 else if s.rlyCtrl_EN && decide (s.activeImage ≠ []) then 1 else 0)
  | .rlyLanes => y.fencedNow * 65536
  | .rlyQstat => y.trackq.length * 65536 + y.bandq.length
  | .rlyBatons =>
    ((upTo 256).filter fun b => decide ((s.baton b).state = 2 ∨ (s.baton b).state = 4)).length * 65536 +
      ((upTo 256).filter fun b => decide ((s.baton b).state = 0)).length
  | .rlyCount => y.bands * 65536 + y.abandoned * 256 + y.voided
  | .rlyCur => y.we.toNat * 65536 + y.lastBaton
  | .rlyProg =>
    b2n (p.exch.elim false fun x => !x.switched) * 2 ^ 31 + p.standby * 2 ^ 28 + b2n (decide (s.activeImage ≠ [])) * 2 ^ 24 +
      p.reached * 65536 + (p.exch.elim 0 fun x => x.fmask * 256 + 2 * b2n x.cancel)
  | .rlyActiveId => u32 s.activeImage 36
  | .rlyStandbyId => u32 (Tab.get [] p.other p.slots) 36
  | .rlyLoad => b2n p.load.isSome * 2 ^ 31 + b2n p.sched * 65536 + p.reason
  | .rlyLoadIndex => p.index
  | .rlyXcount => p.exchanges * 65536 + p.changes
  | .rlyFence => (Tab.get 0 i p.fence).toNat
  | .rlyDbg => p.hit * 256 + b2n p.stopE * 2 + b2n p.stopA
  | .rlyCtx => if s.readable .access then y.ctx.elim 0 fun c => c.k.toNat else 0
  | _ => 0

/-- The registers of a Lane; the readout of a stream reads 0 unless the stream is stopped, and the readout of the queues unless
both are (06_aurik_machine.md R265, 10_programs.md R390, R398). Log 92 (DEDUCED), 110 (DEDUCED). -/
def State.laneRo (s : State) (r : Reg) (n j : Nat) : Nat :=
  let l := s.lane n
  let acc := s.readable .access
  let exe := s.readable .execute
  match r with
  | .laneStat =>
    let inSet := s.rly.laneSet.testBit n
    b2n (s.rly.fencedNow.testBit n) * 512 + b2n inSet * 256 + (if inSet then popcount s.rly.laneSet n else 0x1F)
  | .laneSpErr => l.ue * 65536 + l.ce
  | .laneAcnt => l.acnt
  | .laneEcnt => l.ecnt
  | .lanePc => (if exe then l.epc * 65536 else 0) + if acc then l.apc else 0
  | .laneQs => if acc && exe then (upTo 4).foldl (fun m q => m + (l.tiles q).length * 256 ^ q) 0 else 0
  | .laneKs =>
    (if acc && exe then s.rly.decq.length * 256 else 0) + (if exe then l.k / 4 % 4 * 4 else 0) + if acc then l.k % 4 else 0
  | .laneC => if (if j < 4 then acc else exe) then wrapU 32 (l.cnt j) else 0
  | .laneAValue => if acc then (l.areg j).value else 0
  | .laneABase => if acc then (l.areg j).base else 0
  | .laneAStep => if acc then wrapU 32 (l.areg j).step else 0
  | .laneAMod => if acc then (l.areg j).modulus else 0
  | _ => 0

/-- The registers of the KV Page Unit and the Solver (08_attention.md R332, 09_solver.md R366). -/
def State.unitRo (s : State) (r : Reg) (i : Nat) : Nat :=
  match r with
  | .kvpStat => (16384 - s.kvp.log.length) * 65536 + b2n (decide (s.kvp.rebuilding ≠ []))
  | .kvpCount => s.kvp.rebuilds * 65536 + s.kvp.refused
  | .kvpCacheStat => s.kvFree i
  | .kvpCacheCount => Tab.get 0 i s.kvp.exhaust * 65536 + Tab.get 0 i s.kvp.emptyq
  | .slvStat =>
    s.slv.intake.length * 65536 + s.slv.units.length * 256 + b2n (s.slv.heats.any fun h => decide (h.undealt ≠ []))
  | .slvUnits => s.slv.fenced * 65536
  | .slvCount => s.slv.endedHeats * 65536 + s.slv.refused * 256 + s.slv.voided
  | .slvPcount => s.slv.tiny * 65536 + s.slv.satp
  | .slvCuts => s.slv.expired * 65536 + s.slv.cut
  | .slvSchedMap => maskIf 64 fun k => (s.schedule k).isSome
  | _ => 0

/-- The Actuation Unit's registers (11_actuation.md R433). -/
def State.actRo (s : State) (r : Reg) (n : Nat) : Nat :=
  let a := s.act
  match r with
  | .actStat =>
    (match a.state with
     | .off => 0
     | .run => 1
     | .flood => 2
     | .safe => 3) * 2 ^ 28 + a.intake.length * 65536 + a.entries.length
  | .actCount => a.fired * 65536 + a.defaults
  | .actDrop => a.flooded * 65536 + a.badReq * 256 + a.cancelled
  | .actLate => a.late * 65536 + a.lateVerdict
  | .actLstop => b2n a.lstop * 4 + a.lstopCause
  | .actAstat =>
    (a.entries.filter fun e => decide (e.out = n)).length * 65536 + b2n (s.outp n).trip * 4 + b2n (s.outp n).fault * 2 +
      b2n (s.outLevel n)
  | _ => 0

/-- ALIVE toggles: reset is not held, the device is at SL2 or above, the safe state does not hold and the heartbeat is present
(14_faults.md R518). -/
def State.aliveRun (s : State) : Bool :=
  decide (s.aon.phase ≠ .held) && decide (2 ≤ s.levelNow.1) && !s.flt.safe && !s.flt.dead

/-- The Fault Collector's registers (14_faults.md R527). -/
def State.fltRo (s : State) (r : Reg) (i : Nat) : Nat :=
  let f := s.flt
  let e := f.log.find? fun x => decide (x.1 = i)
  match r with
  | .fltStat =>
    b2n f.safe * 2 ^ 31 + b2n f.sticky * 2 ^ 30 + b2n s.aliveRun * 2 ^ 29 + b2n (s.aon.sl1 && !f.dead) * 2 ^ 28 + f.cause * 256
  | .fltUnack => f.unackF * 2 ^ 20 + f.unackU * 1024 + f.unackC
  | .fltSerial => f.serial.toNat
  | .fltLatest => (if i = 0 then f.latestC else if i = 1 then f.latestU else f.latestF).toNat
  | .fltSafeSerial => f.safeSerial.toNat
  | .fltLost => f.lost
  | .fltEsc => f.toF * 65536 + f.toU
  | .fltLogHead => f.logValid * 256 + f.logHead
  | .fltSafeTime => f.safeTime.toNat
  | .fltLogW0 => e.elim 0 fun x => x.2.word0.toNat
  | .fltLogW1 => e.elim 0 fun x => x.2.serial.toNat
  | .fltLogW2 => e.elim 0 fun x => x.2.arg.toNat
  | .fltLogTime => e.elim 0 fun x => x.2.time.toNat
  | .fltCount => Tab.get 0 i f.counts
  | _ => 0

/-- The code of a CAUSE (15_startup.md R556). -/
def Cause.code : Cause → Nat
  | .powerOn => 1
  | .brownout => 2
  | .overvolt => 3
  | .thermal => 4
  | .resetN => 5
  | .button => 6
  | .software => 7

/-- Channel `c` of the DRAM. -/
def State.chan (s : State) (c : Nat) : Channel := Tab.get {} c s.aon.chans

/-- The registers of the always-on island and the memory controller (15_startup.md R556). -/
def State.aonRo (s : State) (r : Reg) (i : Nat) : Nat :=
  let a := s.aon
  let failed := maskIf 4 fun c => (s.chan c).failed
  let hosts := maskIf 2 fun p => (s.port p).fault
  let quads := maskIf 5 fun q => (s.quad q).fault
  let lanes := popcount s.rly.fencedNow 16
  let units := popcount s.slv.fenced 16
  match r with
  | .aonStatus =>
    s.levelNow.2 * 2 ^ 28 + b2n s.flt.safe * 2 ^ 26 +
      b2n (decide (failed / 2 ≠ 0 ∨ hosts ≠ 0 ∨ quads ≠ 0 ∨ lanes ≠ 0 ∨ units ≠ 0)) * 2 ^ 25 + s.needs * 256 + s.levelNow.1
  | .aonReset => a.holdMs * 256 + a.cause.code
  | .aonSupply => a.releases % 65536 * 65536 + Config.measure 0x8 s.now % 65536
  | .aonTemp => Config.measure 0xC s.now % 65536
  | .aonEvents => a.brownouts * 65536 + b2n a.lowVin * 4 + b2n a.levelDown * 2 + b2n a.levelUp
  | .aonHealth => failed * 2 ^ 28 + hosts * 2 ^ 26 + quads * 2 ^ 21 + lanes * 65536 + units * 2048 + a.coreFail % 256
  | .aonBoot => a.skipped * 65536 + a.pslot * 256 + a.link * 16 + a.pstatus
  | .aonSerial => s.serialNo
  | .memStat =>
    failed * 65536 + (maskIf 4 fun c => (s.chan c).trained) * 256 + b2n a.zeroed * 16 +
      b2n (decide (a.phase = .training ∨ a.phase = .zeroing))
  | .memChan => (s.chan i).ue * 65536 + (s.chan i).ce
  | _ => 0

/-- The read-only, event and measured fields of a register, whatever its width. Log 10 (DESIGN CHOICE). -/
def State.roValue (s : State) (p : RegAt) : Nat :=
  match p.reg.info.base / 0x10000 with
  | 0 => s.aonRo p.reg p.i
  | 1 => s.tkRo p.reg
  | 2 => s.hlRo p.reg p.i
  | 6 => s.placeRo p.reg p.i
  | 7 => s.placeRo p.reg p.i
  | 8 => s.trkRo p.reg p.i
  | 9 => s.rlyRo p.reg p.i
  | 10 => s.laneRo p.reg p.i p.j
  | 11 => s.unitRo p.reg p.i
  | 12 => s.unitRo p.reg p.i
  | 13 => s.actRo p.reg p.i
  | 15 => s.fltRo p.reg p.i
  | 16 => s.aonRo p.reg p.i
  | _ => s.sensorRo p.reg p.i p.j

/-- The current value of the word at an offset of setup space: its stored fields and the others (R16); an unlisted offset reads
0 (R20). -/
def State.readWord (s : State) (off : Nat) : Word :=
  match regAt off with
  | some p => s.regW off ||| BitVec.ofNat 32 (s.roValue p >>> (32 * p.word))
  | none => 0

/-- An offset is the low half of a 64-bit register. -/
def isLow (off : Nat) : Bool := (regAt off).elim false fun p => decide (p.reg.info.width = 64) && decide (p.word = 0)
/-- An offset is the high half of a 64-bit register. -/
def isHigh (off : Nat) : Bool := (regAt off).elim false fun p => decide (p.reg.info.width = 64) && decide (p.word = 1)

/-- A host READ of one word: the low half of a 64-bit register latches the high half, and the next read of the high half returns
the latched value (R15). Log 16 (DEDUCED). -/
def State.hostRead (s : State) (off : Nat) : Word × State :=
  if isLow off then (s.readWord off, { s with latchHi := Tab.set off (s.readWord (off + 4)) s.latchHi })
  else if isHigh off then
    match s.latchHi.find? (fun x => decide (x.1 = off - 4)) with
    | some x => (x.2, { s with latchHi := Tab.erase (off - 4) s.latchHi })
    | none => (s.readWord off, s)
  else (s.readWord off, s)

end Sys2Proof.Machine
end

