-- ==== Sys2Proof/Machine/ResetTake.lean ====
section
/-! DEFINITION. Taking reset (15_startup.md R531 to R534): what every reset but a power-on keeps. -/

namespace Sys2Proof.Machine

open Sys2Proof

/-- The ACT.n.CFG words that keep a SAFE level through a reset; every other field is at its reset value (00_scope.md R19,
11_actuation.md R433). -/
def State.safeRegs (s : State) : Tab Word :=
  ((upTo 32).filter fun n => s.actCfg_SAFE n).map fun n =>
    (Reg.off .actCfg n 0, resetWord (Reg.off .actCfg n 0) ||| 16)

/-- What the always-on island and the non-volatile memory keep through a reset. Log 144 (DEDUCED). -/
def Aon.kept (a : Aon) : Aon :=
  { phase := .held
    supply := a.supply
    resetN := a.resetN
    pressed := a.pressed
    swRun := a.swRun
    heldCause := a.heldCause
    heldAt := a.heldAt
    rail := a.rail
    powerGood := a.powerGood
    sag := a.sag
    releases := a.releases
    brownouts := a.brownouts
    chans := a.chans.map fun c => (c.1, { saved := c.2.saved })
    lastRate := a.lastRate
    trial := a.trial
    otpOk := a.otpOk
    slots := a.slots
    boot := a.boot
    slotWrites := a.slotWrites
    linkKey := a.linkKey
    keyBad := a.keyBad }

/-- The place of a cause in the list of R531: of two taken in one cycle, the first listed is recorded (R533, R552). -/
def Cause.rank : Cause → Nat
  | .resetN => 1
  | .button => 2
  | .software => 3
  | .powerOn | .brownout | .overvolt | .thermal => 0

/-- The levels at the CAP pins, which reset leaves (R534). -/
def State.capPins (s : State) : Tab Cap := (upTo 32).filterMap fun n => if (s.cap n).pin then some (n, { pin := true }) else none

/-- The levels of the encoder lines, which reset leaves (R534). -/
def State.encPins (s : State) : Tab Enc :=
  (upTo 8).map fun n => let x := (s.enc n).atPins; (n, { a := x.a, b := x.b, z := x.z })

/-- Reset is taken, from a source that begins it now: every island but the always-on one is held in reset. While reset is already
held nothing changes, but that a source listed earlier that is taken in the same cycle is its CAUSE. Log 144 (DEDUCED). -/
def State.takeReset (s : State) (c : Cause) : State :=
  if s.aon.phase = .held then
    (if s.aon.heldAt = s.now ∧ c.rank < s.aon.heldCause.rank then s.modAon fun a => { a with heldCause := c } else s)
  else
    { State.reset with
      pending := s.pending
      out := s.out
      freeCtr := s.freeCtr
      now := s.now
      regs := s.safeRegs
      flt := { alive := s.flt.alive, aliveAt := s.flt.aliveAt }
      tk := { caps := s.capPins }
      ing := { enc := s.encPins }
      aon := { s.aon.kept with heldCause := c, heldAt := s.now } }

end Sys2Proof.Machine
end

