-- ==== Sys2Proof/Machine/RegWrite.lean ====
section
/-! DEFINITION. Writing setup registers (00_scope.md R14 to R16, 01_line.md R47, R51, R52): the legal ranges that other fields
set, what changes only while an engine is idle, and what a write does to the unit. -/

namespace Sys2Proof.Machine

open Sys2Proof

/-! ### Whole registers -/

/-- The stored value of a register of up to 128 bits. -/
def State.regFull (s : State) (r : Reg) (i j : Nat) : Nat :=
  (upTo (r.info.width / 32)).foldl (fun v k => v + 2 ^ (32 * k) * (s.regW (r.off i j + 4 * k)).toNat) 0

/-- The state with a stored word; one at its reset value is not listed. -/
def State.setWord (s : State) (off : Nat) (v : Word) : State :=
  { s with regs := if v = resetWord off then Tab.erase off s.regs else Tab.set off v s.regs }

/-- The state with the stored value of a register. -/
def State.setRegFull (s : State) (r : Reg) (i j v : Nat) : State :=
  eachOf (upTo (r.info.width / 32)) (fun k s => s.setWord (r.off i j + 4 * k) (BitVec.ofNat 32 (v >>> (32 * k)))) s

/-! ### Legal ranges (01_line.md R47) -/

/-- The sum of `f` over instances other than `i`. -/
def others (count i : Nat) (f : Nat → Nat) : Nat := (((upTo count).filter fun k => decide (k ≠ i)).map f).foldl (· + ·) 0

/-- A value clamped to an interval from 0, then rounded down to a grid. -/
def onGrid (max step v : Nat) : Nat := min max v / step * step

/-- A field whose range another field or the register's own rule sets, brought into that range; `hi` is its top bit and `old` the
value before the write. Log 15 (DEDUCED). -/
def State.depClamp (s : State) (r : Reg) (i hi old v : Nat) : Nat :=
  match r with
  | .tkCtrl =>
    let as := decide (s.tkCtrl_SOURCE = 2)
    if hi = 7 then (if as then 1 else v) else if as then 0 else if hi = 9 ∧ 2 < v then 0 else v
  | .tkLockCfg => clampN 10 (min 100000 s.tkFsLimit_LIMIT_NS) v
  | .hlCtrl => if v = 0 then old else v
  | .hlRingCfg => if i < 32 then clampN 32 47 v else 0
  | .hlRingBase => v / entryBytes i * entryBytes i
  | .hlRingDbaddr => v / 8 * 8
  | .hlRingDiaddr => v / 8 * 8
  | .sspCtrl => min v (if i % 4 = 0 then 2 else if i % 4 = 2 then 1 else 0)
  | .sspPocxp =>
    if hi = 8 then min v (min 26 (120 - others 16 i s.sspPocxp_BUDGET)) else if s.sspPocxp_BUDGET i = 0 then 0 else v
  | .sspTrigPitch => max v (if s.sspTrigCfg_MODE i = 1 then (if s.sspCtrl_HS_UPLINK i then 1000 else 2000) else 16)
  | .senStreamGroup4 => if 0xE0000000 ≤ v ∧ v ≤ 0xEFFFFFFF then v else 0
  | .panStreamCfg => clampN 1 (min 64 (512 - s.panStreamCfg_XBASE i)) v
  | .trkOutBase => onGrid (dramSize - s.trkOutSize_OUT_SIZE * 65536) 4096 v
  | .trkOutSize => clampN 1 1024 v
  | .trkJbase => onGrid (dramSize - s.trkJsize_JSIZE * 1048576) 1048576 v
  | .trkClassCfg => min v (min (if s.trkClassCfg_MODE i then 16 else 256) (256 - others 16 i s.trkClassCfg_CAP))
  | .trkClassLife => clampN 1 (s.trkClassLife_BIRTH_N i) v
  | .trkClassRepeat => if v = 0 then 0 else clampN 1600 160000000 v
  | .rlyLanes => if v = 0 then 0xFFFF else v
  | .slvUnits => if v = 0 then 0xFFFF else v
  | .kvpPtBase => onGrid 0x7F8000000 0x8000000 v
  | .kvpCacheSeqs => min v (4096 - others 4 i s.kvpCacheSeqs_NSEQ)
  | .kvpCacheNpages =>
    min v (min 262144 ((0x100000000 - others 4 i fun k => s.kvpCacheNpages_NPAGES k * s.kvPb k) / s.kvPb i))
  | .kvpCacheBase => onGrid (dramSize - s.kvpCacheNpages_NPAGES i * s.kvPb i) (s.kvPb i) v
  | .slvRefuseBase => onGrid 0x7FFFFFFC0 64 v
  | .actWidth => clampN (if i < 16 then 10000 else 20) 100000000 v
  | .actHold => if i < 16 then v else 0
  | .iocSlotCfg =>
    if hi = 13 then min v (512 - others 48 i fun k => if s.iocSlotCfg_EN k then s.iocSlotCfg_DEPTH k else 0)
    else if s.iocSlotCfg_DEPTH i = 0 then 0
    else v
  | _ => v

/-- A value brought into the range of a field that depends on no other. -/
def Field.take (f : Field) (v : Nat) : Nat :=
  let w := f.hi + 1 - f.lo
  match f.range with
  | .any => v
  | .dep => v
  | .span lo hi => clampN lo hi v
  | .sspan lo hi => wrapU w (clampI lo hi (signed w v))
  | .codes l => if l.contains v then v else f.reset

/-! ### Idle-only fields (01_line.md R52) -/

/-- The condition that an idle-only field of a register names holds. Log 15 (DEDUCED). -/
def State.idleOk (s : State) (r : Reg) (i j : Nat) : Bool :=
  match r with
  | .tkCtrl => decide (s.tkCtrl_SOURCE = 0)
  | .tkEra => decide (s.tkCtrl_SOURCE = 0)
  | .tkCapCfg => !s.tkCapCfg_EN i
  | .hlRingCfg => !s.hlRingCfg_EN i
  | .hlRingBase => !s.hlRingCfg_EN i
  | .hlRingDbaddr => !s.hlRingCfg_EN i
  | .hlRingDiaddr => !s.hlRingCfg_EN i
  | .hlRingGen => !s.hlRingCfg_EN i
  | .sspCtrl => !s.sspCtrl_EN i
  | .senStreamCfg => !s.senStreamCfg_EN i j
  | .mpEncCfg => !s.mpEncCfg_EN i
  | .mpSpiCfg => !s.mpSpiCfg_EN i
  | .motCtrl => !s.motCtrl_EN i
  | .motOrigin => !s.motCtrl_EN i
  | .panCtrl => !s.panCtrl_EN
  | .panFrameCfg => !s.panFrameCfg_EN i
  | .panFrameBandLen => !s.panFrameCfg_EN i
  | .panFrameBandOrigin => !s.panFrameCfg_EN i
  | .panStreamCfg => !s.panStreamCfg_EN i
  | .trkOutBase => !s.trkCtrl_EN
  | .trkOutSize => !s.trkCtrl_EN
  | .trkJbase => !s.trkCtrl_EN
  | .trkJsize => !s.trkCtrl_EN
  | .trkClassCfg => !s.trkCtrl_EN
  | .rlyBrkCtrl => !s.rly.prog.stopA && !s.rly.prog.stopE && decide (s.rly.prog.hit ≠ i + 1)
  | .rlyBrkCount => !s.rly.prog.stopA && !s.rly.prog.stopE && decide (s.rly.prog.hit ≠ i + 1)
  | .kvpPtBase => !s.kvpCtrl_EN
  | .kvpCacheCfg => !s.kvpCtrl_EN
  | .kvpCacheSeqs => !s.kvpCtrl_EN
  | .kvpCacheBase => !s.kvpCtrl_EN
  | .kvpCacheNpages => !s.kvpCtrl_EN
  | .slvRefuseBase => !s.slvCtrl_EN
  | .actExp => !s.actCfg_EN i
  | .actExpPitch => !s.actCfg_EN i
  | .actExpPhase => !s.actCfg_EN i
  | .actExpOff => !s.actCfg_EN i
  | .iocSlotCfg => !s.iocSlotCfg_EN i
  | _ => true

/-! ### Storing a value -/

/-- The stored value of a register after `v` is written, before dependent ranges: every field that is read and written takes its
bits, but an idle-only one whose condition does not hold keeps its own. -/
def State.fieldsOf (s : State) (r : Reg) (i j old v : Nat) : Nat :=
  r.info.fields.foldl (fun a f =>
    if f.acc ≠ .rw then a
    else if f.idle && !s.idleOk r i j then a
    else putBits a f.hi f.lo (f.take (bits v f.hi f.lo))) old

/-- The dependent fields of a register brought into their ranges, from high bits to low; `old` is its value before the write.
Log 15 (DEDUCED). -/
def State.refix (s : State) (r : Reg) (i j old : Nat) : State :=
  eachOf (r.info.fields.filter fun f => decide (f.range = .dep))
    (fun f s =>
      let v := s.regFull r i j
      s.setRegFull r i j (putBits v f.hi f.lo (s.depClamp r i f.hi (bits old f.hi f.lo) (bits v f.hi f.lo)))) s

/-- The registers whose fields depend on fields of a register, by number. Log 15 (DEDUCED). -/
def dependents (r : Reg) (i : Nat) : List (Reg × Nat) :=
  match r with
  | .tkFsLimit => [(.tkLockCfg, 0)]
  | .sspCtrl => [(.sspTrigPitch, i)]
  | .sspTrigCfg => [(.sspTrigPitch, i)]
  | .trkOutSize => [(.trkOutBase, 0)]
  | .trkJsize => [(.trkJbase, 0)]
  | .kvpCacheCfg => [(.kvpCacheNpages, i), (.kvpCacheBase, i)]
  | .kvpCacheNpages => [(.kvpCacheBase, i)]
  | .iocSlotCfg => ((upTo 48).filter fun k => decide (k ≠ i)).map fun k => (.iocSlotCfg, k)
  | _ => []

/-- A value is stored in a register: its fields come into range, then its dependent fields, then the fields that depend on it (R47,
R52). An IPv4 or IPv6 address of 128 bits is stored whole. -/
def State.storeReg (s : State) (r : Reg) (i j v : Nat) : State :=
  if r = .tkEra then s
  else if r.info.width = 128 then s.setRegFull r i j v
  else
    let old := s.regFull r i j
    let s1 := (s.setRegFull r i j (s.fieldsOf r i j old v)).refix r i j old
    eachOf (dependents r i) (fun x s => s.refix x.1 x.2 0 (s.regFull x.1 x.2 0)) s1

/-! ### What a write does -/

/-- One thing when an enable goes from 0 to 1, another when it goes from 1 to 0. -/
def State.onEdge (s : State) (was is : Bool) (rise fall : State → State) : State :=
  if is && !was then rise s else if was && !is then fall s else s

/-- RLY.CTRL.EN goes from 1 to 0: an open band context ends with its credit returned, every baton ends as at an abandonment, and the
streams stop at their entry points. Log 21 (DEDUCED). -/
def State.relayOff (s : State) : State :=
  let s1 := s.rly.ctx.elim s fun c => s.bandCredit c.off
  let s2 := (s1.dropBatons fun _ => true).modRly fun r => { r with ctx := none }
  s2.restartStreams s2.rly.prog.running

/-- Which of the fenced units named fail their self-test: as told, or a free value. Log 19 (DESIGN CHOICE). -/
def State.failing (s : State) (told : Option Nat) (named : Nat) : Nat × State :=
  match told with
  | some m => (m, s)
  | none => if named = 0 then (0, s) else s.takeFree 0x32

/-- The Timekeeper's registers (02_timekeeper.md R100). -/
def State.tkWrite (s old : State) (r : Reg) (i v : Nat) : State :=
  match r with
  | .tkCtrl =>
    let s1 := s.tkSourceWrite old.tkCtrl_SOURCE s.tkCtrl_SOURCE
    match s1.tk.rx with
    | some p => if s1.rxEnabled p then s1 else if s1.bestForeign.isSome then s1.choose else s1.noParent
    | none => s1
  | .tkEvents =>
    s.modTk fun k => { k with events := k.events &&& (0x7F ^^^ maskIf 7 fun i => s.clears k.eventAt i v) }
  | .tkAcceptStep => if bit v 0 then s.tkAccept else s
  | .tkSetTime => if old.tkCtrl_SOURCE = 0 then s.tkSetTime (BitVec.ofNat 64 v) else s
  | .tkEra => if old.tkCtrl_SOURCE = 0 then s.tkEraWrite (v % 65536) else s
  | .tkCapCfg =>
    let s1 := s.onEdge (old.tkCapCfg_EN i) (s.tkCapCfg_EN i) (fun s => s.capOn i) fun s => s.capOff i
    if old.tkCapCfg_SLOT i = s.tkCapCfg_SLOT i then s1 else (s1.capSlot (old.tkCapCfg_SLOT i)).capSlot (s.tkCapCfg_SLOT i)
  | .tkCapStall => s.capStallWrite old i
  | _ => s

/-- The sensor side's registers (03_sensor_ports.md R152). -/
def State.sensorWrite (s old : State) (r : Reg) (i j v : Nat) : State :=
  match r with
  | .sspCtrl =>
    let s1 := s.sspRegroup (i / 4) ((quadPorts (i / 4)).filter fun k => old.sspLive k)
    if old.sspLive i && s.sspLive i && decide (old.sspCtrl_MAX_RATE i ≠ s.sspCtrl_MAX_RATE i) then s1.quadSettle (i / 4) else s1
  | .sspPocxp => s.onEdge (old.sspPocxp_EN i) (s.sspPocxp_EN i) (fun s => s.pocxpEnable i true) fun s => s.pocxpEnable i false
  | .sspTrigCfg => s.trigWrite old i
  | .senCtrl =>
    let s1 := s.onEdge (old.senCtrl_EN i) (s.senCtrl_EN i) (fun s => s.senOn i) fun s => s.senOff i
    if old.senCtrl_EN i && s.senCtrl_EN i && decide (old.senCtrl_SPEED i ≠ s.senCtrl_SPEED i) then s1.quadSettle 4 else s1
  | .senStreamCfg =>
    if s.senCtrl_EN i then
      s.onEdge (old.senStreamCfg_EN i j) (s.senStreamCfg_EN i j) (fun s => s.streamOn i j) fun s => s.streamOff i j
    else s
  | .mpEncCfg => s.onEdge (old.mpEncCfg_EN i) (s.mpEncCfg_EN i) (fun s => s.encOn i) fun s => s.encOff i
  | .mpEncStall => s.encStallWrite old i
  | .mpSpiCfg => s.onEdge (old.mpSpiCfg_EN i) (s.mpSpiCfg_EN i) (fun s => s.spiOn i) fun s => s.spiOff i
  | .mpSpiStall =>
    s.onEdge (old.mpSpiStall_EN i) (s.mpSpiStall_EN i) (fun s => s.modSpi i fun x => { x with stallAt := s.now }) fun s => s
  | .mpI2cCfg => s.onEdge (old.mpI2cCfg_EN i) (s.mpI2cCfg_EN i) (fun s => s.i2cOn i) fun s => s.i2cOff i
  | .mpI2cCtrl => if bit v 0 then s.i2cReenable i else s
  | .iocSlotCfg =>
    let s1 := s.onEdge (old.iocSlotCfg_EN i) (s.iocSlotCfg_EN i) (fun s => s.slotOn i) fun s => s.slotOff i
    s1.onEdge (old.iocSlotCfg_STALL_EN i) (s.iocSlotCfg_STALL_EN i) (fun s => s.modSlot i fun x => { x with stallAt := s.now }) fun s => s
  | .iocQuadRetry => s.quadRetry v
  | .iocAccI2cCfg => s.onEdge old.iocAccI2cCfg_EN s.iocAccI2cCfg_EN (fun s => s.i2cOn 8) fun s => s.i2cOff 8
  | .iocAccI2cCtrl => if bit v 0 then s.i2cReenable 8 else s
  | _ => s

/-- The registers of the line's engines (04_motion_pan.md R192, 06_aurik_machine.md R265, 09_solver.md R366, 10_programs.md R398,
11_actuation.md R433). -/
def State.engineWrite (s old : State) (r : Reg) (i v : Nat) (told : Option Nat) : State :=
  match r with
  | .motCtrl => s.onEdge (old.motCtrl_EN i) (s.motCtrl_EN i) (fun s => s.motOn i) fun s => s.motOff i
  | .panFrameCfg => s.onEdge (old.panFrameCfg_EN i) (s.panFrameCfg_EN i) (fun s => s.panFrameOn i) fun s => (s.panFrameOff i).fenceOff i
  | .panStreamCfg => s.onEdge (old.panStreamCfg_EN i) (s.panStreamCfg_EN i) (fun s => s.panStreamOn i) fun s => s.panStreamOff i
  | .rlyCtrl => s.onEdge old.rlyCtrl_EN s.rlyCtrl_EN (fun s => s) fun s => s.relayOff.switchIdle
  | .rlyLanes =>
    let m := bits v 31 16
    let f := s.failing told (m &&& s.rly.fencedNow)
    f.2.laneSelfTest m f.1
  | .rlyProg => if bit v 0 then s.abortExchange else s
  | .rlyDbgCmd => s.dbgCmd (BitVec.ofNat 32 v)
  | .slvUnits =>
    let m := bits v 31 16
    let f := s.failing told (m &&& s.slv.fenced)
    f.2.unitSelfTest m f.1
  | .actCtrl =>
    let s1 := s.onEdge old.actCtrl_EN s.actCtrl_EN (fun s => s.unitOn) fun s => s.unitOff
    if bit v 1 then s1.actResume else s1
  | .actLstop => (if bit v 8 then s.actRelease else s).lineHold
  | .actCfg => s.onEdge (old.actCfg_EN i) (s.actCfg_EN i) (fun s => s.outputOn i) fun s => s.clearOutput i
  | _ => s

/-- The registers of the Host Link, the Fault Collector and the always-on island (13_rings.md R503, 14_faults.md R527,
15_startup.md R556). A software reset and a change of a host port take effect after the RESP: `State.settleWrite`. -/
def State.linkWrite (s old : State) (r : Reg) (i v : Nat) : State :=
  match r with
  | .hlRingCfg => s.onEdge (old.hlRingCfg_EN i) (s.hlRingCfg_EN i) (fun s => s.ringOn i) fun s => s.ringOff i
  | .fltCtrl => if bit v 0 then s.raise true 0x94 0x5F 0xFF 0 else s
  | .aonEvents =>
    s.modAon fun a => { a with
      lowVin := a.lowVin && !s.clears a.eventAt 2 v
      levelDown := a.levelDown && !s.clears a.eventAt 1 v
      levelUp := a.levelUp && !s.clears a.eventAt 0 v }
  | .aonSwreset => if v = 0xD00D then s.modAon fun a => { a with swRun := true } else s
  | _ => s

/-- What the write of a register does to its unit; `old` is the state before the write and `v` the value written. -/
def State.regEffect (s old : State) (p : RegAt) (v : Nat) (told : Option Nat) : State :=
  match p.reg.info.base / 0x10000 with
  | 0 => s.linkWrite old p.reg p.i v
  | 1 => s.tkWrite old p.reg p.i v
  | 2 => s.linkWrite old p.reg p.i v
  | 3 => s.sensorWrite old p.reg p.i p.j v
  | 4 => s.sensorWrite old p.reg p.i p.j v
  | 5 => s.sensorWrite old p.reg p.i p.j v
  | 14 => s.sensorWrite old p.reg p.i p.j v
  | 15 => s.linkWrite old p.reg p.i v
  | _ => s.engineWrite old p.reg p.i v told

/-- The bit of AON.HEALTH.CORE_FAIL of the island that a setup block belongs to (01_line.md R28, 15_startup.md R556). Log 18 (DEDUCED). -/
def coreBit (block : Nat) : Option Nat :=
  match block with
  | 1 => some 0
  | 6 => some 1
  | 13 => some 2
  | 7 => some 3
  | 8 => some 4
  | 9 => some 5
  | 11 => some 6
  | 12 => some 7
  | _ => none

/-- The setup block belongs to a core island that failed its self-test and so stays in reset (15_startup.md R548). Log 18 (DEDUCED). -/
def State.inResetBlock (s : State) (off : Nat) : Bool := (coreBit (off / 0x10000)).elim false fun b => !s.coreOk b

/-- A 32-bit word written to an offset of setup space; a core island that stays in reset takes none. The words of a wider register
but the last are held, and all take effect when the last one is written, a word not written since reset at its reset value
(00_scope.md R15, 12_imcel.md R476). -/
def State.writeRegWith (s : State) (told : Option Nat) (off : Nat) (v : Word) : State :=
  if s.aon.phase = .held ∨ s.inResetBlock off then s
  else
    match regAt off with
    | none => s
    | some p =>
      let words := p.reg.info.width / 32
      if p.word + 1 < words then { s with holdLow := Tab.set off v s.holdLow }
      else
        let base := off - 4 * p.word
        let low := (upTo p.word).foldl (fun n k =>
          n + 2 ^ (32 * k) * (Tab.get (resetWord (base + 4 * k)) (base + 4 * k) s.holdLow).toNat) 0
        let full := low + 2 ^ (32 * p.word) * v.toNat
        ((s.storeReg p.reg p.i p.j full).regEffect s p full told).relevel

/-- A setup register write, but for what follows a RESP. Log 17 (DESIGN CHOICE). -/
def State.writeReg (s : State) (off : Nat) (v : Word) : State := s.writeRegWith none off v

/-- What follows the RESP of a write, from the state before it: host ports settle, a software reset is taken (12_imcel.md R471,
15_startup.md R532). Log 16 (DEDUCED). -/
def State.settleWrite (s old : State) : State :=
  let s1 := if s.portsStarted then s.portsFollow old else s
  if s1.aon.swRun && !old.aon.swRun then s1.takeReset .software else s1

/-- A setup register write by the line host, whole. Log 18 (DEDUCED), 22 (DEDUCED). -/
def State.hostWrite (s : State) (told : Option Nat) (off : Nat) (v : Word) : State := (s.writeRegWith told off v).settleWrite s

end Sys2Proof.Machine
end

