-- ==== Sys2Proof/Machine/Safe.lean ====
section
/-! DEFINITION. The safe state: what every unit does when it is entered, and what a unit does after its own fatal code
(14_faults.md R513 to R516). -/

namespace Sys2Proof.Machine

open Sys2Proof

/-! ### Records (R513) -/

/-- A record of the Fault Collector. -/
def State.fltRecord (s : State) (type : Nat) (time : DT64) (body : List Byte) : State :=
  s.report s.fltReport_EN s.fltReport_RING (mkRec type 0x5F (fLAST + flagIf s.tunc fTUNC) 0 time body)

/-- SAFE_STATE: 1 entry, 0 release. -/
def State.safeRecord (s : State) (entry : Bool) (time : DT64) : State :=
  s.fltRecord 0x79 time (by1 (b2n entry) ++ by1 s.flt.cause ++ zeros 2 ++ by4 s.flt.safeSerial.toNat)

/-! ### What the units do in the safe state (R515) -/

/-- The oldest outstanding epoch of a frame is recalled on the safe-state signal path: to the Relay's epoch tracker, the Track Engine,
which undoes it, the Solver's epoch view and the Actuation Unit, and to the Pan's report ring. Log 139 (DEDUCED). -/
def State.safeRecall (s : State) (f : Nat) : State :=
  match (s.pf f).outst.head? with
  | none => s
  | some e =>
    let t := s.dev
    let s1 := (s.recallMark f e false false).report s.panReport_EN s.panReport_RING (noticeRec true e t)
    let s2 := s1.track true e
    let s3 := s2.modRly fun r => { r with sent := r.sent.filter fun x => !concerns true e x.2 }
    let n : Notice := ⟨e, t, viewNamed s2.rly.tracker e⟩
    let s4 := s3.modTrk fun k => { k with view := viewNotice k.view true e n.named }
    let s5 := eachOf ((upTo 16).filter fun c => decide (s.trkClassCfg_FRAME c = f)) (fun c s => (s.recallCls c e).2) s4
    ((s5.trkPass true e t).slvSee true n).modAct fun a => { a with notices := a.notices ++ [(true, e, a.intake.length)] }

/-- The Pan discards every band and release in its store; notices given to the Sluice stay. Log 139 (DEDUCED). -/
def State.panSafe (s : State) : State :=
  let clean (p : PanFrame) : PanFrame :=
    { p with samples := [], releases := [], dues := [], forfeit := 0, drain := none, gapBits := 0, begun := [] }
  let empty (p : PanStream) : PanStream := { p with waiting := [] }
  (s.modPan fun p => { p with
    frames := p.frames.map fun e => (e.1, clean e.2)
    streams := p.streams.map fun e => (e.1, empty e.2)
    sluice := p.sluice.filter fun t =>
      match t with
      | .band _ _ _ _ _ => false
      | _ => true
    credits := [] }).panSweep

/-- The Track Engine discards every hand-off in its intake, every absorbed batch, and the records that wait at its output.
Log 139 (DEDUCED). -/
def State.trkSafe (s : State) : State :=
  let bare (c : TrkClass) : TrkClass := { c with segs := c.segs.map fun g => { g with absorbed := [] } }
  s.modTrk fun k => { k with
    classes := k.classes.map fun e => (e.1, bare e.2)
    intake := (k.intake.map fun p => { p with hand := none }).filter fun p => decide (p.recalls ≠ [] ∨ p.seals ≠ [])
    outq := k.outq.filter fun o =>
      match o with
      | .record _ => false
      | .notice _ => true }

/-- The Relay and the Lanes stop: every queue of theirs is empty, every baton FREE, every register 0; a RETIRING program retires, and a
debug stop ends (R523). Log 139 (DEDUCED). -/
def State.relaySafe (s : State) : State :=
  let s1 := eachOf s.rly.trackq (fun t s =>
    match t with
    | .record off _ _ => s.outCredit (some off)
    | .notice _ => s) s
  let s2 := eachOf ((upTo 256).filter fun b => decide ((s.baton b).state ≠ 0)) (fun b s => s.freeBaton b) s1
  let s3 := s2.modRly fun r => { r with bandq := [], trackq := [], ctx := none }
  let s4 := if s3.rly.prog.standby = 3 then s3.retire else s3
  (s4.modProg fun p => { p with change := none, stopA := false, stopE := false, hit := 0 }).restartStreams s4.rly.prog.active

/-- Every unit takes the safe state, which a fault of code `code` has entered. Log 139 (DEDUCED), 140 (DEDUCED). -/
def State.takeSafe (s : State) (code : Nat) : State :=
  let s1 := eachOf (upTo 8) (fun f s => s.safeRecall f) s
  (((s1.panSafe.trkSafe).relaySafe).slvSafe (code % 256)).actSafe code

/-! ### A unit's own fatal code (R515) -/

/-- The Timekeeper restarts in FREE; SOURCE reads FREE. -/
def State.tkFatal (s : State) : State := (s.setRegFull .tkCtrl 0 0 (putBits (s.regFull .tkCtrl 0 0) 1 0 0)).tkRestart

/-- Every enabled frame restarts with a first tick. -/
def State.motFatal (s : State) : State :=
  eachOf (upTo 8) (fun f s => if (s.motion f).enabled then s.modMotion f fun m => { m with first := true } else s) s

/-- Every session is lost, every ring disabled. -/
def State.hlFatal (s : State) : State :=
  let s1 := eachOf ((upTo 8).filter fun i => (s.sess i).isOpen) (fun i s => s.sessLost i) s
  eachOf ((upTo 64).filter fun r => s.hlRingCfg_EN r) (fun r s =>
    (s.setRegFull .hlRingCfg r 0 (putBits (s.regFull .hlRingCfg r 0) 31 31 0)).ringOff r) s1

/-- The actions of the unit that a range of codes belongs to, after its own fatal code; a class cleared is announced as in 05_track.md
R215. Log 137 (DEDUCED). -/
def State.unitFatal (s : State) (range : Nat) : State :=
  match range with
  | 0 => s.tkFatal
  | 1 => s.motFatal
  | 2 => eachOf (upTo 16) (fun c s => (s.clsClear c).clsAnnounce c) s
  | 3 => s.modRly fun r => { r with tracker := [] }
  | 4 => s.kvClearAll
  | 5 => s.modSlv fun v => { v with view := [] }
  | 7 => s.hlFatal
  | _ => s

/-- The unit, by the range of R504, of a silent core island that ISLAND_TIMEOUT names by its SOURCE. -/
def islandRange (source : Nat) : Nat :=
  if 0x30 ≤ source ∧ source ≤ 0x37 then 1
  else if source = 0x59 then 2
  else if source = 0x5A ∨ (0x60 ≤ source ∧ source ≤ 0x6F) then 3
  else if source = 0x5B then 4
  else if source = 0x5C then 5
  else if source = 0x5E then 0
  else if source = 0x70 then 7
  else 6

/-- A class F code: the actions of its unit. A Motion Estimator code lies below 0x18, a Pan code does nothing more; a Lane that caused
ISLAND_TIMEOUT is fenced, and a silent island is reset on release (R505). Log 137 (DEDUCED). -/
def State.ownFatal (s : State) (code arg : Nat) : State :=
  let s1 :=
    if code = 0x93 then
      ((if 0x60 ≤ arg ∧ arg ≤ 0x6F then s.modRly fun r => { r with
          fenced := r.fenced ||| 2 ^ (arg - 0x60), fencedAt := Tab.set (arg - 0x60) s.now r.fencedAt } else s).modFlt fun f =>
        { f with silent := (f.silent ++ [arg]).eraseDups }).unitFatal (islandRange arg)
    else if 0x18 ≤ code ∧ code ≤ 0x1F then s
    else s.unitFatal (code / 16)
  s1.relevel

/-- A silent core island is reset as the safe state is released: its unit begins again as after its own fatal code, a Pan with nothing in
its band store, an Actuation Unit with nothing in its schedule. Registers stay. Log 188 (DEDUCED). -/
def State.islandReset (s : State) (source : Nat) : State :=
  if source = 0x58 then s.panSafe
  else if source = 0x5D then s.modAct fun a => { a with entries := [], intake := [], notices := [], view := [] }
  else s.unitFatal (islandRange source)

/-- Every silent island is reset (R505). -/
def State.islandsReset (s : State) : State :=
  (eachOf s.flt.silent (fun x s => s.islandReset x) s).modFlt fun f => { f with silent := [] }

/-! ### Entry and release (R514, R517) -/

/-- The safe state is entered by a fault at device time `time`, unless it holds; a sticky one makes it sticky, and the time for
reinitialisation starts again. -/
def State.enterSafe (s : State) (code : Nat) (serial : BitVec 32) (sticky : Bool) (time : DT64) : State :=
  let s1 := s.modFlt fun f => { f with sticky := f.sticky || sticky, safeAt := s.now }
  if s.flt.safe then s1
  else
    ((s1.modFlt fun f => { f with safe := true, cause := code, safeSerial := serial, safeTime := time }).safeRecord true time).takeSafe code

/-- The conditions of R517 hold at interval time `t`. -/
def State.releasable (s : State) (t : Nat) : Bool :=
  !s.flt.sticky && decide (s.flt.unackF = 0) && decide (s.flt.safeAt + msTicks ≤ t)

end Sys2Proof.Machine
end

