-- ==== Sys2Proof/Machine/Faults.lean ====
section
/-! DEFINITION. The Fault Collector: classification and escalation, acknowledgement, the faults of the memory controller and the
always-on island, the release of the safe state, ALIVE (14_faults.md R504 to R527). -/

namespace Sys2Proof.Machine

open Sys2Proof

/-! ### Classes (R504, R505, R509, R510) -/

/-- The codes of class C. -/
def codesC : List Nat := [0x01, 0x18, 0x20, 0x30, 0x39, 0x40, 0x50, 0x60, 0x70, 0x80, 0x90]
/-- The codes of class F. -/
def codesF : List Nat := [0x04, 0x10, 0x1B, 0x24, 0x37, 0x38, 0x44, 0x55, 0x65, 0x66, 0x75, 0x82, 0x91, 0x93, 0x94]
/-- The sticky codes: SAFE_PATH, DRAM_LINK and FLT_DEAD (R514). -/
def codesSticky : List Nat := [0x66, 0x82, 0x91]

/-- The class of a code: 0 C, 1 U, 2 F; a reserved or unlisted one is U (R504). -/
def faultClass (code : Nat) : Nat := if codesC.contains code then 0 else if codesF.contains code then 2 else 1

/-- The effective class of a class, and the levels it is raised by, from the unacknowledged counts of C and U (R510). -/
def escalate (raw unackC unackU : Nat) : Nat × Nat :=
  if raw = 0 ∧ 0 < unackC then (if 0 < unackU then (2, 2) else (1, 1))
  else if raw = 1 ∧ 0 < unackU then (2, 1)
  else (raw, 0)

/-- The serial after one: 32-bit, never 0 (R510). -/
def nextSerial (x : BitVec 32) : BitVec 32 := if x + 1 = 0 then 1 else x + 1

/-- Word 0 of a log entry (R527). -/
def logWord (m : Msg) (raw cls esc : Nat) (enters : Bool) : Word :=
  BitVec.ofNat 32 (m.unit % 256 * 2 ^ 24 + m.source % 256 * 65536 + b2n m.loss * 32768 + b2n enters * 16384 + esc * 4096 + cls * 1024 +
    raw * 256 + m.code % 256)

/-- The collector counts, logs and records one message and carries out the reaction of its effective class (R509, R510, R513). The instant
of a fatal message is that of its fatal line, which it asserts as it is raised (R507, R523). -/
def State.classifyOne (s : State) (m : Msg) : State :=
  let f := s.flt
  let raw := faultClass m.code
  let (cls, esc) := escalate raw f.unackC f.unackU
  let n := nextSerial f.serial
  let time := if raw = 2 then m.dev else s.dev
  let enters := decide (cls = 2) && !f.safe
  let sticky := codesSticky.contains m.code
  let head := if f.logValid = 0 then 0 else (f.logHead + 1) % 32
  let entry : LogEntry := ⟨logWord m raw cls esc enters, n, BitVec.ofNat 32 m.arg, time⟩
  let s1 := s.modFlt fun f => { f with
    serial := n
    unackC := if cls = 0 then min 1023 (f.unackC + 1) else f.unackC
    unackU := if cls = 1 then min 1023 (f.unackU + 1) else f.unackU
    unackF := if cls = 2 then min 1023 (f.unackF + 1) else f.unackF
    latestC := if cls = 0 then n else f.latestC
    latestU := if cls = 1 then n else f.latestU
    latestF := if cls = 2 then n else f.latestF
    latestCAt := if cls = 0 then s.now else f.latestCAt
    log := Tab.set head entry f.log
    logHead := head
    logValid := min 32 (f.logValid + 1)
    counts := Tab.mod 0 (m.code % 256) (fun c => satAdd 0xFFFFFFFF c 1) f.counts
    toU := if esc ≠ 0 ∧ cls = 1 then satAdd 65535 f.toU 1 else f.toU
    toF := if esc ≠ 0 ∧ cls = 2 then satAdd 65535 f.toF 1 else f.toF }
  let s2 := s1.fltRecord 0x78 time (by1 m.code ++ by1 raw ++ by1 cls ++
    by1 (esc + 4 * b2n enters + 8 * b2n m.loss + 16 * b2n sticky) ++ by1 m.source ++ by1 m.unit ++ zeros 2 ++ by4 n.toNat ++ by4 m.arg)
  let s3 := if cls = 2 then s2.enterSafe m.code n sticky time else s2
  if raw = 2 then s3.ownFatal m.code m.arg else s3

/-- A message is classified; one with LOSS is followed by MSG_LOST of the same source and unit (R510). Once the collector is dead nothing
is classified, and a fatal line still reaches its unit (R524). -/
def State.classify (s : State) (m : Msg) : State :=
  if s.flt.dead then (if faultClass m.code = 2 then s.ownFatal m.code m.arg else s)
  else
    let s1 := s.classifyOne m
    if m.loss then s1.classifyOne ⟨0x92, m.source, m.unit, 0, false, s.now, s.dev⟩ else s1

/-- One message reaches the collector before another: raised earlier, or in one cycle of lower SOURCE, then UNIT (R510).
Log 134 (DEDUCED). -/
def Msg.before (a b : Msg) : Bool :=
  decide (a.at_ < b.at_) || (decide (a.at_ = b.at_) &&
    (decide (a.source < b.source) || (decide (a.source = b.source) && decide (a.unit < b.unit))))

/-- The message that the collector classifies next. Log 134 (DEDUCED). -/
def State.nextMsg (s : State) : Option Msg :=
  (s.flt.bufs.flatMap fun e => e.2).foldl (fun (b : Option Msg) m =>
    match b with
    | none => some m
    | some x => if m.before x then some m else b) none

/-- A message leaves its island's buffer, and carries LOSS when its island has dropped messages since it delivered one (R507).
Log 27 (DEDUCED). -/
def State.dropMsg (s : State) (m : Msg) : State :=
  s.modFlt fun f => { f with
    bufs := Tab.mod [] (islandOf m.source m.unit) (dropFirst fun x => decide (x = m)) f.bufs
    lossOf := f.lossOf.filter fun x => decide (x ≠ islandOf m.source m.unit) }

/-- A message as its island delivers it (R507). -/
def State.delivered (s : State) (m : Msg) : Msg := { m with loss := s.flt.lossOf.contains (islandOf m.source m.unit) }

/-- A message of a buffer is delivered and classified. The fatal line of a fatal one that is taken later is the same fault (R523).
Log 135 (DEDUCED). -/
def State.takeMsg (s : State) (m : Msg) : State :=
  let s1 := (s.dropMsg m).classify (s.delivered m)
  if faultClass m.code = 2 then s1.modFlt fun f => { f with lined := f.lined ++ [(m.source, m.code)] } else s1

/-- FAULT_CLASSIFY: the next message is classified (R510). A dead collector takes none but a fatal one's line (R524). -/
def execFaultClassify (s : State) : Host.Outcome State Fault Refusal :=
  .next <|
    match s.nextMsg with
    | none => s
    | some m => if s.flt.dead ∧ faultClass m.code ≠ 2 then s else s.takeMsg m

/-- Every message that waits is classified: of what falls in one instant, the messages come before what the collector does then (R523).
Log 134 (DEDUCED). -/
def State.classifyAll : Nat → State → State
  | 0, s => s
  | n + 1, s =>
    match s.nextMsg with
    | none => s
    | some m => if s.flt.dead ∧ faultClass m.code ≠ 2 then s else State.classifyAll n (s.takeMsg m)

/-- The number of messages that wait. -/
def State.msgCount (s : State) : Nat := (s.flt.bufs.flatMap fun e => e.2).length

/-- The collector has classified what has reached it (R523). -/
def State.classified (s : State) : State := State.classifyAll s.msgCount s

/-- FATAL_LINE: an island's fatal line reaches the latch: its class F message, in its buffer or coming with the line, is one fault, whose
TIME is the line's instant; the line of a fault that its message has brought already is that fault (R507, R523). Log 135 (DEDUCED). -/
def execFatalLine (dt island code unit arg : Nat) (s : State) : Host.Outcome State Fault Refusal :=
  .next <|
    let s1 := s.pass dt
    match (s1.flt.bufs.flatMap fun e => e.2).find? (fun m => decide (m.source = island ∧ faultClass m.code = 2)) with
    | some m => (s1.dropMsg m).classify { s1.delivered m with dev := s1.dev }
    | none =>
      if s1.aon.phase = .held ∨ faultClass code ≠ 2 then s1
      else if s1.flt.lined.contains (island, code) then
        s1.modFlt fun f => { f with lined := dropFirst (fun x => decide (x = (island, code))) f.lined }
      else
        let m : Msg := ⟨code % 256, island % 256, unit % 256, arg % 2 ^ 32, false, s1.now, s1.dev⟩
        (s1.dropMsg m).classify (s1.delivered m)

/-! ### Acknowledgement (R511, R512) -/

/-- AUTO_ACK: FLT.AUTO.MS after the latest class C fault, class C is acknowledged; what waits then is classified first (R523). -/
def execAutoAck (s : State) : Host.Outcome State Fault Refusal :=
  .next <|
    if s.fltAuto_MS = 0 ∨ s.flt.unackC = 0 ∨ s.flt.dead then s
    else (s.waitUntil (s.flt.latestCAt + s.fltAuto_MS * msTicks)).classified.modFlt fun f => { f with unackC := 0 }

/-- FLT_ACK: each class named is acknowledged, unless a fault of it is newer than UPTO; what waits is classified first (R523).
Log 138 (DEDUCED), 141 (DEDUCED). -/
def execFltAck (s0 : State) : Host.Outcome State Fault Refusal :=
  .next <|
    match s0.nextOp 0x40 fun _ => true with
    | none => s0
    | some o =>
      let s := s0.classified
      let f := s.flt
      let named := o.inlNat 0 1
      let upto := BitVec.ofNat 32 (o.inlNat 4 4)
      let ok (latest : BitVec 32) : Bool := !f.dead && (decide (upto = 0) || decide (0 ≤ ixSub upto latest))
      let c := bit named 0 && ok f.latestC
      let u := bit named 1 && ok f.latestU
      let x := bit named 2 && ok f.latestF
      let acked := (if c then f.unackC else 0) + (if u then f.unackU else 0) + (if x then f.unackF else 0)
      let left := b2n (bit named 0 && !c) + 2 * b2n (bit named 1 && !u) + 4 * b2n (bit named 2 && !x)
      let s1 := s.modFlt fun f => { f with
        unackC := if c then 0 else f.unackC
        unackU := if u then 0 else f.unackU
        unackF := if x then 0 else f.unackF }
      s1.complete o.ring o.didx 0 0 (by4 acked ++ by1 (min 255 s1.flt.unackC) ++ by1 (min 255 s1.flt.unackU) ++
        by1 (min 255 s1.flt.unackF) ++ by1 (left + 8 * b2n (s1.flt.safe && !s1.releasable s1.now)) ++ by4 s1.flt.serial.toNat)

/-! ### Faults of the memory controller and the always-on island (R505, R524; 15_startup.md R542) -/

/-- A core island, by its SOURCE: sensor-side and host-port islands never raise ISLAND_TIMEOUT (R508). -/
def coreIsland (source : Nat) : Bool :=
  decide (0x30 ≤ source ∧ source ≤ 0x37) || decide (0x58 ≤ source ∧ source ≤ 0x5E) || decide (0x60 ≤ source ∧ source ≤ 0x70)

/-- ISLAND_TIMEOUT: a core island is silent for 10 µs. Log 136 (DEDUCED), 150 (DESIGN CHOICE). -/
def execIslandTimeout (dt island : Nat) (s : State) : Host.Outcome State Fault Refusal :=
  .next <| if coreIsland island then (s.pass dt).raise true 0x93 0x5F 0xFF island else s.pass dt

/-- A DRAM error that the scrubber or a host READ finds: a corrected one is written back; the unit of an uncorrectable one reads 0 until it
is written. Log 14 (DEDUCED). -/
def State.dramEcc (s1 : State) (addr : Nat) (ue : Bool) : State :=
  if !s1.dramAt addr || !s1.aon.zeroed then s1
  else
    let c := addr / 0x200000000
    let count (x : Channel) : Channel :=
      if ue then { x with ue := satAdd 65535 x.ue 1 } else { x with ce := satAdd 65535 x.ce 1 }
    let s2 := (s1.modAon fun a => { a with chans := Tab.mod {} c count a.chans }).raise false (if ue then 0x81 else 0x80) 0x5F 0xE0
      (addr / 256)
    if ue then (s2.writeMem (addr / 32 * 32) (zeros 32)).modAon fun a => { a with ueUnits := a.ueUnits ++ [addr / 32] } else s2

/-- An error in the state of a KV sequence: one that cannot be corrected loses the sequence (08_attention.md R330). The word index in the
message is a free value. -/
def State.kvEcc (s0 : State) (a : Nat) (ue : Bool) : State :=
  let c := ((upTo 4).find? fun c => decide (s0.kvFirst c ≤ a) && decide (a < s0.kvFirst c + s0.kvpCacheSeqs_NSEQ c)).getD 0
  let (w, s) := s0.takeFree 0x41
  let s1 := s.raiseU (if ue then 0x41 else 0x40) 0x5B c w
  if ue then s1.kvLose c a else s1

/-- An error in Host Link memory that belongs to a session index: what `f` drops is dropped where it cannot be corrected (12_imcel.md R465).
The word index in the message is a free value. -/
def State.hlEcc (s0 : State) (i : Nat) (ue : Bool) (f : State → State) : State :=
  let (w, s) := s0.takeFree 0x71
  let s1 := s.raiseU (if ue then 0x71 else 0x70) 0x70 i w
  if ue then f s1 else s1

/-- A record of a post buffer is dropped and counted as a loss (12_imcel.md R465). -/
def State.postLost (s : State) (i k : Nat) : State :=
  match (Tab.get [] i s.hl.posts)[k]? with
  | none => s
  | some e => (s.modHl fun h => { h with posts := Tab.mod [] i (List.eraseIdx · k) h.posts }).dropPost e.ring

/-- DRAM_ERROR: an error in DRAM, or in a memory of the device that no row of its own names (R504 to R508). The link key's is always one
that its check finds: HL_KEY_UE (12_imcel.md R465). Log 14 (DEDUCED), 150 (DESIGN CHOICE), 168 (DESIGN CHOICE). -/
def execDramError (dt : Nat) (at_ : EccAt) (ue : Bool) (s : State) : Host.Outcome State Fault Refusal :=
  .next <|
    let s1 := s.pass dt
    if s1.aon.phase = .held then s1
    else
    match at_ with
    | .dram addr => s1.dramEcc addr ue
    | .collector => let (w, s2) := s1.takeFree 0x90; s2.raiseU 0x90 0x5F 0xFF w
    | .kvSeq a => s1.kvEcc a ue
    | .slvUnit u => s1.slvUnitMem u ue
    | .hlHold i k => s1.hlEcc i ue fun s => s.modSess i fun x => { x with holds := x.holds.eraseIdx k }
    | .hlPost i k => s1.hlEcc i ue fun s => s.postLost i k
    | .linkKey =>
      let (w, s2) := s1.takeFree 0x73
      (s2.raiseU 0x73 0x70 0xFF w).modAon fun a => { a with keyBad := true }

/-- DRAM_LINK_FAIL: the channel is failed until reset, and DRAM_LINK is raised (15_startup.md R542). Log 136 (DEDUCED). -/
def execDramLinkFail (dt chan : Nat) (s : State) : Host.Outcome State Fault Refusal :=
  .next <|
    let s1 := s.pass dt
    if 4 ≤ chan ∨ s1.chanFailed chan ∨ !s1.aon.zeroed then s1
    else ((s1.modAon fun a => { a with chans := Tab.mod {} chan (fun x => { x with failed := true }) a.chans }).raise true 0x82 0x5F 0xE0
      chan).relevel

/-- FLT_HEARTBEAT_MISS: 300 µs without the collector's heartbeat: the always-on island enters a sticky safe state with code FLT_DEAD, for
which no record can be issued (R524). Log 138 (DEDUCED). -/
def execFltHeartbeatMiss (s : State) : Host.Outcome State Fault Refusal :=
  .next <|
    if s.flt.dead ∨ !s.aon.sl1 then s
    else
      let s1 := s.pass (300 * usTicks)
      let was := s1.flt.safe
      let s2 := s1.modFlt fun f => { f with
        dead := true
        safe := true
        sticky := true
        cause := 0x91
        safeTime := if was then f.safeTime else s1.dev
        safeAt := s1.now }
      if was then s2 else s2.takeSafe 0x91

/-! ### ALIVE (R518) -/

/-- ALIVE_TOGGLE: 1 ms after its last edge ALIVE toggles, while its conditions hold. Log 140 (DEDUCED). -/
def execAliveToggle (s : State) : Host.Outcome State Fault Refusal :=
  .next <|
    if !s.aliveRun then s
    else
      let s1 := s.waitUntil (s.flt.aliveAt + msTicks)
      s1.modFlt fun f => { f with alive := !f.alive, aliveAt := s1.now }

/-! ### Release (R517) -/

/-- SAFE_STATE_RELEASE: once the safe state is not sticky, class F is acknowledged and 1 ms has passed, it is released: the Pan resumes
with RESUME and final releases for 1 s, and the streams start at their entry points. A fault that waits then is classified first, and
may hold the release (R523). A core island that was silent is reset (R505). Log 111 (DEDUCED), 140 (DEDUCED). -/
def execSafeStateRelease (s : State) : Host.Outcome State Fault Refusal :=
  .next <|
    if !s.flt.safe then s
    else
      let s1 := (s.waitUntil (s.flt.safeAt + msTicks)).classified
      if !s1.releasable s1.now then s
      else
        let s2 := (s1.modFlt fun f => { f with
          safe := false
          aliveAt := f.aliveAt + (s1.now - f.aliveAt) / msTicks * msTicks }).islandsReset.safeRecord false s1.dev
        let back (p : PanFrame) : PanFrame := if p.enabled then { p with resume := true, finalUntil := s1.now + 1000 * msTicks } else p
        (s2.modPan fun p => { p with frames := p.frames.map fun e => (e.1, back e.2) }).restartStreams s2.rly.prog.active

end Sys2Proof.Machine
end

