-- ==== Sys2Proof/Machine/Crypto.lean ====
section
/-! DEFINITION. HMAC-SHA-256 of FIPS 180-4 and RFC 2104, which the proofs, keys and tags of Imcel use (12_imcel.md R440, R444). -/

namespace Sys2Proof.Machine

open Sys2Proof

/-- The first 64 primes: a number below 312 is prime when no prime up to 17 divides it properly. -/
def shaPrimes : List Nat :=
  ((upTo 312).drop 2).filter fun p => [2, 3, 5, 7, 11, 13, 17].all fun d => decide (p = d) || decide (p % d ≠ 0)

/-- The largest number whose power `e` is at most `x`: `r` with the bits below `n` that it still has. -/
def rootBits (e x : Nat) : Nat → Nat → Nat
  | 0, r => r
  | n + 1, r => rootBits e x n (if (r + 2 ^ n) ^ e ≤ x then r + 2 ^ n else r)

/-- The first 32 bits of the fraction of the root `e` of a prime, from which FIPS 180-4 takes the constants of SHA-256. -/
def rootFraction (e p : Nat) : Word := BitVec.ofNat 32 (rootBits e (p * 2 ^ (32 * e)) 36 0)

/-- A word from four bytes, the first on top. -/
def beWord (l : List Byte) : Word := BitVec.ofNat 32 (leNat (l.take 4).reverse)

/-- A word as four bytes, the first on top. -/
def wordBe (w : Word) : List Byte := (by4 w.toNat).reverse

/-- The sixteen words of a block. -/
def blockWords : Nat → List Byte → List Word
  | 0, _ => []
  | n + 1, l => beWord l :: blockWords n (l.drop 4)

/-- A word rotated right by each of some amounts, all combined by exclusive or. -/
def rotXor (l : List Nat) (x : Word) : Word := l.foldl (fun y n => y ^^^ x.rotateRight n) 0

/-- The message schedule, newest word first: `n` further words. -/
def shaExtend : Nat → List Word → List Word
  | 0, l => l
  | n + 1, l =>
    let at_ (k : Nat) : Word := l.getD (k - 1) 0
    let new := at_ 16 + at_ 7 + (rotXor [7, 18] (at_ 15) ^^^ at_ 15 >>> 3) + (rotXor [17, 19] (at_ 2) ^^^ at_ 2 >>> 10)
    shaExtend n (new :: l)

/-- One round of SHA-256 on the eight working variables, in order; `kw` is the round's constant plus its word of the schedule. -/
def shaRound (v : List Word) (kw : Word) : List Word :=
  match v with
  | [a, b, c, d, e, f, g, h] =>
    let t := kw + h + rotXor [6, 11, 25] e + (g ^^^ e &&& (f ^^^ g))
    [t + rotXor [2, 13, 22] a + (a &&& b ||| c &&& (a ||| b)), a, b, c, d + t, e, f, g]
  | _ => v

/-- The hash value after a block. -/
def shaBlock (hash : List Word) (block : List Byte) : List Word :=
  let w := (shaExtend 48 (blockWords 16 block).reverse).reverse
  let rounds := List.zipWith (fun p x => rootFraction 3 p + x) shaPrimes w
  List.zipWith (· + ·) hash (rounds.foldl shaRound hash)

/-- The hash value after `n` blocks. -/
def shaBlocks : Nat → List Word → List Byte → List Word
  | 0, hash, _ => hash
  | n + 1, hash, l => shaBlocks n (shaBlock hash (l.take 64)) (l.drop 64)

/-- SHA-256 of a message. -/
def sha256 (m : List Byte) : List Byte :=
  let len := m.length
  let l := m ++ [0x80] ++ zeros ((119 - len % 64) % 64) ++ (by8 (8 * len)).reverse
  (shaBlocks (l.length / 64) ((shaPrimes.take 8).map (rootFraction 2)) l).flatMap wordBe

/-- HMAC-SHA-256 with a key of at most 64 bytes. -/
def hmac (key m : List Byte) : List Byte :=
  let k := key ++ zeros (64 - key.length)
  sha256 (k.map (fun b => b ^^^ 0x5C) ++ sha256 (k.map (fun b => b ^^^ 0x36) ++ m))

/-- h(k, m) of R440: the first 16 bytes. -/
def hmac16 (key m : List Byte) : List Byte := (hmac key m).take 16

end Sys2Proof.Machine
end

