-- ==== Sys2Proof/Machine/Rings.lean ====
section
/-! DEFINITION. Rings: doorbells, descriptor fetches, dispatch, Job Status Words, posting of records, NOP and INJECT
(13_rings.md R477 to R502). -/

namespace Sys2Proof.Machine

open Sys2Proof

/-! ### Indices (R479, R480, R495, R497) -/

/-- The device index word of a ring is posted: its own index, GEN, and for a ring the device produces into the records lost since the
previous one. -/
def State.postIndex (s : State) (r : Nat) : State :=
  let x := s.ring r
  let word := (if r < 32 then 0 else x.lossSince) * 2 ^ 48 + s.hlRingGen_GEN r * 2 ^ 32 + x.own.toNat
  (s.modRing r fun x => { x with didx := x.own, lossSince := if r < 32 then x.lossSince else 0 }).ask r .index (s.hlRingDiaddr_DIADDR r) 8
    (by8 word)

/-- Descriptors that the doorbell shows are fetched into the free staging entries: one FETCH for each contiguous run (R495). -/
def State.fetchDescs (s : State) (r : Nat) : State :=
  let x := s.ring r
  let avail := ixSub x.hidx x.own
  if !s.ringLive r || decide (32 ≤ r ∨ x.asked ≠ 0 ∨ avail ≤ 0) then s
  else
    let size := s.ringSize r
    let n := min avail.toNat (min (16 - x.staging.length) ((s.sess (s.hlRingCfg_SESSION r)).maxData / 64))
    if n = 0 then s
    else
      let i := x.own.toNat % size
      let k := min n (size - i)
      let base := s.hlRingBase_BASE r
      let s1 := (s.modRing r fun x => { x with asked := n }).ask r (.descriptors x.own k) (base + 64 * i) (64 * k) []
      if n = k then s1 else s1.ask r (.descriptors (x.own + BitVec.ofNat 32 k) (n - k)) base (64 * (n - k)) []

/-- A doorbell value is taken for a ring (R480): another generation is ignored and counted, a value not later is ignored, and one that
would give the device more than the ring's entries is clamped. Descriptors are then fetched. -/
def State.takeDoorbell (s : State) (r v : Nat) : State :=
  let x := s.ring r
  if v / 2 ^ 32 % 65536 ≠ s.hlRingGen_GEN r then s.modRing r fun x => { x with staleDb := satAdd 65535 x.staleDb 1 }
  else
    let ix := BitVec.ofNat 32 v
    if ixSub ix x.hidx ≤ 0 then s
    else
      let most := if r < 32 then x.own + BitVec.ofNat 32 (s.ringSize r) else x.own
      (s.modRing r fun x => { x with hidx := if 0 < ixSub ix most then most else ix }).fetchDescs r

/-- A record of the ring waits to be posted. -/
def State.waiting (s : State) (r : Nat) : Option PostEntry :=
  (Tab.get [] (s.hlRingCfg_SESSION r) s.hl.posts).find? fun e => decide (e.ring = r ∧ e.left = 0)

/-- The entries of a ring that a record takes. -/
def PostEntry.units (e : PostEntry) : Nat := e.data.length / entryBytes e.ring

/-- There is room for a record by the doorbell value last taken, or it was posted before and takes its entries again. -/
def State.fits (s : State) (e : PostEntry) : Bool :=
  e.idx.isSome || decide (((s.ring e.ring).own - (s.ring e.ring).hidx).toNat + e.units ≤ s.ringSize e.ring)

/-- DOORBELL_POLL: the doorbell word of a ring is fetched: of a submission ring once each poll interval, of another only while a record
waits for room (R490, R495). -/
def execDoorbellPoll (r : Nat) (s : State) : Host.Outcome State Fault Refusal :=
  .next <|
    if !s.ringLive r || !(decide (r < 32) || (s.waiting r).elim false fun e => !s.fits e) then s
    else
      let s1 := s.waitUntil ((s.ring r).pollAt + s.hlPoll_US * usTicks)
      (s1.modRing r fun x => { x with pollAt := s1.now }).ask r .doorbell (s1.hlRingDbaddr_DBADDR r) 8 []

/-- Descriptors arrive in staging, in order, one that is there already once; what is there without a break from the consumer index
on is fetched, and the device index word follows (R491, R495). -/
def State.gotDescs (s : State) (r : Nat) (idx : BitVec 32) (n : Nat) (data : List Byte) : State :=
  let new := (upTo n).map fun k => (idx + BitVec.ofNat 32 k, sub data (64 * k) 64)
  let x := s.ring r
  let staging := (x.staging.filter fun d => decide (ixSub d.1 idx < 0)) ++ new ++
    x.staging.filter fun d => decide (0 ≤ ixSub d.1 idx) && !new.any fun e => decide (e.1 = d.1)
  let own := (upTo 16).foldl (fun (o : BitVec 32) _ => if staging.any fun d => decide (d.1 = o) then o + 1 else o) x.own
  ((s.modRing r fun x => { x with staging := staging, own := own, asked := x.asked - n }).postIndex r).fetchDescs r

/-! ### Posting (R485, R488 to R490, R497) -/

/-- The pieces of a record from entry `i` on: each lies in consecutive entries and is no longer than MAX_DATA. -/
def pieces (base size eb max : Nat) : Nat → Nat → List Byte → List (Nat × List Byte)
  | 0, _, _ => []
  | fuel + 1, i, data =>
    if data = [] then []
    else
      let n := min max (eb * (size - i % size))
      (base + eb * (i % size), data.take n) :: pieces base size eb max fuel (i + n / eb) (data.drop n)

/-- A record with the count of records lost before it: completions in bytes 12 and 13, events in 16 and 17 (R485, R488). -/
def withLoss (r loss : Nat) (data : List Byte) : List Byte :=
  if r < 48 then patch data 12 (by2 loss) else if r < 56 then patch data 16 (by2 loss) else data

/-- Another record of the ring than `e` waits to be posted again. -/
def State.repostsLeft (s : State) (e : PostEntry) : Bool :=
  (Tab.get [] (s.hlRingCfg_SESSION e.ring) s.hl.posts).any fun y => decide (y.ring = e.ring ∧ y.left = 0 ∧ y.id ≠ e.id) && y.idx.isSome

/-- A record handed to the Host Link to which 01_line.md R56 applies (12_imcel.md R465). -/
def PostEntry.bad (e : PostEntry) : Bool := decide (56 ≤ e.ring) && e.idx.isNone && badHead e.data

/-- RECORD_POST: the oldest record that waits for a ring is posted, once the ring has room for it, and the device index word
follows (R490, R497). A record posted to a lost instance of the session is posted again to the same entries as it was, and the index word
follows the last of these (12_imcel.md R463). A report record without TYPE or whole header is discarded, and HL_RECORD_BAD raised (R465).
Log 195 (DEDUCED). -/
def execRecordPost (r : Nat) (s : State) : Host.Outcome State Fault Refusal :=
  .next <|
    match s.waiting r with
    | none => s
    | some e =>
      if e.bad then
        (s.modHl fun h => { h with posts := Tab.mod [] (s.hlRingCfg_SESSION r) (List.filter fun y => decide (y.id ≠ e.id)) h.posts }).raiseU
          0x74 0x70 r (u32 e.data 0)
      else if !s.ringLive r || !s.fits e || decide (r < 32) then s
      else
        let x := s.ring r
        let i := s.hlRingCfg_SESSION r
        let at_ := e.idx.getD x.own
        let data := if e.idx.isSome then e.data else withLoss r x.lossRec e.data
        let eb := entryBytes r
        let l := pieces (s.hlRingBase_BASE r) (s.ringSize r) eb (s.sess i).maxData (e.units + 1) (at_.toNat % s.ringSize r) data
        let s1 := s.modHl fun h => { h with
          posts := Tab.mod [] i (modFirst (fun y => decide (y.id = e.id)) fun y =>
            { y with data := data, idx := some at_, left := l.length }) h.posts }
        let s2 := if e.idx.isSome then s1 else s1.modRing r fun x => { x with own := x.own + BitVec.ofNat 32 e.units, lossRec := 0 }
        let s3 := eachOf l (fun p s => s.ask r (.record e.id) p.1 p.2.length p.2) s2
        if s.repostsLeft e then s3 else s3.postIndex r

/-- A piece of a record is acknowledged; the record leaves the post buffer with its last piece. -/
def State.posted (s : State) (i id : Nat) : State :=
  s.modHl fun h => { h with
    posts := Tab.mod [] i (fun b => (modFirst (fun y => decide (y.id = id)) (fun y => { y with left := y.left - 1 }) b).filter fun y =>
      !(decide (y.id = id) && decide (y.left = 0))) h.posts }

/-! ### Descriptors (R482, R491, R499) -/

/-- The operations of R482. -/
def opCodes : List Nat := [0x00, 0x01, 0x02, 0x10, 0x11, 0x18, 0x20, 0x21, 0x22, 0x23, 0x28, 0x30, 0x31, 0x38, 0x40, 0x48]

/-- The operations with a Job Status Word. Log 133 (DEDUCED). -/
def jswCodes : List Nat := [0x10, 0x11, 0x20, 0x22, 0x23, 0x48]

/-- TRIG_ONE AT brought to the horizon of R498: 60 s, or 2^31 units, ahead. -/
def State.trigHorizon (s : State) (d : List Byte) : List Byte :=
  if bit (u8 d 8) 0 then
    match s.posNow (u8 d 9 % 8) with
    | some p => if 2147483648 < wpSub (BitVec.ofNat 48 (u64 d 16)) p then patch d 16 (by8 (p + 2147483648).toNat) else d
    | none => d
  else
    let t := s.dev + BitVec.ofNat 64 (60 * 2 ^ 32)
    if 0 < dtSub (BitVec.ofNat 64 (u64 d 16)) t then patch d 16 (by8 t.toNat) else d

/-- An address aligned down to 8 bytes, and a length clamped to an interval and to the end of DRAM. -/
def clampSpan (d : List Byte) (oa ol min_ max : Nat) : List Byte :=
  let a := u64 d oa / 8 * 8
  patch (patch d oa (by8 a)) ol (by4 (min (clampN min_ max (u32 d ol)) (dramSize - a)))

/-- PAN_LOAD's fields (R178, R499). -/
def State.panLoadClamp (s : State) (d : List Byte) : List Byte :=
  let lut := bit (u8 d 32) 0
  let src := u64 d 16 / 8 * 8
  let dest := if lut then u32 d 24 / 8 * 8 else u32 d 24 / 128 * 128
  let size := if lut then 0x10000 * s.panCtrl_LUT_UNITS else 0x10000
  patch (patch (patch d 16 (by8 src)) 24 (by4 dest)) 28 (by4 (min (u32 d 28) (min (size - dest) (dramSize - src))))

/-- A descriptor with every field brought into its range (R482, R499). A Job Status Word that its operation has not, or that is not
wholly in DRAM, is none. -/
def State.clampDesc (s : State) (d0 : List Byte) : List Byte :=
  let code := if opCodes.contains (u8 d0 0) then u8 d0 0 else 0
  let a := u64 d0 8 / 64 * 64
  let keeps := jswCodes.contains code && s.inDram a 64
  let d1 := patch d0 0 (by1 code)
  let d := if keeps then (if bit (u8 d1 1) 0 then patch d1 8 (by8 a) else d1) else patch d1 1 (by1 (u8 d1 1 / 2 * 2))
  match code with
  | 0x02 => s.trigHorizon d
  | 0x10 => s.panLoadClamp d
  | 0x20 => clampSpan d 16 24 64 2105408
  | 0x22 => patch (clampSpan d 16 24 64 1048576) 28 (by1 (min 63 (u8 d 28)))
  | 0x23 => patch d 16 (by8 (u64 d 16 / 8 * 8))
  | 0x38 => patch (patch d 9 (by1 (clampN 56 63 (u8 d 9)))) 16 (if bit (u8 d 10) 0 then by8 (u64 d 16 / 8 * 8) else sub d 16 8)
  | 0x48 => clampSpan (patch d 16 (by1 (if u8 d 16 ≤ 3 then u8 d 16 else 0) ++ by1 (min 15 (u8 d 17)))) 24 32 0 0x100000
  | _ => d

/-- TOTAL of an operation's Job Status Word at dispatch (R492). -/
def State.opTotal (s : State) (d : List Byte) : Nat :=
  match u8 d 0 with
  | 0x10 => u32 d 28
  | 0x20 => u32 d 24
  | 0x22 => u32 d 24
  | 0x23 => headNprob (s.readMem (u64 d 16) 64)
  | 0x48 => u32 d 32
  | _ => 0

/-- The operations of a code that are dispatched and not done. -/
def State.opsOf (s : State) (code : Nat) : List Op := s.hl.ops.filter fun o => decide (o.code = code)

/-- The engine of a descriptor has room for it (R491; 03_sensor_ports.md R123, 09_solver.md R333, 10_programs.md R371, 11_actuation.md
R415). Log 62 (DEDUCED). -/
def State.roomFor (s : State) (d : List Byte) : Bool :=
  match u8 d 0 with
  | 0x01 => decide (((s.opsOf 1).filter fun o => decide (o.xactPort = min 24 (u16 d 2))).length < 4)
  | 0x20 => decide (s.opsOf 0x20 = [])
  | 0x22 => decide (s.opsOf 0x22 = [])
  | 0x23 =>
    let n := ((s.opsOf 0x23).filter fun o => !o.taken).length
    s.flt.safe || (decide (s.slv.intake.length + n < 32) &&
      decide ((s.slv.intake.filter fun h => h.host.isSome).length + n < s.slvHost_MAX))
  | 0x30 => s.flt.safe || decide (s.act.intake.length < 32)
  | 0x38 => s.flt.safe || !bit (u8 d 8) 0 || decide (s.act.intake.length < 32)
  | _ => true

/-- The first write of an operation's Job Status Word: all 64 bytes, CANCEL 0 (R493). -/
def State.firstJsw (s : State) (o : Op) : State :=
  match o.jsw with
  | some a => s.writeMem a (jswBytes o 0 s.dev ++ zeros 24)
  | none => s

/-- The descriptor at the head of a ring's staging area that may be dispatched: its engine has room, and with FENCE every earlier
descriptor of the ring has completed (R481, R491). -/
def State.headDesc (s : State) (r : Nat) : Option (List Byte) :=
  match (s.ring r).staging with
  | [] => none
  | (idx, d0) :: _ =>
    let d := s.clampDesc d0
    if !s.hlRingCfg_EN r || (s.ring r).stopped || decide (ixSub (s.ring r).own idx ≤ 0) || !s.roomFor d ||
        (bit (u8 d 1) 2 && s.hl.ops.any fun o => decide (o.subRing = r)) then none
    else some d

/-- The engine that a descriptor goes to, for the order of R496; a trigger generator is that of a group's master. Log 133 (DEDUCED). -/
def State.descEngine (s : State) (d : List Byte) : Nat :=
  match u8 d 0 with
  | 0x01 => 0x100 + min 24 (u16 d 2)
  | 0x02 => 0x200 + s.sspMaster (min 15 (u16 d 2))
  | 0x11 => 0x10
  | 0x21 => 0x20
  | 0x23 => 0x22
  | 0x31 => 0x30
  | 0x38 => if bit (u8 d 8) 0 then 0x30 else 0x38
  | x => x

/-- The descriptor at the head of a ring is dispatched. -/
def State.dispatchHead (s : State) (r : Nat) : State :=
  match s.headDesc r with
  | none => s
  | some d =>
    let o : Op :=
      { ring := r + 64 * (s.ring r).life
        didx := (((s.ring r).staging.head?).map fun x => x.1).getD 0
        session := s.hlRingCfg_SESSION r
        desc := d
        jsw := if bit (u8 d 1) 0 then some (u64 d 8) else none
        jstate := 0
        valid := 0
        total := s.opTotal d
        serial := 1
        started := 0
        jswAt := s.now
        taken := false
        sentAt := s.now
        busHeld := decide (u8 d 0 = 1) && s.i2cIsHeld (min 24 (u16 d 2) - 16) }
    let s1 := (s.modRing r fun x => { x with staging := x.staging.drop 1 }).firstJsw o
    (s1.modHl fun h => { h with ops := h.ops ++ [o] }).fetchDescs r

/-- DESCRIPTOR_DISPATCH: the descriptor at the head of a ring's staging area is dispatched, and before it each one at the head of a lower
ring that is ready for the same engine (R491, R496). Log 133 (DEDUCED). -/
def execDescriptorDispatch (r : Nat) (s : State) : Host.Outcome State Fault Refusal :=
  .next <|
    match s.headDesc r with
    | none => s
    | some d =>
      let before := (upTo r).filter fun k => (s.headDesc k).any fun e => decide (s.descEngine e = s.descEngine d)
      eachOf (before ++ [r]) (fun k s => s.dispatchHead k) s

/-- JSW_UPDATE: the Job Status Word of a running operation is written again, 100 µs after its latest write (R493); of two with the same ring
and index, from two lives of the ring, both are. -/
def execJswUpdate (ring : Nat) (didx : BitVec 32) (s : State) : Host.Outcome State Fault Refusal :=
  .next <|
    eachOf (s.hl.ops.filter fun o => decide (o.subRing = ring ∧ o.didx = didx ∧ o.jstate = 1) && o.jsw.isSome)
      (fun o s => (s.waitUntil (o.jswAt + 100 * usTicks)).jsw o.ring didx 0 fun o => o) s

/-- NOP_DESCRIPTOR: a NOP completes OK (R482). -/
def execNopDescriptor (s : State) : Host.Outcome State Fault Refusal :=
  .next ((s.nextOp 0 fun _ => true).elim s fun o => s.complete o.ring o.didx 0 0 [])

/-! ### INJECT (R484; 01_line.md R50, R55) -/

/-- The bytes of DRAM that follow an address without a break (15_startup.md R542). -/
def State.dramAfter (s : State) (a : Nat) : Nat :=
  if !s.dramAt a then 0
  else
    let stop := ((upTo 4).find? fun c => decide (a < c * 0x200000000) && s.chanFailed c).getD 4
    stop * 0x200000000 - a

/-- The record that an INJECT delivers, as R484 leaves it, or the REASON it is refused for. -/
def State.injected (s : State) (o : Op) : Except Nat (List Byte) :=
  let dram := bit (u8 o.desc 10) 0
  let a := o.inlNat 0 8
  let room := if dram then s.dramAfter a else 48
  if room < 16 then .error 4
  else
    let head := if dram then s.readMem a 16 else o.inl 0 16
    let len := max 2 (min (u16 head 6) (room / 8))
    let b := if dram then s.readMem a (8 * len) else o.inl 0 (8 * len)
    let type := u8 b 0
    if type = 0 ∨ (0x80 ≤ type ∧ type ≤ 0xEF) then .error 1
    else if type = 0x1E ∨ type = 0x1F then .error 2
    else if u8 b 1 ≠ 0x78 + o.session then .error 3
    else .ok (patch (patch b 3 (by1 (u8 b 3 &&& (0xFF ^^^ (fPROV + fREREL + fBAT))))) 4 (by2 0 ++ by2 len))

/-- An INJECT is refused; a discard of R55 counts in the session's statistics. -/
def State.injectRefuse (s : State) (o : Op) (reason : Nat) : State :=
  let s1 := if reason = 4 then s else s.modSess o.session fun x => { x with discards := x.discards + 1 }
  s1.complete o.ring o.didx 1 reason []

/-- INJECT_REPORT: the oldest INJECT with DEST 0 posts its record to a report ring. Log 133 (DEDUCED). -/
def execInjectReport (s : State) : Host.Outcome State Fault Refusal :=
  .next <|
    match s.nextOp 0x38 fun o => !bit (u8 o.desc 8) 0 with
    | none => s
    | some o =>
      match s.injected o with
      | .error e => s.injectRefuse o e
      | .ok b => (s.post (u8 o.desc 9) b).complete o.ring o.didx 0 0 (by2 (u16 b 6))

/-- INJECT_ACTUATION: the oldest INJECT with DEST 1 delivers its record to the Actuation Unit's intake, once it has room; in the safe
state it completes with CSTATUS 11 (14_faults.md R516). -/
def execInjectActuation (s : State) : Host.Outcome State Fault Refusal :=
  .next <|
    match s.nextOp 0x38 fun o => bit (u8 o.desc 8) 0 with
    | none => s
    | some o =>
      if s.flt.safe then s.complete o.ring o.didx 11 (s.flt.cause % 256) []
      else if 32 ≤ s.act.intake.length then s
      else
        match s.injected o with
        | .error e => s.injectRefuse o e
        | .ok b =>
          (s.modAct fun a => { a with intake := a.intake ++ [⟨intakeBytes b, none, true,
            false⟩] }).complete o.ring o.didx 0 0 (by2 (u16 b 6))

end Sys2Proof.Machine
end

