-- ==== Sys2Proof/Machine/HostLink.lean ====
section
/-! DEFINITION. Imcel: frames that arrive, admission, sessions, host requests, answers to device requests, STATUS frames and the IP
services of a host port (12_imcel.md R434 to R462). -/

namespace Sys2Proof.Machine

open Sys2Proof

/-! ### Frames that arrive (R434 to R437) -/

/-- The types that a host sends (R436). -/
def hostKinds : List Nat := [0x01, 0x03, 0x10, 0x11, 0x12, 0x13, 0x28, 0x29, 0x30, 0x31]

/-- The bytes on the wire of the Ethernet frame that carries an Imcel frame, its check included. Log 121 (DEDUCED). -/
def wireLen (peer : Peer) (f : Frame) : Nat :=
  14 + 4 * f.via.tags.length + (if peer.v6 then 40 else 20) + 8 + 24 + f.payload.length + 4

/-- A payload that its type does not allow: a WRITE whose PLEN is not 16 + LEN (R453), a NUDGE without 1 to 8 entries (R460).
Log 121 (DEDUCED). -/
def frameMisfit (f : Frame) : Bool :=
  let n := f.payload.length
  match f.kind.toNat with
  | 0x10 => decide (n ≠ 16 + u32 f.payload 8)
  | 0x30 => decide (n % 12 ≠ 0 ∨ n = 0 ∨ 96 < n)
  | _ => false

/-- A host port supports what lies around a datagram (R434): no fragment, no option, and no tag or, with VLAN_EN, one of VID. -/
def State.plain (s : State) (p : Nat) (v : Envelope) : Bool := !v.odd && (decide (v.tags = []) || decide (v.tags = s.ownTags p))

/-- A frame is sent to an own address of the port (R434, R475); IPv4 needs ADDR4. Log 192 (DEDUCED). -/
def State.toPort (s : State) (p : Nat) (peer : Peer) (v : Envelope) : Bool :=
  match v.addr with
  | some a => s.hostOwns p a
  | none => peer.v6 || decide (s.hlPAddr4_ADDR4 p ≠ 0)

/-- A frame that is discarded whatever its session (R434, R437). Log 121 (DEDUCED). -/
def State.badFrame (s : State) (p : Nat) (peer : Peer) (f : Frame) : Bool :=
  !s.plain p f.via || decide ((if s.hlPCfg_JUMBO p then 9216 else 1518) < wireLen peer f) || decide (f.magic ≠ 0x4D49) ||
    (decide (f.version ≠ 1) && decide (f.kind ≠ 0x01)) || !hostKinds.contains f.kind.toNat ||
    decide (f.plen.toNat ≠ f.payload.length) || frameMisfit f

/-- A frame is discarded and counted in HL.DROP.BADFRAME. -/
def State.countBad (s : State) : State := s.modHl fun h => { h with badFrame := satAdd 65535 h.badFrame 1 }
/-- A frame or a NUDGE entry is discarded and counted in HL.DROP.NOSESSION. -/
def State.countNoSession (s : State) : State := s.modHl fun h => { h with noSession := satAdd 65535 h.noSession 1 }
/-- A failed proof or tag is counted in HL.AUTH.FAIL. -/
def State.countAuth (s : State) : State := s.modHl fun h => { h with authFail := satAdd 65535 h.authFail 1 }

/-- A frame arrives at a host port, which takes one for an own address from SL1 on while its link is up or settles; `k` says what a frame
of type `kind` does. Log 120 (DEDUCED), 122 (DESIGN CHOICE). -/
def State.arrive (s : State) (dt p : Nat) (peer : Peer) (f : Frame) (kind : Nat) (k : State → State) : State :=
  let s1 := s.pass dt
  if !s1.aon.sl1 || !s1.portOn p || !((s1.port p).up || (s1.port p).settling) || !s1.toPort p peer f.via then s1
  else if s1.badFrame p peer f then s1.countBad
  else if f.kind.toNat ≠ kind then s1
  else k s1

/-- A frame that needs a session: `k` is given the index it names, when that is open and the TOKEN is its own (R437). -/
def State.inSession (s : State) (f : Frame) (k : Nat → State → State) : State :=
  let i := f.session.toNat
  let x := s.sess i
  if 7 < i ∨ !x.isOpen ∨ x.token ≠ f.token then s.countNoSession
  else k i (s.modSess i fun x => { x with lastFrame := s.now })

/-- The session's current port and peer (R451); timers that paused with the port it leaves resume, and pause with a settling one to which
it moves (R470). -/
def State.heard (s : State) (i p : Nat) (peer : Peer) : State :=
  s.modSess i fun x =>
    let y := if x.port ≠ p ∧ (s.port x.port).settling then x.resumed s.now else x
    { y with port := p, peer := peer, pausedFrom := if x.port = p then x.pausedFrom else s.now }

/-! ### Admission (R438 to R443) -/

/-- A text's ASCII bytes. -/
def ascii (l : List Char) : List Byte := l.map fun c => BitVec.ofNat 8 c.toNat

/-- The factory key in OTP. -/
def factoryKey : List Byte := (upTo 32).map fun i => BitVec.ofNat 8 (Config.factoryKey i)

/-- The key that a session proves itself with (R440, R443). -/
def State.proofKey (s : State) (recover : Bool) : List Byte := if recover then factoryKey else s.aon.linkKey.getD factoryKey

/-- Bytes of a pending challenge that the key formulas share. -/
def Challenge.nonces (c : Challenge) : List Byte := c.nh ++ c.nd

/-- PROOF_H (R440). -/
def Challenge.proofH (c : Challenge) (k : List Byte) (i : Nat) : List Byte :=
  hmac16 k (ascii ['I', 'M', 'C', 'E', 'L', '-', 'O', 'P', 'E', 'N'] ++ c.nonces ++ by1 i ++ by1 c.oflags ++ by4 c.hisn.toNat ++
    by4 c.disn.toNat)

/-- K_s (R440). -/
def Challenge.skey (c : Challenge) (k : List Byte) (i : Nat) : List Byte :=
  hmac k (ascii ['I', 'M', 'C', 'E', 'L', '-', 'S', 'K', 'E', 'Y'] ++ c.nonces ++ by1 i)

/-- TOKEN, eight bytes (R440). -/
def tokenBytes (ks : List Byte) : List Byte := (hmac ks (ascii ['I', 'M', 'C', 'E', 'L', '-', 'T', 'O', 'K', 'E', 'N'])).take 8

/-- PROOF_D (R440). -/
def Challenge.proofD (c : Challenge) (k token : List Byte) : List Byte :=
  hmac16 k (ascii ['I', 'M', 'C', 'E', 'L', '-', 'O', 'P', 'E', 'N', 'E', 'D'] ++ c.nonces ++ token)

/-- A REFUSE (R439, R441). -/
def State.refuse (s : State) (p : Nat) (peer : Peer) (reason i : Nat) : State :=
  s.hlFrame p peer (mkFrame 0x05 0xFF 0 0 false (by1 reason ++ by1 i))

/-- A CHALLENGE with a new device nonce, which its index holds for 1 s (R439); a pending one of the index is replaced. -/
def State.challenge (s : State) (p : Nat) (peer : Peer) (i oflags : Nat) (nh : List Byte) (hisn : BitVec 32) : State :=
  let nd := (upTo 16).map fun k => BitVec.ofNat 8 (Config.random (s.freeCtr + k))
  let disn := BitVec.ofNat 32 (Config.random (s.freeCtr + 16))
  let c : Challenge :=
    { nh := nh
      nd := nd
      oflags := oflags
      hisn := hisn
      disn := disn
      at_ := s.now
      port := p }
  let s1 := { s with freeCtr := s.freeCtr + 17 }.modSess i fun x => { x with chal := some c }
  s1.hlFrame p peer (mkFrame 0x02 0xFF 0 0 false (nd ++ by1 i ++ by1 oflags ++ by1 s.aon.keyGen ++ zeros 1 ++ by4 disn.toNat))

/-- A HELLO within the rate is answered (R441). Log 125 (DEDUCED). -/
def State.helloTo (s : State) (p : Nat) (peer : Peer) (f : Frame) : State :=
  let b := f.payload
  let want := u8 b 16
  let o := u8 b 17 % 16
  let free := (upTo 8).find? fun i => !(s.sess i).isOpen && (s.sess i).chal.isNone
  if f.version ≠ 1 then s.refuse p peer 6 0xFF
  else
    match (if want = 0xFF then free else some want) with
    | none => s.refuse p peer 1 0xFF
    | some i =>
      if 7 < i ∨ !bit s.hlPolicy_OPEN_OK i ∨ (!bit o 0 ∧ !bit s.hlPolicy_FULL_OK i) then s.refuse p peer 4 i
      else if (s.sess i).isOpen ∧ !bit o 2 then s.refuse p peer 2 i
      else s.challenge p peer i (if s.hlPCfg_JUMBO p then o else o &&& 0x0D) (sub b 0 16) (BitVec.ofNat 32 (u32 b 20))

/-- HELLO: at most 16 are answered in a second at a port (R441). -/
def execHello (dt port : Nat) (peer : Peer) (f : Frame) (s : State) : Host.Outcome State Fault Refusal :=
  .next <| s.arrive dt port peer f 0x01 fun s =>
    let x := s.port port
    if x.helloN = 0 ∨ x.helloAt + 1000 * msTicks ≤ s.now then
      (s.modPort port fun x => { x with helloAt := s.now, helloN := 1 }).helloTo port peer f
    else if x.helloN < 16 then (s.modPort port fun x => { x with helloN := x.helloN + 1 }).helloTo port peer f
    else s

/-- A session opens (R439, R442): an open instance of the index ends, and the rings bound to the index go on. Log 125 (DEDUCED). -/
def State.opened (s : State) (p : Nat) (peer : Peer) (i : Nat) (c : Challenge) (k : List Byte) : State :=
  let ks := c.skey k i
  let tok := tokenBytes ks
  let s1 := if (s.sess i).isOpen then s.sessLost i else s
  let s2 := s1.modSess i fun x => { x with
    isOpen := true
    chal := none
    slide := bit c.oflags 0
    jumbo := bit c.oflags 1
    recover := bit c.oflags 3
    key := ks
    token := BitVec.ofNat 64 (leNat tok)
    next := c.hisn
    devNext := c.disn
    port := p
    peer := peer
    window := 0
    lastFrame := s.now }
  let s3 := s2.hlFrame p peer (mkFrame 0x04 i (leNat tok) 0 false
    (tok ++ by1 i ++ by1 c.oflags ++ by2 (s2.sess i).maxData ++ zeros 4 ++ c.proofD k tok))
  eachOf ((upTo 32).filter fun r => decide (s.hlRingCfg_SESSION r = i)) (fun r s => s.fetchDescs r) s3

/-- OPEN: answered by OPENED, or by REFUSE with STALE or AUTH (R439 to R442); while the link key fails its check only a RECOVER session is
admitted (R465). Log 125 (DEDUCED). -/
def execOpenSession (dt port : Nat) (peer : Peer) (f : Frame) (s : State) : Host.Outcome State Fault Refusal :=
  .next <| s.arrive dt port peer f 0x03 fun s =>
    let b := f.payload
    let i := u8 b 32
    match (s.sess i).chal with
    | none => s.refuse port peer 5 i
    | some c =>
      if c.at_ + 1000 * msTicks ≤ s.now ∨ c.nh ≠ sub b 0 16 ∨ c.nd ≠ sub b 16 16 then s.refuse port peer 5 i
      else
        let rec_ := bit c.oflags 3
        let k := s.proofKey rec_
        if c.proofH k i ≠ sub b 44 16 ∨ (s.aon.keyBad ∧ !rec_) then s.countAuth.refuse port peer 3 i
        else if leNat (tokenBytes (c.skey k i)) = 0 then s.challenge port peer i c.oflags c.nh c.hisn
        else s.opened port peer i c k

/-- CHALLENGE_TIMEOUT: 1 s after its CHALLENGE an index that was not opened is FREE again (R439). -/
def execChallengeTimeout (ix : Nat) (s : State) : Host.Outcome State Fault Refusal :=
  .next <|
    match (s.sess ix).chal with
    | none => s
    | some c => (s.waitUntil (c.at_ + 1000 * msTicks)).modSess ix fun x => { x with chal := none }

/-! ### What a host request answers (R443, R444, R452 to R456) -/

/-- A request executed: the state after it, the STATUS, DONE and data of its RESP, and whether the RESP is cached. -/
structure Answer where
  s : State
  status : Nat
  done : Nat
  data : List Byte
  keep : Bool
  deriving DecidableEq, Repr

/-- The payload of a RESP (R456). -/
def Answer.bytes (a : Answer) : List Byte := by1 a.status ++ zeros 3 ++ by4 a.done ++ a.data

/-- The device address of an ADDR under the session's window and the bytes up to the window's end; none where a bit that must be 0 is set
(R452). -/
def Session.place (x : Session) (addr : Nat) : Option (Nat × Nat) :=
  if x.slide then (if 0x4000000 ≤ addr then none else some (x.window * 0x4000000 + addr, 0x4000000 - addr))
  else if 2 ^ 40 ≤ addr then none
  else some (addr, 2 ^ 40 - addr)

/-- An address in setup space (R27). -/
def inSetup (a : Nat) : Bool := decide (setupBase ≤ a) && decide (a < setupBase + 0x1000000)

/-- The bytes of memory that a host reads from an address up to the end of its region (R27, R30; 15_startup.md R542). -/
def State.memAfter (s : State) (a : Nat) : Nat :=
  if a < dramSize then s.dramAfter a
  else if spBase ≤ a ∧ a < spBase + 16 * spSize then spBase + 16 * spSize - a
  else if inPan a 1 then panBase + panSize - a
  else 0

/-- A WRITE (R453, R454, R469). -/
def State.answerWrite (s : State) (i : Nat) (b : List Byte) : Answer :=
  let x := s.sess i
  match x.place (u64 b 0) with
  | none => ⟨s, 0, 0, [], true⟩
  | some (a, room) =>
    if inSetup a then ⟨s, 2, 0, [], true⟩
    else
      let data := b.drop 16
      let n := min (min (clampN 1 x.maxData (u32 b 8)) data.length) (min room (s.dramAfter a))
      ⟨s.writeMem a (data.take n), 0, n, [], true⟩

/-- Words of setup space read by a host READ, each with the latch of R15. -/
def State.readWords : Nat → Nat → State → List Byte × State
  | 0, _, s => ([], s)
  | n + 1, off, s =>
    let r := s.hostRead off
    let t := State.readWords n (off + 4) r.2
    (by4 r.1.toNat ++ t.1, t.2)

/-- The uncorrectable units that a host READ meets are reported (14_faults.md R505). Log 14 (DEDUCED). -/
def State.readUe (s : State) (a n : Nat) : State :=
  eachOf (s.aon.ueUnits.filter fun u => decide (a < 32 * u + 32) && decide (32 * u < a + n)) (fun u s =>
    let c := 32 * u / 0x200000000
    (s.modAon fun x => { x with chans := Tab.mod {} c (fun y => { y with ue := satAdd 65535 y.ue 1 }) x.chans }).raiseU 0x81 0x5F 0xE0
      (32 * u / 256)) s

/-- A READ names memory, whose RESP is never cached (R447). Log 14 (DEDUCED). -/
def State.readsMem (s : State) (i : Nat) (b : List Byte) : Bool :=
  match (s.sess i).place (u64 b 0) with
  | none => false
  | some (a, _) => decide (0 < s.memAfter a)

/-- A READ (R453, R454). Log 123 (DEDUCED). -/
def State.answerRead (s : State) (i : Nat) (b : List Byte) : Answer :=
  let x := s.sess i
  let len := clampN 1 x.maxData (u32 b 8)
  match x.place (u64 b 0) with
  | none => ⟨s, 0, 0, [], true⟩
  | some (a, room) =>
    if inSetup a then
      let n := min (min 256 len) (min room (setupBase + 0x1000000 - a))
      if a % 4 ≠ 0 ∨ n % 4 ≠ 0 then ⟨s, 1, 0, [], true⟩
      else
        let r := State.readWords (n / 4) (a - setupBase) s
        ⟨r.2, 0, n, r.1, true⟩
    else
      let n := min len (min room (s.memAfter a))
      ⟨s.readUe a n, 0, n, s.readMem a n, !s.readsMem i b⟩

/-- The pairs of a REGWRITE in order (R455): STATUS, the pairs written and their values read back. Log 123 (DEDUCED). -/
def State.regPairs : Nat → List Byte → State → Answer
  | 0, _, s => ⟨s, 0, 0, [], true⟩
  | n + 1, b, s =>
    let off := u32 b 0
    if 0x1000000 ≤ off then ⟨s, 2, 0, [], true⟩
    else if off % 4 ≠ 0 then ⟨s, 1, 0, [], true⟩
    else
      let s1 := s.writeReg off (BitVec.ofNat 32 (u32 b 4))
      let t := State.regPairs n (b.drop 8) s1
      { t with done := t.done + 1, data := by4 (s1.readWord off).toNat ++ t.data }

/-- A CONFIG operation's body, TAG left off. -/
def confBody (f : Frame) : List Byte := f.payload.take (f.payload.length - 16)

/-- The header bytes of a frame with FFLAGS at 0, which the TAG covers (R435, R444). -/
def frameHeader (f : Frame) : List Byte :=
  by2 f.magic.toNat ++ by1 f.version.toNat ++ by1 f.kind.toNat ++ by1 f.session.toNat ++ zeros 1 ++ by2 f.plen.toNat ++
    by8 f.token.toNat ++ by4 f.seq.toNat ++ by4 f.reserved.toNat

/-- The TAG of a CONFIG frame matches (R444). -/
def tagOk (f : Frame) (ks : List Byte) : Bool :=
  decide (f.payload.drop (f.payload.length - 16) = hmac16 ks (frameHeader f ++ confBody f))

/-- The new link key of a KEYSET (R445). -/
def newKey (ks : List Byte) (seq : BitVec 32) (w : List Byte) : List Byte :=
  List.zipWith (fun a b => a ^^^ b) w (hmac ks (ascii ['I', 'M', 'C', 'E', 'L', '-', 'K', 'W', 'R', 'P'] ++ by4 seq.toNat))

/-- A CONFIG (R455, R456). Log 123 (DEDUCED), 126 (DEDUCED). -/
def State.answerConfig (s : State) (i : Nat) (f : Frame) : Answer :=
  let x := s.sess i
  let b := confBody f
  let n := b.length
  let bad : Answer := ⟨s, 3, 0, [], true⟩
  match u8 b 0 with
  | 1 =>
    let count := u8 b 1
    if count = 0 ∨ 64 < count ∨ n ≠ 4 + 8 * count then bad else State.regPairs count (b.drop 4) s
  | 2 =>
    if n ≠ 8 then bad
    else if !x.slide then ⟨s, 4, 0, [], true⟩
    else
      let w := min 16383 (u32 b 4)
      ⟨s.modSess i fun x => { x with window := w }, 0, 0, by4 w, true⟩
  | 3 =>
    if n ≠ 36 then bad
    else
      ⟨s.modAon fun a => { a with linkKey := some (newKey x.key f.seq (b.drop 4)), keyGen := (a.keyGen + 1) % 256, keyBad := false },
        0, 0, [], true⟩
  | 4 => if n ≠ 4 then bad else ⟨s, 0, 0, [], true⟩
  | _ => bad

/-- OP of a CONFIG. Log 122 (DESIGN CHOICE). -/
def confOp (f : Frame) : Nat := u8 (confBody f) 0

/-- A RECOVER session may make the request (R443). -/
def recoverOk (f : Frame) : Bool :=
  match f.kind.toNat with
  | 0x11 => true
  | 0x12 => decide (confOp f = 3 ∨ confOp f = 4)
  | 0x13 => true
  | _ => false

/-- A host request of a session is executed. -/
def State.answer (s : State) (i : Nat) (f : Frame) : Answer :=
  if (s.sess i).recover && !recoverOk f then ⟨s, 2, 0, [], true⟩
  else
    match f.kind.toNat with
    | 0x10 => s.answerWrite i f.payload
    | 0x11 => s.answerRead i f.payload
    | 0x12 => s.answerConfig i f
    | _ => ⟨s, 0, 0, [], true⟩

/-! ### Sequencing (R446, R447) -/

/-- A request that is next is executed: its RESP leaves, by the setup before it, and is cached; then a CLOSE closes the session, and what a
REGWRITE puts off takes effect (R450, R471). Log 22 (DEDUCED). -/
def State.runRequest (s : State) (i : Nat) (f : Frame) : State :=
  let a := s.answer i f
  let s1 := a.s.modSess i fun x => { x with
    next := f.seq + 1
    cache := ((f.seq, if a.keep then some a.bytes else none) :: x.cache).take 64 }
  let x := s1.sess i
  let s2 := s1.hlOut x.port (.frame x.port x.peer (s.wired x.port x.peer (mkFrame 0x18 i x.token.toNat f.seq false a.bytes)))
  if f.kind ≠ 0x12 then s2
  else if confOp f = 4 ∧ a.status = 0 then s2.sessLost i
  else if confOp f = 1 then s2.settleWrite s
  else s2

/-- Held requests that have become next are executed in turn. -/
def State.drain (i : Nat) : Nat → State → State
  | 0, s => s
  | n + 1, s =>
    let x := s.sess i
    if !x.isOpen then s
    else
      match x.holds.find? (fun f => decide (f.seq = x.next)) with
      | none => s
      | some f => State.drain i n ((s.modSess i fun x => { x with holds := x.holds.filter fun g => decide (g.seq ≠ f.seq) }).runRequest i f)

/-- A duplicate of an executed request (R446, R447). Log 124 (DEDUCED). -/
def State.duplicate (s : State) (i : Nat) (f : Frame) : State :=
  let s1 := s.modSess i fun x => { x with hostDup := satAdd 65535 x.hostDup 1 }
  match (s.sess i).cache.find? (fun c => decide (c.1 = f.seq)) with
  | some (_, some r) => s1.sessFrame i 0x18 f.seq true r
  | _ =>
    if f.kind = 0x11 ∧ s1.readsMem i f.payload then
      let a := s1.answer i f
      a.s.sessFrame i 0x18 f.seq false a.bytes
    else s1

/-- A host request of an open session, by its place in the sequence (R446). -/
def State.hostRequest (s : State) (i p : Nat) (peer : Peer) (f : Frame) : State :=
  let x := s.sess i
  let d := ixSub f.seq x.next
  if d = 0 then State.drain i 16 ((s.heard i p peer).runRequest i f)
  else if 0 < d ∧ d ≤ 63 then
    if x.holds.any fun g => decide (g.seq = f.seq) then s.heard i p peer
    else if 16 ≤ x.holds.length then s.modSess i fun x => { x with dropHold := satAdd 65535 x.dropHold 1 }
    else (s.heard i p peer).modSess i fun x => { x with holds := x.holds ++ [f] }
  else if -64 ≤ d ∧ d < 0 then (s.heard i p peer).duplicate i f
  else s.modSess i fun x => { x with dropStale := satAdd 65535 x.dropStale 1 }

/-- A host request of a type arrives. -/
def State.requestIn (s : State) (dt p : Nat) (peer : Peer) (f : Frame) (kind : Nat) : State :=
  s.arrive dt p peer f kind fun s => s.inSession f fun i s => s.hostRequest i p peer f

/-- A CONFIG whose OP satisfies `ops` arrives: one whose TAG does not match is discarded (R444). Log 122 (DESIGN CHOICE). -/
def State.config (s : State) (dt p : Nat) (peer : Peer) (f : Frame) (ops : Nat → Bool) : State :=
  s.arrive dt p peer f 0x12 fun s =>
    if !ops (confOp f) then s
    else s.inSession f fun i t => if tagOk f (t.sess i).key then t.hostRequest i p peer f else s.countAuth

/-- WRITE (R453, R454). -/
def execWrite (dt port : Nat) (peer : Peer) (f : Frame) (s : State) : Host.Outcome State Fault Refusal :=
  .next <| s.requestIn dt port peer f 0x10

/-- READ (R453, R454). -/
def execRead (dt port : Nat) (peer : Peer) (f : Frame) (s : State) : Host.Outcome State Fault Refusal :=
  .next <| s.requestIn dt port peer f 0x11

/-- PING (R453, R466). -/
def execPing (dt port : Nat) (peer : Peer) (f : Frame) (s : State) : Host.Outcome State Fault Refusal :=
  .next <| s.requestIn dt port peer f 0x13

/-- REGWRITE (R455), and a CONFIG of an unlisted OP, which is answered BAD_OP (R456). -/
def execRegwrite (dt port : Nat) (peer : Peer) (f : Frame) (s : State) : Host.Outcome State Fault Refusal :=
  .next <| s.config dt port peer f fun op => decide (op ≠ 2 ∧ op ≠ 3 ∧ op ≠ 4)

/-- WINDOW (R455). -/
def execWindow (dt port : Nat) (peer : Peer) (f : Frame) (s : State) : Host.Outcome State Fault Refusal :=
  .next <| s.config dt port peer f fun op => decide (op = 2)

/-- KEYSET (R445, R455). -/
def execKeyset (dt port : Nat) (peer : Peer) (f : Frame) (s : State) : Host.Outcome State Fault Refusal :=
  .next <| s.config dt port peer f fun op => decide (op = 3)

/-- CLOSE (R450, R455). -/
def execClose (dt port : Nat) (peer : Peer) (f : Frame) (s : State) : Host.Outcome State Fault Refusal :=
  .next <| s.config dt port peer f fun op => decide (op = 4)

/-! ### NUDGE and PROBE (R460, R462) -/

/-- NUDGE: its entries are taken in order, each as a doorbell word read now. Log 127 (DEDUCED). -/
def execNudge (dt port : Nat) (peer : Peer) (f : Frame) (s : State) : Host.Outcome State Fault Refusal :=
  .next <| s.arrive dt port peer f 0x30 fun s => s.inSession f fun i s =>
    eachOf (upTo (f.payload.length / 12)) (fun k s =>
      let e := sub f.payload (12 * k) 12
      let r := u8 e 8
      if 32 ≤ r ∨ !s.hlRingCfg_EN r ∨ s.hlRingCfg_SESSION r ≠ i then s.countNoSession
      else (s.modRing r fun x => { x with pollAt := s.now }).takeDoorbell r (u64 e 0)) s

/-- PROBE: answered by one STATUS, at most 10 times in a second at a port. -/
def execProbe (dt port : Nat) (peer : Peer) (f : Frame) (s : State) : Host.Outcome State Fault Refusal :=
  .next <| s.arrive dt port peer f 0x31 fun s =>
    let x := s.port port
    if x.probeN = 0 ∨ x.probeAt + 1000 * msTicks ≤ s.now then
      let s1 := s.modPort port fun x => { x with probeAt := s.now, probeN := 1 }
      s1.hlOut port (s1.statusTo port peer)
    else if x.probeN < 10 then
      let s1 := s.modPort port fun x => { x with probeN := x.probeN + 1 }
      s1.hlOut port (s1.statusTo port peer)
    else s

/-! ### Answers to device requests (R448, R458) -/

/-- A device request is answered and leaves the device window. -/
def State.answered (s : State) (i : Nat) (q : DevReq) : State :=
  s.modSess i fun x => { x with outst := x.outst.filter fun y => decide (y.seq ≠ q.seq) }

/-- A response to an outstanding device request, a FETCH or a POST as `fetches` says; `k` says what it does. A response to no such
request is discarded, and one that does not fit its request is no valid frame (R437, R450). -/
def State.response (s : State) (p : Nat) (peer : Peer) (f : Frame) (fetches : Bool) (k : Nat → DevReq → State → State) : State :=
  s.inSession f fun i t =>
    match (t.sess i).outst.find? (fun q => decide (q.seq = f.seq) && decide (q.kind.fetches = fetches)) with
    | none => t
    | some q =>
      let st := u8 f.payload 0
      let fits := decide (st = 1) || (decide (st = 0) && (!fetches || decide (u32 f.payload 4 = q.len ∧ f.payload.length = 8 + q.len)))
      if !fits then s.countBad
      else
        let s1 := (t.heard i p peer).answered i q
        (if q.dead then s1 else if st = 1 then s1.ringStop q.ring else k i q s1).pump i

/-- FDATA: a doorbell word is taken, or descriptors enter staging (13_rings.md R495). Log 128 (DEDUCED). -/
def execFdata (dt port : Nat) (peer : Peer) (f : Frame) (s : State) : Host.Outcome State Fault Refusal :=
  .next <| s.arrive dt port peer f 0x28 fun s =>
    s.response port peer f true fun _ q s =>
      match q.kind with
      | .descriptors idx n => s.gotDescs q.ring idx n (f.payload.drop 8)
      | _ => s.takeDoorbell q.ring (u64 f.payload 8)

/-- PACK: a posted piece is acknowledged (R463). Log 128 (DEDUCED). -/
def execPack (dt port : Nat) (peer : Peer) (f : Frame) (s : State) : Host.Outcome State Fault Refusal :=
  .next <| s.arrive dt port peer f 0x29 fun s =>
    s.response port peer f false fun i q s =>
      match q.kind with
      | .record id => s.posted i id
      | _ => s

/-- The instant a device request is sent again. -/
def DevReq.due (q : DevReq) : Nat := q.sentAt + q.rto * usTicks

/-- DEVICE_RETX_TIMEOUT: the outstanding request of a session that falls due first is sent again, or, after MAX_TRY times, the session is
lost (R448). Timers pause while the session's port settles (R470). -/
def execDeviceRetxTimeout (ix : Nat) (s : State) : Host.Outcome State Fault Refusal :=
  .next <|
    let x := s.sess ix
    match x.outst with
    | [] => s
    | q0 :: rest =>
      if (s.port x.port).settling then s
      else
        let q := rest.foldl (fun (b : DevReq) y => if y.due < b.due then y else b) q0
        let s1 := s.waitUntil q.due
        if s.hlRetx_MAX_TRY ≤ q.tries then s1.sessLost ix
        else
          let q1 := { q with tries := q.tries + 1, rto := min 100000 (2 * q.rto), sentAt := s1.now }
          (s1.modSess ix fun x => { x with
            outst := modFirst (fun y => decide (y.seq = q.seq)) (fun _ => q1) x.outst
            devRetx := satAdd 65535 x.devRetx 1 }).reqSend ix q1 true

/-- KEEPALIVE_EXPIRE (R450); a frame of the very instant of expiry wins (R471), so the session is lost just after it.
Log 174 (DEDUCED). -/
def execKeepaliveExpire (ix : Nat) (s : State) : Host.Outcome State Fault Refusal :=
  .next <|
    let x := s.sess ix
    if !x.isOpen then s else (s.waitUntil (x.lastFrame + s.hlKeepalive_MS * msTicks + 1)).sessLost ix

/-! ### The beacon (R462; 15_startup.md R534, R535) -/

/-- STATUS_BEACON: before SL1 the always-on island's beacon on HL.0, every 1 s, at the rate HL.0 last locked at since power-on; before a
first lock each second tries the next rate, and a frame is sent where `lock` says that the receiver finds lock at it. From SL1 on the Host
Link's, every BEACON_S seconds, on a port whose link is up. Log 132 (DEDUCED). -/
def execStatusBeacon (port : Nat) (lock : Bool) (s : State) : Host.Outcome State Fault Refusal :=
  .next <|
    if !s.aon.sl1 then
      if port ≠ 0 ∨ !s.aon.rail then s
      else
        let s1 := s.waitUntil ((s.port 0).beaconAt + 1000 * msTicks)
        let s2 := s1.modPort 0 fun x => { x with beaconAt := s1.now }
        let r := if s.aon.lastRate = 0 then s.aon.trial else s.aon.lastRate
        let s3 := if s.aon.lastRate = 0 then s2.modAon fun a => { a with trial := r % 3 + 1 } else s2
        if s.aon.lastRate = 0 ∧ !lock then s3
        else
          let s4 := (s3.modAon fun a => { a with beaconRate := r }).send (s3.statusTo 0 allNodes)
          if s2.hlPAddr4_ADDR4 0 = 0 then s4 else s4.send (s3.statusTo 0 broadcast4)
    else if s.hlCtrl_BEACON_S = 0 ∨ !s.portOn port ∨ !(s.port port).up then s
    else
      let s1 := s.waitUntil ((s.port port).beaconAt + s.hlCtrl_BEACON_S * 1000 * msTicks)
      (s1.modPort port fun x => { x with beaconAt := s1.now }).sendStatus port

/-! ### IP services (R434; 03_sensor_ports.md R128) -/

/-- A request of the IP services at a host port: one for an own address is answered; a membership query, a request in tags or options
that the port does not take, and anything else is not supported (R434). Log 55 (DESIGN CHOICE). -/
def State.hostNet (s : State) (p : Nat) (r : NetRequest) : State :=
  if !s.portOn p || !((s.port p).up || (s.port p).settling) then s
  else if !s.plain p r.via then s.countBad
  else
    match r.kind with
    | .igmp | .mld | .other => s.countBad
    | .arp | .nd | .echo4 | .echo6 =>
      if s.hostOwns p r.target then s.hlOut p (.net false p r.kind r.src r.data { tags := s.ownTags p, addr := some r.target }) else s

/-- ARP_ND_ECHO_REQUEST (R434; 03_sensor_ports.md R128). -/
def execArpNdEchoRequest (dt port : Nat) (r : NetRequest) (s : State) : Host.Outcome State Fault Refusal :=
  .next <| if r.sensor then (s.pass dt).senNet port r else (s.pass dt).hostNet port r

end Sys2Proof.Machine
end

