-- ==== Sys2Proof/Machine/Profiles.lean ====
section
/-! DEFINITION. Profiles in the non-volatile memory and the PROFILE descriptor (15_startup.md R536 to R540). -/

namespace Sys2Proof.Machine

open Sys2Proof

/-- The bytes of a profile's header and entries by its COUNT (R538). -/
def profLen (b : List Byte) : Nat := 16 + 8 * u32 b 8

/-- A profile is valid: MAGIC, VERSION, COUNT and CRC are correct (R538). -/
def profValid (b : List Byte) : Bool :=
  decide (sub b 0 4 = [0x48, 0x4A, 0x50, 0x46]) && decide (u8 b 4 = 1) && decide (1 ≤ u32 b 8) && decide (u32 b 8 ≤ 131070) &&
    decide (profLen b ≤ b.length) && decide (u32 b 12 = crc32 (b.take 12 ++ zeros 4 ++ (b.take (profLen b)).drop 16))

/-- The bytes of a profile slot; none when it is empty. -/
def State.slotBytes (s : State) (n : Nat) : List Byte := Tab.get [] n s.aon.slots

/-- ACTION of a PROFILE (R540). -/
def profAction (o : Op) : Nat := o.inlNat 0 1
/-- SLOT of a PROFILE. -/
def profSlot (o : Op) : Nat := o.inlNat 1 1
/-- ADDR of a PROFILE. -/
def profAddr (o : Op) : Nat := o.inlNat 8 8
/-- LENGTH of a PROFILE. -/
def profLength (o : Op) : Nat := o.inlNat 16 4

/-- The oldest PROFILE of an ACTION is taken up, one at a time; its Job Status Word reads RUNNING. -/
def State.profStart (s : State) (action : Nat) : State :=
  if s.hl.ops.any fun o => decide (o.code = 0x48) && o.taken then s
  else
    match s.nextOp 0x48 fun _ => true with
    | none => s
    | some o => if profAction o = action then s.jobRun o.ring o.didx o.total else s

/-- PROFILE_READ: a READ starts. -/
def execProfileRead (s : State) : Host.Outcome State Fault Refusal := .next (s.profStart 0)
/-- PROFILE_WRITE: a WRITE starts. -/
def execProfileWrite (s : State) : Host.Outcome State Fault Refusal := .next (s.profStart 1)
/-- PROFILE_ERASE: an ERASE starts. -/
def execProfileErase (s : State) : Host.Outcome State Fault Refusal := .next (s.profStart 2)
/-- PROFILE_SELECT_BOOT: a SELECT_BOOT starts. -/
def execProfileSelectBoot (s : State) : Host.Outcome State Fault Refusal := .next (s.profStart 3)

/-- What a PROFILE does: CSTATUS, REASON, the bytes transferred, and the state after it (R537, R540, R550). Log 145 (DEDUCED). -/
def State.profDo (s : State) (o : Op) : Nat × Nat × Nat × State :=
  let n := profSlot o
  let len := profLength o
  match profAction o with
  | 0 =>
    let b := s.slotBytes n
    if b = [] then (0, 0, 0, s) else (0, 0, len, s.writeMem (profAddr o) ((b ++ List.replicate (len - b.length) 0xFF).take len))
  | 1 =>
    let b := s.readMem (profAddr o) len
    if !profValid b || decide (100000 ≤ Tab.get 0 n s.aon.slotWrites) then (1, 1, 0, s)
    else
      (0, 0, len, s.modAon fun a => { a with
        slots := Tab.set n b a.slots
        slotWrites := Tab.mod 0 n (fun k => k + 1) a.slotWrites })
  | 2 => (0, 0, 0, s.modAon fun a => { a with slots := Tab.erase n a.slots, boot := if a.boot = some n then none else a.boot })
  | _ =>
    if len = 0 then (0, 0, 0, s.modAon fun a => { a with boot := none })
    else if profValid (s.slotBytes n) then (0, 0, 0, s.modAon fun a => { a with boot := some n })
    else (1, 2, 0, s)

/-- RESULT of a PROFILE (R540). -/
def State.profResult (s : State) (n done : Nat) : List Byte :=
  let b := s.slotBytes n
  by4 done ++ by1 (if b = [] then 1 else if profValid b then 0 else 2) ++ by1 (s.aon.boot.getD 0xFF) ++ zeros 2 ++ by4 (u32 b 12)

/-- PROFILE_COMPLETE: the operation that runs finishes: its change takes effect whole, and it completes (R537, R540). Log 145 (DEDUCED). -/
def execProfileComplete (s : State) : Host.Outcome State Fault Refusal :=
  .next <|
    match s.hl.ops.find? (fun o => decide (o.code = 0x48) && o.taken) with
    | none => s
    | some o =>
      let (cs, reason, done, s1) := s.profDo o
      let s2 := if done = 0 then s1 else s1.jobValid o.ring o.didx done
      s2.complete o.ring o.didx cs reason (s2.profResult (profSlot o) done)

end Sys2Proof.Machine
end

