-- ==== Sys2Proof/Machine/Power.lean ====
section
/-! DEFINITION. Supply, reset and start-up (15_startup.md R528 to R548). -/

namespace Sys2Proof.Machine

open Sys2Proof

/-! ### Supply (R528 to R530) -/

/-- An event of the supply monitor or of a reset input, which the always-on island sees while its rail is up. -/
def State.aonEvent (s : State) (dt : Nat) (f : State → State) : State :=
  let s1 := s.pass dt
  if s1.aon.rail then f s1 else s1

/-- POWER_GOOD: a power-on or a brown-out no longer holds reset; PoCXP that was cut is restored on each port that is enabled for it and has
not tripped (R528), and the sensor supplies are on (16_module.md R564). Log 143 (DEDUCED). -/
def execPowerGood (dt : Nat) (s : State) : Host.Outcome State Fault Refusal :=
  .next <| s.aonEvent dt fun s =>
    let was := s.aon.powerGood
    let s1 := s.modAon fun a => { a with
      powerGood := true
      sag := false
      supply := a.supply.filter fun c => decide (c ≠ .powerOn ∧ c ≠ .brownout) }
    if was then s1 else s1.pocxpBack

/-- LOW_VIN (R528). -/
def execLowVin (dt : Nat) (s : State) : Host.Outcome State Fault Refusal :=
  .next <| s.aonEvent dt fun s => s.modAon fun a => { a with lowVin := true, eventAt := Tab.set 2 s.now a.eventAt }

/-- POCXP_CUT: PoCXP is removed from every SSP port (R528). -/
def execPocxpCut (dt : Nat) (s : State) : Host.Outcome State Fault Refusal :=
  .next <| s.aonEvent dt fun s => (s.modAon fun a => { a with powerGood := false }).pocxpCut

/-- A supply reset: it is counted, and holds reset until its release condition (R528, R552). Log 143 (DEDUCED). -/
def State.supplyReset (s : State) (c : Cause) : State :=
  (s.modAon fun a => { a with
    brownouts := satAdd 65535 a.brownouts 1
    supply := if a.supply.contains c then a.supply else a.supply ++ [c] }).takeReset c

/-- BROWNOUT (R528): from here to power-good a high-side output is not held at a SAFE level of 1 (R530). Log 25 (DESIGN CHOICE). -/
def execBrownout (dt : Nat) (s : State) : Host.Outcome State Fault Refusal :=
  .next <| s.aonEvent dt fun s => (s.modAon fun a => { a with powerGood := false, sag := true }).supplyReset .brownout

/-- OVERVOLT (R528). -/
def execOvervolt (dt : Nat) (s : State) : Host.Outcome State Fault Refusal := .next <| s.aonEvent dt fun s => s.supplyReset .overvolt

/-- OVERTEMP (R528). Log 25 (DESIGN CHOICE). -/
def execOvertemp (dt : Nat) (s : State) : Host.Outcome State Fault Refusal := .next <| s.aonEvent dt fun s => s.supplyReset .thermal

/-- SUPPLY_RESET_RELEASE: the release conditions of the supply resets hold, power-good among them (R528). Log 143 (DEDUCED). -/
def execSupplyResetRelease (dt : Nat) (s : State) : Host.Outcome State Fault Refusal :=
  .next <| s.aonEvent dt fun s => if s.aon.powerGood then s.modAon fun a => { a with supply := [] } else s

/-- AON_POWER_LOSS: the always-on island loses its power: nothing but the non-volatile memory keeps its contents, every output is off,
LINE_STOP_N is asserted, and the next power-good starts a power-on (R529, R530). RESET_N and the button stay as they stand outside.
Log 144 (DEDUCED). -/
def execAonPowerLoss (dt : Nat) (s : State) : Host.Outcome State Fault Refusal :=
  .next <|
    let s1 := s.pass dt
    let a := s1.aon
    { State.reset with
      pending := s1.pending
      out := s1.out
      freeCtr := s1.freeCtr
      now := s1.now
      aon := {
        phase := .held
        supply := [.powerOn]
        resetN := a.resetN
        pressed := a.pressed
        heldAt := s1.now
        rail := false
        powerGood := false
        slots := a.slots
        boot := a.boot
        slotWrites := a.slotWrites
        linkKey := a.linkKey
        keyBad := a.keyBad } }

/-- AON_POWER_UP: the always-on rail comes up (16_module.md R582). -/
def execAonPowerUp (dt : Nat) (s : State) : Host.Outcome State Fault Refusal :=
  .next <|
    let s1 := s.pass dt
    if s1.aon.rail then s1 else s1.modAon fun a => { a with rail := true, heldAt := s1.now }

/-! ### Reset (R531 to R534) -/

/-- A reset input has held a new level for 10 ms: asserted, it begins a reset while the always-on island has power (R531). -/
def State.resetInput (s : State) (asserted : Bool) (c : Cause) : State := if asserted && s.aon.rail then s.takeReset c else s

/-- RESET_N_CHANGE: a new level at RESET_N, low or open for asserted, is taken (R531; 16_module.md R576). Log 144 (DEDUCED). -/
def execResetNChange (dt : Nat) (level : Bool) (s : State) : Host.Outcome State Fault Refusal :=
  .next (((s.pass dt).modAon fun a => { a with resetN := !level }).resetInput (!level) .resetN)

/-- BUTTON_CHANGE (R531). -/
def execButtonChange (dt : Nat) (pressed : Bool) (s : State) : Host.Outcome State Fault Refusal :=
  .next (((s.pass dt).modAon fun a => { a with pressed := pressed }).resetInput pressed .button)

/-- SWRESET_RELEASE: a software reset ends 10 ms after it was taken (R532). -/
def execSwresetRelease (s : State) : Host.Outcome State Fault Refusal :=
  .next <|
    if !s.aon.swRun ∨ s.aon.phase ≠ .held then s
    else (s.waitUntil (s.aon.heldAt + 10 * msTicks)).modAon fun a => { a with swRun := false }

/-- No source holds reset (R531). -/
def Aon.free (a : Aon) : Bool := decide (a.supply = []) && !a.resetN && !a.pressed && !a.swRun && a.rail

/-- RESET_RELEASE: reset is released once no source holds it: AON.RESET records it, interval time starts again, and start-up begins; with a
bad OTP the device stays at SL0 (R531, R533, R547, R553). Log 142 (DEDUCED). -/
def execResetRelease (otp : Bool) (s : State) : Host.Outcome State Fault Refusal :=
  .next <|
    if s.aon.phase ≠ .held ∨ !s.aon.free then s
    else
      let s1 := s.modAon fun a => { a with
        phase := if otp then .released else .failed
        cause := a.heldCause
        holdMs := min 0xFFFFFF ((s.now - a.heldAt) / msTicks)
        releases := if a.heldCause = .powerOn then a.releases else (a.releases + 1) % 65536
        otpOk := otp }
      ({ s1 with now := 0, tk := { caps := capsAt fun n => (s.cap n).pin } }.modFlt fun f => { f with aliveAt := 0 }).modPort 0 fun p => { p with beaconAt := 0 }

/-! ### Start-up (R536 to R539, R547) -/

/-- BOOT_IMAGE_LOADED: copy A, or B, passes its check, or neither does, and the device stays at SL0 (R536, R553). Log 145 (DEDUCED). -/
def execBootImageLoaded (dt : Nat) (image : Option Bool) (s : State) : Host.Outcome State Fault Refusal :=
  .next <|
    let s1 := s.pass dt
    if s1.aon.phase ≠ .released then s1
    else
      match image with
      | none => s1.modAon fun a => { a with phase := .failed, link := 3, linkId := 0 }
      | some copyB =>
        s1.modAon fun a => { a with
          phase := .profile
          link := b2n copyB
          linkId := BitVec.ofNat 32 (Config.imageId copyB)
          profIdx := 0
          profWait := none
          pslot := a.boot.getD 31 }

/-- A profile entry's offset lies in a block that a profile does not write (R539). Log 146 (DEDUCED). -/
def profSkips (off : Nat) : Bool := decide (off / 0x10000 = 0 ∨ off / 0x10000 = 13 ∨ off / 0x10000 = 15 ∨ 0x110000 ≤ off)

/-- Entries of the selected profile from the next one on, up to a wait or the end (R538, R539): whether the end was reached. -/
def State.profEntries (b : List Byte) : Nat → State → Bool × State
  | 0, s => (true, s)
  | n + 1, s =>
    let o := 16 + 8 * s.aon.profIdx
    let off := u32 b o
    let v := u32 b (o + 4)
    let s1 := s.modAon fun a => { a with profIdx := a.profIdx + 1 }
    if 2 ^ 31 ≤ off then (false, s1.modAon fun a => { a with profWait := some (s.now + min 100000 v * usTicks) })
    else if profSkips off then State.profEntries b n (s1.modAon fun a => { a with skipped := satAdd 65535 a.skipped 1 })
    else State.profEntries b n (if off % 4 = 0 then s1.writeReg off (BitVec.ofNat 32 v) else s1)

/-- The profile is done: the host ports settle or search, and DRAM trains (R547). -/
def State.profDone (s : State) (pstatus : Nat) : State :=
  eachOf ((upTo 2).filter fun p => s.portOn p) (fun p s => s.portStart p)
    (s.modAon fun a => { a with phase := .training, pstatus := pstatus, profWait := none })

/-- The selected profile is applied from its next entry on. Log 146 (DEDUCED). -/
def State.profApply (s : State) : State :=
  match s.aon.boot with
  | none => s.profDone 0
  | some n =>
    let b := s.slotBytes n
    if !profValid b then s.profDone 2
    else
      match State.profEntries b (u32 b 8 - s.aon.profIdx) s with
      | (true, s1) => s1.profDone 1
      | (false, s1) => s1

/-- BOOT_PROFILE_APPLY (R539). -/
def execBootProfileApply (s : State) : Host.Outcome State Fault Refusal :=
  .next <| if s.aon.phase ≠ .profile ∨ s.aon.profWait.isSome then s else s.profApply

/-- PROFILE_WAIT_EXPIRE (R538). -/
def execProfileWaitExpire (s : State) : Host.Outcome State Fault Refusal :=
  .next <|
    match s.aon.profWait with
    | none => s
    | some t => if s.aon.phase ≠ .profile then s else ((s.waitUntil t).modAon fun a => { a with profWait := none }).profApply

/-- DRAM_TRAINING_DONE: each channel is trained or failed; zeroing starts (R541, R542, R547). -/
def execDramTrainingDone (dt trained : Nat) (s : State) : Host.Outcome State Fault Refusal :=
  .next <|
    let s1 := s.pass dt
    if s1.aon.phase ≠ .training then s1
    else
      let put (c : Nat) (t : Tab Channel) : Tab Channel :=
        Tab.mod {} c (fun x => { x with trained := bit trained c, failed := !bit trained c, saved := x.saved || bit trained c }) t
      s1.modAon fun a => { a with phase := .zeroing, chans := (upTo 4).foldl (fun t c => put c t) a.chans }

/-- A core island fails its self-test: it stays in reset, with its registers (R548); the ACT block holds its SAFE levels alone by then.
Log 147 (DEDUCED). -/
def State.coreReset (s : State) (b : Nat) : State :=
  let s1 := { s with regs := s.regs.filter fun r => decide (b = 2 ∨ coreBit (r.1 / 0x10000) ≠ some b) }
  match b with
  | 0 => { s1 with tk := { caps := s.capPins } }
  | 1 => { s1 with mot := [] }
  | 2 => { s1 with act := {} }
  | 3 => { s1 with pan := {} }
  | 4 => { s1 with trk := {} }
  | 5 => { s1 with rly := {} }
  | 6 => { s1 with kvp := {} }
  | _ => { s1 with slv := {} }

/-- Every queue is empty, every baton FREE, no epoch is outstanding, and the next provisional epoch of each frame has SEQ 1
(01_line.md R57); what the boot profile has set stays. -/
def State.emptied (s : State) : State :=
  let slot (x : Slot) : Slot := { x with fifo := [], gapOpen := false, snap := none }
  let ssp (x : Ssp) : Ssp := { x with held := [], shots := [], capDue := [], stamps := [], stage := none }
  let frame (p : PanFrame) : PanFrame :=
    { p with
      samples := [], forfeit := 0, dues := [], releases := [], outst := [], lastSeq := 0, noticed := [], drain := none, gapBits := 0
      begun := [] }
  { s with
    tk := { s.tk with caps := s.tk.caps.map fun c => (c.1,
      { c.2 with cands := c.2.cands.map (fun x => { x with blind := true }), snap := none }) }
    ing := { s.ing with
      slots := s.ing.slots.map fun x => (x.1, slot x.2)
      ssp := s.ing.ssp.map fun x => (x.1, ssp x.2) }
    pan := { s.pan with
      frames := s.pan.frames.map fun p => (p.1, frame p.2)
      streams := s.pan.streams.map fun p => (p.1, { p.2 with waiting := [] })
      blocks := []
      sluice := []
      credits := [] }
    trk := { s.trk with intake := [], outq := [], outHeld := [], issued := [], view := [] }
    rly := { s.rly with bandq := [], trackq := [], decq := [], batons := [], tracker := [], sent := [], ctx := none }
    kvp := { s.kvp with log := [], later := [] }
    slv := { s.slv with intake := [], notices := [], view := [], posted := [], owed := [] }
    act := { s.act with intake := [], notices := [], entries := [], view := [] }
    hl := { s.hl with posts := [] } }

/-- ZEROING_DONE: DRAM, scratchpads and Pan SRAM read 0, the self-tests have run, and the state of 01_line.md R57 holds; SL1 is
declared once a host port has locked (R547, R548). Bit 8 of `failing` is the Host Link (R543). Log 147 (DEDUCED), 150 (DESIGN
CHOICE). -/
def execZeroingDone (dt failing lanes units : Nat) (s : State) : Host.Outcome State Fault Refusal :=
  .next <|
    let s1 := s.pass dt
    if s1.aon.phase ≠ .zeroing then s1
    else
      let s2 := eachOf ((upTo 8).filter fun b => bit failing b) (fun b s => s.coreReset b) { s1 with mem := [] }.emptied
      let s3 := s2.modAon fun a =>
        { a with phase := .done, zeroed := true, coreFail := failing % 256, hlFail := bit failing 8, ueUnits := [] }
      (((s3.modRly fun r => { r with fenced := lanes % 65536 }).modSlv fun v => { v with fenced := units % 65536 }).declare).relevel

end Sys2Proof.Machine
end

