-- ==== Sys2Proof/Machine/RegRows.lean ====
section
/-! DEFINITION. The commands that write or read setup registers one at a time (00_scope.md R14, R15). A write of a register that has a
command of its own has the same effect under the general command. -/

namespace Sys2Proof.Machine

open Sys2Proof

/-- A write of instance (i, j) of a register, when it exists. -/
def State.writeOf (s : State) (told : Option Nat) (r : Reg) (i j : Nat) (v : Word) : State :=
  if i < r.info.count1 ∧ j < r.info.count2 then s.hostWrite told (r.off i j) v else s

/-- SETUP_REGISTER_WRITE: an access that is not a whole aligned word is refused (R14, R51). Log 17 (DESIGN CHOICE). -/
def execSetupRegisterWrite (off : Nat) (v : Word) (s : State) : Host.Outcome State Fault Refusal :=
  .next <| if off % 4 = 0 then s.hostWrite none off v else s

/-- LOW_HALF_READ (R15). -/
def execLowHalfRead (off : Nat) (s : State) : Host.Outcome State Fault Refusal :=
  .next <| if isLow off && decide (off % 4 = 0 ∧ s.aon.phase ≠ .held) then (s.hostRead off).2 else s

/-- LOW_HALF_WRITE (R15). -/
def execLowHalfWrite (off : Nat) (v : Word) (s : State) : Host.Outcome State Fault Refusal :=
  .next <| if isLow off && decide (off % 4 = 0) then s.hostWrite none off v else s

/-- HIGH_HALF_WRITE (R15). Log 16 (DEDUCED). -/
def execHighHalfWrite (off : Nat) (v : Word) (s : State) : Host.Outcome State Fault Refusal :=
  .next <| if isHigh off && decide (off % 4 = 0) then s.hostWrite none off v else s

/-- ACCEPT_STEP: TK.ACCEPT_STEP is written (02_timekeeper.md R76). -/
def execAcceptStep (v : Word) (s : State) : Host.Outcome State Fault Refusal := .next <| s.writeOf none .tkAcceptStep 0 0 v

/-- SOURCE_WRITE: TK.CTRL is written (02_timekeeper.md R76, R88). -/
def execSourceWrite (v : Word) (s : State) : Host.Outcome State Fault Refusal := .next <| s.writeOf none .tkCtrl 0 0 v

/-- SET_TIME: both halves of TK.SET_TIME are written (02_timekeeper.md R75, R100). Log 20 (DEDUCED). -/
def execSetTime (v : DT64) (s : State) : Host.Outcome State Fault Refusal :=
  .next <|
    let off := Reg.off .tkSetTime 0 0
    (s.hostWrite none off (v.setWidth 32)).hostWrite none (off + 4) ((v >>> 32).setWidth 32)

/-- ERA_WRITE: TK.ERA is written (01_line.md R32, 02_timekeeper.md R100). -/
def execEraWrite (v : Word) (s : State) : Host.Outcome State Fault Refusal := .next <| s.writeOf none .tkEra 0 0 v

/-- CAP_DISABLE: TK.CAP_CFG.n is written with EN 0 (02_timekeeper.md R96). -/
def execCapDisable (n : Nat) (v : Word) (s : State) : Host.Outcome State Fault Refusal :=
  .next <| if bit v.toNat 0 then s else s.writeOf none .tkCapCfg n 0 v

/-- SLOT_ENABLE_WRITE: IOC.SLOT_CFG.n is written (03_sensor_ports.md R107). -/
def execSlotEnableWrite (n : Nat) (v : Word) (s : State) : Host.Outcome State Fault Refusal := .next <| s.writeOf none .iocSlotCfg n 0 v

/-- SSP_ENABLE_WRITE: SSP.n.CTRL is written (R122). -/
def execSspEnableWrite (n : Nat) (v : Word) (s : State) : Host.Outcome State Fault Refusal := .next <| s.writeOf none .sspCtrl n 0 v

/-- SEN_ENABLE_WRITE: SEN.p.CTRL is written (R128). -/
def execSenEnableWrite (p : Nat) (v : Word) (s : State) : Host.Outcome State Fault Refusal := .next <| s.writeOf none .senCtrl p 0 v

/-- SEN_STREAM_ENABLE_WRITE: SEN.p.STREAM.q.CFG is written (R129). -/
def execSenStreamEnableWrite (p q : Nat) (v : Word) (s : State) : Host.Outcome State Fault Refusal :=
  .next <| s.writeOf none .senStreamCfg p q v

/-- ENC_ENABLE_WRITE: MP.n.ENC_CFG is written (R133). -/
def execEncEnableWrite (n : Nat) (v : Word) (s : State) : Host.Outcome State Fault Refusal := .next <| s.writeOf none .mpEncCfg n 0 v

/-- SPI_ENABLE_WRITE: MP.n.SPI_CFG is written (R134). -/
def execSpiEnableWrite (n : Nat) (v : Word) (s : State) : Host.Outcome State Fault Refusal := .next <| s.writeOf none .mpSpiCfg n 0 v

/-- POCXP_ENABLE_WRITE: SSP.n.POCXP is written (R127). -/
def execPocxpEnableWrite (n : Nat) (v : Word) (s : State) : Host.Outcome State Fault Refusal := .next <| s.writeOf none .sspPocxp n 0 v

/-- I2C_REENABLE: I2C_CTRL of controller `n` is written, 8 for the accessory bus (R149). -/
def execI2cReenable (n : Nat) (v : Word) (s : State) : Host.Outcome State Fault Refusal :=
  .next <| if n = 8 then s.writeOf none .iocAccI2cCtrl 0 0 v else s.writeOf none .mpI2cCtrl n 0 v

/-- QUAD_RETRY: IOC.QUAD_RETRY is written (R144). -/
def execQuadRetry (v : Word) (s : State) : Host.Outcome State Fault Refusal := .next <| s.writeOf none .iocQuadRetry 0 0 v

/-- MOT_FRAME_ENABLE: MOT.f.CTRL is written with EN 1 (04_motion_pan.md R154). -/
def execMotFrameEnable (f : Nat) (v : Word) (s : State) : Host.Outcome State Fault Refusal :=
  .next <| if bit v.toNat 0 then s.writeOf none .motCtrl f 0 v else s

/-- MOT_FRAME_DISABLE: MOT.f.CTRL is written with EN 0 (R189). -/
def execMotFrameDisable (f : Nat) (v : Word) (s : State) : Host.Outcome State Fault Refusal :=
  .next <| if bit v.toNat 0 then s else s.writeOf none .motCtrl f 0 v

/-- PAN_FRAME_ENABLE: PAN.FRAME.f.CFG is written with EN 1 (R166). -/
def execPanFrameEnable (f : Nat) (v : Word) (s : State) : Host.Outcome State Fault Refusal :=
  .next <| if bit v.toNat 0 then s.writeOf none .panFrameCfg f 0 v else s

/-- PAN_FRAME_DISABLE: PAN.FRAME.f.CFG is written with EN 0 (R189). -/
def execPanFrameDisable (f : Nat) (v : Word) (s : State) : Host.Outcome State Fault Refusal :=
  .next <| if bit v.toNat 0 then s else s.writeOf none .panFrameCfg f 0 v

/-- LANE_REJOIN: RLY.LANES is written; the Lanes in `failing` fail their self-test (06_aurik_machine.md R263). Log 19 (DESIGN CHOICE). -/
def execLaneRejoin (v : Word) (failing : Nat) (s : State) : Host.Outcome State Fault Refusal :=
  .next <| s.writeOf (some failing) .rlyLanes 0 0 v

/-- UNIT_REJOIN: SLV.UNITS is written; the units in `failing` fail their self-test (09_solver.md R364). Log 19 (DESIGN CHOICE). -/
def execUnitRejoin (v : Word) (failing : Nat) (s : State) : Host.Outcome State Fault Refusal :=
  .next <| s.writeOf (some failing) .slvUnits 0 0 v

/-- EXCHANGE_ABORT: RLY.PROG is written (10_programs.md R377). -/
def execExchangeAbort (v : Word) (s : State) : Host.Outcome State Fault Refusal := .next <| s.writeOf none .rlyProg 0 0 v

/-- DBG_HALT: RLY.DBG_CMD is written with HALT 1 (10_programs.md R388). -/
def execDbgHalt (v : Word) (s : State) : Host.Outcome State Fault Refusal :=
  .next <| if bit v.toNat 3 then s.writeOf none .rlyDbgCmd 0 0 v else s

/-- DBG_STEP_A: RLY.DBG_CMD is written with STEP_A 1 (R389). -/
def execDbgStepA (v : Word) (s : State) : Host.Outcome State Fault Refusal :=
  .next <| if bit v.toNat 0 then s.writeOf none .rlyDbgCmd 0 0 v else s

/-- DBG_STEP_E: RLY.DBG_CMD is written with STEP_E 1 (R389). -/
def execDbgStepE (v : Word) (s : State) : Host.Outcome State Fault Refusal :=
  .next <| if bit v.toNat 1 then s.writeOf none .rlyDbgCmd 0 0 v else s

/-- DBG_RESUME: RLY.DBG_CMD is written with RESUME 1 (R389). -/
def execDbgResume (v : Word) (s : State) : Host.Outcome State Fault Refusal :=
  .next <| if bit v.toNat 2 then s.writeOf none .rlyDbgCmd 0 0 v else s

/-- LSTOP_RELEASE: ACT.LSTOP is written with RELEASE 1 (11_actuation.md R413). -/
def execLstopRelease (v : Word) (s : State) : Host.Outcome State Fault Refusal :=
  .next <| if bit v.toNat 8 then s.writeOf none .actLstop 0 0 v else s

/-- ACT_RUN: ACT.CTRL is written with RUN 1 (R428). -/
def execActRun (v : Word) (s : State) : Host.Outcome State Fault Refusal :=
  .next <| if bit v.toNat 1 then s.writeOf none .actCtrl 0 0 v else s

/-- ACT_UNIT_ENABLE: ACT.CTRL is written with EN 1 (R432). -/
def execActUnitEnable (v : Word) (s : State) : Host.Outcome State Fault Refusal :=
  .next <| if bit v.toNat 0 then s.writeOf none .actCtrl 0 0 v else s

/-- ACT_UNIT_DISABLE: ACT.CTRL is written with EN 0 (R430). -/
def execActUnitDisable (v : Word) (s : State) : Host.Outcome State Fault Refusal :=
  .next <| if bit v.toNat 0 then s else s.writeOf none .actCtrl 0 0 v

/-- ACT_OUTPUT_DISABLE: ACT.n.CFG is written with EN 0 (R430). -/
def execActOutputDisable (n : Nat) (v : Word) (s : State) : Host.Outcome State Fault Refusal :=
  .next <| if bit v.toNat 31 then s else s.writeOf none .actCfg n 0 v

/-- RING_ENABLE_WRITE: HL.RING.r.CFG is written (13_rings.md R501). -/
def execRingEnableWrite (r : Nat) (v : Word) (s : State) : Host.Outcome State Fault Refusal := .next <| s.writeOf none .hlRingCfg r 0 v

/-- FORCE_FAULT: FLT.CTRL is written (14_faults.md R505). -/
def execForceFault (v : Word) (s : State) : Host.Outcome State Fault Refusal := .next <| s.writeOf none .fltCtrl 0 0 v

/-- SWRESET: AON.SWRESET is written (15_startup.md R532). -/
def execSwreset (v : Word) (s : State) : Host.Outcome State Fault Refusal := .next <| s.writeOf none .aonSwreset 0 0 v

end Sys2Proof.Machine
end

