-- ==== Sys2Proof/Machine/Watch.lean ====
section
/-! DEFINITION. The watchdog of the Relay: a wait whose event has come is over, and the longest of the others expires
(06_aurik_machine.md R260, R261). -/

namespace Sys2Proof.Machine

open Sys2Proof

/-- The meaning of the command in an image's bytes, for Lane `n` and a stream; none for a word that is no command. -/
def cmdMeaning (op : Nat) (st : Stream) (n : Nat) (s : State) : Option (Host.Outcome State Fault Refusal) :=
  match op with
  | 0x01 => some (execLoad n s)
  | 0x02 => some (execStore n s)
  | 0x03 => some (execPush n s)
  | 0x04 => some (execPop n s)
  | 0x05 => some (execLda n s)
  | 0x08 => some (execSeta n s)
  | 0x09 => some (execAdda n s)
  | 0x0A => some (execSetc n st s)
  | 0x0B => some (execAddc n st s)
  | 0x0C => some (execCmp n st s)
  | 0x10 => some (execBr st s)
  | 0x12 => some (execDecide s)
  | 0x14 => some (execRscalar n s)
  | 0x20 => some (execBandOpen s)
  | 0x21 => some (execBandEnd s)
  | 0x22 => some (execTakeb s)
  | 0x23 => some (execHandoff s)
  | 0x24 => some (execWaitb s)
  | 0x25 => some (execFreeb s)
  | 0x28 => some (execEmit n s)
  | 0x2F => some (execNop n st s)
  | 0x40 => some (execMatmul n s)
  | 0x41 => some (execConv2d n s)
  | 0x42 => some (execWarp n s)
  | 0x43 => some (execMeshi n s)
  | 0x44 => some (execReduce n s)
  | 0x45 => some (execEltwise n s)
  | 0x46 => some (execHist n s)
  | 0x47 => some (execGather n s)
  | 0x48 => some (execScatter n s)
  | 0x49 => some (execConvert n s)
  | 0x4A => some (execNorm n s)
  | 0x80 => some (execAttend n s)
  | 0x84 => some (execKvAppend n s)
  | 0x85 => some (execKvReset n s)
  | 0x86 => some (execKvTrim n s)
  | 0x87 => some (execKvLen n s)
  | _ => none

/-- The interval time since which a stream of a Lane waits. -/
def Lane.waitOf (l : Lane) (st : Stream) : Option Nat := if st = .access then l.waitA else l.waitE

/-- What the waiting command of a Lane's stream awaits has come: it goes on as soon as it is tried (R260). Log 94 (DEDUCED). -/
def State.waitOver (s : State) (st : Stream) (n : Nat) : Bool :=
  match s.laneCmd st n with
  | none => false
  | some c =>
    match cmdMeaning (cOp c) st n s with
    | some (.next t) => decide ((t.lane n).waitOf st ≠ (s.lane n).waitOf st)
    | _ => false

/-- The waits of the streams under the watchdog whose event has not come, by the interval time they began (R260, R261,
10_programs.md R381). Log 94 (DEDUCED). -/
def State.waits (s : State) : List Nat :=
  (s.lanesIn.flatMap fun n => [Stream.access, Stream.execute].flatMap fun st =>
    if s.waitOver st n then [] else ((s.lane n).waitOf st).toList) ++
    (if s.rly.prog.change.isSome && !s.atRest then [s.rly.prog.changeAt] else [])

/-- WATCHDOG_EXPIRE: the longest wait whose event has not come reaches RLY.WATCH.US: RLY_STALL, and the band is abandoned (R260, R261). A
change of program that is due then goes on (10_programs.md R394). It does not run while a stream is stopped by debug
(10_programs.md R389). Log 93 (DEDUCED). -/
def execWatchdogExpire (s : State) : Host.Outcome State Fault Refusal :=
  .next <|
    match s.waits with
    | [] => s
    | t :: l =>
      if !s.rlyCtrl_EN || s.rly.prog.stopA || s.rly.prog.stopE then s
      else
        let s1 := s.waitUntil (l.foldl min t + s.rlyWatch_US * usTicks)
        let s2 := (s1.raiseU 0x33 0x5A 0xFF 0).abandon 1 0xFF
        match s2.rly.prog.change with
        | some slot => if s2.breakPending then s2 else s2.changeProgram slot
        | none => s2

end Sys2Proof.Machine
end

