-- ==== Sys2Proof/Machine/Dispatch.lean ====
section
/-! DEFINITION. The meaning of each command, one arm per constructor. -/

namespace Sys2Proof.Machine

open Sys2Proof

def exec (i : Instr) (s : State) : Host.Outcome State Fault Refusal :=
  match i with
  | .setupRegisterWrite off v => Sys2Proof.Machine.execSetupRegisterWrite off v s
  | .lowHalfRead off => Sys2Proof.Machine.execLowHalfRead off s
  | .lowHalfWrite off v => Sys2Proof.Machine.execLowHalfWrite off v s
  | .highHalfWrite off v => Sys2Proof.Machine.execHighHalfWrite off v s
  | .eraWrap => Sys2Proof.Machine.execEraWrap s
  | .syncReceive dt port m => Sys2Proof.Machine.execSyncReceive dt port m s
  | .followUpReceive dt port m => Sys2Proof.Machine.execFollowUpReceive dt port m s
  | .delayRespReceive dt port m => Sys2Proof.Machine.execDelayRespReceive dt port m s
  | .delayReqSend => Sys2Proof.Machine.execDelayReqSend s
  | .pdelayReqSend port => Sys2Proof.Machine.execPdelayReqSend port s
  | .pdelayReqReceive dt port m => Sys2Proof.Machine.execPdelayReqReceive dt port m s
  | .pdelayRespReceive dt port m => Sys2Proof.Machine.execPdelayRespReceive dt port m s
  | .announceReceive dt port m => Sys2Proof.Machine.execAnnounceReceive dt port m s
  | .tcForward dt port residence m => Sys2Proof.Machine.execTcForward dt port residence m s
  | .tcFollowerForward dt port m => Sys2Proof.Machine.execTcFollowerForward dt port m s
  | .asRelaySync dt port residence m => Sys2Proof.Machine.execAsRelaySync dt port residence m s
  | .tcOrphanTimeout => Sys2Proof.Machine.execTcOrphanTimeout s
  | .holdTimeout => Sys2Proof.Machine.execHoldTimeout s
  | .announceTimeout => Sys2Proof.Machine.execAnnounceTimeout s
  | .rxLinkDrop dt => Sys2Proof.Machine.execRxLinkDrop dt s
  | .holdLimit => Sys2Proof.Machine.execHoldLimit s
  | .servoRail => Sys2Proof.Machine.execServoRail s
  | .copySlip unit => Sys2Proof.Machine.execCopySlip unit s
  | .acceptStep v => Sys2Proof.Machine.execAcceptStep v s
  | .sourceWrite v => Sys2Proof.Machine.execSourceWrite v s
  | .setTime v => Sys2Proof.Machine.execSetTime v s
  | .eraWrite v => Sys2Proof.Machine.execEraWrite v s
  | .capEdge dt n level => Sys2Proof.Machine.execCapEdge dt n level s
  | .capFilterValidate n => Sys2Proof.Machine.execCapFilterValidate n s
  | .capStall n => Sys2Proof.Machine.execCapStall n s
  | .capDisable n v => Sys2Proof.Machine.execCapDisable n v s
  | .wordArrive slot m d => Sys2Proof.Machine.execWordArrive slot m d s
  | .slotEnableWrite n v => Sys2Proof.Machine.execSlotEnableWrite n v s
  | .sspEnableWrite n v => Sys2Proof.Machine.execSspEnableWrite n v s
  | .senEnableWrite p v => Sys2Proof.Machine.execSenEnableWrite p v s
  | .senStreamEnableWrite p q v => Sys2Proof.Machine.execSenStreamEnableWrite p q v s
  | .encEnableWrite n v => Sys2Proof.Machine.execEncEnableWrite n v s
  | .spiEnableWrite n v => Sys2Proof.Machine.execSpiEnableWrite n v s
  | .cxpLinkUp dt l => Sys2Proof.Machine.execCxpLinkUp dt l s
  | .cxpLinkDown dt n => Sys2Proof.Machine.execCxpLinkDown dt n s
  | .cxpStreamPacket dt n p => Sys2Proof.Machine.execCxpStreamPacket dt n p s
  | .cxpEventPacket dt n data => Sys2Proof.Machine.execCxpEventPacket dt n data s
  | .portXactCxpWrite => Sys2Proof.Machine.execPortXactCxpWrite s
  | .portXactCxpRead => Sys2Proof.Machine.execPortXactCxpRead s
  | .portXactI2c => Sys2Proof.Machine.execPortXactI2c s
  | .cxpAckReceive dt n a => Sys2Proof.Machine.execCxpAckReceive dt n a s
  | .cxpXactTimeout n => Sys2Proof.Machine.execCxpXactTimeout n s
  | .triggerDue n => Sys2Proof.Machine.execTriggerDue n s
  | .triggerLaunch n => Sys2Proof.Machine.execTriggerLaunch n s
  | .heldTriggerLate n => Sys2Proof.Machine.execHeldTriggerLate n s
  | .trigOne => Sys2Proof.Machine.execTrigOne s
  | .pocxpEnableWrite n v => Sys2Proof.Machine.execPocxpEnableWrite n v s
  | .pocxpTrip dt n => Sys2Proof.Machine.execPocxpTrip dt n s
  | .senDatagram dt p d => Sys2Proof.Machine.execSenDatagram dt p d s
  | .profileCloseTimeout p q => Sys2Proof.Machine.execProfileCloseTimeout p q s
  | .senLinkDown dt p => Sys2Proof.Machine.execSenLinkDown dt p s
  | .senLinkUp dt p speed => Sys2Proof.Machine.execSenLinkUp dt p speed s
  | .encEdge dt n line level => Sys2Proof.Machine.execEncEdge dt n line level s
  | .encFilterValidate n line => Sys2Proof.Machine.execEncFilterValidate n line s
  | .encBatchClose n => Sys2Proof.Machine.execEncBatchClose n s
  | .encLineFault dt n line => Sys2Proof.Machine.execEncLineFault dt n line s
  | .encLineFaultClear dt n line => Sys2Proof.Machine.execEncLineFaultClear dt n line s
  | .encStallTimeout n => Sys2Proof.Machine.execEncStallTimeout n s
  | .spiDataReady dt n => Sys2Proof.Machine.execSpiDataReady dt n s
  | .spiTimer n => Sys2Proof.Machine.execSpiTimer n s
  | .spiXactDone dt n data => Sys2Proof.Machine.execSpiXactDone dt n data s
  | .spiStallTimeout n => Sys2Proof.Machine.execSpiStallTimeout n s
  | .i2cXferDone dt n e => Sys2Proof.Machine.execI2cXferDone dt n e s
  | .i2cStretchTimeout dt n sdaLow => Sys2Proof.Machine.execI2cStretchTimeout dt n sdaLow s
  | .i2cSclHeldIdle dt n => Sys2Proof.Machine.execI2cSclHeldIdle dt n s
  | .i2cReenable n v => Sys2Proof.Machine.execI2cReenable n v s
  | .slotStall n => Sys2Proof.Machine.execSlotStall n s
  | .quadLock dt q => Sys2Proof.Machine.execQuadLock dt q s
  | .quadSettleLimit q => Sys2Proof.Machine.execQuadSettleLimit q s
  | .quadRetry v => Sys2Proof.Machine.execQuadRetry v s
  | .fusionTick f => Sys2Proof.Machine.execFusionTick f s
  | .motionReport f => Sys2Proof.Machine.execMotionReport f s
  | .motFrameEnable f v => Sys2Proof.Machine.execMotFrameEnable f v s
  | .motFrameDisable f v => Sys2Proof.Machine.execMotFrameDisable f v s
  | .frameAbsent f => Sys2Proof.Machine.execFrameAbsent f s
  | .panSampleRead slot => Sys2Proof.Machine.execPanSampleRead slot s
  | .samplePlace stream => Sys2Proof.Machine.execSamplePlace stream s
  | .sampleReplace stream => Sys2Proof.Machine.execSampleReplace stream s
  | .streamForfeit f stream => Sys2Proof.Machine.execStreamForfeit f stream s
  | .bandRelease f => Sys2Proof.Machine.execBandRelease f s
  | .sluiceTokenPlace => Sys2Proof.Machine.execSluiceTokenPlace s
  | .bandDoneCredit => Sys2Proof.Machine.execBandDoneCredit s
  | .epochDecide f => Sys2Proof.Machine.execEpochDecide f s
  | .sealIssue f => Sys2Proof.Machine.execSealIssue f s
  | .reRelease f => Sys2Proof.Machine.execReRelease f s
  | .panLoad => Sys2Proof.Machine.execPanLoad s
  | .panSwap => Sys2Proof.Machine.execPanSwap s
  | .panSwapCopyDone => Sys2Proof.Machine.execPanSwapCopyDone s
  | .panFrameEnable f v => Sys2Proof.Machine.execPanFrameEnable f v s
  | .panFrameDisable f v => Sys2Proof.Machine.execPanFrameDisable f v s
  | .panSramUe dt w => Sys2Proof.Machine.execPanSramUe dt w s
  | .trkNotice => Sys2Proof.Machine.execTrkNotice s
  | .trackBatchProcess => Sys2Proof.Machine.execTrackBatchProcess s
  | .trkTokenPlace => Sys2Proof.Machine.execTrkTokenPlace s
  | .trkClear => Sys2Proof.Machine.execTrkClear s
  | .trkSramUe dt w => Sys2Proof.Machine.execTrkSramUe dt w s
  | .load lane => Sys2Proof.Machine.execLoad lane s
  | .store lane => Sys2Proof.Machine.execStore lane s
  | .push lane => Sys2Proof.Machine.execPush lane s
  | .pop lane => Sys2Proof.Machine.execPop lane s
  | .lda lane => Sys2Proof.Machine.execLda lane s
  | .seta lane => Sys2Proof.Machine.execSeta lane s
  | .adda lane => Sys2Proof.Machine.execAdda lane s
  | .setc lane st => Sys2Proof.Machine.execSetc lane st s
  | .addc lane st => Sys2Proof.Machine.execAddc lane st s
  | .cmp lane st => Sys2Proof.Machine.execCmp lane st s
  | .br st => Sys2Proof.Machine.execBr st s
  | .decide => Sys2Proof.Machine.execDecide s
  | .rscalar lane => Sys2Proof.Machine.execRscalar lane s
  | .bandOpen => Sys2Proof.Machine.execBandOpen s
  | .bandEnd => Sys2Proof.Machine.execBandEnd s
  | .takeb => Sys2Proof.Machine.execTakeb s
  | .handoff => Sys2Proof.Machine.execHandoff s
  | .waitb => Sys2Proof.Machine.execWaitb s
  | .freeb => Sys2Proof.Machine.execFreeb s
  | .emit lane => Sys2Proof.Machine.execEmit lane s
  | .nop lane st => Sys2Proof.Machine.execNop lane st s
  | .trackTokenTake => Sys2Proof.Machine.execTrackTokenTake s
  | .bandqRecallEnter => Sys2Proof.Machine.execBandqRecallEnter s
  | .noticePass => Sys2Proof.Machine.execNoticePass s
  | .watchdogExpire => Sys2Proof.Machine.execWatchdogExpire s
  | .laneFail dt lane => Sys2Proof.Machine.execLaneFail dt lane s
  | .laneSpUe dt lane w => Sys2Proof.Machine.execLaneSpUe dt lane w s
  | .laneRejoin v failing => Sys2Proof.Machine.execLaneRejoin v failing s
  | .matmul lane => Sys2Proof.Machine.execMatmul lane s
  | .conv2d lane => Sys2Proof.Machine.execConv2d lane s
  | .warp lane => Sys2Proof.Machine.execWarp lane s
  | .meshi lane => Sys2Proof.Machine.execMeshi lane s
  | .reduce lane => Sys2Proof.Machine.execReduce lane s
  | .eltwise lane => Sys2Proof.Machine.execEltwise lane s
  | .hist lane => Sys2Proof.Machine.execHist lane s
  | .gather lane => Sys2Proof.Machine.execGather lane s
  | .scatter lane => Sys2Proof.Machine.execScatter lane s
  | .convert lane => Sys2Proof.Machine.execConvert lane s
  | .norm lane => Sys2Proof.Machine.execNorm lane s
  | .attend lane => Sys2Proof.Machine.execAttend lane s
  | .kvAppend lane => Sys2Proof.Machine.execKvAppend lane s
  | .kvReset lane => Sys2Proof.Machine.execKvReset lane s
  | .kvTrim lane => Sys2Proof.Machine.execKvTrim lane s
  | .kvLen lane => Sys2Proof.Machine.execKvLen lane s
  | .kvTrackerUpdate => Sys2Proof.Machine.execKvTrackerUpdate s
  | .kvRebuildDone => Sys2Proof.Machine.execKvRebuildDone s
  | .kvpClear => Sys2Proof.Machine.execKvpClear s
  | .slvNotice => Sys2Proof.Machine.execSlvNotice s
  | .heatStart => Sys2Proof.Machine.execHeatStart s
  | .problemDeal unit => Sys2Proof.Machine.execProblemDeal unit s
  | .problemDone unit => Sys2Proof.Machine.execProblemDone unit s
  | .heatDeadline => Sys2Proof.Machine.execHeatDeadline s
  | .slvUnitFail dt unit => Sys2Proof.Machine.execSlvUnitFail dt unit s
  | .slvSchedUe dt w => Sys2Proof.Machine.execSlvSchedUe dt w s
  | .unitRejoin v failing => Sys2Proof.Machine.execUnitRejoin v failing s
  | .slvLoad => Sys2Proof.Machine.execSlvLoad s
  | .schedVerifyDone => Sys2Proof.Machine.execSchedVerifyDone s
  | .progLoad => Sys2Proof.Machine.execProgLoad s
  | .progVerifyDone => Sys2Proof.Machine.execProgVerifyDone s
  | .exchange => Sys2Proof.Machine.execExchange s
  | .exchangeAbort v => Sys2Proof.Machine.execExchangeAbort v s
  | .programChange => Sys2Proof.Machine.execProgramChange s
  | .programRetire => Sys2Proof.Machine.execProgramRetire s
  | .breakHit b => Sys2Proof.Machine.execBreakHit b s
  | .dbgHalt v => Sys2Proof.Machine.execDbgHalt v s
  | .dbgStepA v => Sys2Proof.Machine.execDbgStepA v s
  | .dbgStepE v => Sys2Proof.Machine.execDbgStepE v s
  | .dbgResume v => Sys2Proof.Machine.execDbgResume v s
  | .progMemUe dt w => Sys2Proof.Machine.execProgMemUe dt w s
  | .verdictIntake => Sys2Proof.Machine.execVerdictIntake s
  | .actArm => Sys2Proof.Machine.execActArm s
  | .expectCreate n => Sys2Proof.Machine.execExpectCreate n s
  | .actNotice => Sys2Proof.Machine.execActNotice s
  | .entryCommit no => Sys2Proof.Machine.execEntryCommit no s
  | .edgeStart no => Sys2Proof.Machine.execEdgeStart no s
  | .fullDriveEnd n => Sys2Proof.Machine.execFullDriveEnd n s
  | .holdEnd n => Sys2Proof.Machine.execHoldEnd n s
  | .entryTriggerPoint no => Sys2Proof.Machine.execEntryTriggerPoint no s
  | .lstopRelease v => Sys2Proof.Machine.execLstopRelease v s
  | .actRun v => Sys2Proof.Machine.execActRun v s
  | .actUnitEnable v => Sys2Proof.Machine.execActUnitEnable v s
  | .actUnitDisable v => Sys2Proof.Machine.execActUnitDisable v s
  | .actOutputDisable n v => Sys2Proof.Machine.execActOutputDisable n v s
  | .actClear => Sys2Proof.Machine.execActClear s
  | .actOvercurrent dt n => Sys2Proof.Machine.execActOvercurrent dt n s
  | .actReadback dt n => Sys2Proof.Machine.execActReadback dt n s
  | .actSchedUe dt w known => Sys2Proof.Machine.execActSchedUe dt w known s
  | .safePathTest dt ok => Sys2Proof.Machine.execSafePathTest dt ok s
  | .hello dt port peer f => Sys2Proof.Machine.execHello dt port peer f s
  | .openSession dt port peer f => Sys2Proof.Machine.execOpenSession dt port peer f s
  | .challengeTimeout ix => Sys2Proof.Machine.execChallengeTimeout ix s
  | .write dt port peer f => Sys2Proof.Machine.execWrite dt port peer f s
  | .read dt port peer f => Sys2Proof.Machine.execRead dt port peer f s
  | .regwrite dt port peer f => Sys2Proof.Machine.execRegwrite dt port peer f s
  | .window dt port peer f => Sys2Proof.Machine.execWindow dt port peer f s
  | .keyset dt port peer f => Sys2Proof.Machine.execKeyset dt port peer f s
  | .close dt port peer f => Sys2Proof.Machine.execClose dt port peer f s
  | .ping dt port peer f => Sys2Proof.Machine.execPing dt port peer f s
  | .nudge dt port peer f => Sys2Proof.Machine.execNudge dt port peer f s
  | .probe dt port peer f => Sys2Proof.Machine.execProbe dt port peer f s
  | .fdata dt port peer f => Sys2Proof.Machine.execFdata dt port peer f s
  | .pack dt port peer f => Sys2Proof.Machine.execPack dt port peer f s
  | .deviceRetxTimeout ix => Sys2Proof.Machine.execDeviceRetxTimeout ix s
  | .keepaliveExpire ix => Sys2Proof.Machine.execKeepaliveExpire ix s
  | .statusBeacon port lock => Sys2Proof.Machine.execStatusBeacon port lock s
  | .hlPortLock dt port => Sys2Proof.Machine.execHlPortLock dt port s
  | .hlSettleLimit port => Sys2Proof.Machine.execHlSettleLimit port s
  | .hlPortRetry port => Sys2Proof.Machine.execHlPortRetry port s
  | .hlSpeedSearch port => Sys2Proof.Machine.execHlSpeedSearch port s
  | .hlLinkDown dt port => Sys2Proof.Machine.execHlLinkDown dt port s
  | .doorbellPoll r => Sys2Proof.Machine.execDoorbellPoll r s
  | .descriptorDispatch r => Sys2Proof.Machine.execDescriptorDispatch r s
  | .recordPost r => Sys2Proof.Machine.execRecordPost r s
  | .jswUpdate ring didx => Sys2Proof.Machine.execJswUpdate ring didx s
  | .ringEnableWrite r v => Sys2Proof.Machine.execRingEnableWrite r v s
  | .nopDescriptor => Sys2Proof.Machine.execNopDescriptor s
  | .slvHeat => Sys2Proof.Machine.execSlvHeat s
  | .injectReport => Sys2Proof.Machine.execInjectReport s
  | .injectActuation => Sys2Proof.Machine.execInjectActuation s
  | .fltAck => Sys2Proof.Machine.execFltAck s
  | .profileRead => Sys2Proof.Machine.execProfileRead s
  | .profileWrite => Sys2Proof.Machine.execProfileWrite s
  | .profileErase => Sys2Proof.Machine.execProfileErase s
  | .profileSelectBoot => Sys2Proof.Machine.execProfileSelectBoot s
  | .faultClassify => Sys2Proof.Machine.execFaultClassify s
  | .fatalLine dt island code unit arg => Sys2Proof.Machine.execFatalLine dt island code unit arg s
  | .forceFault v => Sys2Proof.Machine.execForceFault v s
  | .islandTimeout dt island => Sys2Proof.Machine.execIslandTimeout dt island s
  | .dramError dt at_ ue => Sys2Proof.Machine.execDramError dt at_ ue s
  | .dramLinkFail dt chan => Sys2Proof.Machine.execDramLinkFail dt chan s
  | .autoAck => Sys2Proof.Machine.execAutoAck s
  | .fltHeartbeatMiss => Sys2Proof.Machine.execFltHeartbeatMiss s
  | .safeStateRelease => Sys2Proof.Machine.execSafeStateRelease s
  | .aliveToggle => Sys2Proof.Machine.execAliveToggle s
  | .powerGood dt => Sys2Proof.Machine.execPowerGood dt s
  | .lowVin dt => Sys2Proof.Machine.execLowVin dt s
  | .pocxpCut dt => Sys2Proof.Machine.execPocxpCut dt s
  | .brownout dt => Sys2Proof.Machine.execBrownout dt s
  | .overvolt dt => Sys2Proof.Machine.execOvervolt dt s
  | .overtemp dt => Sys2Proof.Machine.execOvertemp dt s
  | .supplyResetRelease dt => Sys2Proof.Machine.execSupplyResetRelease dt s
  | .resetNChange dt level => Sys2Proof.Machine.execResetNChange dt level s
  | .buttonChange dt pressed => Sys2Proof.Machine.execButtonChange dt pressed s
  | .swreset v => Sys2Proof.Machine.execSwreset v s
  | .swresetRelease => Sys2Proof.Machine.execSwresetRelease s
  | .resetRelease otp => Sys2Proof.Machine.execResetRelease otp s
  | .bootImageLoaded dt image => Sys2Proof.Machine.execBootImageLoaded dt image s
  | .bootProfileApply => Sys2Proof.Machine.execBootProfileApply s
  | .profileWaitExpire => Sys2Proof.Machine.execProfileWaitExpire s
  | .dramTrainingDone dt trained => Sys2Proof.Machine.execDramTrainingDone dt trained s
  | .zeroingDone dt failing lanes units => Sys2Proof.Machine.execZeroingDone dt failing lanes units s
  | .hlSignalRegained dt port => Sys2Proof.Machine.execHlSignalRegained dt port s
  | .arpNdEchoRequest dt port r => Sys2Proof.Machine.execArpNdEchoRequest dt port r s
  | .pocxpDetectionDone dt n ok => Sys2Proof.Machine.execPocxpDetectionDone dt n ok s
  | .aonPowerLoss dt => Sys2Proof.Machine.execAonPowerLoss dt s
  | .aonPowerUp dt => Sys2Proof.Machine.execAonPowerUp dt s
  | .actSchedUeHoldEnd n => Sys2Proof.Machine.execActSchedUeHoldEnd n s
  | .profileComplete => Sys2Proof.Machine.execProfileComplete s

end Sys2Proof.Machine
end

