-- ==== Sys2Proof/Machine/Pins.lean ====
section
/-! DEFINITION. The pins of the module that no engine's own file gives: the sensor supplies and the lines of the serial buses
(16_module.md R564, R582). -/

namespace Sys2Proof.Machine

open Sys2Proof

/-- The sensor supplies: SUP_24 and SUP_5 on MP.n, ACC_5V and RESET_SUP on CTRL (16_module.md R564). -/
inductive SupplyPin where
  | sup24 (n : Nat)
  | sup5 (n : Nat)
  | acc5v
  | resetSup
  deriving DecidableEq, Repr

/-- The lines of the serial buses: of MP.n, and of the accessory bus, controller 8 (16_module.md R582). -/
inductive BusPin where
  | spiSck (n : Nat)
  | spiMosi (n : Nat)
  | spiCsN (n : Nat)
  | sda (n : Nat)
  | scl (n : Nat)
  deriving DecidableEq, Repr

/-- How a line stands: driven low or high, released to its pull-up, or as the transfer on it has it. -/
inductive PinState where
  | low | high | released | transfer
  deriving DecidableEq, Repr

/-- A sensor supply is on whenever power-good holds, while reset is held as well (16_module.md R564). -/
def State.supplyOn (s : State) (_ : SupplyPin) : Bool := s.aon.powerGood

/-- An SPI transaction runs on MP.n. -/
def State.spiRuns (s : State) (n : Nat) : Bool := (Tab.get {} n s.ing.spi).run.isSome

/-- A transfer or a bus clear may move the lines of an I2C controller. -/
def State.i2cRuns (s : State) (n : Nat) : Bool :=
  let c := Tab.get {} n s.ing.i2c
  c.busy || decide (s.now < c.clearEnd)

/-- How a bus line stands (16_module.md R582; 03_sensor_ports.md R134, R135): no transfer runs throughout reset. The clock of a channel
enabled in mode 3 idles high. Log 191 (PRESUMED). -/
def State.busPin (s : State) (p : BusPin) : PinState :=
  match p with
  | .spiSck n => if s.spiRuns n then .transfer else if s.mpSpiCfg_EN n && s.mpSpiCfg_MODE n then .high else .low
  | .spiMosi n => if s.spiRuns n then .transfer else .low
  | .spiCsN n => if s.spiRuns n then .transfer else .high
  | .sda n => if s.i2cRuns n then .transfer else .released
  | .scl n => if s.i2cRuns n then .transfer else .released

end Sys2Proof.Machine
end

