-- ==== Sys2Proof/Safety.lean ====
section
/-! DEFINITION. What a claim may ask of a state or a step: a step that goes on, the invariant of the memory list, and the safe
state's outputs. -/

namespace Sys2Proof

open Machine

/-- A step answers a next state: no fault and no refusal. -/
def GoesOn (o : Host.Outcome State Fault Refusal) : Prop := ∃ t, o = .next t

/-- Device memory is in its canonical form. -/
def MemOk (s : State) : Prop := Memory.wf s.mem = true

/-- Every ACT pin is at its safe level (11_actuation.md R428). -/
def PinsSafe (s : State) : Prop := ∀ n, n < 32 → s.outLevel n = s.actCfg_SAFE n

/-- The parts of the state, one for each field. -/
inductive Part where
  | pending | regs | holdLow | latchHi | mem | freeCtr | now | out | hl | flt
  | aon | tk | ing | mot | pan | trk | rly | kvp | slv | act
  deriving DecidableEq, Repr

/-- A part holds the same in two states. -/
def Part.same : Part → State → State → Prop
  | .pending, s, t => t.pending = s.pending
  | .regs, s, t => t.regs = s.regs
  | .holdLow, s, t => t.holdLow = s.holdLow
  | .latchHi, s, t => t.latchHi = s.latchHi
  | .mem, s, t => t.mem = s.mem
  | .freeCtr, s, t => t.freeCtr = s.freeCtr
  | .now, s, t => t.now = s.now
  | .out, s, t => t.out = s.out
  | .hl, s, t => t.hl = s.hl
  | .flt, s, t => t.flt = s.flt
  | .aon, s, t => t.aon = s.aon
  | .tk, s, t => t.tk = s.tk
  | .ing, s, t => t.ing = s.ing
  | .mot, s, t => t.mot = s.mot
  | .pan, s, t => t.pan = s.pan
  | .trk, s, t => t.trk = s.trk
  | .rly, s, t => t.rly = s.rly
  | .kvp, s, t => t.kvp = s.kvp
  | .slv, s, t => t.slv = s.slv
  | .act, s, t => t.act = s.act

/-- Going from `s` to `t` changes nothing but the parts listed. -/
def Only (l : List Part) (s t : State) : Prop := ∀ p, p ∉ l → p.same s t

/-- The command runs to a next state that satisfies `P`. -/
def Gives (c : Instr) (s : State) (P : State → Prop) : Prop := ∃ t, exec c s = .next t ∧ P t

/-- A register takes writes: reset is not held, and the register is not of a core island that stays in reset (15_startup.md R548). -/
def RegOpen (s : State) (r : Reg) (i j : Nat) : Prop := s.aon.phase ≠ .held ∧ s.inResetBlock (r.off i j) = false

/-- An island, by its SOURCE and UNIT, takes one more message: reset is not held, and it holds fewer than eight (14_faults.md R507,
15_startup.md R534). -/
def HasRoom (s : State) (source : Nat) (unit : Nat := 0xFF) : Prop :=
  s.aon.phase ≠ .held ∧ (Tab.get [] (islandOf source unit) s.flt.bufs).length < 8

/-- From `s` to `t` an island has come to hold one more coded message, of this code, UNIT and ARG, raised at the time of `t`. -/
def Raised (s t : State) (code source unit arg : Nat) : Prop :=
  Tab.get [] (islandOf source unit) t.flt.bufs =
    Tab.get [] (islandOf source unit) s.flt.bufs ++ [⟨code, source, unit, arg % 2 ^ 32, false, t.now, t.dev⟩]

/-- A ring takes a record of `n` bytes: it is enabled and not stopped, and the record fits the ring and the post buffer of its session
(12_imcel.md R463, 13_rings.md R489). -/
def PostRoom (s : State) (r n : Nat) : Prop :=
  s.hlRingCfg_EN r = true ∧ (s.ring r).stopped = false ∧ n ≤ s.ringSize r * entryBytes r ∧
    postBytes (Tab.get [] (s.hlRingCfg_SESSION r) s.hl.posts) + n ≤ 262144

/-- From `s` to `t` one more record has come to wait in the post buffer of a ring's session. -/
def Posted (s t : State) (r : Nat) (data : List Byte) : Prop :=
  Tab.get [] (s.hlRingCfg_SESSION r) t.hl.posts =
    Tab.get [] (s.hlRingCfg_SESSION r) s.hl.posts ++ [⟨s.hl.postNo, r, data, none, 0⟩]

/-- From `s` to `t` a record has been posted to a report ring, when the unit's report is enabled and the ring has room
(13_rings.md R489). -/
def Reported (s t : State) (en : Bool) (ring : Nat) (r : Rec) : Prop :=
  en = true → PostRoom s ring (recBytes r).length → Posted s t ring (recBytes r)

/-- A new entry of the Actuation Unit that opens the schedule: it has room, the unit is not in FLOOD, no entry has the next number, the
entry's frame is not absent, and its commit time is still to come (11_actuation.md R405, R421 to R423). -/
def Opens (s : State) (e : Entry) : Prop :=
  s.flooding = false ∧ s.act.entries.length < 4096 ∧ s.entry s.act.entryNo = none ∧
    (e.position = true → (s.motion e.frame).absent = false) ∧ (s.commitTime e).any (fun t => dtGe s.dev t) = false

/-- A host port takes an Imcel frame of a kind at once: SL1 is declared, the port is enabled and up, the frame is sent to an address of the
port, and it is not one to discard (12_imcel.md R434 to R437). -/
def PortTakes (s : State) (p : Nat) (peer : Peer) (f : Frame) (kind : Nat) : Prop :=
  s.aon.sl1 = true ∧ s.portOn p = true ∧ (s.port p).up = true ∧ (s.port p).settling = false ∧ s.toPort p peer f.via = true ∧
    s.badFrame p peer f = false ∧
    f.kind.toNat = kind

/-- A frame names an open session by its index and TOKEN (12_imcel.md R437). -/
def InSession (s : State) (f : Frame) (i : Nat) : Prop :=
  i = f.session.toNat ∧ i ≤ 7 ∧ (s.sess i).isOpen = true ∧ (s.sess i).token = f.token

/-- A frame is the next host request of an open session, which holds none (12_imcel.md R446). -/
def NextRequest (s : State) (f : Frame) (i : Nat) : Prop := InSession s f i ∧ f.seq = (s.sess i).next ∧ (s.sess i).holds = []

/-- The payload of a RESP (12_imcel.md R456). -/
def respBytes (status done : Nat) (data : List Byte) : List Byte := by1 status ++ zeros 3 ++ by4 done ++ data

/-- From `s` to `t` the device has answered a host request by one RESP and expects the next SEQ; `keep` says that it has cached the RESP
(12_imcel.md R446, R447, R451, R456). -/
def Answered (s t : State) (i p : Nat) (peer : Peer) (f : Frame) (status done : Nat) (data : List Byte) (keep : Bool) : Prop :=
  t.out = s.out ++ [.frame p peer (s.wired p peer (mkFrame 0x18 i f.token.toNat f.seq false (respBytes status done data)))] ∧
    (t.sess i).next = f.seq + 1 ∧ (t.sess i).cache.head? = some (f.seq, if keep then some (respBytes status done data) else none) ∧
    (t.sess i).port = p ∧ (t.sess i).peer = peer ∧ (t.sess i).lastFrame = t.now

/-- A reset that a source begins now, from `s` to `t`: it is held, with its cause and time; every register is at its reset value but for
the SAFE levels, every pin is at its SAFE level, a high-side one unless the supply sags (15_startup.md R530), LINE_STOP_N is
asserted, and the non-volatile memory is kept (00_scope.md R19, 11_actuation.md R433, 15_startup.md R531 to R533). -/
def Holds (s t : State) (c : Cause) : Prop :=
  t.aon.phase = .held ∧ t.aon.heldCause = c ∧ t.aon.heldAt = t.now ∧ t.regs = s.safeRegs ∧
    (∀ n, n < 32 → t.actCfg_SAFE n = s.actCfg_SAFE n ∧ (t.aon.sag = false ∨ 16 ≤ n → t.outLevel n = s.actCfg_SAFE n)) ∧
    t.act.lstop = true ∧ t.act.entries = [] ∧ t.hl.ops = [] ∧ t.aon.slots = s.aon.slots ∧ t.aon.boot = s.aon.boot ∧
      t.aon.linkKey = s.aon.linkKey

/-- The oldest operation of a code that its engine has not taken up, which is the one its ring and index name. -/
def Heads (s : State) (code : Nat) (o : Op) : Prop :=
  s.nextOp code (fun _ => true) = some o ∧ s.hl.ops.find? (Op.is o.ring o.didx) = some o

/-- From `s` to `t` an operation has ended: it is gone, and unless it is QUIET and OK its completion is posted to the completion ring of
its ring, when that has room (13_rings.md R485). -/
def Completed (s t : State) (o : Op) (cstatus reason : Nat) (result : List Byte) : Prop :=
  t.hl.ops = dropFirst (Op.is o.ring o.didx) s.hl.ops ∧
    (bit (u8 o.desc 1) 1 = false ∨ cstatus ≠ 0 →
      PostRoom s (s.hlRingCfg_CRING o.subRing) (completionBytes o cstatus reason result).length →
      Posted s t (s.hlRingCfg_CRING o.subRing) (completionBytes o cstatus reason result))

/-- A Lane's stream has this command of an opcode to execute, on its last run and not predicated off (06_aurik_machine.md R226, R233,
R242). -/
def Issues (s : State) (op : Nat) (st : Stream) (n : Nat) (c : List Byte) : Prop :=
  s.laneCmd st n = some c ∧ cOp c = op ∧ (cPen c = false ∨ (s.lane n).comp (u8 c 7 % 4) = true) ∧ cRepeat c ≤ (s.lane n).runs st + 1

/-- Every Lane that takes part stands at this command of an opcode, on its last run (06_aurik_machine.md R227). -/
def AllIssue (s : State) (op : Nat) (st : Stream) (c : List Byte) : Prop :=
  s.barrier st = some c ∧ cOp c = op ∧ ∀ n ∈ s.lanesIn, cRepeat c ≤ (s.lane n).runs st + 1

/-- From `s` to `t` a Lane has completed the command of a stream at hand and stands at the next one. -/
def Passes (s t : State) (st : Stream) (n : Nat) : Prop :=
  (t.lane n).pc st = ((s.lane n).pc st + 1) % 65536 ∧ (t.lane n).count st = ((s.lane n).count st + 1) % 2 ^ 64 ∧ (t.lane n).runs st = 0

/-- Every tensor that a macro-operation names lies in the scratchpad, inside it (06_aurik_machine.md R239, R240). -/
def InScratch (s : State) (c : List Byte) (l : List Nat) : Prop :=
  ∀ x ∈ l, (s.desc (macroHandle c x)).loc = 0 ∧ (s.desc (macroHandle c x)).extent ≤ spSize

/-- The signed 32-bit word at an offset of a Lane's scratchpad. -/
def spWord (s : State) (n o : Nat) : Int := s32 (s.readMem (spBase + n * spSize + o) 4) 0

/-- A tensor of one row of `k` INT32 elements. -/
def IsRow (d : Desc) (k : Nat) : Prop := d.fmt = 7 ∧ d.d0 = k ∧ d.d1 = 1 ∧ d.d2 = 1 ∧ d.d3 = 1

/-- A Lane's next macro-operation has the tensors named in its scratchpad, no flags, and ROUND, SATF and ACT 0 (07_aurik_ops.md
R277, R280). -/
def Plainly (s : State) (op n : Nat) (c : List Byte) (l : List Nat) : Prop :=
  Issues s op .execute n c ∧ n < 16 ∧ u8 c 12 = 0 ∧ u8 c 13 = 0 ∧ InScratch s c l

/-- The INT32 value of a number: the nearest end where it lies outside (07_aurik_ops.md R275). -/
def clip32 (x : Int) : Int := clampI (-2147483648) 2147483647 x

/-- A macro-operation of a Lane with every tensor in its scratchpad, and no address fault, writes every row of D as it computes it, and
no other byte of memory (07_aurik_ops.md R280, R297). -/
def ScratchRun (i : Nat → Instr) (op : Nat) (mk : Nat → State → List Byte → MacroOp) : Prop :=
  ∀ (s : State) n c, let m := mk n s c
    let d := s.desc (u8 c 8)
    Issues s op .execute n c → s.aon.ueUnits = [] → s.kvp.rebuilding = [] → s.kvp.later = [] → (s.lane n).kvq.length < 4 →
    InScratch s c (m.srcs ++ [3]) →
    m.stop (s.operandsOf n c) = none →
    Gives (i n) s fun t =>
      t.mem = (s.putRows n d (d.d1 * d.d2 * d.d3) (m.res (s.operandsOf n c))).mem ∧ Passes s t .execute n

/-- A macro-operation of a Lane whose operands lie in its scratchpad and whose D is one tile of an outbound queue with room: the tile is
pushed with a final tag, and with SAT when an element saturated (06_aurik_machine.md R236, R237). -/
def TileRun (i : Nat → Instr) (op : Nat) (mk : Nat → State → List Byte → MacroOp) : Prop :=
  ∀ (s : State) n c, let m := mk n s c
    let d := s.desc (u8 c 8)
    let b := tileBytes d ⟨0, 0, 0, 0⟩ (m.res (s.operandsOf n c) ⟨0, 0, 0, 0⟩)
    Issues s op .execute n c → InScratch s c m.srcs → d.loc = 1 → d.t0 = 1 → d.t1 = 1 → d.d2 = 1 → d.d3 = 1 →
    (s.lane n).run = none → m.stop (s.operandsOf n c) = none → ((s.lane n).tiles d.queue).length < 64 →
    Gives (i n) s fun t =>
      (t.lane n).tiles d.queue = (s.lane n).tiles d.queue ++ [⟨b.1, 0, flagIf b.2 fSAT, 0⟩] ∧ t.mem = s.mem ∧ Passes s t .execute n

/-- A KV command of a Lane finds room in the request queue, and its sequence: a cache that answers, a sequence and layer it has, and no
rebuild that runs or waits (06_aurik_machine.md R255, 08_attention.md R313, R324). -/
def KvFinds (s : State) (n : Nat) (c : List Byte) (layer : Bool) (k a : Nat) : Prop :=
  (s.lane n).kvq.length < 4 ∧ k = u8 c 8 % 4 ∧ s.kvOn k = true ∧ 0 ≤ s.kvRel n c ∧ s.kvRel n c < s.kvpCacheSeqs_NSEQ k ∧
    a = s.kvFirst k + (s.kvRel n c).toNat ∧ (layer = true → u8 c 10 < s.kvpCacheCfg_NLAYER k) ∧ s.kvHeld a = false

/-- A KV command of a Lane may change its sequence: it finds it in no void context, no error lies in its page-table bank, whose entries are
of the table, and the log has room for a mutation of the work epoch, which is of the cache's frame (08_attention.md R313, R322, R330). -/
def KvReady (s : State) (n : Nat) (c : List Byte) (layer : Bool) (k a : Nat) : Prop :=
  s.ctxVoid = false ∧ KvFinds s n c layer k a ∧ (∀ x ∈ s.ptEntries k a (s.kvSeq a).bank, x.1 < 4096) ∧
    (∀ u ∈ s.aon.ueUnits, u < s.ptBank a (s.kvSeq a).bank / 32 ∨ s.ptBank a (s.kvSeq a).bank / 32 + 513 ≤ u) ∧
    s.kvLogFull a = false ∧ s.kvFrameBad k = false

/-- The entries of the Actuation Unit carry numbers given out before, each its own. -/
def Numbered (s : State) : Prop := (∀ e ∈ s.act.entries, e.no < s.act.entryNo) ∧ (s.act.entries.map fun e => e.no).Nodup

/-- Whatever next state the command answers, every byte of device memory outside a set reads as before. -/
def Keeps (c : Instr) (s : State) (w : Nat → Prop) : Prop := ∀ t, exec c s = .next t → ∀ a, ¬w a → t.readByte a = s.readByte a

/-- An address lies in one of `k` rows of `len` bytes, the first at `row 0`. -/
def InRows (k len : Nat) (row : Nat → Nat) (a : Nat) : Prop := ∃ i, i < k ∧ row i ≤ a ∧ a < row i + len

/-- From `s` to `t` a command of one Lane has changed nothing of the Relay and the other Lanes. -/
def LaneAlone (s t : State) (n : Nat) : Prop := (∀ k, k ≠ n → t.lane k = s.lane k) ∧ { t.rly with lanes := s.rly.lanes } = s.rly

/-- Whatever next state the command answers, it changes nothing but the parts listed. -/
def Touches (l : List Part) (c : Instr) : Prop := ∀ s t, exec c s = .next t → Only l s t

end Sys2Proof
end

