-- ==== Sys2Proof/Certificates/Slice0/Obligations.lean ====
section
/-! DEFINITION. The statements for the provers. Each is a closed proposition about the model, its docstring naming the rules of
spec/ it speaks of. `Gives c s P` says that the command runs to a next state with `P`; `Touches l c` that it changes no part of the
state but those listed; `Raised`, `Posted`, `Sent` what is added to a message buffer, a post buffer and the ports' output. -/

open Sys2Proof Sys2Proof.Machine


/-! ### Setup registers (00_scope.md, 01_line.md) -/

/-- R15's two halves of a 64-bit register. A host read of the low half latches the high half, which the next read of the high half
returns and releases; with no latch a read of the high half returns the current one; what a REGWRITE reads back latches and releases
nothing; a write of the low half goes to the holding register and changes nothing else; a write of the high half takes effect together
with the low half last written, or with the low half's reset value where none was written since reset.
The model's readings in it: log 16. -/
def Obligations.HalvesGoTogether : Prop :=
  (∀ (s : State) off, isLow off = true → off % 4 = 0 → s.aon.phase ≠ .held →
    Gives (.lowHalfRead off) s fun t => Only [.latchHi] s t ∧ ∀ u : State, u.latchHi = t.latchHi →
      (u.hostRead (off + 4)).1 = s.readWord (off + 4) ∧ ((u.hostRead (off + 4)).2.hostRead (off + 4)).1 = u.readWord (off + 4)) ∧
  (∀ (s : State) off, isHigh off = true → (∀ x ∈ s.latchHi, x.1 ≠ off - 4) → s.hostRead off = (s.readWord off, s)) ∧
  (∀ n b (s : State), (State.regPairs n b s).s.latchHi = s.latchHi) ∧
  (∀ (s : State) off v, isLow off = true → off % 4 = 0 → s.aon.phase ≠ .held → s.inResetBlock off = false →
    Gives (.lowHalfWrite off v) s fun t => Only [.holdLow] s t ∧ Tab.get 0 off t.holdLow = v) ∧
  (∀ (s : State) off v r i j, regAt off = some ⟨r, i, j, 1⟩ → r.info.width = 64 → off % 4 = 0 → s.aon.phase ≠ .held →
    s.inResetBlock off = false →
    Gives (.highHalfWrite off v) s fun t =>
      t.regs = (s.storeReg r i j ((Tab.get (resetWord (off - 4)) (off - 4) s.holdLow).toNat + 2 ^ 32 * v.toNat)).regs ∧
        t.holdLow = s.holdLow ∧ t.latchHi = s.latchHi)

/-- A write of a 32-bit setup register (R47, R51, R52): each field that is read and written takes its bits brought into its range, an
idle-only one only while its condition holds before the write, and otherwise it keeps its value; of the fields of other access
codes nothing is stored (R16). A range that another field sets is that of its value after the write, and a write of either brings the
dependent field into it: TK.LOCK_CFG by TK.FS_LIMIT, SSP.n.POCXP.EN by BUDGET, IOC.SLOT_CFG.n.DEPTH by the enabled slots and EN by
DEPTH. A 1 to a W1C bit of TK.EVENTS clears it, unless it was set at that instant (R16, R17). A write of a word that is not aligned
changes nothing (R14); an unlisted offset reads 0 and stores nothing (R20). The model's readings in it: log 15. -/
def Obligations.FieldsComeIntoRange : Prop :=
  (∀ (s : State) off v r i j f, regAt off = some ⟨r, i, j, 0⟩ → off % 4 = 0 → r.info.width = 32 → RegOpen s r i j → r ≠ .aonSwreset →
    r ≠ .tkEra → f ∈ r.info.fields → f.acc = .rw → f.range ≠ .dep →
    Gives (.setupRegisterWrite off v) s fun t =>
      bits (t.regFull r i j) f.hi f.lo =
        if f.idle = true ∧ s.idleOk r i j = false then bits (s.regFull r i j) f.hi f.lo else f.take (bits v.toNat f.hi f.lo)) ∧
  (∀ (s : State) off v r i j f, regAt off = some ⟨r, i, j, 0⟩ → off % 4 = 0 → r.info.width = 32 → RegOpen s r i j → r ≠ .aonSwreset →
    r ≠ .tkEra → f ∈ r.info.fields → f.acc ≠ .rw →
    Gives (.setupRegisterWrite off v) s fun t => bits (t.regFull r i j) f.hi f.lo = bits (s.regFull r i j) f.hi f.lo) ∧
  (∀ (s : State) v, RegOpen s .tkLockCfg 0 0 →
    Gives (.setupRegisterWrite (Reg.off .tkLockCfg 0 0) v) s fun t =>
      t.tkFsLimit_LIMIT_NS = s.tkFsLimit_LIMIT_NS ∧
        t.tkLockCfg_THRESH_NS = clampN 10 (min 100000 s.tkFsLimit_LIMIT_NS) (bits v.toNat 16 0)) ∧
  (∀ (s : State) v, RegOpen s .tkFsLimit 0 0 →
    Gives (.setupRegisterWrite (Reg.off .tkFsLimit 0 0) v) s fun t =>
      t.tkFsLimit_LIMIT_NS = clampN 1000 1000000000 (bits v.toNat 29 0) ∧
        t.tkLockCfg_THRESH_NS = clampN 10 (min 100000 t.tkFsLimit_LIMIT_NS) s.tkLockCfg_THRESH_NS) ∧
  (∀ (s : State) n v, n < 16 → RegOpen s .sspPocxp n 0 →
    Gives (.setupRegisterWrite (Reg.off .sspPocxp n 0) v) s fun t =>
      t.sspPocxp_BUDGET n = min (bits v.toNat 8 4) (min 26 (120 - others 16 n s.sspPocxp_BUDGET)) ∧
        t.sspPocxp_EN n = (bit v.toNat 0 && decide (t.sspPocxp_BUDGET n ≠ 0))) ∧
  (∀ (s : State) n v, n < 48 → RegOpen s .iocSlotCfg n 0 → s.iocSlotCfg_EN n = false →
    let o := others 48 n fun k => if s.iocSlotCfg_EN k then s.iocSlotCfg_DEPTH k else 0
    o ≤ 512 →
    Gives (.setupRegisterWrite (Reg.off .iocSlotCfg n 0) v) s fun t =>
      t.iocSlotCfg_DEPTH n = min (bits v.toNat 13 4) (512 - o) ∧
        t.iocSlotCfg_EN n = (bit v.toNat 0 && decide (t.iocSlotCfg_DEPTH n ≠ 0))) ∧
  (∀ (s : State) v k, RegOpen s .tkEvents 0 0 → k < 7 →
    Gives (.setupRegisterWrite (Reg.off .tkEvents 0 0) v) s fun t =>
      bit t.tk.events k = (bit s.tk.events k && !(bit v.toNat k && decide (Tab.get (s.now + 1) k s.tk.eventAt ≠ s.now)))) ∧
  (∀ (s : State) off v, off % 4 ≠ 0 → Gives (.setupRegisterWrite off v) s fun t => t = s) ∧
  (∀ (s : State) off v, regAt off = none →
    s.readWord off = 0 ∧ Gives (.setupRegisterWrite off v) s fun t => t.regs = s.regs ∧ t.holdLow = s.holdLow)

/-! ### Time (02_timekeeper.md) -/

/-- Time messages give offsets and delays by the formula of R71, in 2^-16 ns: a two-step Sync waits for its Follow_Up; a one-step Sync
or the Follow_Up gives the offset t2 − t1 − c − mean_delay − asym once two delays are known; a Delay_Resp and a Pdelay_Resp each give
one raw delay, which enters mean_delay with weight 1/8, the first one whole. The model's readings in it: log 31, 40. -/
def Obligations.TimeMessagesMeasure : Prop :=
  (∀ (s : State) dt port m, m.kind = .sync → m.twoStep = true → (s.pass dt).fromParent port m = true →
    Gives (.syncReceive dt port m) s fun t =>
      let x : PendSync := ⟨port, m.seq, m.clock, m.portNo, (s.pass dt).ingressU port, m.correction⟩
      t = (s.pass dt).modTk fun k => { k with pendSync := some x, relaySync := some x }) ∧
  (∀ (s : State) dt port m, m.kind = .sync → m.twoStep = false → (s.pass dt).fromParent port m = true → 2 ≤ s.tk.nDelay →
    Gives (.syncReceive dt port m) s fun t =>
      t.tk.offset = (s.pass dt).ingressU port - stampU m.stamp - m.correction - s.tk.meanDelay - s.asymU port) ∧
  (∀ (s : State) dt port m x, m.kind = .followUp → (s.pass dt).fromParent port m = true → 2 ≤ s.tk.nDelay →
    s.tk.pendSync = some x → x.matched port m = true →
    Gives (.followUpReceive dt port m) s fun t =>
      t.tk.offset = x.t2 - stampU m.stamp - (x.corr + m.correction) - s.tk.meanDelay - s.asymU port) ∧
  (∀ (s : State) dt port m t3 diff, m.kind = .delayResp → (s.pass dt).fromParent port m = true → m.seq = s.tk.reqSeq →
    m.reqClock = ownClock → m.reqPort = BitVec.ofNat 16 (port + 1) → s.tk.reqT3 = some t3 → s.tk.syncDiff = some diff →
    Gives (.delayRespReceive dt port m) s fun t =>
      let raw := (diff + (stampU m.stamp - t3 - m.correction)) / 2
      t.tk.meanDelay = (if s.tk.nDelay = 0 then raw else s.tk.meanDelay + (raw - s.tk.meanDelay) / 8) ∧
        t.tk.nDelay = s.tk.nDelay + 1 ∧ t.tk.reqLog = m.logInterval) ∧
  (∀ (s : State) dt port m t1, m.kind = .pdelayResp → m.twoStep = false → (s.pass dt).portHears port = true →
    s.tkTakes m = true → s.peerDelay = true → m.seq = (s.pdelay port).seq → m.reqClock = ownClock →
    m.reqPort = BitVec.ofNat 16 (port + 1) → (s.pdelay port).t1 = some t1 → s.rxPort = some port →
    Gives (.pdelayRespReceive dt port m) s fun t =>
      let raw := ((s.pass dt).ingressU port - t1 - m.correction) / 2
      (t.pdelay port).link = some raw ∧ t.tk.nDelay = s.tk.nDelay + 1 ∧
        t.tk.meanDelay = if s.tk.nDelay = 0 then raw else s.tk.meanDelay + (raw - s.tk.meanDelay) / 8)

/-- The device's own delay requests, and its answer as peer-delay responder (R65, R71): the request leaves the receiver port with the
next sequence number at the time its interval gives; a Pdelay_Req is answered with the turnaround time in the correctionField under
ONE_STEP. The model's readings in it: log 33, 40. -/
def Obligations.TimeRequestsLeave : Prop :=
  (∀ (s : State) p, s.rxPort = some p → s.tkCtrl_SOURCE ≠ 0 → s.tkCtrl_DELAY_MECH = false → s.tk.syncDiff ≠ none →
    (s.port p).settling = false → (s.port p).up = true →
    Gives .delayReqSend s fun t =>
      t.now = max s.now (s.tk.reqAt + logTicks s.tk.reqLog) ∧
        t.out = s.out ++ [.ptp p (s.ownMsg .delayReq p (s.tk.reqSeq + 1))] ∧ t.tk.reqSeq = s.tk.reqSeq + 1 ∧
        t.tk.reqT3 = some (t.egressU p)) ∧
  (∀ (s : State) port, port < 2 → s.peerDelay = true → (s.port port).settling = false → (s.port port).up = true →
    Gives (.pdelayReqSend port) s fun t =>
      t.now = max s.now ((s.pdelay port).sentAt + logTicks s.tkPtpCfg_LOG_PDELAY) ∧
        t.out = s.out ++ [.ptp port (s.ownMsg .pdelayReq port ((s.pdelay port).seq + 1))] ∧
        (t.pdelay port).seq = (s.pdelay port).seq + 1 ∧ (t.pdelay port).t1 = some (t.egressU port)) ∧
  (∀ (s : State) dt port m, m.kind = .pdelayReq → s.portHears port = true → s.tkTakes m = true → s.peerDelay = true →
    s.tkCtrl_TC_MODE = false → s.tkCtrl_SOURCE = 1 →
    Gives (.pdelayReqReceive dt port m) s fun t =>
      t.out = s.out ++ [.ptp port { s.ownMsg .pdelayResp port m.seq with
        reqClock := m.clock, reqPort := m.portNo
        correction := m.correction + ((s.pass dt).egressU port - (s.pass dt).ingressU port) }])

/-- The transparent clock and the relay (R65 to R67, R89, R100): in ONE_STEP mode under E2E an event message leaves the other port with
its residence time added to the correctionField; in TWO_STEP mode it leaves unchanged and its follower takes that time; a held message
whose follower stays out for 1 s is dropped and counted; the 802.1AS relay sends a new pair of its own, with the residence time from the
Sync's ingress and the link delay, by the outgoing rateRatio, in its correctionField (DEDUCED, log 156). It says nothing of P2P, of
followers other than Follow_Up, or in TWO_STEP mode of a Sync with twoStepFlag 0 and of delay requests and peer-delay messages. The
model's readings in it: log 34, 39, 155, 156. -/
def Obligations.TransparentClock : Prop :=
  (∀ (s : State) dt port res m, s.tcOn = true → s.portHears port = true → s.tkCtrl_DELAY_MECH = false → s.tkCtrl_TC_MODE = false →
    (m.kind = .sync ∨ m.kind = .delayReq ∨ m.kind = .pdelayReq ∨ m.kind = .pdelayResp) →
    (s.port (1 - port)).settling = false → (s.port (1 - port)).up = true →
    Gives (.tcForward dt port res m) s fun t =>
      t.out = s.out ++ [.ptp (1 - port) { m with
        correction := m.correction + (((s.pass dt).pass res).egressU (1 - port) - (s.pass dt).ingressU port) }] ∧
        t.tk.tcFwd = (s.tk.tcFwd + 1) % 65536) ∧
  (∀ (s : State) dt port res m, s.tcOn = true → s.portHears port = true → s.tkCtrl_DELAY_MECH = false → s.tkCtrl_TC_MODE = true →
    m.kind = .sync → m.twoStep = true → s.tk.tcHeld.length < 32 → (s.port (1 - port)).settling = false →
    (s.port (1 - port)).up = true →
    Gives (.tcForward dt port res m) s fun t =>
      t.out = s.out ++ [.ptp (1 - port) m] ∧
        t.tk.tcHeld = s.tk.tcHeld ++ [⟨m.seq, m.clock, m.portNo, m.domain, .followUp,
          ((s.pass dt).pass res).egressU (1 - port) - (s.pass dt).ingressU port, s.now + dt + res⟩]) ∧
  (∀ (s : State) dt port m h rest, s.tcOn = true → s.portHears port = true → s.tkCtrl_DELAY_MECH = false → m.kind = .followUp →
    s.tk.tcHeld = h :: rest → h.follower = .followUp → h.seq = m.seq → h.clock = m.clock → h.portNo = m.portNo →
    h.domain = m.domain → (s.port (1 - port)).settling = false → (s.port (1 - port)).up = true →
    Gives (.tcFollowerForward dt port m) s fun t =>
      t.out = s.out ++ [.ptp (1 - port) { m with correction := m.correction + h.add }] ∧ t.tk.tcHeld = rest) ∧
  (∀ (s : State) h rest, s.tk.tcHeld = h :: rest →
    Gives .tcOrphanTimeout s fun t =>
      t.tk.tcHeld = rest ∧ t.tk.tcOrphan = satAdd 65535 s.tk.tcOrphan 1 ∧ t.now = max s.now (h.at_ + 4000000000)) ∧
  (∀ (s : State) dt port res m z, s.tkCtrl_SOURCE = 2 → s.tkCtrl_TC_EN = true → m.kind = .followUp → s.fromParent port m = true →
    s.tk.relaySync = some z → z.matched port m = true → (s.port (1 - port)).settling = false → (s.port (1 - port)).up = true →
    Gives (.asRelaySync dt port res m) s fun t =>
      let cum := m.rateRatio + (s.pdelay port).ratio
      let d := ((s.pass dt).pass res).egressU (1 - port) + (((s.pdelay port).link).getD 0 - z.t2)
      ∃ x y, t.out = s.out ++ [.ptp (1 - port) x, .ptp (1 - port) y] ∧ x.kind = .sync ∧ x.twoStep = true ∧ y.kind = .followUp ∧
        x.clock = ownClock ∧ y.clock = ownClock ∧ x.seq = s.tk.relaySeq + 1 ∧ y.seq = x.seq ∧ y.rateRatio = cum ∧
        y.correction = z.corr + m.correction + d + d * cum / 2 ^ 41 ∧ t.tk.relaySync = none)

/-- The Timekeeper's changes of state that no offset makes (R32, R73 to R76, R79, R98, R100): the hold timeout and the loss of the
receiver's link or of every parent lead to HOLDOVER; SOURCE starts ACQUIRE and stops in FREE; ACCEPT_STEP arms only a pending step;
SET_TIME and ERA set device time while SOURCE is FREE; the era counts up as SEC wraps. The model's readings in it: log 30, 31. -/
def Obligations.TimekeeperChanges : Prop :=
  (∀ s : State, s.tk.state = .acquire ∨ s.tk.state = .locked →
    Gives .holdTimeout s fun t =>
      t.tk.state = .holdover ∧ t.tk.adj = s.tk.integ ∧ t.now = max s.now (s.tk.acceptAt + s.tkHoldCfg_TIMEOUT_MS * 4000000)) ∧
  (∀ (s : State) dt p, s.rxPort = some p → s.tk.state = .acquire ∨ s.tk.state = .locked → s.tkCtrl_RX_PORT ≠ 2 →
    Gives (.rxLinkDrop dt) s fun t => t.tk.state = .holdover ∧ t.tk.adj = s.tk.integ ∧ t.tk.parent = none) ∧
  (∀ (s : State) v, RegOpen s .tkAcceptStep 0 0 → bit v.toNat 0 = true →
    Gives (.acceptStep v) s fun t => t.tk.stepArmed = (s.tk.stepPend || s.tk.stepArmed)) ∧
  (∀ (s : State) v, RegOpen s .tkCtrl 0 0 → s.tkCtrl_SOURCE = 0 → (s.storeReg .tkCtrl 0 0 v.toNat).tkCtrl_SOURCE ≠ 0 →
    s.tk.rx = none →
    Gives (.sourceWrite v) s fun t => t.tk.state = .acquire ∧ t.tk.nDelay = 0 ∧ t.tk.stepPend = false) ∧
  (∀ (s : State) v, RegOpen s .tkCtrl 0 0 → (s.storeReg .tkCtrl 0 0 v.toNat).tkCtrl_SOURCE = 0 →
    Gives (.sourceWrite v) s fun t => t.tk.state = .free ∧ t.tk.rx = none ∧ t.tk.parent = none) ∧
  (∀ (s : State) v, RegOpen s .tkSetTime 0 0 → s.tkCtrl_SOURCE = 0 → s.tk.baseAt ≤ s.now →
    Gives (.setTime v) s fun t => t.dev = v ∧ t.tk.isSet = true ∧ t.tk.integ = s.tk.integ ∧ t.tk.adj = s.tk.adj ∧ t.now = s.now) ∧
  (∀ (s : State) v, RegOpen s .tkEra 0 0 → s.tkCtrl_SOURCE = 0 → s.tk.baseAt ≤ s.now →
    Gives (.eraWrite v) s fun t =>
      t.dev = s.dev ∧ t.tk.totalAt t.now / 2 ^ 64 = v.toNat % 65536 ∧ t.tk.events = s.tk.events ∧ t.tk.isSet = s.tk.isSet) ∧
  (∀ s : State, s.tk.baseAt ≤ s.now → devDen ≤ devRate s.tk.adj → devRate s.tk.adj < 2 * devDen →
    Gives .eraWrap s fun t =>
      t = { s with now := t.now } ∧ s.now ≤ t.now ∧ t.tk.totalAt t.now / 2 ^ 64 = (s.tk.totalAt s.now / 2 ^ 64 + 1) % 65536 ∧
        t.dev.toNat < 2)

/-- What the Timekeeper raises (R98): COPY_SLIP at a slip, HOLD_LIMIT once for an entry to HOLDOVER or REFUSED, when HOLD_UNC exceeds its
limit, SERVO_RAIL once for a run at the rail, which its 64th update makes due.
The model's readings in it: log 36, 38. -/
def Obligations.TimekeeperRaises : Prop :=
  (∀ (s : State) u, HasRoom s 0x5E → Gives (.copySlip u) s fun t => Raised s t 0x01 0x5E 0xFF 0) ∧
  (∀ s : State, HasRoom s 0x5E → s.tk.state = .holdover ∨ s.tk.state = .refused → s.tk.uncRaised = false →
    Gives .holdLimit s fun t =>
      Raised s t 0x02 0x5E 0xFF (t.tk.unc t.now / 65536) ∧ t.tk.uncRaised = true ∧ t.tk.events = putBits s.tk.events 5 5 1 ∧
        s.tkHoldCfg_LIMIT_US * 1000 < t.tk.unc t.now / 65536) ∧
  (∀ (s : State) dt port m, m.kind = .sync → m.twoStep = false → (s.pass dt).fromParent port m = true → 2 ≤ s.tk.nDelay →
    s.tk.state = .locked →
    let off := (s.pass dt).ingressU port - stampU m.stamp - m.correction - s.tk.meanDelay - s.asymU port
    let lim := s.railU
    let integ := clampI (-lim) lim (s.tk.integ + off * s.tkPacerGain_KI / 65536)
    (off.natAbs : Int) ≤ s.tkFsLimit_LIMIT_NS * 65536 → s.atRail (clampI (-lim) lim (off * s.tkPacerGain_KP / 4096 + integ)) = true →
    s.tk.railRun = 63 →
    Gives (.syncReceive dt port m) s fun t => t.tk.integ = integ ∧ t.tk.railDue = true) ∧
  (∀ s : State, HasRoom s 0x5E → s.tk.railDue = true →
    Gives .servoRail s fun t => Raised s t 0x03 0x5E 0xFF 0 ∧ t.tk.railDue = false ∧ Gives .servoRail t fun u => u = t)

/-- An offset beyond TK.FS_LIMIT while time is established, in ACQUIRE, LOCKED or HOLDOVER (R73, R74): a one-step Sync that gives it
leaves the Timekeeper in REFUSED with the pending step, counted, and device time runs on without a step.
The model's readings in it: log 28. -/
def Obligations.FalseStartRefuses : Prop :=
  ∀ (s : State) dt port m, m.kind = .sync → m.twoStep = false → (s.pass dt).fromParent port m = true → 2 ≤ s.tk.nDelay →
    s.tk.isSet = true → (s.tk.state = .acquire ∨ s.tk.state = .locked ∨ s.tk.state = .holdover) →
    (s.tkFsLimit_LIMIT_NS : Int) * 65536 <
      ((s.pass dt).ingressU port - stampU m.stamp - m.correction - s.tk.meanDelay - s.asymU port).natAbs →
    Gives (.syncReceive dt port m) s fun t =>
      t.tk.state = .refused ∧ t.tk.stepPend = true ∧ t.tk.fsCount = satAdd 0xFFFFFFFF s.tk.fsCount 1 ∧
        t.tk.events = putBits s.tk.events 0 0 1 ∧ t.tk.integ = s.tk.integ ∧ t.tk.adj = s.tk.integ ∧
        t.tk.totalAt t.now = s.tk.totalAt t.now

/-- The choice of a parent (R73, R79, R80): a first qualified time transmitter becomes the parent and its port the receiver port, with
the delay measurement begun afresh and integ kept, also when it is the one that was lost before (DEDUCED, log 154); the last one's
announce timeout leads to HOLDOVER. The model's readings in it: log 32, 154. -/
def Obligations.ParentsChosen : Prop :=
  (∀ (s : State) dt port m x, m.kind = .announce → s.portHears port = true → s.tkTakes m = true → s.rxEnabled port = true →
    s.tk.parent = none →
    let u := (s.pass dt).modTk fun k =>
      { k with foreign := k.foreign.filter (fun x => !decide (x.clock = m.clock ∧ x.portNo = m.portNo ∧ x.port = port)) ++
        [⟨m.gm, m.clock, m.portNo, port, s.now + dt,
          (s.tk.foreign.find? fun x => decide (x.clock = m.clock ∧ x.portNo = m.portNo ∧ x.port = port)).map fun x => x.last⟩] }
    u.bestForeign = some x →
    Gives (.announceReceive dt port m) s fun t =>
      t.tk.foreign = u.tk.foreign ∧ t.tk.parent = some ⟨x.gm, x.clock, x.portNo, s.tkCtrl_DOMAIN, x.port⟩ ∧ t.tk.rx = some x.port ∧
        t.tk.nDelay = 0 ∧ t.tk.integ = s.tk.integ ∧ t.tk.events = putBits s.tk.events 4 4 1) ∧
  (∀ (s : State) p x, s.tk.parent = some p → s.tk.foreign = [x] → x.clock = p.clock → x.portNo = p.portNo → x.port = p.port →
    (s.tk.state = .acquire ∨ s.tk.state = .locked) →
    Gives .announceTimeout s fun t =>
      t.tk.state = .holdover ∧ t.tk.parent = none ∧ t.tk.foreign = [] ∧ t.now = max s.now (x.last + s.annTimeout x))

/-- Capture inputs (R69, R81, R96): an edge while the unit is enabled is held with its stamp; as its filter time elapses the level
follows and a selected edge of a present input writes its CAP_EDGE record into the input's slot; a stalled or disabled input is
declared absent. The model's readings in it: log 35, 159. -/
def Obligations.CaptureInputs : Prop :=
  (∀ (s : State) dt n level, n < 32 → s.tkCapCfg_EN n = true → (s.cap n).cands = [] → (s.cap n).pin ≠ level →
    s.islandUp 0 = true → (∀ x, (s.cap n).snap = some x → x.at_ ≠ s.now + dt) → (s.pass dt).capHeld n [] < 16 →
    (∀ x, (s.cap n).edgeAt = some x → x + 16 ≤ s.now + dt) →
    Gives (.capEdge dt n level) s fun t =>
      let u := s.pass dt
      t.cap n = { s.cap n with
        pin := level, cands := [⟨u.capStamp n, level, u.now, u.tuncAt (u.capStamp n), false, false⟩], edgeAt := some u.now
        snap := some ⟨u.now, (s.cap n).pin, [], (s.cap n).edgeAt⟩ }) ∧
  (∀ (s : State) n x rest, (s.cap n).cands = x :: rest → (s.cap n).absent = false → s.tkCapCfg_EN n = true →
    s.capSelects n x.level = true → x.lost = false → x.blind = false → s.ing.refused.contains (capSrc n) = false →
    Gives (.capFilterValidate n) s fun t =>
      t.now = max s.now (x.at_ + s.capFilter n) ∧
        t.cap n = { s.cap n with
          cands := rest, snap := none, level := x.level, stallAt := t.now, stallRan := 0, count := (s.cap n).count + 1, missed := 0
          freeAt := (s.cap n).written t.now } ∧
        ∃ a : State, a.regs = s.regs ∧ a.ing = s.ing ∧ a.now = t.now ∧
          t.slot (s.tkCapCfg_SLOT n) = (a.recIn (s.tkCapCfg_SLOT n) (mkRec 0x08 (0x38 + n) (flagIf x.tunc fTUNC) 0 x.stamp
            (by4 ((s.cap n).count + 1).toNat ++ by1 (s.cap n).missed ++ by1 (b2n x.level) ++ zeros 2))).slot (s.tkCapCfg_SLOT n)) ∧
  (∀ (s : State) n, n < 32 → s.tkCapCfg_EN n = true → s.tkCapStall_EN n = true → s.tkCapStall_GATE_EN n = false →
    (s.cap n).absent = false →
    Gives (.capStall n) s fun t =>
      (t.cap n).absent = true ∧ t.tk.events = putBits s.tk.events 6 6 1 ∧
        t.now = max s.now (stallEnd (s.cap n).stallAt (s.tkCapStall_STALL_MS n * 4000000 - (s.cap n).stallRan))) ∧
  (∀ (s : State) n v, n < 32 → RegOpen s .tkCapCfg n 0 → bit v.toNat 0 = false → s.tkCapCfg_EN n = true →
    (s.storeReg .tkCapCfg n 0 v.toNat).tkCapCfg_EN n = false → (s.storeReg .tkCapCfg n 0 v.toNat).tkCapStall_EN n = true →
    (s.cap n).absent = false →
    Gives (.capDisable n v) s fun t => (t.cap n).absent = true ∧ (∀ x ∈ (t.cap n).cands, x.blind = true) ∧
      t.tk.events = putBits s.tk.events 6 6 1)

/-! ### Sensor ports and ingest (03_sensor_ports.md) -/

/-- Words at a slot (R107, R108, R147): with room a word is written; without it an open FIFO_GAP marker takes the last entry; while the
marker is open a word that starts no unit counts in it; a word that starts one closes it; a disabled slot drops and counts. EN of a
slot, written 1 or 0, empties the FIFO. A camera or SEN stream silent for STALL_MS is declared absent with a STREAM_STATE record.
The model's readings in it: log 52, 159. -/
def Obligations.SlotsTakeWords : Prop :=
  (∀ (s : State) n m d, n < 48 → s.iocSlotCfg_EN n = true → (s.slot n).gapOpen = false → (s.slot n).fifo.length + 2 ≤ s.slotDepth n →
    Gives (.wordArrive n m d) s fun t =>
      (t.slot n).fifo = (s.slot n).fifo ++ [⟨m, d⟩] ∧ (t.slot n).hwm = max (s.slot n).hwm ((s.slot n).fifo.length + 1) ∧
        (t.slot n).gapOpen = false ∧ (t.slot n).drop = (s.slot n).drop ∧ (t.slot n).absent = (s.slot n).absent) ∧
  (∀ (s : State) n m d, n < 48 → s.iocSlotCfg_EN n = true → (s.slot n).gapOpen = false → s.slotDepth n < (s.slot n).fifo.length + 2 →
    Gives (.wordArrive n m d) s fun t =>
      (t.slot n).fifo = (s.slot n).fifo ++ [markerWord 1 1 (b2n (Entry65.startsRec ⟨m, d⟩))] ∧ (t.slot n).gapOpen = true ∧
        (t.slot n).drop = satAdd 0xFFFFFFFF (s.slot n).drop 1) ∧
  (∀ (s : State) n m d k l, n < 48 → s.iocSlotCfg_EN n = true → (s.slot n).gapOpen = true → (s.slot n).fifo = l ++ [k] →
    Entry65.startsUnit ⟨m, d⟩ = false →
    Gives (.wordArrive n m d) s fun t =>
      (t.slot n).fifo = l ++ [markerWord 1 (satAdd 0xFFFFFFFF k.count 1) k.recs] ∧ (t.slot n).gapOpen = true ∧
        (t.slot n).drop = satAdd 0xFFFFFFFF (s.slot n).drop 1) ∧
  (∀ (s : State) n m d, n < 48 → s.iocSlotCfg_EN n = true → (s.slot n).gapOpen = true → Entry65.startsUnit ⟨m, d⟩ = true →
    (s.slot n).fifo.length + 2 ≤ s.slotDepth n →
    Gives (.wordArrive n m d) s fun t =>
      (t.slot n).fifo = (s.slot n).fifo ++ [⟨m, d⟩] ∧ (t.slot n).gapOpen = false ∧ (t.slot n).drop = (s.slot n).drop) ∧
  (∀ (s : State) n m d, n < 48 → s.iocSlotCfg_EN n = false →
    Gives (.wordArrive n m d) s fun t => t.slot n = { s.slot n with drop := satAdd 0xFFFFFFFF (s.slot n).drop 1 }) ∧
  (∀ (s : State) n v, n < 48 → RegOpen s .iocSlotCfg n 0 →
    (s.storeReg .iocSlotCfg n 0 v.toNat).iocSlotCfg_EN n = !s.iocSlotCfg_EN n →
    Gives (.slotEnableWrite n v) s fun t =>
      (t.slot n).fifo = [] ∧ (t.slot n).gapOpen = false ∧ t.iocSlotCfg_EN n = !s.iocSlotCfg_EN n ∧
        (t.iocSlotCfg_EN n = true → (t.slot n).hwm = 0)) ∧
  (∀ (s : State) n, s.iocSlotCfg_EN n = true → s.iocSlotCfg_STALL_EN n = true → (s.slot n).absent = false →
    (∃ x ∈ (s.slot n).srcs, x.kind = 1 ∨ x.kind = 3) →
    Gives (.slotStall n) s fun t =>
      t.now = max s.now (stallEnd (s.slot n).stallAt (s.iocSlotCfg_STALL_MS n * 4000000)) ∧
        t.slot n = ((({ s with now := t.now }).modSlot n fun x => { x with absent := true }).recIn n
          (streamStateRec n 1 0 t.dev t.tunc)).slot n)

/-- Sources come and go by their enables (R103, R122, R128, R129, R133, R134, R147): enabled, a source holds the free slot its register
names, begins afresh, and a stopped quad of it settles; disabled, it holds the slot no more and drops what it had under way.
The model's readings in it: log 47, 164, 165. -/
def Obligations.SourcesAttach : Prop :=
  (∀ (s : State) n v, n < 16 → RegOpen s .sspCtrl n 0 →
    let u := s.storeReg .sspCtrl n 0 v.toNat
    s.sspLive n = false → u.sspLive n = true → (∀ k, k < 16 → k ≠ n → s.sspLive k = u.sspLive k) → (s.slot (u.sspCtrl_SLOT n)).srcs = [] →
    (s.quad (n / 4)).running = false → (s.quad (n / 4)).fault = false →
    Gives (.sspEnableWrite n v) s fun t =>
      t.camHolds n = true ∧ (t.quad (n / 4)).settling = true ∧ (t.ssp n).stage = none ∧ (t.ssp n).held = []) ∧
  (∀ (s : State) n v, n < 16 → RegOpen s .sspCtrl n 0 →
    let u := s.storeReg .sspCtrl n 0 v.toNat
    s.sspLive n = true → u.sspLive n = false → (∀ k, k < 16 → k ≠ n → s.sspLive k = u.sspLive k) →
    Gives (.sspEnableWrite n v) s fun t => t.camHolds n = false ∧ (t.ssp n).up = false ∧ (t.ssp n).held = [] ∧ (t.ssp n).stage = none) ∧
  (∀ (s : State) p v q, p < 4 → RegOpen s .senCtrl p 0 → s.senCtrl_EN p = false →
    let u := s.storeReg .senCtrl p 0 v.toNat
    u.senCtrl_EN p = true → u.senLive p = [q] → (s.slot (s.senStreamCfg_SLOT p q)).srcs = [] → (s.quad 4).running = false →
    (s.quad 4).fault = false →
    Gives (.senEnableWrite p v) s fun t => t.senHolds p q = true ∧ (t.quad 4).settling = true ∧ (t.stream p q).stage = none) ∧
  (∀ (s : State) p v, p < 4 → RegOpen s .senCtrl p 0 → s.senCtrl_EN p = true →
    (s.storeReg .senCtrl p 0 v.toNat).senCtrl_EN p = false →
    Gives (.senEnableWrite p v) s fun t =>
      (t.sen p).up = false ∧ (t.sen p).speed = 0 ∧ ∀ q, q < 4 → s.senStreamCfg_EN p q = true → t.senHolds p q = false) ∧
  (∀ (s : State) p q v, p < 4 → q < 4 → RegOpen s .senStreamCfg p q → s.senCtrl_EN p = true → s.senStreamCfg_EN p q = false →
    let u := s.storeReg .senStreamCfg p q v.toNat
    u.senStreamCfg_EN p q = true → (s.slot (u.senStreamCfg_SLOT p q)).srcs = [] →
    Gives (.senStreamEnableWrite p q v) s fun t => t.senHolds p q = true ∧ (t.stream p q).stage = none ∧ (t.stream p q).prof = none) ∧
  (∀ (s : State) n v, n < 8 → RegOpen s .mpEncCfg n 0 → s.mpEncCfg_EN n = false →
    let u := s.storeReg .mpEncCfg n 0 v.toNat
    u.mpEncCfg_EN n = true → (s.slot (u.mpEncCfg_SLOT n)).srcs = [] →
    Gives (.encEnableWrite n v) s fun t =>
      t.encHolds n = true ∧ (t.enc n).edges = [] ∧ (t.enc n).cands = [] ∧ (t.enc n).lineFault = 0 ∧ (t.enc n).count = (s.enc n).count ∧
        (t.enc n).batchAt = s.now) ∧
  (∀ (s : State) n v, n < 8 → RegOpen s .mpEncCfg n 0 → s.mpEncCfg_EN n = true →
    (s.storeReg .mpEncCfg n 0 v.toNat).mpEncCfg_EN n = false →
    Gives (.encEnableWrite n v) s fun t => t.encHolds n = false ∧ (t.enc n).edges = [] ∧ (t.enc n).absent = true) ∧
  (∀ (s : State) n v, n < 8 → RegOpen s .mpSpiCfg n 0 → s.mpSpiCfg_EN n = false →
    let u := s.storeReg .mpSpiCfg n 0 v.toNat
    u.mpSpiCfg_EN n = true → (s.slot (u.mpSpiCfg_SLOT n)).srcs = [] →
    Gives (.spiEnableWrite n v) s fun t => t.spiHolds n = true ∧ (t.spi n).run = none ∧ (t.spi n).timerAt = s.now) ∧
  (∀ (s : State) n v, n < 8 → RegOpen s .mpSpiCfg n 0 → s.mpSpiCfg_EN n = true →
    (s.storeReg .mpSpiCfg n 0 v.toNat).mpSpiCfg_EN n = false →
    Gives (.spiEnableWrite n v) s fun t => t.spiHolds n = false ∧ (t.spi n).run = none ∧ (t.spi n).absent = true)

/-- A camera's link, packets and power (R120, R122, R124, R127, R141, R147): a port's link comes up at the camera's rate, MAX_RATE
at most, and its group with the last of the members, at the lowest of their rates; a member's drop takes the group down, declares
the slot absent and settles the quad; a packet with a wrong CRC is counted; pixels that complete a record write it into the slot; an
event packet becomes a CXP_EVT record, one beyond 1 024 bytes is dropped and counted; PoCXP goes on after detection, and off at a
trip; detection that finds no device goes on (16_module.md R580). The model's readings in it: log 42, 48, 49, 50, 62. -/
def Obligations.CameraLinks : Prop :=
  (∀ (s : State) dt n rate hs, let m := s.sspMaster n
    s.sspLive m = true → (s.ssp n).link = false → (s.ssp m).up = false → (∀ k ∈ s.groupPorts m, k ≠ n → (s.ssp k).link = true) →
    (s.quad (n / 4)).running = true → (s.quad (n / 4)).settling = false → (s.quad (n / 4)).fault = false →
    Gives (.cxpLinkUp dt ⟨n, rate, hs⟩) s fun t =>
      (t.ssp m).up = true ∧ (t.ssp n).link = true ∧ (t.ssp n).linkRate = min rate (s.sspCtrl_MAX_RATE m) ∧
        (∀ k ∈ s.groupPorts m, (t.ssp m).rate ≤ (t.ssp k).linkRate) ∧ (t.ssp m).camera = true ∧
        (t.ssp m).hs = ((t.ssp m).linkHs && s.sspCtrl_HS_UPLINK m)) ∧
  (∀ (s : State) dt n rate hs, s.sspLive (s.sspMaster n) = true → (s.ssp n).link = false →
    (∃ k ∈ s.groupPorts (s.sspMaster n), k ≠ n ∧ (s.ssp k).link = false) →
    Gives (.cxpLinkUp dt ⟨n, rate, hs⟩) s fun t => (t.ssp (s.sspMaster n)).up = (s.ssp (s.sspMaster n)).up) ∧
  (∀ (s : State) dt n, let m := s.sspMaster n
    (s.ssp n).link = true → (s.ssp m).up = true → s.camHolds m = true → (s.quad (m / 4)).fault = false →
    Gives (.cxpLinkDown dt n) s fun t =>
      (t.ssp m).up = false ∧ (t.ssp m).rate = 7 ∧ (t.ssp m).stage = none ∧ (t.slot (s.sspCtrl_SLOT m)).absent = true ∧
        (t.quad (m / 4)).settling = true) ∧
  (∀ (s : State) dt n p, s.sspLive n = true → (s.ssp n).up = true → p.crcOk = false →
    Gives (.cxpStreamPacket dt n p) s fun t =>
      (t.ssp n).pktErr = satAdd 65535 (s.ssp n).pktErr 1 ∧ (t.ssp n).lost = (s.ssp n).lost + 1 ∧
        t.slot (s.sspCtrl_SLOT n) = s.slot (s.sspCtrl_SLOT n)) ∧
  (∀ (s : State) dt n p d x y r, s.sspLive n = true → (s.ssp n).up = true → p.crcOk = true → p.streamId = s.sspCtrl_STREAM_ID n →
    (s.ssp n).lost = 0 → (s.ssp n).tag = none → p.items = [.pixels d] → (s.ssp n).stage = some x → x.broken = false →
    x.row < x.height → s.camHolds n = true → (s.slot (s.sspCtrl_SLOT n)).absent = false →
    ImgStage.give (s.sspCtrl_SLOT n) (s.sspCtrl_KIND n) false (x.height + 1) { x with data := x.data ++ d } = ([r], y) →
    Gives (.cxpStreamPacket dt n p) s fun t =>
      t.slot (s.sspCtrl_SLOT n) =
        { ((s.pass dt).recIn (s.sspCtrl_SLOT n) r).slot (s.sspCtrl_SLOT n) with stallAt := t.now }) ∧
  (∀ (s : State) dt n data, s.sspLive n = true → (s.ssp n).up = true → data.length ≤ 1024 → s.camHolds n = true →
    (s.slot (s.sspCtrl_SLOT n)).absent = false →
    Gives (.cxpEventPacket dt n data) s fun t =>
      t.slot (s.sspCtrl_SLOT n) =
        { ((s.pass dt).recIn (s.sspCtrl_SLOT n) (mkRec 0x05 (s.sspCtrl_SLOT n) (flagIf s.tunc fTUNC) 0 t.dev
            (by2 data.length ++ zeros 6 ++ data))).slot (s.sspCtrl_SLOT n) with stallAt := t.now }) ∧
  (∀ (s : State) dt n data, s.sspLive n = true → (s.ssp n).up = true → 1024 < data.length →
    Gives (.cxpEventPacket dt n data) s fun t =>
      (t.ssp n).refused = satAdd 65535 (s.ssp n).refused 1 ∧ t.ing.slots = s.ing.slots) ∧
  (∀ (s : State) n v, n < 16 → RegOpen s .sspPocxp n 0 → s.sspPocxp_EN n = false → s.aon.powerGood = true →
    (s.storeReg .sspPocxp n 0 v.toNat).sspPocxp_EN n = true →
    Gives (.pocxpEnableWrite n v) s fun t => (t.ssp n).detecting = true ∧ (t.ssp n).pocxpTrip = false) ∧
  (∀ (s : State) n v, n < 16 → RegOpen s .sspPocxp n 0 → s.sspPocxp_EN n = true →
    (s.storeReg .sspPocxp n 0 v.toNat).sspPocxp_EN n = false →
    Gives (.pocxpEnableWrite n v) s fun t => (t.ssp n).pocxpOn = false ∧ (t.ssp n).detecting = false) ∧
  (∀ (s : State) dt n ok, (s.ssp n).detecting = true →
    Gives (.pocxpDetectionDone dt n ok) s fun t => (t.ssp n).pocxpOn = ok ∧ (t.ssp n).detecting = !ok) ∧
  (∀ (s : State) dt n, (s.ssp n).pocxpOn = true →
    Gives (.pocxpTrip dt n) s fun t => (t.ssp n).pocxpOn = false ∧ (t.ssp n).pocxpTrip = true)

/-- Quads (R143, R144): a lock ends the settle and sends the held frames in order; a settle that reaches its limit contains the quad; a
bit of IOC.QUAD_RETRY settles a contained quad again. The model's readings in it: log 42. -/
def Obligations.QuadsSettle : Prop :=
  (∀ (s : State) dt q, (s.quad q).settling = true →
    Gives (.quadLock dt q) s fun t =>
      (t.quad q).settling = false ∧ (t.quad q).running = true ∧ (t.quad q).held = [] ∧ t.out = s.out ++ (s.quad q).held) ∧
  (∀ (s : State) q, (s.quad q).settling = true →
    Gives (.quadSettleLimit q) s fun t =>
      (t.quad q).fault = true ∧ (t.quad q).settling = false ∧ (t.quad q).running = false ∧
        t.now = max s.now ((s.quad q).settleAt + s.iocSettle_LIMIT_US * 4000)) ∧
  (∀ (s : State) v q, RegOpen s .iocQuadRetry 0 0 → q < 5 → bit v.toNat q = true → (s.quad q).fault = true →
    Gives (.quadRetry v) s fun t => (t.quad q).fault = false ∧ (t.quad q).settling = true ∧ (t.quad q).retry = true)

/-- Camera transactions and I2C transfers (R123, R135, R149): the command leaves and its wait begins; an acknowledgment, an error or the
end of the wait completes the descriptor with OK, ERROR or TIMEOUT, a wait acknowledgment extends it up to 5 s in all; an I2C transfer
ends OK, NACK, BUS_ERROR or TIMEOUT, the last two with a bus clear; SCL held in idle for STRETCH_MS makes the bus held, a held bus
ends a transaction BUS_HELD, and REENABLE runs the bus clear. The model's readings in it: log 60, 61, 62, 166. -/
def Obligations.PortTransactions : Prop :=
  (∀ (s : State) o, startable s.hl.ops [] (fun o => decide (o.xactPort < 16) && !bit (u8 o.desc 14) 0) = some o →
    bit (u8 o.desc 14) 0 = false → s.sspLive o.xactPort = true → (s.ssp o.xactPort).up = true →
    (s.quad (o.xactPort / 4)).settling = false →
    Gives .portXactCxpWrite s fun t =>
      t.out = s.out ++ [.cxpWrite o.xactPort (BitVec.ofNat 32 (u32 o.desc 8)) (o.inl 0 (clampN 1 48 (u16 o.desc 12)))] ∧
        (t.ssp o.xactPort).xactAt = some (s.now, s.now + 800000000)) ∧
  (∀ (s : State) o, startable s.hl.ops [] (fun o => decide (o.xactPort < 16) && bit (u8 o.desc 14) 0) = some o →
    bit (u8 o.desc 14) 0 = true → s.sspLive o.xactPort = true → (s.ssp o.xactPort).up = true →
    (s.quad (o.xactPort / 4)).settling = false →
    Gives .portXactCxpRead s fun t =>
      t.out = s.out ++ [.cxpRead o.xactPort (BitVec.ofNat 32 (u32 o.desc 8)) (clampN 1 48 (u16 o.desc 12))] ∧
        (t.ssp o.xactPort).xactAt = some (s.now, s.now + 800000000)) ∧
  (∀ (s : State) dt n data o x, s.xactOf n = some o → s.hl.ops.find? (Op.is o.ring o.didx) = some o → (s.ssp n).xactAt = some x →
    Gives (.cxpAckReceive dt n (.ok data)) s fun t =>
      (t.ssp n).xactAt = none ∧
        Completed s t o 0 0 (if bit (u8 o.desc 14) 0 then sub data 0 (clampN 1 48 (u16 o.desc 12))
          else by2 (clampN 1 48 (u16 o.desc 12)))) ∧
  (∀ (s : State) dt n code o x, s.xactOf n = some o → s.hl.ops.find? (Op.is o.ring o.didx) = some o → (s.ssp n).xactAt = some x →
    Gives (.cxpAckReceive dt n (.error code)) s fun t => (t.ssp n).xactAt = none ∧ Completed s t o 4 (code % 256) []) ∧
  (∀ (s : State) dt n ms o a b, s.xactOf n = some o → (s.ssp n).xactAt = some (a, b) →
    Gives (.cxpAckReceive dt n (.wait ms)) s fun t =>
      (t.ssp n).xactAt = some (a, min (a + 20000000000) (max b (s.now + dt + ms * 4000000))) ∧ t.hl = s.hl) ∧
  (∀ (s : State) n o a b, s.xactOf n = some o → s.hl.ops.find? (Op.is o.ring o.didx) = some o → (s.ssp n).xactAt = some (a, b) →
    Gives (.cxpXactTimeout n) s fun t => (t.ssp n).xactAt = none ∧ t.now = max s.now b ∧ Completed s t o 3 0 []) ∧
  (∀ (s : State) o, startable s.hl.ops [] (fun o => decide (16 ≤ o.xactPort)) = some o → s.i2cEn (o.xactPort - 16) = true →
    o.busHeld = false → (s.i2c (o.xactPort - 16)).held = false → (s.i2c (o.xactPort - 16)).stuck = none →
    Gives .portXactI2c s fun t =>
      (t.i2c (o.xactPort - 16)).busy = true ∧ t.now = max s.now (s.i2c (o.xactPort - 16)).clearEnd ∧
        t.out = s.out ++ [.i2c (o.xactPort - 16) (u8 o.desc 8 % 128) (o.inl 0 (min 40 (u8 o.desc 9))) (min 32 (u8 o.desc 10))]) ∧
  (∀ (s : State) o, startable s.hl.ops [] (fun o => decide (16 ≤ o.xactPort)) = some o →
    s.hl.ops.find? (Op.is o.ring o.didx) = some o → s.i2cEn (o.xactPort - 16) = true →
    (s.i2c (o.xactPort - 16)).stuck = none → o.busHeld = true ∨ (s.i2c (o.xactPort - 16)).held = true →
    Gives .portXactI2c s fun t => Completed s t o 7 0 []) ∧
  (∀ (s : State) dt n data o, (s.i2c n).busy = true → s.xactOf (16 + n) = some o →
    s.hl.ops.find? (Op.is o.ring o.didx) = some o →
    Gives (.i2cXferDone dt n (.ok data)) s fun t =>
      (t.i2c n).busy = false ∧
        Completed s t o 0 0 (if min 32 (u8 o.desc 10) = 0 then by2 (min 40 (u8 o.desc 9)) else sub data 0 (min 32 (u8 o.desc 10)))) ∧
  (∀ (s : State) dt n k o, (s.i2c n).busy = true → s.xactOf (16 + n) = some o → s.hl.ops.find? (Op.is o.ring o.didx) = some o →
    Gives (.i2cXferDone dt n (.nack k)) s fun t => (t.i2c n).busy = false ∧ Completed s t o 5 (k % 256) []) ∧
  (∀ (s : State) dt n low o, (s.i2c n).busy = true → s.xactOf (16 + n) = some o → s.hl.ops.find? (Op.is o.ring o.didx) = some o →
    low ≤ 9 →
    Gives (.i2cXferDone dt n (.busError low)) s fun t =>
      (t.i2c n).busy = false ∧ (t.i2c n).held = false ∧ (t.i2c n).clears = satAdd 65535 (s.i2c n).clears 1 ∧
        (t.i2c n).clearEnd = t.now + low * s.i2cClock n ∧ t.out = s.out ++ [.i2cClear n] ∧ Completed s t o 6 0 []) ∧
  (∀ (s : State) dt n low o, (s.i2c n).busy = true → s.xactOf (16 + n) = some o → s.hl.ops.find? (Op.is o.ring o.didx) = some o →
    low ≤ 9 →
    Gives (.i2cStretchTimeout dt n low) s fun t =>
      (t.i2c n).busy = false ∧ (t.i2c n).held = false ∧ (t.i2c n).clears = satAdd 65535 (s.i2c n).clears 1 ∧
        t.now = max (s.now + dt) ((s.i2c n).since + s.i2cStretch n * 4000000 + 1) ∧
        (t.i2c n).clearEnd = t.now + low * s.i2cClock n ∧ t.out = s.out ++ [.i2cClear n] ∧ Completed s t o 3 0 []) ∧
  (∀ (s : State) dt n, s.i2cEn n = true → (s.i2c n).busy = false → (s.i2c n).held = false → (s.i2c n).stuck = none →
    Gives (.i2cSclHeldIdle dt n) s fun t =>
      (t.i2c n).held = true ∧ t.now = max (s.now + dt) (max (s.i2c n).clearEnd ((s.i2c n).since + s.i2cStretch n * 4000000))) ∧
  (∀ (s : State) n v, n < 8 → RegOpen s .mpI2cCtrl n 0 → bit v.toNat 0 = true → s.mpI2cCfg_EN n = true → (s.i2c n).busy = false →
    s.i2cClearing n = false →
    Gives (.i2cReenable n v) s fun t =>
      (t.i2c n).clears = satAdd 65535 (s.i2c n).clears 1 ∧ .i2cClear n ∈ t.out ∧ (t.i2c n).held = false)

/-- Triggers (R125, R126, R143, R145): a trigger falls due at its instant and is held, or dropped and counted while eight are held;
the oldest held one leaves once its port may launch, with what is left of its delay and the stamp of its due instant, or of the
launch when it is late by more than TOL or was held over a settle; one held through a settle beyond TOL becomes late; TRIG_ONE
schedules a one-shot, or ends NOT_READY on a disabled port. The model's readings in it: log 37, 42, 44, 45, 46, 160. -/
def Obligations.TriggersLaunch : Prop :=
  (∀ (s : State) n x, s.sspLive n = true → earliest (s.trigSources n) = some x → (s.ssp n).up = true → (s.ssp n).held.length < 8 →
    Gives (.triggerDue n) s fun t =>
      t.now = s.whenDev x.1 ∧ ∃ k, (t.ssp n).held = (s.ssp n).held ++ [⟨x.1, false, k, false⟩]) ∧
  (∀ (s : State) n x, s.sspLive n = true → earliest (s.trigSources n) = some x → 8 ≤ (s.ssp n).held.length →
    Gives (.triggerDue n) s fun t =>
      (t.ssp n).held = (s.ssp n).held ∧ (t.ssp n).dropped = satAdd 255 (s.ssp n).dropped 1) ∧
  (∀ (s : State) n x rest, (s.ssp n).held = x :: rest → (s.quad (n / 4)).settling = false → (s.ssp n).up = true →
    Gives (.triggerLaunch n) s fun t =>
      let late := x.late || decide (0 < dtSub t.dev (dtAdd x.due (s.trigTol n)))
      t.now = max s.now ((s.ssp n).launchAt.elim 0 fun a => a + s.trigGap n) ∧
        t.out = s.out ++ [.cxpTrigger n (if late then 0 else (dtSub t.dev x.due).toNat)] ∧
        (t.ssp n).held = rest ∧ (t.ssp n).launchAt = some t.now ∧ (t.ssp n).sent = ((s.ssp n).sent + 1) % 65536 ∧
        (t.ssp n).stamps = (s.ssp n).stamps ++ [if late || x.egress then t.dev else x.due] ∧
        (t.ssp n).late = if late then satAdd 255 (s.ssp n).late 1 else (s.ssp n).late) ∧
  (∀ (s : State) n x rest, (s.ssp n).held = x :: rest → x.late = false → (s.quad (n / 4)).settling = true →
    Gives (.heldTriggerLate n) s fun t =>
      (t.ssp n).held = { x with late := true } :: rest ∧ t.now = max s.now (s.whenDev (dtAdd x.due (s.trigTol n + 1)))) ∧
  (∀ (s : State) o, Heads s 0x02 o → s.sspLive (s.sspMaster (min o.target 15)) = true →
    (s.quad (s.sspMaster (min o.target 15) / 4)).fault = false →
    Gives .trigOne s fun t =>
      (t.ssp (s.sspMaster (min o.target 15))).shots = (s.ssp (s.sspMaster (min o.target 15))).shots ++
        [⟨shotNo o.ring o.didx, bit (u8 o.desc 8) 0, u8 o.desc 9 % 8, BitVec.ofNat 64 (o.inlNat 0 8), BitVec.ofNat 48 (o.inlNat 0 8)⟩]) ∧
  (∀ (s : State) o, Heads s 0x02 o → s.sspLive (s.sspMaster (min o.target 15)) = false →
    Gives .trigOne s fun t => Completed s t o 2 0 [])

/-- Sensor Ethernet ports (R129 to R132, R142): a link comes up at the forced or negotiated rate, and goes down with its live
streams absent; a frame above 9 216 bytes is not taken; a datagram with a wrong sum or of no stream is counted; a leader begins an
image, payload that completes a record writes it; a profile not complete 1 ms after its first packet closes and is counted. The
model's readings in it: log 50, 51, 53, 62, 163. -/
def Obligations.SensorEthernet : Prop :=
  (∀ (s : State) dt p speed, s.senCtrl_EN p = true → (s.sen p).up = false → (s.quad 4).running = true → (s.quad 4).settling = false →
    (s.quad 4).fault = false →
    Gives (.senLinkUp dt p speed) s fun t =>
      (t.sen p).up = true ∧ (t.sen p).speed = if s.senCtrl_SPEED p = 0 then clampN 1 4 speed else s.senCtrl_SPEED p) ∧
  (∀ (s : State) dt p, (s.sen p).up = true → (s.quad 4).fault = false →
    Gives (.senLinkDown dt p) s fun t =>
      (t.sen p).up = false ∧ (t.sen p).speed = 0 ∧ (t.quad 4).settling = true ∧
        ∀ q, q ∈ s.senLive p → s.senHolds p q = true → (t.slot (s.senStreamCfg_SLOT p q)).absent = true) ∧
  (∀ (s : State) dt p d, (s.sen p).up = true → frameLen d ≤ 9216 → d.sumOk = false →
    Gives (.senDatagram dt p d) s fun t => (t.sen p).badFrame = satAdd 65535 (s.sen p).badFrame 1 ∧ t.ing.slots = s.ing.slots) ∧
  (∀ (s : State) dt p d, (s.sen p).up = true → frameLen d ≤ 9216 → d.sumOk = true → (s.senLive p).find? (s.senMatch p d) = none →
    Gives (.senDatagram dt p d) s fun t => (t.sen p).noMatch = satAdd 65535 (s.sen p).noMatch 1 ∧ t.ing.slots = s.ing.slots) ∧
  (∀ (s : State) dt p d, 9216 < frameLen d → Gives (.senDatagram dt p d) s fun t => t.ing = s.ing) ∧
  (∀ (s : State) dt p d q b ts w h pf f, (s.sen p).up = true → d.sumOk = true → (s.senLive p).find? (s.senMatch p d) = some q →
    s.senStreamCfg_PROTO p q = false → d.data = .leader b true ts w h pf → (s.stream p q).stage = none → pixFmt pf = some f →
    Gives (.senDatagram dt p d) s fun t =>
      (t.stream p q).block = some b ∧ (t.stream p q).packet = 1 ∧
        ∃ x, (t.stream p q).stage = some x ∧ x.width = w ∧ x.height = h ∧ x.pixfmt = f.code ∧ x.row = 0 ∧ x.data = [] ∧
          x.time = if s.senStreamCfg_TIME_SRC p q then gvspTime ts else t.arrival (s.senLat_NS p)) ∧
  (∀ (s : State) dt p d q b k y x z r, (s.sen p).up = true → frameLen d ≤ 9216 → d.sumOk = true →
    (s.senLive p).find? (s.senMatch p d) = some q →
    s.senStreamCfg_PROTO p q = false → d.data = .payload b k y → (s.stream p q).block = some b → (s.stream p q).other = false →
    (s.stream p q).packet = k → (s.stream p q).skip = 0 → (s.stream p q).stage = some x → x.row < x.height → s.senHolds p q = true →
    (s.slot (s.senStreamCfg_SLOT p q)).absent = false →
    ImgStage.give (s.senStreamCfg_SLOT p q) (s.senStreamCfg_KIND p q) false (x.height + 1)
      { x with data := x.data ++ y } = ([r], z) →
    Gives (.senDatagram dt p d) s fun t =>
      (t.stream p q).stage = some { z with pkts := if z.data = [] then 0 else z.pkts + 1 } ∧ (t.stream p q).packet = k + 1 ∧
        t.slot (s.senStreamCfg_SLOT p q) =
          { ((s.pass dt).recIn (s.senStreamCfg_SLOT p q) r).slot (s.senStreamCfg_SLOT p q) with stallAt := t.now }) ∧
  (∀ (s : State) p q x, (s.stream p q).prof = some x → x.points.length < x.total →
    Gives (.profileCloseTimeout p q) s fun t =>
      t.now = max s.now (x.at_ + 4000000) ∧ (t.stream p q).prof = none ∧ (t.stream p q).lastId = some x.id ∧
        (t.stream p q).lost = satAdd 65535 (s.stream p q).lost 1 ∧ (t.stream p q).blocks = ((s.stream p q).blocks + 1) % 65536)

/-- Motion ports (R118, R119, R133, R134, R147, R148): an encoder line that changes is stamped; when its filter time is over a transition
of A counts up or down, or is illegal within 40 ns of the one before; each batch closes after BATCH_US; line faults are kept by line;
inertial transactions start at data-ready or by the timer, an overrun is counted, and an end writes the IMU record; both kinds of channel
are declared absent when they stall. The model's readings in it: log 56, 57, 58, 59, 159. -/
def Obligations.MotionPorts : Prop :=
  (∀ (s : State) dt n line level, s.mpEncCfg_EN n = true → (s.enc n).lastCand line = none → (s.enc n).level line ≠ level →
    Gives (.encEdge dt n line level) s fun t =>
      t.enc n = { s.enc n with cands := (s.enc n).cands ++ [⟨line, level, t.dev, s.now + dt, s.tunc⟩] }) ∧
  (∀ (s : State) n c, (s.enc n).cands = [c] → c.line = 0 → (∀ a ∈ (s.enc n).edgeAt, a + 160 ≤ c.at_) →
    Gives (.encFilterValidate n 0) s fun t =>
      t.now = max s.now (c.at_ + 40 * s.mpEncCfg_FILTER n) ∧ (t.enc n).a = c.level ∧
        (t.enc n).count = (if (c.level != (s.enc n).b) != s.mpEncCfg_INV n then (s.enc n).count + 1 else (s.enc n).count - 1) ∧
        (t.enc n).qerr = (s.enc n).qerr ∧ (t.enc n).edges.length = (s.enc n).edges.length + 1) ∧
  (∀ (s : State) n c a, (s.enc n).cands = [c] → c.line = 0 → (s.enc n).edgeAt = some a → c.at_ < a + 160 →
    Gives (.encFilterValidate n 0) s fun t =>
      (t.enc n).a = c.level ∧ (t.enc n).count = (s.enc n).count ∧ (t.enc n).qerr = satAdd 65535 (s.enc n).qerr 1 ∧
        (t.enc n).edges = (s.enc n).edges) ∧
  (∀ (s : State) n, s.mpEncCfg_EN n = true → s.encHolds n = true → (s.slot (s.mpEncCfg_SLOT n)).absent = false →
    Gives (.encBatchClose n) s fun t =>
      t.now = max s.now ((s.enc n).batchAt + s.mpEncCfg_BATCH_US n * 4000) ∧ (t.enc n).batchAt = t.now ∧ (t.enc n).edges = [] ∧
        (t.enc n).count = (s.enc n).count ∧
        t.slot (s.mpEncCfg_SLOT n) =
          (eachOf (encRecords (s.mpEncCfg_SLOT n) (s.enc n).count t.dev s.tunc (s.enc n).batchQerr (s.enc n).batchFault
            ((s.enc n).edges.length + 1) (s.enc n).edges) (fun r (u : State) => u.recIn (s.mpEncCfg_SLOT n) r) { s with now := t.now }).slot
              (s.mpEncCfg_SLOT n)) ∧
  (∀ (s : State) dt n line, s.mpEncCfg_EN n = true → s.mpEncCfg_ELEC n = false → bit (s.enc n).lineFault line = false →
    Gives (.encLineFault dt n line) s fun t => bit (t.enc n).lineFault line = true ∧ (t.enc n).batchFault = true) ∧
  (∀ (s : State) dt n line, Gives (.encLineFaultClear dt n line) s fun t => bit (t.enc n).lineFault line = false) ∧
  (∀ (s : State) n, s.mpEncCfg_EN n = true → s.mpEncStall_EN n = true → (s.enc n).absent = false → s.mpEncStall_GATE_EN n = false →
    s.encHolds n = true →
    Gives (.encStallTimeout n) s fun t =>
      (t.enc n).absent = true ∧ (t.slot (s.mpEncCfg_SLOT n)).absent = true ∧
        t.now = max s.now (stallEnd (s.enc n).stallAt (s.mpEncStall_STALL_MS n * 4000000 - (s.enc n).stallRan))) ∧
  (∀ (s : State) dt n, s.mpSpiCfg_EN n = true → s.mpSpiXact_TRIG n ≠ 2 → (s.spi n).run = none →
    Gives (.spiDataReady dt n) s fun t =>
      (t.spi n).run = some ⟨t.spiStamp false, t.tuncAt (t.spiStamp false), false, s.mpSpiXact_RD_LEN n⟩ ∧
        t.out = s.out ++ [.spi n ((by4 (s.mpSpiCmd_CMD n)).take (s.mpSpiXact_CMD_LEN n)) (s.mpSpiXact_RD_LEN n) (s.mpSpiCfg_MODE n)
          (s.spiDiv n) (s.mpSpiCfg_RX_DELAY n)]) ∧
  (∀ (s : State) dt n r, s.mpSpiCfg_EN n = true → s.mpSpiXact_TRIG n ≠ 2 → (s.spi n).run = some r →
    Gives (.spiDataReady dt n) s fun t =>
      (t.spi n).run = some r ∧ (t.spi n).overrun = satAdd 65535 (s.spi n).overrun 1 ∧ t.out = s.out) ∧
  (∀ (s : State) n, s.mpSpiCfg_EN n = true → s.mpSpiXact_TRIG n = 2 → (s.spi n).run = none →
    Gives (.spiTimer n) s fun t =>
      t.now = max s.now ((s.spi n).timerAt + s.mpSpiPeriod_NS n * 4) ∧
        (t.spi n).run = some ⟨t.dev, t.tuncAt t.dev, true, s.mpSpiXact_RD_LEN n⟩ ∧
        t.out = s.out ++ [.spi n ((by4 (s.mpSpiCmd_CMD n)).take (s.mpSpiXact_CMD_LEN n)) (s.mpSpiXact_RD_LEN n) (s.mpSpiCfg_MODE n)
          (s.spiDiv n) (s.mpSpiCfg_RX_DELAY n)]) ∧
  (∀ (s : State) dt n data r, (s.spi n).run = some r → s.spiHolds n = true → (s.slot (s.mpSpiCfg_SLOT n)).absent = false →
    Gives (.spiXactDone dt n data) s fun t =>
      (t.spi n).run = none ∧ (t.spi n).sample = (s.spi n).sample + 1 ∧
        t.slot (s.mpSpiCfg_SLOT n) =
          { ((s.pass dt).recIn (s.mpSpiCfg_SLOT n) (mkRec 0x04 (s.mpSpiCfg_SLOT n) (flagIf r.tunc fTUNC) 0 r.stamp
              (by2 (s.spi n).sample.toNat ++ by1 r.len ++ by1 (b2n r.timer) ++ zeros 4 ++ sub data 0 r.len))).slot
                (s.mpSpiCfg_SLOT n) with stallAt := t.now }) ∧
  (∀ (s : State) n, s.mpSpiCfg_EN n = true → s.mpSpiStall_EN n = true → (s.spi n).absent = false → s.mpSpiXact_TRIG n ≠ 2 →
    s.spiHolds n = true →
    Gives (.spiStallTimeout n) s fun t =>
      (t.spi n).absent = true ∧ (t.slot (s.mpSpiCfg_SLOT n)).absent = true ∧
        t.now = max s.now (stallEnd (s.spi n).stallAt (s.mpSpiStall_STALL_MS n * 4000000)))

/-! ### Motion Estimator and Alignment Pan (04_motion_pan.md) -/

/-- Fusion (R154, R155, R158, R187, R189): the first tick of a frame takes the position that the count gives from ORIGIN with v and a 0; a
later one without inertial data predicts, and corrects by the residual, or starts afresh from the count when the residual exceeds
MOT.f.RESID; a MOTION record is issued each DIV × 10 ticks; EN of a frame starts it afresh, its clearing and an absent encoder slot make it
absent with its ticks kept. The model's readings in it: log 63, 64, 65. -/
def Obligations.MotionTicks : Prop :=
  (∀ (s : State) f, let s0 := s.motDrain
    let m := s0.motion f
    let t0 := s0.devAt (40000 * m.next)
    let x := countAt (dtAdd t0 m.ahead) m.count m.edges
    let pm := wrapS 64 (s.motOrigin_ORIGIN f * 65536 +
      (if s.motCtrl_DIR f then -1 else 1) * (x.1 - m.cStart.getD x.1).toInt * s.motScale_SCALE f)
    m.enabled = true → m.absent = false → (s0.slot (s.motCtrl_ENC_SLOT f)).absent = false →
    m.close.any (fun c => dtGe c (dtAdd t0 m.ahead)) = true →
    40000 * m.next ≤ s0.now → m.first = true →
    Gives (.fusionTick f) s fun t =>
      (t.motion f).ticks.head? = some ⟨t0, BitVec.ofInt 64 pm, 0, 0⟩ ∧ (t.motion f).tconf = some t0 ∧
        (t.motion f).next = m.next + 1 ∧ (t.motion f).first = false ∧ (t.motion f).count = x.1) ∧
  (∀ (s : State) f k, let s0 := s.motDrain
    let m := s0.motion f
    let t0 := s0.devAt (40000 * m.next)
    let x := countAt (dtAdd t0 m.ahead) m.count m.edges
    let pm := wrapS 64 (s.motOrigin_ORIGIN f * 65536 +
      (if s.motCtrl_DIR f then -1 else 1) * (x.1 - m.cStart.getD x.1).toInt * s.motScale_SCALE f)
    let pp := wrapS 64 (k.p.toInt + k.v.toInt + k.a.toInt / 2)
    let vp := wrapS 64 (k.v.toInt + k.a.toInt)
    let r := wrapS 64 (pm - pp)
    m.enabled = true → m.absent = false → (s0.slot (s.motCtrl_ENC_SLOT f)).absent = false →
    m.close.any (fun c => dtGe c (dtAdd t0 m.ahead)) = true →
    40000 * m.next ≤ s0.now → m.first = false → m.ticks.head? = some k → s.motCtrl_IMU_EN f = false →
    Gives (.fusionTick f) s fun t =>
      (r.natAbs ≤ s.motResid_UNITS f * 65536 → (t.motion f).residCnt = m.residCnt ∧
        (t.motion f).ticks.head? = some ⟨t0,
          BitVec.ofInt 64 (wrapS 64 (pp + wrapS 64 (r * s.motGainA_GP f) / 65536)),
          BitVec.ofInt 64 (wrapS 64 (vp + wrapS 64 (r * s.motGainA_GV f) / 65536)),
          BitVec.ofInt 64 (wrapS 64 (k.a.toInt + wrapS 64 (r * s.motGainB_GA f) / 65536))⟩) ∧
      (s.motResid_UNITS f * 65536 < r.natAbs → (t.motion f).residCnt = satAdd 65535 m.residCnt 1 ∧
        (t.motion f).ticks.head? = some ⟨t0, BitVec.ofInt 64 pm, BitVec.ofInt 64 vp, 0⟩)) ∧
  (∀ (s : State) f k, (s.motion f).ticks.head? = some k → 10 * s.motReport_DIV ≤ (s.motion f).sinceReport → s.motCtrl_REPORT f = true →
    let r := mkRec 0x10 (0x30 + f) (flagIf (s.tuncAt k.t) fTUNC) 0 k.t
      (by8i (k.pos k.t).toInt ++ by4i (velUm k.v) ++ by4i (accUm k.a) ++
        by1 (b2n (s.motion f).absent + 2 * b2n (s.motCtrl_IMU_EN f && (s.slot (s.motCtrl_IMU_SLOT f)).absent) +
          4 * b2n (s.motion f).resid) ++ zeros 7)
    Gives (.motionReport f) s fun t =>
      (t.motion f).sinceReport = (s.motion f).sinceReport - 10 * s.motReport_DIV ∧ (t.motion f).resid = false ∧
        (s.motReport_EN = true → PostRoom s s.motReport_RING (recBytes r).length → Posted s t s.motReport_RING (recBytes r))) ∧
  (∀ (s : State) f v, f < 8 → RegOpen s .motCtrl f 0 → bit v.toNat 0 = true → s.motCtrl_EN f = false →
    (s.storeReg .motCtrl f 0 v.toNat).motCtrl_EN f = true →
    Gives (.motFrameEnable f v) s fun t =>
      (t.motion f).enabled = true ∧ (t.motion f).absent = false ∧ (t.motion f).ticks = [] ∧ (t.motion f).tconf = none ∧
        (t.motion f).first = true ∧ (t.motion f).next = s.now / 40000 + 1) ∧
  (∀ (s : State) f v, f < 8 → RegOpen s .motCtrl f 0 → bit v.toNat 0 = false → s.motCtrl_EN f = true →
    (s.storeReg .motCtrl f 0 v.toNat).motCtrl_EN f = false →
    Gives (.motFrameDisable f v) s fun t =>
      (t.motion f).enabled = false ∧ (t.motion f).ticks = (s.motion f).ticks ∧ (t.motion f).tconf = (s.motion f).tconf) ∧
  (∀ (s : State) f, (s.motion f).enabled = true → (s.motion f).absent = false → (s.slot (s.motCtrl_ENC_SLOT f)).absent = true →
    Gives (.frameAbsent f) s fun t =>
      (t.motion f).absent = true ∧ (t.motion f).ticks = (s.motion f).ticks ∧ (t.motion f).tconf = (s.motion f).tconf)

/-- Samples (R112, R163, R167 to R169, R190): the Pan takes a marker or a record from the slot of a live stream, and a record waits to be
placed; a sample that can be placed joins its bands and moves the watermark; one on predicted motion is placed afresh on confirmed motion;
a stream with nothing to read forfeits the next band once its wait is over; an uncorrectable error makes its transform entry invalid, a
corrected one is raised. The model's readings in it: log 69, 70, 72, 73, 76, 159, 167. -/
def Obligations.SamplesPlaced : Prop :=
  (∀ (s : State) n e u, s.panCtrl_EN = true → s.iocSlotCfg_EN n = true → s.iocSlotCfg_CONSUMER n = false → s.panStreamCfg_EN n = true →
    s.panFrameCfg_EN (s.panStreamCfg_FRAME n) = true → s.flt.safe = false → 32768 ≤ s.storeFree →
    (s.pf (s.panStreamCfg_FRAME n)).held < s.maxBands (s.panStreamCfg_FRAME n) → s.slotTake n = some (.marker e, u) →
    Gives (.panSampleRead n) s fun t => t.slot n = u.slot n ∧ (t.ps n).gapNext = true) ∧
  (∀ (s : State) n b u o v, s.panCtrl_EN = true → s.iocSlotCfg_EN n = true → s.iocSlotCfg_CONSUMER n = false →
    s.panStreamCfg_EN n = true → s.panFrameCfg_EN (s.panStreamCfg_FRAME n) = true → s.flt.safe = false → 32768 ≤ s.storeFree →
    (s.pf (s.panStreamCfg_FRAME n)).held < s.maxBands (s.panStreamCfg_FRAME n) → s.slotTake n = some (.record b, u) →
    (s.pf (s.panStreamCfg_FRAME n)).absent = false → projects (recOf b) = true → hasPoint (recOf b) = true →
    u.storePut b = some (o, v) →
    Gives (.panSampleRead n) s fun t =>
      t.slot n = u.slot n ∧ t.mem = v.mem ∧ t.pan.blocks = v.pan.blocks ∧ (t.ps n).gapNext = false ∧
        ∃ y, (t.ps n).waiting = (s.ps n).waiting ++ [y] ∧ y.raw = o ∧ y.source = recOf b ∧ y.slot = n ∧ y.gap = (s.ps n).gapNext) ∧
  (∀ (s : State) n w rest a b k0 lo j js, let f := s.panStreamCfg_FRAME n
    s.panFrameCfg_EN f = true → (s.ps n).waiting = w :: rest → (s.pf f).next = some k0 →
    s.project (s.bankFor f (some k0)) w = some a → s.rowLost f a = false → s.placed f a = some b →
    s.bankFor f (some (s.leadBand f b)) = s.bankFor f (some k0) → lowest b.coords = some lo → s.joins f k0 b = j :: js →
    Gives (.samplePlace n) s fun t =>
      (t.ps n).waiting = rest ∧ (t.ps n).wm = some lo ∧ (t.pf f).samples = (s.pf f).samples ++ [{ b with bands := j :: js }] ∧
        (t.pf f).next = some k0) ∧
  (∀ (s : State) n x l, let f := s.panStreamCfg_FRAME n
    (s.pf f).samples.find? (fun x => decide (x.slot = n) && x.pred && s.confirmable f x) = some x → x.unplaced = false →
    s.rowPos f x = some l → (∀ y ∈ (s.pf f).samples, y.id = x.id → y = x) →
    Gives (.sampleReplace n) s fun t => ∀ y ∈ (t.pf f).samples, y.id = x.id → y.pred = false ∧ y.pos = l) ∧
  (∀ (s : State) f n k due, (s.pf f).next = some k → s.panDue f = some due → s.flt.safe = false → n ∈ s.frameStreams f →
    (s.slot n).fifo = [] → (s.slot n).snap = none → (s.ps n).waiting = [] → (s.slot n).absent = false → s.passed f n k = false →
    bit (s.pf f).forfeit n = false →
    Gives (.streamForfeit f n) s fun t =>
      t.now = max s.now (stallEnd due (s.panStreamWait_US n * 4000)) ∧ bit (t.pf f).forfeit n = true ∧
        (t.ps n).forfeits = satAdd 65535 (s.ps n).forfeits 1) ∧
  (∀ (s : State) dt a, a < 0x20000 → HasRoom s 0x58 →
    Gives (.panSramUe dt ⟨a, true⟩) s fun t =>
      Raised s t 0x19 0x58 0xFF ((panBase + a) / 256) ∧ (t.xformAt (a / 0x10000) (a / 128 % 512)).valid = false) ∧
  (∀ (s : State) dt a, HasRoom s 0x58 →
    Gives (.panSramUe dt ⟨a, false⟩) s fun t => Raised s t 0x18 0x58 0xFF ((panBase + a) / 256) ∧ t.pan = s.pan)

/-- Releases and notices (R43, R168, R170, R171, R175, R176): the next band, once every stream has passed it, has forfeited it or is
absent, is released with its token given to the Sluice, of two frames at one instant the lower first, and the next band one on; a
re-release bears the same band; the Sluice feeds the band queue while it holds fewer than 64; a credit marks its release; a
provisional epoch becomes confirmable, or is recalled, when motion confirms its rows; the oldest confirmable one is sealed. The
model's readings in it: log 66, 70, 74, 75. -/
def Obligations.BandsReleased : Prop :=
  (∀ (s : State) f k e u, let s0 := s.ticked f
    let s1 := (s0.panMark f).refreshAll f fun _ => true
    let gone := (s0.frameStreams f).filter fun n => (s0.slot n).absent
    let forf := (s0.frameStreams f).filter fun n => bit (s0.pf f).forfeit n
    s0.panCtrl_EN = true → s0.panFrameCfg_EN f = true → s0.flt.safe = false → (s0.pf f).drain = none → (s0.pf f).absent = false →
    (s0.pf f).releases.any (fun r => r.again) = false → (s0.pf f).next = some k →
    (∀ n ∈ s0.frameStreams f, s0.streamDone f n = true) →
    s1.nextEpoch f ((s1.pf f).samples.any fun x => x.bands.contains k && x.pred) = some e →
    s1.releaseBand f k e (maskOf gone) (maskOf forf) false = some u →
    Gives (.bandRelease f) s fun t =>
      (t.pf f).next = some (k + 1) ∧ (t.pf f).resume = false ∧
        ∃ r ∈ (t.pf f).releases, ∃ time, r.k = k ∧ r.epoch = e ∧ r.absent = maskOf gone ∧ r.forfeit = maskOf forf ∧ r.credit = false ∧
          r.settle = (if epSeq e = 0 then .final else .pending) ∧
          t.pan.sluice = s0.sluicePut f (.band f k e r.off time)) ∧
  (∀ (s : State) f r u, nextAgain (s.pf f).releases = some r → s.reRelease f = some u →
    Gives (.reRelease f) s fun t =>
      ∃ r' ∈ (t.pf f).releases, ∃ time, r'.k = r.k ∧ r'.bank = r.bank ∧ r'.credit = false ∧
        t.pan.sluice = s.sluicePut f (.band f r.k r'.epoch r'.off time)) ∧
  (∀ (s : State) x rest, s.pan.sluice = x :: rest → s.rly.bandq.length < 64 → (∀ e t, x ≠ .rcl e t) →
    Gives .sluiceTokenPlace s fun t => t.pan.sluice = rest ∧ t.rly.bandq = s.rly.bandq ++ [⟨x, false⟩]) ∧
  (∀ (s : State) o rest, s.pan.credits = o :: rest →
    Gives .bandDoneCredit s fun t => t.pan.credits = rest ∧ ∀ f, ∀ r ∈ (t.pf f).releases, r.off = o → r.credit = true) ∧
  (∀ (s : State) f r, let s1 := s.freshenAll f fun _ => true
    (s1.pf f).releases.find?
      (fun r => decide (r.settle = .pending) && r.samples.all fun x => !x.pred || s1.confirmable f x) = some r →
    r.samples.any (s1.differs f (s.panFrameRecallTol_UNITS f)) = false →
    Gives (.epochDecide f) s fun t =>
      (t.pf f).releases = (s1.pf f).releases.map fun q =>
        if q.epoch = r.epoch ∧ q.settle = .pending then { q with settle := .confirmable } else q) ∧
  (∀ (s : State) f r, let s1 := s.freshenAll f fun _ => true
    (s1.pf f).releases.find?
      (fun r => decide (r.settle = .pending) && r.samples.all fun x => !x.pred || s1.confirmable f x) = some r →
    r.samples.any (s1.differs f (s.panFrameRecallTol_UNITS f)) = true →
    Gives (.epochDecide f) s fun t =>
      t.pan.sluice = s.pan.sluice ++ [.rcl r.epoch s.dev] ∧ (t.pf f).recalls = ((s.pf f).recalls + 1) % 65536 ∧
        ∀ e ∈ (t.pf f).outst, seqGe (epSeq e) (epSeq r.epoch) = false) ∧
  (∀ (s : State) f e rest r, (s.pf f).outst = e :: rest → r ∈ (s.pf f).releases → r.epoch = e → r.settle = .confirmable →
    Gives (.sealIssue f) s fun t =>
      t.pan.sluice = s.pan.sluice ++ [.seal e s.dev] ∧ (t.pf f).seals = ((s.pf f).seals + 1) % 65536 ∧ e ∉ (t.pf f).outst)

/-- Calibration and band formation (R166, R178, R189): PAN_LOAD copies DRAM into the shadow bank; PAN_SWAP changes a frame over at once
when it has assembled nothing, otherwise at the first band it has not begun; when every frame has changed over, the new active bank is
copied and PAN_SWAP completes; EN of a frame starts band formation afresh, its clearing discards what is not released and recalls the
oldest provisional epoch. The model's readings in it: log 73, 76. -/
def Obligations.PanCalibration : Prop :=
  (∀ (s : State) o, Heads s 0x10 o → bit (o.inlNat 16 1) 0 = false → s.pan.swapPend = false → s.swapBefore o = false →
    let src := o.inlNat 0 8 / 8 * 8
    let dest := o.inlNat 8 4 / 128 * 128
    let n := min (o.inlNat 12 4) (min (0x10000 - dest) (dramSize - src))
    Gives .panLoad s fun t =>
      Completed s t o 0 0 (by4 n) ∧
        (o.jsw = none → t.mem = (s.writeMem (panBase + 0x10000 * (1 - s.pan.bank) + dest) (s.readMem src n)).mem)) ∧
  (∀ (s : State) o, Heads s 0x11 o → s.pan.swapPend = false →
    Gives .panSwap s fun t =>
      t.pan.swapPend = true ∧ t.pan.bank = s.pan.bank ∧
        ∀ f, f < 8 → if s.swapsNow f then (t.pf f).bank = 1 - s.pan.bank ∧ (t.pf f).swapAt = none
          else (∀ x ∈ (s.pf f).begun, x.2.2 ≠ s.now) → (t.pf f).swapAt = some (s.firstNew f) ∧ (t.pf f).bank = (s.pf f).bank) ∧
  (∀ (s : State) o, s.pan.swapPend = true → (∀ f, f < 8 → s.changedOver f = true) →
    s.hl.ops.find? (fun o => decide (o.code = 0x11) && o.taken) = some o → s.hl.ops.find? (Op.is o.ring o.didx) = some o →
    Gives .panSwapCopyDone s fun t =>
      t.pan.bank = 1 - s.pan.bank ∧ t.pan.swapPend = false ∧ Completed s t o 0 0 (by1 (1 - s.pan.bank)) ∧
        (o.jsw = none →
          t.mem = (s.writeMem (panBase + 0x10000 * s.pan.bank) (s.readMem (panBase + 0x10000 * (1 - s.pan.bank)) 0x10000)).mem)) ∧
  (∀ (s : State) f v, f < 8 → RegOpen s .panFrameCfg f 0 → bit v.toNat 0 = true → s.panFrameCfg_EN f = false →
    (s.storeReg .panFrameCfg f 0 v.toNat).panFrameCfg_EN f = true →
    Gives (.panFrameEnable f v) s fun t =>
      (t.pf f).next = none ∧ (t.pf f).samples = [] ∧ (t.pf f).forfeit = 0 ∧ (t.pf f).lastSeq = (s.pf f).lastSeq) ∧
  (∀ (s : State) f v, f < 8 → RegOpen s .panFrameCfg f 0 → bit v.toNat 0 = false → s.panFrameCfg_EN f = true →
    (s.storeReg .panFrameCfg f 0 v.toNat).panFrameCfg_EN f = false →
    Gives (.panFrameDisable f v) s fun t =>
      (t.pf f).next = none ∧ (t.pf f).samples = [] ∧ (∀ r ∈ (t.pf f).releases, r.again = false) ∧
        ∀ e rest, (s.pf f).outst = e :: rest → t.pan.sluice = s.pan.sluice ++ [.rcl e s.dev])

/-! ### Track Engine (05_track.md) -/

/-- The Track Engine at its intake and output (R199, R207, R209, R210, R216, R220, R222, R223): a SEAL settles the segments up to its epoch,
a RECALL with no segment to undo leaves the tracks alone; a batch that passes its checks counts and gives one TRACK_BATCH with the
class's table as the batch's work makes it, a refused one changes no track; a record is written into the output area with its token in the
track queue; TRK_CLEAR empties the named classes; an uncorrectable error frees its entry and is raised, a
corrected one is raised. The model's readings in it: log 78, 81, 83, 85, 167. -/
def Obligations.TrackBatches : Prop :=
  (∀ (s : State) p rest e x, s.trk.intake = p :: rest → s.trk.outq = [] → p.hand = none → p.recalls = [] →
    p.seals = [(epFrame e, x)] → x.epoch = e → epSeq e ≠ 0 → viewOf s.trk.view e = 0 →
    Gives .trkNotice s fun t =>
      t.trk.intake = rest ∧ t.trk.view = viewNotice s.trk.view false e x.named ∧ t.trk.table = s.trk.table ∧
        ∀ c, c < 16 → s.trkClassCfg_FRAME c = epFrame e → ∀ g ∈ (t.cls c).segs, concerns false e g.epoch = false) ∧
  (∀ (s : State) p rest e x, s.trk.intake = p :: rest → s.trk.outq = [] → p.hand = none → p.seals = [] →
    p.recalls = [(epFrame e, x)] → x.epoch = e → epSeq e ≠ 0 → viewOf s.trk.view e = 0 →
    (∀ c, c < 16 → s.trkClassCfg_FRAME c = epFrame e → (s.cls c).segs = [] ∧ (s.cls c).unjournaled = false) →
    Gives .trkNotice s fun t => t.trk.intake = rest ∧ t.trk.view = viewNotice s.trk.view true e x.named ∧ t.trk.table = s.trk.table) ∧
  (∀ (s : State) p rest h, let b := s.readMem h.addr (8 * u16 (s.readMem h.addr 8) 6)
    let u := s.modTrk fun k => { k with intake := rest, view := viewHand k.view h.epoch }
    let c := u8 b 20 % 16
    s.trk.intake = p :: rest → s.trk.outq = [] → p.hand = some h → p.recalls = [] → p.seals = [] →
    s.inDram h.addr (max 8 (8 * u16 (s.readMem h.addr 8) 6)) = true → u8 (s.readMem h.addr 8) 0 = 0x20 →
    2 ≤ u16 (s.readMem h.addr 8) 6 → u.batchReason h b = 0 →
    Gives .trackBatchProcess s fun t =>
      t.trk.intake = rest ∧ (t.cls c).n = (s.cls c).n + 1 ∧ (t.cls c).batches = ((s.cls c).batches + 1) % 65536 ∧
        t.trk.table = (u.batchWork c b ((s.cls c).n + 1)).table ∧
        ∃ r, t.trk.outq = [.record r] ∧ r.type = 0x21 ∧ r.time = BitVec.ofNat 64 (u64 b 8)) ∧
  (∀ (s : State) p rest h, let b := s.readMem h.addr (8 * u16 (s.readMem h.addr 8) 6)
    let u := s.modTrk fun k => { k with intake := rest, view := viewHand k.view h.epoch }
    let c := u8 b 20 % 16
    s.trk.intake = p :: rest → s.trk.outq = [] → p.hand = some h → p.recalls = [] → p.seals = [] →
    s.inDram h.addr (max 8 (8 * u16 (s.readMem h.addr 8) 6)) = true → u8 (s.readMem h.addr 8) 0 = 0x20 →
    2 ≤ u16 (s.readMem h.addr 8) 6 → u.batchReason h b ≠ 0 →
    Gives .trackBatchProcess s fun t =>
      t.trk.intake = rest ∧ t.trk.table = s.trk.table ∧ (t.cls c).n = (s.cls c).n ∧
        (t.cls c).refused = satAdd 255 (s.cls c).refused 1 ∧ ∃ r, t.trk.outq = [.record r] ∧ r.type = 0x21) ∧
  (∀ (s : State) r rest o, s.rly.trackq.length < 512 → s.trk.outq = .record r :: rest → s.outPlace (recBytes r).length = some o →
    Gives .trkTokenPlace s fun t =>
      t.trk.outq = rest ∧ t.rly.trackq = s.rly.trackq ++ [.record o (s.trkOutBase_OUT_BASE + o) r] ∧
        t.mem = (s.writeMem (s.trkOutBase_OUT_BASE + o) (recBytes r)).mem ∧
        t.trk.outHeld = s.trk.outHeld ++ [(o, (recBytes r).length)] ∧ t.trk.outPtr = o + (recBytes r).length) ∧
  (∀ (s : State) r rest, s.rly.trackq.length < 512 → s.trk.outq = .notice r :: rest →
    Gives .trkTokenPlace s fun t => t.trk.outq = rest ∧ t.rly.trackq = s.rly.trackq ++ [.notice r] ∧ t.mem = s.mem) ∧
  (∀ (s : State) o, Heads s 0x18 o →
    Gives .trkClear s fun t =>
      t.hl.ops = dropFirst (Op.is o.ring o.didx) s.hl.ops ∧
        ∀ c, c < 16 → bit (o.inlNat 0 2) c = true → (t.cls c).segs = [] ∧ ∀ x ∈ t.trk.table, s.inCls c x.1 = false) ∧
  (∀ (s : State) dt n x c, HasRoom s 0x59 → s.trk.table.find? (fun x => decide (x.1 = n)) = some x →
    (upTo 16).find? (fun c => s.inCls c n) = some c →
    Gives (.trkSramUe dt ⟨n, true⟩) s fun t =>
      Raised s t 0x21 0x59 c n ∧ t.trk.table = Tab.erase n s.trk.table ∧ (t.cls c).freed = (s.cls c).freed ++ [x]) ∧
  (∀ (s : State) dt n c, HasRoom s 0x59 → (upTo 16).find? (fun c => s.inCls c n) = some c →
    Gives (.trkSramUe dt ⟨n, false⟩) s fun t => Raised s t 0x20 0x59 c n ∧ t.trk = s.trk)

/-! ### Lanes and the Relay (06_aurik_machine.md) -/

/-- The commands of a Lane (R233, R236, R237, R242, R243, R245), on their last run and not predicated off, each with the stream one command
on: LOAD and STORE copy rows, PUSH and POP move a tile with its tag, LDA, SETA and ADDA write an address register, SETC, ADDC and RSCALAR
a counter, CMP a comparator; a full queue makes PUSH wait; predicated off, NOP passes, and with runs left a run advances the address
registers named in AINC. The model's readings in it: log 5. -/
def Obligations.LaneCommands : Prop :=
  (∀ (s : State) n c u, Issues s 0x01 .access n c →
    loadRows n (u16 c 10) (s32 c 20) (u32 c 24) (u16 c 16) ((s.lane n).memAddr (u8 c 8 % 8) (s32 c 28)) (s.spAddr n c) s = .done u →
    Gives (.load n) s fun t => t.mem = u.mem ∧ Passes s t .access n) ∧
  (∀ (s : State) n c u, Issues s 0x02 .access n c →
    storeRows n (u16 c 10) (s32 c 20) (u32 c 24) (u16 c 16) ((s.lane n).memAddr (u8 c 8 % 8) (s32 c 28)) (s.spAddr n c) s = .done u →
    Gives (.store n) s fun t => t.mem = u.mem ∧ Passes s t .access n) ∧
  (∀ (s : State) n c d, Issues s 0x03 .access n c → ((s.lane n).tiles (u8 c 8 % 4)).length < 64 →
    tileRows s n (rowBytes (u8 c 10) 32) (u32 c 16) 32 (s.spAddr n c) = some d →
    Gives (.push n) s fun t =>
      (t.lane n).tiles (u8 c 8 % 4) = (s.lane n).tiles (u8 c 8 % 4) ++ [⟨d, s.rly.we, s.rly.wflags &&& mergeMask, 0⟩] ∧
        Passes s t .access n) ∧
  (∀ (s : State) n c, Issues s 0x03 .access n c → 64 ≤ ((s.lane n).tiles (u8 c 8 % 4)).length →
    Gives (.push n) s fun t => (t.lane n).waitA ≠ none ∧ (t.lane n).apc = (s.lane n).apc ∧ (t.lane n).dq = (s.lane n).dq) ∧
  (∀ (s : State) n c x rest u v, Issues s 0x04 .access n c → (s.lane n).tiles (u8 c 8 % 4) = x :: rest → s.merge x.epoch x.flags = some u →
    untileRows n (rowBytes (u8 c 10) 32) (u32 c 16) 32 (s.spAddr n c) x.data u = some v →
    Gives (.pop n) s fun t =>
      (t.lane n).tiles (u8 c 8 % 4) = rest ∧ t.mem = v.mem ∧ t.rly.we = u.rly.we ∧ t.rly.wflags = u.rly.wflags ∧ Passes s t .access n) ∧
  (∀ (s : State) n c, let w := if u8 c 10 = 1 then 8 else 4
    let a := (s.lane n).memAddr (u8 c 9 % 8) (s64 c 16)
    Issues s 0x05 .access n c → s.laneReads n a w = true →
    Gives (.lda n) s fun t =>
      ((t.lane n).areg (u8 c 8 % 8)).value = (u64 c 24 + leNat (s.readMem a w)) % 2 ^ 40 ∧
        ((t.lane n).areg (u8 c 8 % 8)).base = (u64 c 24 + leNat (s.readMem a w)) % 2 ^ 40 ∧ t.mem = s.mem ∧ Passes s t .access n) ∧
  (∀ (s : State) n c, let v := wrapU 40 ((u64 c 16 : Int) + s32 c 12 * s.lid n)
    Issues s 0x08 .access n c →
    Gives (.seta n) s fun t => (t.lane n).areg (u8 c 8 % 8) = ⟨v, v, s32 c 24, u32 c 28⟩ ∧ Passes s t .access n) ∧
  (∀ (s : State) n c, Issues s 0x09 .access n c →
    Gives (.adda n) s fun t =>
      (t.lane n).areg (u8 c 8 % 8) = { (s.lane n).areg (u8 c 8 % 8) with
        value := wrapU 40 ((((s.lane n).areg (u8 c 8 % 8)).value : Int) +
          if bit (u8 c 9) 3 then (s.lane n).cnt (u8 c 9 % 8) * s64 c 16 else s64 c 16) } ∧ Passes s t .access n) ∧
  (∀ (s : State) n st c, Issues s 0x0A st n c →
    Gives (.setc n st) s fun t =>
      (t.lane n).cnt (u8 c 8 % 8) = wrapS 32 (s.scalar n (u8 c 9) (u8 c 10 % 8) + s32 c 12) ∧ Passes s t st n) ∧
  (∀ (s : State) n st c, Issues s 0x0B st n c →
    Gives (.addc n st) s fun t =>
      (t.lane n).cnt (u8 c 8 % 8) = wrapS 32 ((s.lane n).cnt (u8 c 8 % 8) + s32 c 12 +
        if bit (u8 c 10) 0 then s.scalar n (u8 c 9) (u8 c 11 % 8) else 0) ∧ Passes s t st n) ∧
  (∀ (s : State) n st c, Issues s 0x0C st n c →
    Gives (.cmp n st) s fun t =>
      (t.lane n).comp (u8 c 8 % 4) = cmpOp (u8 c 11) (s.scalar n (u8 c 9) (u8 c 10 % 8))
        (if bit (u8 c 16) 0 then wrapS 32 (s32 c 12 + (s.lane n).cnt (u8 c 17 % 8)) else s32 c 12) ∧ Passes s t st n) ∧
  (∀ (s : State) n c, let d := s.desc (u16 c 12)
    Issues s 0x14 .execute n c → u8 c 10 = 0 → ¬(d.loc = 0 ∧ spSize < d.extent) → (s.rscalarTake n d).rscalarReady n d = true →
    Gives (.rscalar n) s fun t =>
      (t.lane n).cnt (u8 c 8 % 8) =
        clampI (-2147483648) 2147483647 (rscalarOf (u8 c 9) ((s.rscalarTake n d).rscalarVals n d)) ∧ Passes s t .execute n) ∧
  (∀ (s : State) n st c, Issues s 0x2F st n c → Gives (.nop n st) s fun t => Passes s t st n ∧ t.mem = s.mem) ∧
  (∀ (s : State) n st c, s.laneCmd st n = some c → cOp c = 0x2F → cPen c = true → (s.lane n).comp (u8 c 7 % 4) = false →
    Gives (.nop n st) s fun t => Passes s t st n ∧ t.mem = s.mem) ∧
  (∀ (s : State) n c a, s.laneCmd .access n = some c → cOp c = 0x2F → cPen c = false → (s.lane n).arun + 1 < cRepeat c → a < 8 →
    Gives (.nop n .access) s fun t =>
      (t.lane n).arun = (s.lane n).arun + 1 ∧ (t.lane n).apc = (s.lane n).apc ∧
        (t.lane n).areg a = if bit (u8 c 6) a then ((s.lane n).areg a).advance else (s.lane n).areg a)

/-- The commands that the Relay carries out for every Lane that takes part (R244, R246 to R252, R254, R256): a branch with COND 0 or
3 is taken by each Lane, with COND 3 the way that the counter of the Lane with LID 0 gives, while every other sends all of them one
way; DECIDE adds to the decision queue, and passes where it is predicated off; BAND_OPEN opens the context of the first token,
BAND_END closes it and returns its credit; TAKEB takes the next FREE baton, HANDOFF lends it with the record's header written, WAITB
merges the returned record, FREEB frees; EMIT writes the header and gives the record to the Actuation Unit or a ring. The model's
readings in it: log 5, 89, 90, 91, 95. -/
def Obligations.RelayCommands : Prop :=
  (∀ (s : State) st n c, s.laneCmd st n = some c → cOp c = 0x10 → u8 c 8 = 0 → s.rlyBrkCtrl_EN 0 = false → s.rlyBrkCtrl_EN 1 = false →
    s.rly.prog.stopA = false → s.rly.prog.stopE = false →
    Gives (.br st) s fun t => (t.lane n).pc st = u32 c 12 % 65536) ∧
  (∀ (s : State) st n c, let d := wrapS 32 ((s.lane s.lane0).cnt (u8 c 9 % 8) - 1)
    s.laneCmd st s.lane0 = some c → s.laneCmd st n = some c → cOp c = 0x10 → u8 c 8 = 3 → cRepeat c ≤ (s.lane s.lane0).runs st + 1 →
    (s.lane n).pos st = (s.lane s.lane0).pos st → (s.lane n).runs st = (s.lane s.lane0).runs st →
    (∀ x ∈ s.rly.loops, x.1 = st → x.2.1 ≠ (s.lane s.lane0).pos st) →
    s.rlyBrkCtrl_EN 0 = false → s.rlyBrkCtrl_EN 1 = false → s.rly.prog.stopA = false → s.rly.prog.stopE = false →
    Gives (.br st) s fun t =>
      (t.lane n).cnt (u8 c 9 % 8) = wrapS 32 ((s.lane n).cnt (u8 c 9 % 8) - 1) ∧
        (t.lane n).pc st = (if d ≠ 0 then u32 c 12 else (s.lane n).pc st + 1) % 65536) ∧
  (∀ (s : State) st c, AllIssue s 0x10 st c → u8 c 8 = 1 →
    Gives (.br st) s fun t => ∀ n ∈ s.lanesIn,
      (t.lane n).pc st = (if ∀ k ∈ s.lanesIn, (s.lane k).comp (u8 c 9 % 4) = true then u32 c 12 else (s.lane s.lane0).pc st + 1) % 65536) ∧
  (∀ (s : State) st c, AllIssue s 0x10 st c → u8 c 8 = 2 →
    Gives (.br st) s fun t => ∀ n ∈ s.lanesIn,
      (t.lane n).pc st = (if ∃ k ∈ s.lanesIn, (s.lane k).comp (u8 c 9 % 4) = true then u32 c 12 else (s.lane s.lane0).pc st + 1) % 65536) ∧
  (∀ (s : State) st c d rest, AllIssue s 0x10 st c → u8 c 8 = 4 → s.rly.decq = d :: rest →
    Gives (.br st) s fun t => t.rly.decq = rest ∧ ∀ n ∈ s.lanesIn,
      (t.lane n).pc st = (if d then u32 c 12 else (s.lane s.lane0).pc st + 1) % 65536) ∧
  (∀ (s : State) c, AllIssue s 0x12 .execute c → cPen c = false → s.lanesIn ≠ [] → s.rly.decq.length < 16 →
    Gives .decide s fun t =>
      t.rly.decq = s.rly.decq ++ [if u8 c 9 = 0 then s.lanesIn.all fun n => (s.lane n).comp (u8 c 8 % 4)
        else s.lanesIn.any fun n => (s.lane n).comp (u8 c 8 % 4)] ∧ ∀ n ∈ s.lanesIn, Passes s t .execute n) ∧
  (∀ (s : State) n c, s.laneCmd .execute n = some c → cOp c = 0x12 → s.offIn c n = true →
    Gives .decide s fun t => Passes s t .execute n) ∧
  (∀ (s : State) c f k e off t0 rest, s.rlyCtrl_EN = true → s.activeImage ≠ [] → s.lanesEnabled ≠ 0 → AllIssue s 0x20 .access c →
    s.rly.prog.change = none → s.rly.ctx = none → s.rly.bandq = ⟨.band f k e off t0, false⟩ :: rest →
    recalledIn s.rly.tracker e = false → badHead (s.readMem (panBase + off) 8) = false → s.rly.prog.exch = none →
    s.rly.prog.slotFor f k = s.rly.prog.running →
    Gives .bandOpen s fun t =>
      t.rly.ctx = some ⟨f, k, off, e⟩ ∧ t.rly.bandq = rest ∧ t.rly.laneSet = s.lanesEnabled ∧
        t.rly.we = BitVec.ofNat 16 (u16 (t.readMem (panBase + off) 8) 4)) ∧
  (∀ (s : State) c x, AllIssue s 0x21 .access c → s.rly.ctx = some x →
    Gives .bandEnd s fun t =>
      t.rly.ctx = none ∧ t.rly.we = 0 ∧ t.rly.wflags = 0 ∧ t.rly.bands = (s.rly.bands + 1) % 65536 ∧
        t.pan.credits = s.pan.credits ++ [x.off] ∧ ∀ n ∈ s.lanesIn, Passes s t .access n) ∧
  (∀ (s : State) c i, let b := (s.rly.lastBaton + 1 + i) % 256
    AllIssue s 0x22 .access c → i < 256 → (s.baton b).state = 0 →
    (∀ j, j < i → (s.baton ((s.rly.lastBaton + 1 + j) % 256)).state ≠ 0) →
    Gives .takeb s fun t =>
      (t.baton b).state = 1 ∧ t.rly.lastBaton = b ∧ ∀ n ∈ s.lanesIn, (t.lane n).cnt (u8 c 8 % 8) = b ∧ Passes s t .access n) ∧
  (∀ (s : State) c b, let a := (s.lane s.lane0).memAddr (u8 c 10 % 8) (s64 c 16)
    AllIssue s 0x23 .access c → batonOf (s.lead (u8 c 8 % 8)) = some b → (s.baton b).state = 1 → u8 c 9 = 0 → s.inDram a 8 = true →
    Gives .handoff s fun t =>
      (t.baton b).state = 2 ∧ t.mem = (s.writeMem (a + 1) (s.handHead b (s.readMem a 8))).mem ∧
        (∃ p, t.trk.intake.getLast? = some p ∧ p.hand = some ⟨a, b, s.rly.we, 0⟩) ∧ ∀ n ∈ s.lanesIn, Passes s t .access n) ∧
  (∀ (s : State) c b, let a := (s.lane s.lane0).memAddr (u8 c 10 % 8) (s64 c 16)
    AllIssue s 0x23 .access c → batonOf (s.lead (u8 c 8 % 8)) = some b → (s.baton b).state = 1 → u8 c 9 = 1 →
    s.slv.intake.length < 32 → s.inDram a 8 = true →
    Gives .handoff s fun t =>
      (t.baton b).state = 2 ∧ t.mem = (s.writeMem (a + 1) (s.handHead b (s.readMem a 8))).mem ∧
        ∃ x, t.slv.intake = s.slv.intake ++ [x] ∧ x.addr = a ∧ x.baton = some b ∧ x.epoch = s.rly.we) ∧
  (∀ (s : State) c b u, AllIssue s 0x24 .access c → batonOf (s.lead (u8 c 8 % 8)) = some b → (s.baton b).state = 3 →
    badHead (s.readMem (s.baton b).addr 8) = false →
    s.merge (BitVec.ofNat 16 (u16 (s.readMem (s.baton b).addr 8) 4)) (u8 (s.readMem (s.baton b).addr 8) 3) = some u →
    Gives .waitb s fun t =>
      t.rly.we = u.rly.we ∧ t.rly.wflags = u.rly.wflags ∧
        ∀ n ∈ s.lanesIn, ((t.lane n).areg (u8 c 9 % 8)).value = (s.baton b).addr ∧ Passes s t .access n) ∧
  (∀ (s : State) c b, AllIssue s 0x25 .access c → batonOf (s.lead (u8 c 8 % 8)) = some b → ((s.baton b).state = 1 ∨ (s.baton b).state = 3) →
    Gives .freeb s fun t => (t.baton b).state = 0 ∧ ∀ n ∈ s.lanesIn, Passes s t .access n) ∧
  (∀ (s : State) n c, let a := (s.lane n).memAddr (u8 c 8 % 8) (s64 c 16)
    let len := 8 * u16 (s.readMem a 8) 6
    let u := s.writeMem (a + 1) (s.emitHead n (s.readMem a 8))
    Issues s 0x28 .access n c → bit (u8 c 11) 0 = false → s.ctxVoid = false → s.inDram a 8 = true →
    emitType (u8 (s.readMem a 8) 0) = true → 2 ≤ u16 (s.readMem a 8) 6 → s.inDram a len = true → u8 c 9 = 0 → s.act.intake.length < 32 →
    Gives (.emit n) s fun t =>
      t.mem = u.mem ∧ t.act.intake = s.act.intake ++ [⟨intakeBytes (u.readMem a len), some s.rly.prog.running, false, s.cancelled⟩] ∧
        Passes s t .access n) ∧
  (∀ (s : State) n c, let a := (s.lane n).memAddr (u8 c 8 % 8) (s64 c 16)
    let len := 8 * u16 (s.readMem a 8) 6
    let u := s.writeMem (a + 1) (s.emitHead n (s.readMem a 8))
    Issues s 0x28 .access n c → bit (u8 c 11) 0 = false → s.ctxVoid = false → s.inDram a 8 = true →
    emitType (u8 (s.readMem a 8) 0) = true → 2 ≤ u16 (s.readMem a 8) 6 → s.inDram a len = true → u8 c 9 = 1 →
    PostRoom s (u8 c 10) (u.readMem a len).length →
    Gives (.emit n) s fun t => t.mem = u.mem ∧ Posted s t (u8 c 10) (u.readMem a len) ∧ Passes s t .access n)

/-- What reaches the Relay besides its commands (R249, R252, R253, R261 to R263): a record from the Track Engine returns its baton
and a notice updates the tracker; a RECALL that enters the band queue voids what it concerns; a notice is taken from it with no
context open; the watchdog, a failed Lane and an uncorrectable scratchpad error abandon the band, a corrected one is counted; a Lane
that passes its self-test waits for the next BAND_OPEN with its scratchpad cleared. The model's readings in it: log 91, 93, 167. -/
def Obligations.RelayEvents : Prop :=
  (∀ (s : State) off a r rest, s.rly.trackq = .record off a r :: rest → badHead (recBytes r) = false → bit r.flags.toNat 0 = true →
    (s.baton r.baton.toNat).state = 2 →
    Gives .trackTokenTake s fun t =>
      t.rly.trackq = rest ∧ (t.baton r.baton.toNat).state = 3 ∧ (t.baton r.baton.toNat).addr = a ∧
        (t.baton r.baton.toNat).credit = some off) ∧
  (∀ (s : State) r rest, s.rly.trackq = .notice r :: rest → epSeq r.epoch ≠ 0 →
    Gives .trackTokenTake s fun t =>
      t.rly.trackq = rest ∧ t.rly.tracker = viewNotice s.rly.tracker (decide (r.type = 0x1F)) r.epoch []) ∧
  (∀ (s : State) e t0 rest, s.pan.sluice = .rcl e t0 :: rest → s.rly.bandq.length < 64 → epSeq e ≠ 0 → viewOf s.rly.tracker e = 0 →
    Gives .bandqRecallEnter s fun t =>
      t.pan.sluice = rest ∧ t.rly.bandq.getLast? = some ⟨.rcl e t0, false⟩ ∧ t.rly.bandq.length = s.rly.bandq.length + 1 ∧
        t.rly.tracker = viewNotice s.rly.tracker true e [] ∧
        ∀ b ∈ t.rly.bandq, ∀ f k e' off t1, b.tok = .band f k e' off t1 → epSeq e' ≠ 0 → epFrame e' = epFrame e →
          seqGe (epSeq e') (epSeq e) = true → b.isVoid = true) ∧
  (∀ (s : State) e t0 v rest, s.rlyCtrl_EN = true → s.rly.ctx = none → s.rly.bandq = ⟨.seal e t0, v⟩ :: rest → epSeq e ≠ 0 →
    viewOf s.rly.tracker e = 0 →
    Gives .noticePass s fun t =>
      t.rly.bandq = rest ∧ t.rly.tracker = viewNotice s.rly.tracker false e [] ∧
        t.rly.sent = (s.rly.sent.filter fun x => !concerns false e x.2) ∧
        ((s.rly.sent.any fun x => decide (x.1 = 1) && concerns false e x.2) = true →
          t.slv.notices = s.slv.notices ++ [(false, ⟨e, t0, viewNamed t.rly.tracker e⟩)])) ∧
  (∀ (s : State) e t0 v rest, s.rlyCtrl_EN = true → s.rly.ctx = none → s.rly.bandq = ⟨.rcl e t0, v⟩ :: rest →
    Gives .noticePass s fun t =>
      t.rly.bandq = rest ∧ t.rly.sent = (s.rly.sent.filter fun x => !concerns true e x.2) ∧
        ((s.rly.sent.any fun x => decide (x.1 = 1) && concerns true e x.2) = true →
          t.slv.notices = s.slv.notices ++ [(true, ⟨e, t0, viewNamed s.rly.tracker e⟩)])) ∧
  (∀ (s : State) a l x, s.waits = a :: l → s.rlyCtrl_EN = true → s.rly.prog.stopA = false → s.rly.prog.stopE = false →
    s.rly.prog.change = none → s.rly.ctx = some x → HasRoom s 0x5A →
    Gives .watchdogExpire s fun t =>
      t.now = max s.now (l.foldl min a + s.rlyWatch_US * 4000) ∧ Raised s t 0x33 0x5A 0xFF 0 ∧ t.rly.ctx = none ∧
        t.pan.credits = s.pan.credits ++ [x.off] ∧ t.rly.abandoned = satAdd 255 s.rly.abandoned 1) ∧
  (∀ (s : State) dt n x, n < 16 → s.rly.ctx = some x → HasRoom s (0x60 + n) →
    Gives (.laneFail dt n) s fun t =>
      Raised s t 0x32 (0x60 + n) 0xFF 0 ∧ bit t.rly.fenced n = true ∧ t.rly.ctx = none ∧ t.pan.credits = s.pan.credits ++ [x.off]) ∧
  (∀ (s : State) dt n o, n < 16 → o < spSize → HasRoom s (0x60 + n) →
    Gives (.laneSpUe dt n ⟨o, true⟩) s fun t =>
      Raised s t 0x31 (0x60 + n) 0xFF ((spBase + n * spSize + o / 8 * 8) / 256) ∧
        t.readMem (spBase + n * spSize + o / 8 * 8) 8 = zeros 8 ∧ (t.lane n).ue = satAdd 65535 (s.lane n).ue 1 ∧ t.rly.ctx = none) ∧
  (∀ (s : State) dt n o, n < 16 → o < spSize → HasRoom s (0x60 + n) →
    Gives (.laneSpUe dt n ⟨o, false⟩) s fun t =>
      Raised s t 0x30 (0x60 + n) 0xFF ((spBase + n * spSize + o / 8 * 8) / 256) ∧ t.mem = s.mem ∧
        (t.lane n).ce = satAdd 65535 (s.lane n).ce 1) ∧
  (∀ (s : State) v failing n, RegOpen s .rlyLanes 0 0 → n < 16 → bit v.toNat (16 + n) = true → bit s.rly.fencedNow n = true →
    Tab.get (s.now + 1) n s.rly.fencedAt ≠ s.now → bit failing n = false →
    Gives (.laneRejoin v failing) s fun t =>
      bit t.rly.rejoin n = true ∧ ∀ a, spBase + n * spSize ≤ a → a < spBase + (n + 1) * spSize → t.readByte a = 0)

/-! ### Macro-operations (07_aurik_ops.md) -/

/-- Every macro-operation with its tensors in the scratchpad writes all rows of D as the operation computes them and passes on; with D
one tile of an outbound queue with room it pushes that tile, with a final tag and SAT where an element saturated (R236, R237, R277, R280,
R283, R285 to R290, R292 to R297). The model's readings in it: log 6, 96. -/
def Obligations.OpsRun : Prop :=
  ScratchRun .matmul 0x40 (fun _ => matmulOp) ∧ ScratchRun .conv2d 0x41 (fun _ => conv2dOp) ∧ ScratchRun .warp 0x42 (fun _ => warpOp) ∧
    ScratchRun .meshi 0x43 (fun _ => meshiOp) ∧ ScratchRun .reduce 0x44 (fun _ => reduceOp) ∧
    ScratchRun .eltwise 0x45 (fun _ => eltwiseOp) ∧ ScratchRun .hist 0x46 (fun _ => histOp) ∧
    ScratchRun .gather 0x47 (fun _ => gatherOp) ∧ ScratchRun .scatter 0x48 (fun _ => scatterOp) ∧
    ScratchRun .convert 0x49 (fun _ => convertOp) ∧ ScratchRun .norm 0x4A (fun _ => normOp) ∧
    TileRun .matmul 0x40 (fun _ => matmulOp) ∧ TileRun .conv2d 0x41 (fun _ => conv2dOp) ∧ TileRun .warp 0x42 (fun _ => warpOp) ∧
    TileRun .meshi 0x43 (fun _ => meshiOp) ∧ TileRun .reduce 0x44 (fun _ => reduceOp) ∧ TileRun .eltwise 0x45 (fun _ => eltwiseOp) ∧
    TileRun .hist 0x46 (fun _ => histOp) ∧ TileRun .gather 0x47 (fun _ => gatherOp) ∧ TileRun .scatter 0x48 (fun _ => scatterOp) ∧
    TileRun .convert 0x49 (fun _ => convertOp) ∧ TileRun .norm 0x4A (fun _ => normOp)

/-- The operators' arithmetic on INT32 tensors in the scratchpad, with no flags, no requantisation and no ACT, each result saturated to
32 bits (R275): MATMUL of a row of K elements by a column gives the sum of the K products (R283, R284); CONV2D of an image by a kernel
within it, with no padding, the sum of the products over the kernel (R285); WARP the four neighbours weighted by the fractions of the
source point, over 65 536 (R287, R288); REDUCE the sum, the maximum, or the index of the first maximum of a row (R289); ELTWISE each of
its operations on two elements but for the quotients and roots (R290); CONVERT an element times 2^e, where that is a whole number (R295);
NORM the element itself in mode affine, and 1 and −1 for two elements a power of two above and below their mean in mode layer (R296).
The model's readings in it: log 5, 96. -/
def Obligations.OperatorsCompute : Prop :=
  (∀ (s : State) n c, let d := s.desc (u8 c 8)
    let a := s.desc (u8 c 9)
    let b := s.desc (u8 c 10)
    Plainly s 0x40 n c [0, 1, 3] → s32 c 16 = 0 → IsRow d 1 → IsRow a a.d0 → b.fmt = 7 → b.d0 = 1 → b.d1 = a.d0 → b.d2 = 1 → b.d3 = 1 →
    Gives (.matmul n) s fun t =>
      spWord t n d.base = clip32 (((upTo a.d0).map fun k => spWord s n (a.base + 4 * k) * spWord s n (b.base + k * b.s1)).foldl (· + ·) 0)) ∧
  (∀ (s : State) n c, let d := s.desc (u8 c 8)
    let a := s.desc (u8 c 9)
    let b := s.desc (u8 c 10)
    Plainly s 0x41 n c [0, 1, 3] → s32 c 16 = 0 → u8 c 26 = 1 → u8 c 27 = 1 → u8 c 28 = 0 → IsRow d 1 → a.fmt = 7 → a.d3 = 1 → b.fmt = 7 →
    b.d0 = a.d0 → b.d1 ≤ a.d1 → b.d2 ≤ a.d2 → b.d3 = 1 →
    Gives (.conv2d n) s fun t =>
      spWord t n d.base = clip32 (((upTo (b.d1 * b.d2 * a.d0)).map fun k =>
        let i := k % a.d0
        let x := k / a.d0 % b.d1
        let y := k / a.d0 / b.d1
        spWord s n (b.base + x * b.s1 + y * b.s2 + 4 * i) * spWord s n (a.base + x * a.s1 + y * a.s2 + 4 * i)).foldl (· + ·) 0)) ∧
  (∀ (s : State) n c x y fx fy, let d := s.desc (u8 c 8)
    let a := s.desc (u8 c 9)
    let b := s.desc (u8 c 10)
    let m := fun r k => spWord s n (b.base + r * b.s1 + 4 * k)
    let p := fun x y => spWord s n (a.base + x * a.s1 + y * a.s2)
    let sum := p x y * ((256 - fx : Nat) * (256 - fy : Nat) : Int) + p (x + 1) y * (fx * (256 - fy : Nat) : Int) +
      p x (y + 1) * ((256 - fx : Nat) * fy : Int) + p (x + 1) (y + 1) * (fx * fy : Int)
    Plainly s 0x42 n c [0, 1, 3] → u8 c 14 = 1 → IsRow d 1 → a.fmt = 7 → a.d0 = 1 → a.d3 = 1 → b.fmt = 0x11 → b.d0 = 3 → b.d1 = 3 →
    b.d2 = 1 → b.d3 = 1 → (∀ i, i < 9 → m (i / 3) (i % 3) ≠ -2147483648) → 0 < m 2 2 → fx < 256 → fy < 256 →
    256 * m 0 2 = ((256 * x + fx : Nat) : Int) * m 2 2 → 256 * m 1 2 = ((256 * y + fy : Nat) : Int) * m 2 2 → x + 1 < a.d1 →
    y + 1 < a.d2 → sum % 65536 = 0 →
    Gives (.warp n) s fun t => spWord t n d.base = sum / 65536) ∧
  (∀ (s : State) n c, let d := s.desc (u8 c 8)
    let a := s.desc (u8 c 9)
    let x := fun k => spWord s n (a.base + 4 * k)
    Plainly s 0x44 n c [0, 3] → u8 c 16 = 0 → IsRow d 1 → IsRow a a.d0 → 0 < a.d0 →
    Gives (.reduce n) s fun t =>
      (u8 c 14 = 0 → spWord t n d.base = clip32 (((upTo a.d0).map x).foldl (· + ·) 0)) ∧
      (u8 c 14 = 2 → (∃ k, k < a.d0 ∧ spWord t n d.base = x k) ∧ ∀ k, k < a.d0 → x k ≤ spWord t n d.base) ∧
      (u8 c 14 = 4 → ∃ k, k < a.d0 ∧ spWord t n d.base = k ∧ (∀ j, j < a.d0 → x j ≤ x k) ∧ ∀ j, j < k → x j < x k)) ∧
  (∀ (s : State) n c v, let d := s.desc (u8 c 8)
    let a := s.desc (u8 c 9)
    let b := s.desc (u8 c 10)
    let x := spWord s n a.base
    let y := spWord s n b.base
    Plainly s 0x45 n c [0, 1, 3] → IsRow d 1 → IsRow a 1 → IsRow b 1 →
    (u8 c 14, v) ∈ [(0, x + y), (1, x - y), (2, x * y), (4, max x y), (5, min x y), (6, (x.natAbs : Int)), (7, -x), (10, max x 0),
      (12, if x < y then 1 else 0), (13, if x = y then 1 else 0), (15, ((x - y).natAbs : Int))] →
    Gives (.eltwise n) s fun t => spWord t n d.base = clip32 v) ∧
  (∀ (s : State) n c, let d := s.desc (u8 c 8)
    let a := s.desc (u8 c 9)
    let x := spWord s n a.base
    let e := signed 8 (u8 c 16)
    Plainly s 0x49 n c [0, 3] → IsRow d 1 → IsRow a 1 →
    Gives (.convert n) s fun t =>
      (0 ≤ e → spWord t n d.base = clip32 (x * 2 ^ e.toNat)) ∧ (∀ y, x = y * 2 ^ (-e).toNat → e ≤ 0 → spWord t n d.base = y)) ∧
  (∀ (s : State) n c, let d := s.desc (u8 c 8)
    let a := s.desc (u8 c 9)
    let x := spWord s n a.base
    Plainly s 0x4A n c [0, 3] → u8 c 14 = 2 → IsRow d 1 → IsRow a 1 → x.natAbs ≤ 2 ^ 24 →
    Gives (.norm n) s fun t => spWord t n d.base = x) ∧
  (∀ (s : State) n c (x : Int) k, let d := s.desc (u8 c 8)
    let a := s.desc (u8 c 9)
    Plainly s 0x4A n c [0, 3] → u8 c 14 = 0 → u32 c 16 = 0 → IsRow d 2 → IsRow a 2 → x.natAbs ≤ 2 ^ 22 → k ≤ 22 →
    spWord s n a.base = x + 2 ^ k → spWord s n (a.base + 4) = x - 2 ^ k →
    Gives (.norm n) s fun t => spWord t n d.base = 1 ∧ spWord t n (d.base + 4) = -1)

/-! ### Attention and the KV Page Unit (08_attention.md) -/

/-- The KV commands (R305, R308, R312 to R316, R319, R322, R329): an append that has its pages lengthens its layer and answers its
position; one of a single token stores its keys and values, head by head, in the page of its group, for a group with none in the
lowest-numbered free page, whose entry becomes valid, where page and entry lie in DRAM that works; a reset gives TAG and NGLOB, in the other bank while provisional, a trim raises
TRIMPOS, KV_LEN answers; append, reset and trim are logged when the epoch is provisional or the sequence is in the log; a cache that does
not answer refuses with −6; ATTEND over the scratchpad writes D; KVP_CLEAR notes its caches. The model's readings in it: log 99, 100,
101, 173. -/
def Obligations.KvCommands : Prop :=
  (∀ (s : State) n c k a, let l := u8 c 10
    let pos := (s.kvSeq a).len l
    let m := u16 c 20
    let len := m * s.kvTok k
    Issues s 0x84 .access n c → KvReady s n c true k a →
    (∀ g, g ≤ (pos + m - 1) / 256 → pos / 256 ≤ g → (s.ptGet k a (s.kvSeq a).bank g l).isSome = true) →
    pos + m ≤ 256 * (4096 / s.kvpCacheCfg_NLAYER k) → (s.spRead n (s.spAddr n c) len).isSome = true →
    (s.spRead n ((s.spAddr n c + u32 c 16) % 2 ^ 40) len).isSome = true →
    Gives (.kvAppend n) s fun t =>
      (t.kvSeq a).len l = pos + m ∧ (t.lane n).cnt (u8 c 23 % 8) = pos ∧ Passes s t .access n ∧
        t.kvp.log = s.kvp.log ++ (if s.unsettled s.rly.we || s.kvLogged a then
          [⟨k, a, s.rly.we, !s.unsettled s.rly.we, .append l m pos, s.kvSeq a, false⟩] else [])) ∧
  (∀ (s : State) n c k a p ks vs, let l := u8 c 10
    let q := s.kvSeq a
    let pos := q.len l
    let v := s.kvVec k
    let g := pos / 256
    Issues s 0x84 .access n c → KvReady s n c true k a → u16 c 20 = 1 → pos + 1 ≤ 256 * (4096 / s.kvpCacheCfg_NLAYER k) →
    (s.ptGet k a q.bank g l = some p ∨
      s.ptGet k a q.bank g l = none ∧ 0 < s.kvFree k ∧ p = lowestFree 0 ((Tab.get [] k s.kvp.used).map fun u => u.1)) →
    p < 2 ^ 18 → (s.ptAddr k a q.bank g l + 4 ≤ s.kvAt k p 0 0 ∨ s.kvAt k p 0 0 + s.kvPb k ≤ s.ptAddr k a q.bank g l) →
    s.inDram (s.ptAddr k a q.bank g l) 4 = true → s.inDram (s.kvAt k p 0 0) (s.kvPb k) = true →
    s.spRead n (s.spAddr n c) (s.kvTok k) = some ks → s.spRead n ((s.spAddr n c + u32 c 16) % 2 ^ 40) (s.kvTok k) = some vs →
    Gives (.kvAppend n) s fun t =>
      (t.kvSeq a).len l = pos + 1 ∧ (t.lane n).cnt (u8 c 23 % 8) = pos ∧ Passes s t .access n ∧ t.ptGet k a q.bank g l = some p ∧
        (∀ h, h < s.kvH k → t.readMem (s.kvAt k p h pos) v = sub ks (h * v) v ∧
          t.readMem (s.kvAt k p h pos + s.kvPb k / 2) v = sub vs (h * v) v) ∧
        t.kvp.used = if (s.ptGet k a q.bank g l).isSome then s.kvp.used
          else Tab.mod [] k (Tab.set p (a, q.bank, g * s.kvpCacheCfg_NLAYER k + l)) s.kvp.used) ∧
  (∀ (s : State) n c, Issues s 0x84 .access n c → s.ctxVoid = false → s.kvOn (u8 c 8 % 4) = false →
    Gives (.kvAppend n) s fun t =>
      (t.lane n).cnt (u8 c 23 % 8) = -6 ∧ t.kvp.refused = satAdd 65535 s.kvp.refused 1 ∧ t.kvp.seqs = s.kvp.seqs ∧ t.mem = s.mem ∧
        Passes s t .access n) ∧
  (∀ (s : State) n c k a, let q := s.kvSeq a
    let prov := s.unsettled s.rly.we
    Issues s 0x85 .access n c → KvReady s n c false k a →
    (prov = true → ∀ m ∈ s.kvp.log, m.seq = a → m.final = false → ∀ x y z, m.kind ≠ .reset x y z) →
    Gives (.kvReset n) s fun t =>
      t.kvSeq a = ⟨[], BitVec.ofInt 32 (s.scalar n (u8 c 16) (u8 c 17 % 8) + s32 c 28), min (u8 c 18) 32, 0,
        if prov then 1 - q.bank else q.bank⟩ ∧ (t.lane n).cnt (u8 c 23 % 8) = 0 ∧ Passes s t .access n ∧
        t.kvp.log = s.kvp.log ++ (if prov || s.kvLogged a then
          [⟨k, a, s.rly.we, !prov, .reset (t.kvSeq a).tag (t.kvSeq a).nglob prov, q, false⟩] else [])) ∧
  (∀ (s : State) n c k a, let pos := clampI 0 (s.kvSeq a).maxLen (s.scalar n (u8 c 16) (u8 c 17 % 8) + s32 c 28)
    Issues s 0x86 .access n c → KvReady s n c false k a →
    Gives (.kvTrim n) s fun t =>
      (t.kvSeq a).trim = max (s.kvSeq a).trim pos.toNat ∧ (t.kvSeq a).lens = (s.kvSeq a).lens ∧
        (t.lane n).cnt (u8 c 23 % 8) = wrapS 32 ((t.kvSeq a).trim : Int) ∧ Passes s t .access n ∧
        t.kvp.log = s.kvp.log ++ (if s.unsettled s.rly.we || s.kvLogged a then
          [⟨k, a, s.rly.we, !s.unsettled s.rly.we, .trim pos.toNat, s.kvSeq a, false⟩] else [])) ∧
  (∀ (s : State) n c k a, Issues s 0x87 .access n c → KvFinds s n c (decide (u8 c 12 = 0)) k a →
    Gives (.kvLen n) s fun t =>
      (t.lane n).cnt (u8 c 23 % 8) = wrapS 32 (match u8 c 12 with
        | 0 => ((s.kvSeq a).len (u8 c 10) : Int)
        | 1 => (s.kvSeq a).tag.toInt
        | 2 => (s.kvSeq a).trim
        | _ => s.kvFree k) ∧ t.kvp = s.kvp ∧ t.mem = s.mem ∧ Passes s t .access n) ∧
  ScratchRun .attend 0x80 attendOp ∧
  (∀ (s : State) o, Heads s 0x28 o →
    Gives .kvpClear s fun t => t.kvp.clear = (s.kvp.clear ||| (o.inlNat 0 4 % 16)) ∧ Completed s t o 0 0 [])

/-- The KV Page Unit follows the tracker as it is told of a notice (R309, R323, R329): a SEAL makes every logged mutation of its frame up
to it final or takes it out of the log, unless a RECALL had taken it; a RECALL takes every logged mutation from it on that is not final,
and each sequence that held one is rebuilt without it, at once, or once the ATTEND entry that reads it is over; a rebuild that is done
holds no sequence any more. The model's readings in it: log 101, 151, 173. -/
def Obligations.KvFollowsTracker : Prop :=
  (∀ (s : State) r rest, s.rly.trackq = .notice r :: rest → epSeq r.epoch ≠ 0 → viewOf s.rly.tracker r.epoch = 0 → r.type ≠ 0x1F →
    Gives .trackTokenTake s fun t =>
      ∀ m ∈ t.kvp.log, m.cache < 4 → s.kvpCacheCfg_FRAME m.cache = epFrame r.epoch → epFrame m.epoch = epFrame r.epoch →
        seqGe (epSeq r.epoch) (epSeq m.epoch) = true → m.final = true ∨ m.gone = true) ∧
  (∀ (s : State) e t0 rest, s.pan.sluice = .rcl e t0 :: rest → s.rly.bandq.length < 64 → epSeq e ≠ 0 → viewOf s.rly.tracker e = 0 →
    Gives .bandqRecallEnter s fun t =>
      (∀ m ∈ t.kvp.log, m.cache < 4 → s.kvpCacheCfg_FRAME m.cache = epFrame e → KvMut.recalled m.cache e m = false) ∧
        ∀ c ∈ s.kvCaches e, ∀ a ∈ s.kvAffected c e,
          if s.attending a then (c, a) ∈ t.kvp.later
          else a ∈ t.kvp.rebuilding ∧ ∀ m ∈ t.kvp.log, m.seq = a → m.gone = false) ∧
  (∀ (s : State) c a rest, s.kvp.later = (c, a) :: rest → s.attending a = false →
    Gives .kvTrackerUpdate s fun t =>
      a ∈ t.kvp.rebuilding ∧ (∀ x ∈ t.kvp.later, x.2 ≠ a) ∧ ∀ m ∈ t.kvp.log, m.seq = a → m.gone = false) ∧
  (∀ s : State, (∀ x ∈ s.kvp.later, s.attending x.2 = true) → Gives .kvTrackerUpdate s fun t => t = s) ∧
  (∀ s : State, Gives .kvRebuildDone s fun t => t = { s with kvp := { s.kvp with rebuilding := [] } })

/-! ### Solver (09_solver.md) -/

/-- A heat from intake to end (R333, R345 to R351, R355, R362): started, it is read and runs with its problems; refused, its baton is
RETURNED; a free unit takes the next problem; a problem's end writes its result in its place, and the last result ends the heat; at
the deadline and at a RECALL every problem of it has started or ended. The model's readings in it: log 104, 106. -/
def Obligations.HeatsRun : Prop :=
  (∀ (s : State) h0 b, let h : Heat := { h0 with
      head := s.readMem h0.addr 64, startAt := s.now, nprob := headNprob (s.readMem h0.addr 64)
      order := ((s.schedule (u16 (s.readMem h0.addr 64) 16)).map sdN).getD 0 }
    s.islandUp 7 = true → s.slv.candidate = some h0 → s.slv.heats = [] → s.slv.loadFirst h0 = false → s.slv.notices = [] →
    h0.baton = some b → h0.host = none →
    h0.results = [] → s.inDram h0.addr 64 = true → s.heatRefusal h = none → h.nprob ≠ 0 → recalledIn s.slv.view h0.epoch = false →
    s.slvUnits ≠ [] →
    Gives .heatStart s fun t =>
      t.slv.heats = [{ h with entries := s.readMem (h0.addr + 64) (8 * h.nprob) }] ∧
        t.slv.intake = s.slv.intake.filter fun x => decide (x.no ≠ h0.no)) ∧
  (∀ (s : State) h0 b, s.islandUp 7 = true → s.slv.candidate = some h0 → s.slv.heats = [] → s.slv.loadFirst h0 = false →
    s.slv.notices = [] →
    h0.baton = some b → (s.baton b).state = 2 → s.slvCtrl_EN = false →
    Gives .heatStart s fun t =>
      (t.baton b).state = 3 ∧ t.slv.refused = satAdd 255 s.slv.refused 1 ∧ t.slv.heats = [] ∧
        t.slv.intake = s.slv.intake.filter fun x => decide (x.no ≠ h0.no)) ∧
  (∀ (s : State) u h p l b, s.slv.dealing = some h → s.heat h.no = some h → s.slv.notices = [] → u ∈ s.slvUnits →
    (∀ x ∈ s.slv.units, x.1 ≠ u) → s.heatStop h = none → h.todeal = p :: l → s.schedule h.sched = some b → s.problemBad h b p = false →
    Gives (.problemDeal u) s fun t =>
      t.slv.units = Tab.set u ⟨h.no, p, s.now⟩ s.slv.units ∧ t.heat h.no = some h.dealt ∧ t.mem = s.mem) ∧
  (∀ (s : State) u r h b, let o := s.solve h b r.prob r.startAt
    s.slv.units.find? (fun x => decide (x.1 = u)) = some (u, r) → s.slv.notices = [] → s.heat r.heat = some h → h.no = r.heat →
    h.host = none → s.schedule h.sched = some b → (Tab.set r.prob (o.code, o.pflags) h.results).length ≠ h.nprob →
    Gives (.problemDone u) s fun t =>
      t.now = max s.now (r.startAt + o.cyc * 4) ∧ t.slv.units = Tab.erase u s.slv.units ∧
        t.mem = (s.writeMem (h.out + 64 + r.prob * resultSize h.order) (o.bytes (sdN b))).mem ∧
        t.heat r.heat = some { h with results := Tab.set r.prob (o.code, o.pflags) h.results }) ∧
  (∀ (s : State) u r h b k, let o := s.solve h b r.prob r.startAt
    s.slv.units.find? (fun x => decide (x.1 = u)) = some (u, r) → s.slv.notices = [] → s.heat r.heat = some h → h.no = r.heat →
    h.host = none → s.schedule h.sched = some b → (Tab.set r.prob (o.code, o.pflags) h.results).length = h.nprob →
    h.baton = some k → (s.baton k).state = 2 →
    Gives (.problemDone u) s fun t =>
      (t.baton k).state = 3 ∧ (t.baton k).addr = h.out ∧ t.heat r.heat = none ∧ t.slv.endedHeats = (s.slv.endedHeats + 1) % 65536) ∧
  (∀ (s : State) h d, s.slv.notices = [] → s.slv.heats = [h] → h.undealt ≠ [] → h.deadline = some d →
    ({ s with now := max s.now (s.whenDev d) } : State).heatLate h = true →
    Gives .heatDeadline s fun t => t.now = max s.now (s.whenDev d) ∧ ∀ x ∈ t.slv.heats, x.undealt = []) ∧
  (∀ (s : State) x rest, s.slv.notices = (false, x) :: rest → epSeq x.epoch ≠ 0 → viewOf s.slv.view x.epoch = 0 →
    Gives .slvNotice s fun t => t.slv.notices = rest ∧ t.slv.view = viewNotice s.slv.view false x.epoch x.named) ∧
  (∀ (s : State) h x rest, s.slv.notices = (true, x) :: rest → epSeq x.epoch ≠ 0 → viewOf s.slv.view x.epoch = 0 → s.slv.heats = [h] →
    recalledIn (viewNotice s.slv.view true x.epoch x.named) h.epoch = true →
    Gives .slvNotice s fun t =>
      t.slv.notices = rest ∧ t.slv.view = viewNotice s.slv.view true x.epoch x.named ∧ ∀ y ∈ t.slv.heats, y.undealt = [])

/-- Schedules and problem units (R340, R361, R363, R364): a load is taken, and its verification fills or empties the slot and completes;
a failed unit is fenced and its problem starts again; a schedule with an uncorrectable error is gone; a fenced unit that passes its
self-test runs again. The model's readings in it: log 102, 103, 19, 167. -/
def Obligations.SolverUnits : Prop :=
  (∀ (s : State) o, Heads s 0x22 o → s.slv.load = none →
    Gives .slvLoad s fun t =>
      t.slv.load = some ⟨o.inlNat 0 8, o.inlNat 8 4, o.inlNat 12 1, o.ring, o.didx, s.slv.heatNo⟩ ∧ t.slv.scheds = s.slv.scheds) ∧
  (∀ (s : State) x o, let img := s.readMem x.addr x.len
    s.slv.load = some x → s.hl.ops.find? (Op.is x.ring x.didx) = some o →
    (∀ h ∈ s.slv.intake ++ s.slv.heats, h.sched = x.slot → x.heatNo ≤ h.no) → schedVerify img x.len = none →
    Gives .schedVerifyDone s fun t =>
      t.slv.load = none ∧ t.schedule x.slot = some ((img.take (u32 img 8)).drop 64) ∧
        Completed s t o 0 0 (by4 0 ++ sub img 36 4)) ∧
  (∀ (s : State) x o r i, let img := s.readMem x.addr x.len
    s.slv.load = some x → s.hl.ops.find? (Op.is x.ring x.didx) = some o →
    (∀ h ∈ s.slv.intake ++ s.slv.heats, h.sched = x.slot → x.heatNo ≤ h.no) → schedVerify img x.len = some (r, i) → r ≠ 0 →
    Gives .schedVerifyDone s fun t =>
      t.slv.load = none ∧ t.schedule x.slot = none ∧ Completed s t o 8 r (by4 i ++ sub img 36 4)) ∧
  (∀ (s : State) dt u r h, u < 16 → HasRoom s 0x5C → s.slv.notices = [] → s.slv.units.find? (fun x => decide (x.1 = u)) = some (u, r) →
    s.heat r.heat = some h → (∃ k ∈ s.slvUnits, k ≠ u) →
    Gives (.slvUnitFail dt u) s fun t =>
      Raised s t 0x52 0x5C u 0 ∧ bit t.slv.fenced u = true ∧ t.slv.units = Tab.erase u s.slv.units ∧
        t.heat r.heat = some { h with redo := r.prob :: h.redo }) ∧
  (∀ (s : State) dt k, k < 64 → HasRoom s 0x5C → s.slv.notices = [] → s.slv.heats = [] →
    Gives (.slvSchedUe dt ⟨k, true⟩) s fun t => Raised s t 0x53 0x5C 0xFF (s.takeFree 0x53).1 ∧ t.schedule k = none) ∧
  (∀ (s : State) dt k, k < 64 → HasRoom s 0x5C → s.slv.notices = [] →
    Gives (.slvSchedUe dt ⟨k, false⟩) s fun t => Raised s t 0x50 0x5C 0xFF (s.takeFree 0x53).1 ∧ t.slv = s.slv) ∧
  (∀ (s : State) v failing u, RegOpen s .slvUnits 0 0 → u < 16 → bit v.toNat (16 + u) = true → bit s.slv.fenced u = true →
    Tab.get (s.now + 1) u s.slv.fencedAt ≠ s.now → bit failing u = false →
    Gives (.unitRejoin v failing) s fun t => bit t.slv.fenced u = false)

/-! ### Programs and debug (10_programs.md) -/

/-- Loading, exchange and retirement (R371, R372, R377 to R381, R385, R395): a load makes STANDBY LOADING; verified, it is READY or
EMPTY and the load completes; an EXCHANGE with READY sets its fences and waits for the switch, or switches at once where no program
runs, and is refused with NO_STANDBY otherwise; ABORT ends one that has not switched; the entering program starts at its entries
once the leaving one rests; a retired program is READY again; an uncorrectable error empties the slot. The model's readings in it:
log 107, 108, 111, 167. -/
def Obligations.ProgramsExchange : Prop :=
  (∀ (s : State) o, Heads s 0x20 o → s.rly.prog.load = none → s.rly.prog.exch = none → s.rly.prog.standby ≠ 3 →
    Gives .progLoad s fun t =>
      t.rly.prog.standby = 1 ∧ t.rly.prog.slots = Tab.erase (1 - s.rly.prog.active) s.rly.prog.slots ∧
        ∃ x, t.rly.prog.load = some x ∧ x.addr = o.inlNat 0 8 ∧ x.len = o.inlNat 8 4 ∧ x.ring = o.ring ∧ x.didx = o.didx) ∧
  (∀ (s : State) x o, let img := s.readMem x.addr x.len
    s.rly.prog.load = some x → s.hl.ops.find? (Op.is x.ring x.didx) = some o → progVerify img x.len = none →
    Gives .progVerifyDone s fun t =>
      t.rly.prog.standby = 2 ∧ t.rly.prog.load = none ∧ t.rly.prog.reason = 0 ∧
        t.rly.prog.slots = Tab.set (1 - s.rly.prog.active) (img.take (u32 img 8)) s.rly.prog.slots ∧
        Completed s t o 0 0 (by4 0 ++ sub img 36 4)) ∧
  (∀ (s : State) x o r i, let img := s.readMem x.addr x.len
    s.rly.prog.load = some x → s.hl.ops.find? (Op.is x.ring x.didx) = some o → progVerify img x.len = some (r, i) → r ≠ 0 →
    Gives .progVerifyDone s fun t =>
      t.rly.prog.standby = 0 ∧ t.rly.prog.load = none ∧ t.rly.prog.reason = r ∧ t.rly.prog.index = i ∧
        t.rly.prog.slots = s.rly.prog.slots ∧ Completed s t o 8 r (by4 i ++ sub img 36 4)) ∧
  (∀ (s : State) o, Heads s 0x21 o → s.rly.prog.exch = none → s.rly.prog.standby = 2 → s.rlyCtrl_EN = true → s.activeImage ≠ [] →
    s.flt.safe = false →
    Gives .exchange s fun t =>
      t.rly.prog.exch = some ⟨bit (o.inlNat 0 1) 0, o.inlNat 1 1, o.ring, o.didx, false, 0⟩ ∧
        t.rly.prog.fence = fencesOf s.rly.prog (o.inlNat 1 1) o ∧ t.rly.prog.active = s.rly.prog.active) ∧
  (∀ (s : State) o, Heads s 0x21 o → s.rly.prog.exch = none → s.rly.prog.standby = 2 → s.rlyCtrl_EN = false →
    Gives .exchange s fun t =>
      t.rly.prog.active = 1 - s.rly.prog.active ∧ t.rly.prog.running = 1 - s.rly.prog.active ∧ t.rly.prog.exch = none ∧
        t.rly.prog.exchanges = (s.rly.prog.exchanges + 1) % 65536 ∧ t.hl.ops = dropFirst (Op.is o.ring o.didx) s.hl.ops) ∧
  (∀ (s : State) o, Heads s 0x21 o → s.rly.prog.exch = none → s.rly.prog.standby < 2 →
    Gives .exchange s fun t => Completed s t o 1 1 [] ∧ t.rly = s.rly) ∧
  (∀ (s : State) v x o, RegOpen s .rlyProg 0 0 → bit v.toNat 0 = true → s.rly.prog.exch = some x → x.switched = false →
    s.hl.ops.find? (Op.is x.ring x.didx) = some o →
    Gives (.exchangeAbort v) s fun t => t.rly.prog.exch = none ∧ Completed s t o 9 0 (zeros 16)) ∧
  (∀ (s : State) k, s.rly.prog.change = some k → s.rly.prog.stopA = false → s.rly.prog.stopE = false → s.atRest = true →
    Gives .programChange s fun t =>
      t.rly.prog.running = k ∧ t.rly.prog.change = none ∧ t.rly.prog.changes = (s.rly.prog.changes + 1) % 65536 ∧ t.rly.we = 0 ∧
        ∀ n, n < 16 → (t.lane n).apc = imgEntry (Tab.get [] k s.rly.prog.slots) .access ∧
          (t.lane n).epc = imgEntry (Tab.get [] k s.rly.prog.slots) .execute ∧ (t.lane n).c = []) ∧
  (∀ s : State, s.rly.prog.standby = 3 → s.retired = true → s.rly.prog.running = s.rly.prog.active →
    Gives .programRetire s fun t =>
      t.rly.prog.exch = none ∧
        t.rly.prog.standby = if Tab.get [] (1 - s.rly.prog.active) s.rly.prog.slots = [] then 0 else 2) ∧
  (∀ (s : State) dt, s.rly.prog.standby ≠ 3 → s.rly.prog.load = none → s.rly.prog.exch = none → HasRoom s 0x5A →
    Gives (.progMemUe dt ⟨false, true⟩) s fun t =>
      (∃ a, Raised s t 0x3A 0x5A 0xFF a) ∧ t.rly.prog.standby = 0 ∧
        t.rly.prog.slots = Tab.erase (1 - s.rly.prog.active) s.rly.prog.slots) ∧
  (∀ (s : State) dt, HasRoom s 0x5A →
    Gives (.progMemUe dt ⟨true, true⟩) s fun t =>
      (∃ a, Raised s t 0x3A 0x5A 0xFF a) ∧ t.rly.prog.slots = Tab.erase s.rly.prog.active s.rly.prog.slots) ∧
  (∀ (s : State) dt active, HasRoom s 0x5A →
    Gives (.progMemUe dt ⟨active, false⟩) s fun t => (∃ a, Raised s t 0x39 0x5A 0xFF a) ∧ t.rly = s.rly)

/-- Breaks and debug (R388, R389): a break unit whose condition holds in every Lane stops its stream; HALT stops both; STEP_A and STEP_E let
one command of a stopped stream go; RESUME lets both go on and clears HIT. The model's readings in it: log 93. -/
def Obligations.DebugStops : Prop :=
  (∀ (s : State) b, let st := if s.rlyBrkCtrl_STREAM b then Stream.execute else Stream.access
    let l0 := s.lane s.lane0
    b < 2 → (if st = .access then s.rly.prog.stopA else s.rly.prog.stopE) = false → s.rlyCtrl_EN = true → s.lanesIn ≠ [] →
    l0.pc st < imgCount s.image st →
    (∀ n ∈ s.lanesIn, (s.lane n).pos st = l0.pos st ∧ (s.lane n).runs st = 0 ∧
      s.breakHolds b st n (imgCmd s.image st (l0.pc st)) = true) →
    Gives (.breakHit b) s fun t =>
      t.rly.prog.hit = b + 1 ∧ t.rly.prog.stopA = (s.rly.prog.stopA || decide (st = .access)) ∧
        t.rly.prog.stopE = (s.rly.prog.stopE || decide (st = .execute))) ∧
  (∀ (s : State) v, RegOpen s .rlyDbgCmd 0 0 → bit v.toNat 3 = true → bit v.toNat 2 = false →
    Gives (.dbgHalt v) s fun t =>
      t.rly.prog.stopA = true ∧ t.rly.prog.stopE = true ∧ t.rly.prog.hit = if s.rly.prog.hit = 0 then 3 else s.rly.prog.hit) ∧
  (∀ (s : State) v, RegOpen s .rlyDbgCmd 0 0 → bit v.toNat 0 = true → bit v.toNat 2 = false → s.rly.prog.stopA = true →
    Gives (.dbgStepA v) s fun t => t.rly.prog.stepA = some (s.issuedTo .access) ∧ t.rly.prog.stopA = true) ∧
  (∀ (s : State) v, RegOpen s .rlyDbgCmd 0 0 → bit v.toNat 1 = true → bit v.toNat 2 = false → s.rly.prog.stopE = true →
    Gives (.dbgStepE v) s fun t => t.rly.prog.stepE = some (s.issuedTo .execute) ∧ t.rly.prog.stopE = true) ∧
  (∀ (s : State) v, RegOpen s .rlyDbgCmd 0 0 → bit v.toNat 2 = true →
    Gives (.dbgResume v) s fun t => t.rly.prog.stopA = false ∧ t.rly.prog.stopE = false ∧ t.rly.prog.hit = 0)

/-! ### Verdicts and actuation (11_actuation.md) -/

/-- What binds and creates entries (R402 to R408, R421, R428, R431; 13_rings.md R499): a verdict's request that matches nothing
creates an entry; one that matches an entry with no settled binding binds it; of two settled bindings FIRE wins; one that matches
fixed entries only is late; a refused one counts in BADREQ; with the schedule full the unit enters FLOOD. A bad record raises
ACT_RECORD_BAD, in the safe state records are discarded, and a verdict that a RETIRING program emitted under CANCEL is discarded and
counted (R426). ACT_ARM creates its actions and completes, in the safe state with CSTATUS 11. A generator creates an entry at the
next position or recorded edge. Notices and records are taken in the order they came in; a notice settles or voids the provisional
bindings of its frame that are not fixed, and one of SEQ 0 or of an epoch settled before raises ACT_RECORD_BAD. The model's readings
in it: log 113, 114, 117, 119, 151. -/
def Obligations.VerdictsBind : Prop :=
  (∀ (s : State) r rest q, let b : Bearer := ⟨BitVec.ofNat 16 (u16 r.data 4), u8 r.data 3, BitVec.ofNat 32 (u32 r.data 16), r.slot,
      if r.host then .host else .verdict⟩
    let e : Entry := { no := s.act.entryNo, out := q.out, position := q.position, frame := q.frame, trig := q.trig, key := q.key,
                       width := s.widthOf q.out q.width, origin := b.origin, bind := some (s.bindingOf q b), nbind := 1,
                       state := stateOf (some (s.bindingOf q b)) }
    s.act.intake = r :: rest → s.act.notices = [] → s.flt.safe = false → u8 r.data 0 = 0x60 → 2 ≤ u16 r.data 6 → r.dead = false →
    verdictRequests r.data = [q] → s.refusedReq q = false → (∀ x ∈ s.act.entries, s.matches q x = false) → Opens s e →
    Gives .verdictIntake s fun t => t.act.intake = rest ∧ t.act.entries = s.act.entries ++ [e]) ∧
  (∀ (s : State) r rest q (e : Entry),
    let b : Bearer := ⟨BitVec.ofNat 16 (u16 r.data 4), u8 r.data 3, BitVec.ofNat 32 (u32 r.data 16), r.slot,
      if r.host then .host else .verdict⟩
    s.act.intake = r :: rest → s.act.notices = [] → s.flt.safe = false → u8 r.data 0 = 0x60 → 2 ≤ u16 r.data 6 → r.dead = false →
    verdictRequests r.data = [q] → s.refusedReq q = false →
    nearest q (s.act.entries.filter fun x => s.matches q x && !x.fixed) = some e → s.entry e.no = some e →
    Gives .verdictIntake s fun t => t.act.intake = rest ∧
      (e.bind.any (fun o => decide (o.state = .settled)) = false →
        t.entry e.no = some { e with bind := some (s.bindingOf q b), state := stateOf (some (s.bindingOf q b)),
                                     nbind := min 65535 (e.nbind + 1), width := s.widthOf q.out q.width }) ∧
      (e.bind.any (fun o => decide (o.state = .settled)) = true →
        t.entry e.no = some (if q.fire then { e with bind := e.bind.map fun o => { o with fire := true },
                                                     nbind := min 65535 (e.nbind + 1), width := s.widthOf q.out q.width }
          else { e with nbind := min 65535 (e.nbind + 1) }))) ∧
  (∀ (s : State) r rest q (e : Entry), s.act.intake = r :: rest → s.act.notices = [] → s.flt.safe = false → u8 r.data 0 = 0x60 →
    2 ≤ u16 r.data 6 → r.dead = false → verdictRequests r.data = [q] → s.refusedReq q = false →
    nearest q (s.act.entries.filter fun x => s.matches q x && !x.fixed) = none →
    nearest q (s.act.entries.filter fun x => s.matches q x) = some e → s.entry e.no = some e →
    Gives .verdictIntake s fun t =>
      t.act.lateVerdict = satAdd 65535 s.act.lateVerdict 1 ∧ t.entry e.no = some { e with lateReq := true }) ∧
  (∀ (s : State) r rest q, s.act.intake = r :: rest → s.act.notices = [] → s.flt.safe = false → u8 r.data 0 = 0x60 →
    2 ≤ u16 r.data 6 → r.dead = false → verdictRequests r.data = [q] → s.refusedReq q = true →
    Gives .verdictIntake s fun t => t.act.badReq = satAdd 255 s.act.badReq 1 ∧ t.act.entries = s.act.entries) ∧
  (∀ (s : State) r rest q, s.act.intake = r :: rest → s.act.notices = [] → s.flt.safe = false → u8 r.data 0 = 0x60 →
    2 ≤ u16 r.data 6 → r.dead = false → verdictRequests r.data = [q] → s.refusedReq q = false →
    (∀ x ∈ s.act.entries, s.matches q x = false) → 4096 ≤ s.act.entries.length →
    Gives .verdictIntake s fun t =>
      t.act.flooded = satAdd 65535 s.act.flooded 1 ∧
        (s.flooding = true ∨ (∀ x ∈ s.act.entries, x.state ≠ .firing) → t.flooding = true ∧ t.act.entries = s.act.entries) ∧
        (s.flooding = false → (∀ n, n < 32 → (t.outp n).drive = .idle) ∧
          (s.actLstop_DEFAULT = true → t.act.lstop = true ∧ t.act.lstopCause = 3))) ∧
  (∀ (s : State) r rest, s.act.intake = r :: rest → s.act.notices = [] → s.flt.safe = false → u8 r.data 0 = 0x60 →
    2 ≤ u16 r.data 6 → r.dead = true →
    Gives .verdictIntake s fun t => t.act = { s.act with intake := rest, cancelled := satAdd 255 s.act.cancelled 1 }) ∧
  (∀ (s : State) r rest, s.act.intake = r :: rest → s.act.notices = [] → s.flt.safe = true →
    Gives .verdictIntake s fun t => t = s.modAct fun a => { a with intake := rest }) ∧
  (∀ (s : State) r rest, s.act.intake = r :: rest → s.act.notices = [] → s.flt.safe = false → (u8 r.data 0 = 0 ∨ u16 r.data 6 < 2) →
    HasRoom s 0x5D → Gives .verdictIntake s fun t => Raised s t 0x64 0x5D 0xFF (u32 r.data 0) ∧ t.act = { s.act with intake := rest }) ∧
  (∀ (s : State) r rest, s.act.intake = r :: rest → s.act.notices = [] → s.flt.safe = false → u8 r.data 0 ≠ 0 → u8 r.data 0 ≠ 0x60 →
    2 ≤ u16 r.data 6 → Gives .verdictIntake s fun t => t.act = { s.act with intake := rest, badReq := satAdd 255 s.act.badReq 1 }) ∧
  (∀ (s : State) o, let q := s.armClamp (requestOf (o.inl 0 16))
    let e : Entry := { no := s.act.entryNo, out := q.out, position := q.position, frame := q.frame, trig := q.trig, key := q.key,
                       width := s.widthOf q.out q.width, origin := .host, bind := some (s.bindingOf q ⟨0, 0, 0, none, .host⟩), nbind := 1,
                       state := .armed }
    Heads s 0x30 o → s.act.intake = [] → s.act.notices = [] → s.flt.safe = false → u8 o.desc 8 ≤ 1 → s.refusedReq q = false →
    (∀ x ∈ s.act.entries, s.matches q x = false) →
    Opens s e → Gives .actArm s fun t => t.act.entries = s.act.entries ++ [e] ∧ Completed s t o 0 0 (by1 0 ++ by1 q.out)) ∧
  (∀ (s : State) o, let q := s.armClamp (requestOf (o.inl 0 16))
    Heads s 0x30 o → s.act.intake = [] → s.act.notices = [] → s.flt.safe = false → u8 o.desc 8 ≤ 1 → s.refusedReq q = true →
    Gives .actArm s fun t => t.act = { s.act with badReq := satAdd 255 s.act.badReq 1 } ∧ Completed s t o 0 0 (by1 1 ++ by1 q.out)) ∧
  (∀ (s : State) o, Heads s 0x30 o → s.act.intake = [] → s.act.notices = [] → s.flt.safe = true →
    Gives .actArm s fun t => t.act = s.act ∧ Completed s t o 11 (s.flt.cause % 256) []) ∧
  (∀ (s : State) n cur g, let f := s.actExp_FRAME n
    let p := nextPitch g (s.actExpPhase_PHASE n) (s.actExpPitch_UNITS n)
    let e := { s.expectEntry n f p with no := s.act.entryNo }
    n < 32 → s.outEnabled n = true → s.actExp_MODE n = 1 → (s.motion f).absent = false → s.flt.safe = false →
    (s.motion f).lastPos = some cur → (s.outp n).genPos = some g → 0 ≤ wpSub cur p → Opens s e →
    Gives (.expectCreate n) s fun t => t.act.entries = s.act.entries ++ [e] ∧ (t.outp n).genPos = some p) ∧
  (∀ (s : State) n x rest c p, let f := s.actExp_FRAME n
    let e := { s.expectEntry n f p with no := s.act.entryNo }
    n < 32 → s.outEnabled n = true → s.actExp_MODE n = 2 → (s.motion f).absent = false → s.flt.safe = false →
    (s.outp n).genCap = x :: rest → (s.motion f).tconf = some c → dtGe c x = true → (s.motion f).confirmed x = some p → Opens s e →
    Gives (.expectCreate n) s fun t => t.act.entries = s.act.entries ++ [e] ∧ (t.outp n).genCap = rest) ∧
  (∀ (s t : State) r irest rcl ep rest, s.act.intake = r :: irest → s.act.notices = (rcl, ep, 0) :: rest → exec .actNotice s = .next t →
    exec .verdictIntake s = exec .verdictIntake t) ∧
  (∀ (s t : State) r irest rcl ep k rest, s.act.intake = r :: irest → s.act.notices = (rcl, ep, k + 1) :: rest →
    exec .verdictIntake s = .next t → exec .actNotice s = exec .actNotice t) ∧
  (∀ (s : State) rcl ep rest, s.act.notices = (rcl, ep, 0) :: rest → s.flt.safe = false →
    (epSeq ep = 0 ∨ viewOf s.act.view ep ≠ 0 ∨
      Tab.get 0 (epFrame ep) s.act.sealed ≠ 0 ∧ seqGe (Tab.get 0 (epFrame ep) s.act.sealed) (epSeq ep) = true) → HasRoom s 0x5D →
    Gives .actNotice s fun t =>
      Raised s t 0x64 0x5D 0xFF (noticeHead rcl ep) ∧ t.act = { s.act with notices := rest }) ∧
  (∀ (s : State) rcl ep rest (i : Nat) (e : Entry), s.act.notices = (rcl, ep, 0) :: rest → s.act.entries[i]? = some e →
    s.flt.safe = false → epSeq ep ≠ 0 → viewOf s.act.view ep = 0 →
    (Tab.get 0 (epFrame ep) s.act.sealed = 0 ∨ seqGe (Tab.get 0 (epFrame ep) s.act.sealed) (epSeq ep) = false) →
    Gives .actNotice s fun t => t.act.notices = rest ∧ t.act.entries.length = s.act.entries.length ∧
      (e.fixed = true → t.act.entries[i]? = some e) ∧
      (∀ b ∈ e.bind, e.fixed = false → b.state = .provisional → epSeq b.epoch ≠ 0 → epFrame b.epoch = epFrame ep →
        (rcl = true → seqGe (epSeq b.epoch) (epSeq ep) = true →
          t.act.entries[i]? = some { e with bind := some { b with state := .void }, state := .opened }) ∧
        (rcl = false → seqGe (epSeq ep) (epSeq b.epoch) = true → b.absent = false →
          t.act.entries[i]? = some { e with bind := some { b with state := .settled }, state := .armed })))

/-- Entries on their way (R401, R409 to R416): at its guard point or edge start an entry commits to its decision, and a FIRE past
its lateness limit is freed as STALE; the edge of a committed FIRE starts at tc − LEAD, is merged with one that began before it,
earlier or at that instant and earlier in schedule order (R425), or asserts LINE_STOP_N, where the line is not stopped already
(R413); none starts where the pin is held; full drive goes over to the hold phase, where the output has one, and a pulse ends in a
bridge or in IDLE, with the output's entries freed; an entry that drives nothing is freed at its trigger point. Each freed entry
posts its ACTION record. The model's readings in it: log 112, 114, 115, 151. -/
def Obligations.ScheduleFires : Prop :=
  (∀ (s : State) no (e : Entry) ct, let u := s.waitUntil (s.whenDev ct)
    let d := s.decisionOf e
    let e1 := { e with state := .committed, fire := d.1, cause := d.2, lateness := u.latenessOf e }
    s.act.intake = [] → s.act.notices = [] → s.entry no = some e → e.fixed = false → s.commitTime e = some ct →
    (d.1 = true → e.skipped = false → e.out ≠ 32 → u.latenessOf e ≤ 1000 * s.actGap_LATE_US e.out) →
    Gives (.entryCommit no) s fun t => t.now = u.now ∧ t.entry no = some e1 ∧
      t.act.defaults = if 1 ≤ d.2 ∧ d.2 ≤ 4 then (s.act.defaults + 1) % 65536 else s.act.defaults) ∧
  (∀ (s : State) no (e : Entry) ct, let u := s.waitUntil (s.whenDev ct)
    let d := s.decisionOf e
    let e1 := { e with state := .committed, fire := d.1, cause := d.2, lateness := u.latenessOf e }
    s.act.intake = [] → s.act.notices = [] → s.entry no = some e → e.fixed = false → s.commitTime e = some ct → d.1 = true →
    e.skipped = false → e.out ≠ 32 → 1000 * s.actGap_LATE_US e.out < u.latenessOf e → s.flooding = false →
    Gives (.entryCommit no) s fun t => t.entry no = none ∧ t.act.late = satAdd 65535 s.act.late 1 ∧
      Reported s t s.actReport_EN s.actReport_RING (u.actionRec e1 2 7)) ∧
  (∀ (s : State) no (e : Entry) tc, let due := dtAdd tc (-(s.leadDt e.out))
    let u := s.waitUntil (s.whenDev due)
    let on := decide ((s.outp e.out).drive ≠ .idle)
    let late := e.skipped || decide (usToDt 1 < dtSub u.dev due)
    s.entry no = some e → e.state = .committed → e.fire = true → e.mute = false → e.out ≠ 32 → s.crossing e = some tc →
    (s.outp e.out).trip = false → s.outEnabled e.out = true → s.pinHeld e.out = false →
    Gives (.edgeStart no) s fun t =>
      (t.outp e.out).drive = .full ∧
        (t.outp e.out).phaseEnd =
          (if (s.outp e.out).drive = .full then max (s.outp e.out).phaseEnd (u.now + nsTicks * e.width) else u.now + nsTicks * e.width) ∧
        t.entry no = some { e with state := .firing, late := late, merged := e.merged || u.firesBefore e,
                                   edge := u.dev, edgeAt := u.now, firedPos := (u.posNow e.frame).getD 0 } ∧
        t.act.fired = (if on then s.act.fired else (s.act.fired + 1) % 65536) ∧
        t.act.late = if late then satAdd 65535 s.act.late 1 else s.act.late) ∧
  (∀ (s : State) no e tc, let u := s.waitUntil (s.whenDev tc)
    let late := e.skipped || decide (usToDt 1 < dtSub u.dev tc)
    s.entry no = some e → e.state = .committed → e.fire = true → e.mute = false → e.out = 32 → s.crossing e = some tc →
    s.pinHeld 32 = false →
    Gives (.edgeStart no) s fun t =>
      t.act.lstop = true ∧ t.act.lstopCause = (if s.act.lstop then s.act.lstopCause else 3) ∧
        t.act.fired = (if s.act.lstop then s.act.fired else (s.act.fired + 1) % 65536) ∧ t.entry no = none ∧
        t.act.late = (if s.act.lstop = false ∧ late = true then satAdd 65535 s.act.late 1 else s.act.late) ∧
        Reported s t s.actReport_EN s.actReport_RING
          (u.actionRec { e with late := late, edge := u.dev, firedPos := (u.posNow e.frame).getD 0 } 1 e.cause)) ∧
  (∀ (s : State) no e tc, s.entry no = some e → e.state = .committed → e.fire = true → e.mute = false → e.out ≤ 32 →
    s.crossing e = some tc → (e.out ≠ 32 → (s.outp e.out).trip = false ∧ s.outEnabled e.out = true) → s.pinHeld e.out = true →
    Gives (.edgeStart no) s fun t =>
      t.entry no = some { e with mute := true } ∧ t.outp e.out = s.outp e.out ∧ t.act.lstop = s.act.lstop) ∧
  (∀ (s : State) n, let u := s.waitUntil (s.outp n).phaseEnd
    (s.outp n).drive = .full →
    Gives (.fullDriveEnd n) s fun t => t.now = u.now ∧
      (n < 16 → 0 < s.actHold_DUTY n → 0 < s.actHold_US n →
        (t.outp n).drive = .hold ∧ (t.outp n).phaseEnd = u.now + 4000 * s.actHold_US n ∧ t.act.entries = s.act.entries) ∧
      (16 ≤ n ∨ s.actHold_DUTY n = 0 ∨ s.actHold_US n = 0 →
        (∀ p ∈ u.bridge n, (t.outp n).drive = .full ∧ (t.outp n).phaseEnd = u.whenDev p.2 ∧
          ∃ y ∈ t.act.entries, y.no = p.1.no ∧ y.merged = true) ∧
        (u.bridge n = none → (t.outp n).drive = .idle ∧ (∀ e ∈ t.act.entries, e.out = n → e.state ≠ .firing) ∧
          ∀ e, s.act.entries.filter (fun e => decide (e.out = n) && decide (e.state = .firing)) = [e] → s.flooding = false →
            Reported s t s.actReport_EN s.actReport_RING (u.actionRec e 1 e.cause)))) ∧
  (∀ (s : State) n, let u := s.waitUntil (s.outp n).phaseEnd
    (s.outp n).drive = .hold →
    Gives (.holdEnd n) s fun t => t.now = u.now ∧
      (∀ p ∈ u.bridge n, (t.outp n).drive = .full ∧ (t.outp n).phaseEnd = u.whenDev p.2 ∧
        ∃ y ∈ t.act.entries, y.no = p.1.no ∧ y.merged = true) ∧
      (u.bridge n = none → (t.outp n).drive = .idle ∧ (∀ e ∈ t.act.entries, e.out = n → e.state ≠ .firing) ∧
        ∀ e, s.act.entries.filter (fun e => decide (e.out = n) && decide (e.state = .firing)) = [e] → s.flooding = false →
          Reported s t s.actReport_EN s.actReport_RING (u.actionRec e 1 e.cause))) ∧
  (∀ (s : State) no (e : Entry) tc, let u := s.waitUntil (s.whenDev tc)
    let e1 := { e with flood := s.outHeld e.out }
    s.entry no = some e → e.state = .committed → s.crossing e = some tc → s.flooding = false →
    Gives (.entryTriggerPoint no) s fun t => t.now = u.now ∧
      (e.fire = false → e.out = 32 ∨ (s.outp e.out).trip = false ∧ s.outEnabled e.out = true →
        t.entry no = none ∧ Reported s t s.actReport_EN s.actReport_RING (u.actionRec e1 0 e.cause)) ∧
      (e.out ≠ 32 → (s.outp e.out).trip = true ∨ s.outEnabled e.out = false →
        t.entry no = none ∧ Reported s t s.actReport_EN s.actReport_RING (u.actionRec e1 2 8)) ∧
      (e.fire = true → e.out = 32 ∨ (s.outp e.out).trip = false ∧ s.outEnabled e.out = true →
        (e.mute = true → t.entry no = none ∧ Reported s t s.actReport_EN s.actReport_RING (u.actionRec e1 2 e.cause)) ∧
          (e.mute = false → t.entry no = some e)))

/-- What clears, stops and starts outputs (R413, R427 to R432): ACT_CLEAR removes what is neither committed nor due; the enables, RUN and
RELEASE; an output in overcurrent trips and its pin is low; a readback fault; an uncorrectable error drops its entry and holds its output
for 100 ms, output 32 as LSTOP.DEFAULT says, a corrected one is reported; a failed test of the safe path raises SAFE_PATH. After the safe
state outputs stand at SAFE until RUN (R428). A high-side output's level while the supply sags is left open (log 190). The model's
readings in it: log 114, 116, 117, 118, 167. -/
def Obligations.OutputsStop : Prop :=
  (∀ (s : State) o, let gone := fun (e : Entry) => (o.inlNat 0 8 % 2 ^ 33).testBit e.out && !e.fixed && !s.dueSoon e
    Heads s 0x31 o →
    Gives .actClear s fun t =>
      (∀ e ∈ t.act.entries, e ∈ s.act.entries ∧ gone e = false) ∧
        (∀ e ∈ s.act.entries, gone e = false → (∀ x ∈ s.act.entries, x.no = e.no → x = e) → e ∈ t.act.entries) ∧
        t.hl.ops = dropFirst (Op.is o.ring o.didx) s.hl.ops ∧
        (s.actReport_EN = false → Completed s t o 0 0 (by2 (s.act.entries.filter gone).length))) ∧
  (∀ (s : State) v, RegOpen s .actCtrl 0 0 → bit v.toNat 0 = true → s.actCtrl_EN = false → s.act.floodIn = false →
    Gives (.actUnitEnable v) s fun t =>
      t.actCtrl_EN = true ∧
        t.act.state = (if s.flt.safe = true ∨ s.act.state = .safe ∧ bit v.toNat 1 = false then .safe else .run) ∧
        ∀ n, n < 32 → (t.outp n).trip = (s.outp n).trip ∧ (t.outp n).drive = .idle) ∧
  (∀ (s : State) v, RegOpen s .actCtrl 0 0 → bit v.toNat 0 = false → s.actCtrl_EN = true →
    Gives (.actUnitDisable v) s fun t =>
      t.actCtrl_EN = false ∧
        t.act.state = (if s.act.state = .safe ∧ (s.flt.safe = true ∨ bit v.toNat 1 = false) then .safe else .off) ∧
        t.act.lstop = true ∧ (∀ e ∈ t.act.entries, 33 ≤ e.out) ∧
        ∀ n, n < 32 → (t.outp n).drive = .idle ∧
          ((t.outp n).trip = false → t.aon.sag = false ∨ 16 ≤ n → t.outLevel n = t.actCfg_SAFE n)) ∧
  (∀ (s : State) n v, n < 32 → RegOpen s .actCfg n 0 → bit v.toNat 31 = false → s.actCfg_EN n = true →
    Gives (.actOutputDisable n v) s fun t =>
      t.actCfg_EN n = false ∧ (∀ e ∈ t.act.entries, e.out ≠ n) ∧ (t.outp n).drive = .idle ∧
        ((t.outp n).trip = false → t.aon.sag = false ∨ 16 ≤ n → t.outLevel n = t.actCfg_SAFE n)) ∧
  (∀ (s : State) v, RegOpen s .actCtrl 0 0 → bit v.toNat 0 = true → bit v.toNat 1 = true → s.actCtrl_EN = true →
    s.act.state = .safe →
    Gives (.actRun v) s fun t => t.act.state = if s.flt.safe then .safe else if s.act.floodIn then .flood else .run) ∧
  (∀ (s : State) v, RegOpen s .actLstop 0 0 → bit v.toNat 8 = true →
    Gives (.lstopRelease v) s fun t =>
      t.act.lstop = if s.outHeld 32 = true ∧ t.actLstop_DEFAULT = true then true else if s.flt.safe then s.act.lstop else false) ∧
  (∀ (s : State) dt n, n < 16 → s.islandUp 2 = true → HasRoom s 0x5D →
    Gives (.actOvercurrent dt n) s fun t =>
      Raised s t 0x62 0x5D n 0 ∧ (t.outp n).trip = true ∧ t.outLevel n = false ∧ t.now = s.now + dt) ∧
  (∀ (s : State) dt n, n < 32 → s.islandUp 2 = true → HasRoom s 0x5D →
    Gives (.actReadback dt n) s fun t => Raised s t 0x63 0x5D n 0 ∧ (t.outp n).fault = true ∧ t.now = s.now + dt) ∧
  (∀ (s : State) dt no known e, s.entry no = some e → HasRoom s 0x5D →
    Gives (.actSchedUe dt ⟨no, true⟩ known) s fun t =>
      t.entry no = none ∧ (∃ w, Raised s t 0x61 0x5D (if known then e.out else 0xFF) w) ∧
        (known = true → (t.outp e.out).ueUntil = some (s.now + dt + 400000000) ∧ (t.outp e.out).drive = .idle ∧
          (e.out = 32 → s.actLstop_DEFAULT = true → t.act.lstop = true))) ∧
  (∀ (s : State) dt no known e, s.entry no = some e → HasRoom s 0x5D →
    Gives (.actSchedUe dt ⟨no, false⟩ known) s fun t =>
      t.act = s.act ∧ ∃ w, Raised s t 0x60 0x5D (if known then e.out else 0xFF) w) ∧
  (∀ (s : State) n x, (s.outp n).ueUntil = some x →
    Gives (.actSchedUeHoldEnd n) s fun t => t.now = max s.now x ∧ (t.outp n).ueUntil = none) ∧
  (∀ (s : State) dt, s.aon.phase ≠ .held → Gives (.safePathTest dt false) s fun t => Raised s t 0x66 0x5D 0xFF 0) ∧
  (∀ (s : State) dt, Gives (.safePathTest dt true) s fun t => t = s.pass dt)

/-! ### Imcel (12_imcel.md) -/

/-- A session opens (R438 to R443, R465): HELLO is answered by a CHALLENGE with two free nonces, or by a REFUSE with its REASON, 16 times in
a second at most; OPEN with the right proof opens the session and sends OPENED; one that is late, misses its challenge or fails its proof
is refused; a challenge ends after 1 s. The model's readings in it: log 120, 125, 192, 193. -/
def Obligations.SessionsOpen : Prop :=
  (∀ (s : State) dt p peer f i, let o := u8 f.payload 17 % 16
    PortTakes s p peer f 0x01 → (s.port p).helloN < 16 → f.version = 1 → i = u8 f.payload 16 → i ≤ 7 → bit s.hlPolicy_OPEN_OK i = true →
    (bit o 0 = true ∨ bit s.hlPolicy_FULL_OK i = true) → ((s.sess i).isOpen = false ∨ bit o 2 = true) →
    Gives (.hello dt p peer f) s fun t => ∃ nd disn, nd.length = 16 ∧
      (t.sess i).chal = some ⟨sub f.payload 0 16, nd, if s.hlPCfg_JUMBO p then o else o &&& 0x0D, BitVec.ofNat 32 (u32 f.payload 20), disn,
        t.now, p⟩ ∧
      t.out = s.out ++ [.frame p peer (s.wired p peer (mkFrame 0x02 0xFF 0 0 false (nd ++ by1 i ++
        by1 (if s.hlPCfg_JUMBO p then o else o &&& 0x0D) ++ by1 s.aon.keyGen ++ zeros 1 ++ by4 disn.toNat)))]) ∧
  (∀ (s : State) dt p peer f r i, PortTakes s p peer f 0x01 → (s.port p).helloN < 16 →
    (f.version ≠ 1 ∧ r = 6 ∧ i = 0xFF ∨
      f.version = 1 ∧ u8 f.payload 16 = 0xFF ∧ (∀ k, k < 8 → (s.sess k).isOpen = true ∨ (s.sess k).chal ≠ none) ∧ r = 1 ∧ i = 0xFF ∨
      f.version = 1 ∧ u8 f.payload 16 = i ∧ i ≠ 0xFF ∧ (7 < i ∨ bit s.hlPolicy_OPEN_OK i = false) ∧ r = 4 ∨
      f.version = 1 ∧ u8 f.payload 16 = i ∧ i ≤ 7 ∧ bit s.hlPolicy_OPEN_OK i = true ∧ bit (u8 f.payload 17) 0 = true ∧
        bit (u8 f.payload 17) 2 = false ∧ (s.sess i).isOpen = true ∧ r = 2) →
    Gives (.hello dt p peer f) s fun t =>
      t.out = s.out ++ [.frame p peer (s.wired p peer (mkFrame 0x05 0xFF 0 0 false (by1 r ++ by1 i)))] ∧ t.hl.sessions = s.hl.sessions) ∧
  (∀ (s : State) dt p peer f, PortTakes s p peer f 0x01 → 16 ≤ (s.port p).helloN → s.now + dt < (s.port p).helloAt + 4000000000 →
    Gives (.hello dt p peer f) s fun t => t = s.pass dt) ∧
  (∀ (s : State) dt p peer f i c, let k := s.proofKey (bit c.oflags 3)
    let tok := tokenBytes (c.skey k i)
    PortTakes s p peer f 0x03 → i = u8 f.payload 32 → (s.sess i).chal = some c → s.now + dt < c.at_ + 4000000000 →
    c.nh = sub f.payload 0 16 → c.nd = sub f.payload 16 16 → c.proofH k i = sub f.payload 44 16 →
    (s.aon.keyBad = false ∨ bit c.oflags 3 = true) → leNat tok ≠ 0 →
    Gives (.openSession dt p peer f) s fun t =>
      (t.sess i).isOpen = true ∧ (t.sess i).chal = none ∧ (t.sess i).token = BitVec.ofNat 64 (leNat tok) ∧ (t.sess i).key = c.skey k i ∧
        (t.sess i).next = c.hisn ∧ (t.sess i).slide = bit c.oflags 0 ∧ (t.sess i).jumbo = bit c.oflags 1 ∧
        (t.sess i).recover = bit c.oflags 3 ∧ (t.sess i).window = 0 ∧ (t.sess i).port = p ∧ (t.sess i).peer = peer ∧
        ∃ l, t.out = s.out ++ .frame p peer (s.wired p peer (mkFrame 0x04 i (leNat tok) 0 false (tok ++ by1 i ++ by1 c.oflags ++
          by2 (if bit c.oflags 1 then 8192 else 1024) ++ zeros 4 ++ c.proofD k tok))) :: l) ∧
  (∀ (s : State) dt p peer f i, PortTakes s p peer f 0x03 → i = u8 f.payload 32 →
    (∀ c ∈ (s.sess i).chal, c.at_ + 4000000000 ≤ s.now + dt ∨ c.nh ≠ sub f.payload 0 16 ∨ c.nd ≠ sub f.payload 16 16) →
    Gives (.openSession dt p peer f) s fun t =>
      t.out = s.out ++ [.frame p peer (s.wired p peer (mkFrame 0x05 0xFF 0 0 false (by1 5 ++ by1 i)))] ∧ t.hl.sessions = s.hl.sessions) ∧
  (∀ (s : State) dt p peer f i c, PortTakes s p peer f 0x03 → i = u8 f.payload 32 → (s.sess i).chal = some c →
    s.now + dt < c.at_ + 4000000000 → c.nh = sub f.payload 0 16 → c.nd = sub f.payload 16 16 →
    (c.proofH (s.proofKey (bit c.oflags 3)) i ≠ sub f.payload 44 16 ∨ s.aon.keyBad = true ∧ bit c.oflags 3 = false) →
    Gives (.openSession dt p peer f) s fun t =>
      t.out = s.out ++ [.frame p peer (s.wired p peer (mkFrame 0x05 0xFF 0 0 false (by1 3 ++ by1 i)))] ∧ t.hl.sessions = s.hl.sessions ∧
        t.hl.authFail = satAdd 65535 s.hl.authFail 1) ∧
  (∀ (s : State) i c, (s.sess i).chal = some c →
    Gives (.challengeTimeout i) s fun t => (t.sess i).chal = none ∧ t.now = max s.now (c.at_ + 4000000000))

/-- The requests of a host in their sequence (R443 to R447, R450 to R456, R469): WRITE stores in DRAM, READ brings memory or words of setup
space, REGWRITE writes a register and brings its value back, WINDOW, KEYSET, CLOSE and PING do what they say, each answered by one RESP; a
RECOVER session is refused what it may not do; a tag that does not match is counted; an earlier request brings its cached RESP again, a
later one is held, and a frame of no session is counted. The model's readings in it: log 121, 122, 123, 124, 192, 193. -/
def Obligations.HostRequestsAnswered : Prop :=
  (∀ (s : State) dt p peer f i a room, let d := f.payload.drop 16
    let n := min (min (clampN 1 (s.sess i).maxData (u32 f.payload 8)) d.length) (min room (s.dramAfter a))
    PortTakes s p peer f 0x10 → NextRequest s f i → (s.sess i).recover = false → (s.sess i).place (u64 f.payload 0) = some (a, room) →
    inSetup a = false →
    Gives (.write dt p peer f) s fun t => t.mem = (s.writeMem a (d.take n)).mem ∧ Answered s t i p peer f 0 n [] true) ∧
  (∀ (s : State) dt p peer f i a room, PortTakes s p peer f 0x10 → NextRequest s f i →
    ((s.sess i).recover = true ∨ (s.sess i).place (u64 f.payload 0) = some (a, room) ∧ inSetup a = true) →
    Gives (.write dt p peer f) s fun t => t.mem = s.mem ∧ t.regs = s.regs ∧ Answered s t i p peer f 2 0 [] true) ∧
  (∀ (s : State) dt p peer f i a room, let n := min (clampN 1 (s.sess i).maxData (u32 f.payload 8)) (min room (s.memAfter a))
    PortTakes s p peer f 0x11 → NextRequest s f i → (s.sess i).place (u64 f.payload 0) = some (a, room) → inSetup a = false →
    Gives (.read dt p peer f) s fun t =>
      t.mem = s.mem ∧ Answered s t i p peer f 0 n (s.readMem a n) (decide (s.memAfter a = 0))) ∧
  (∀ (s : State) dt p peer f i a room,
    let n := min (min 256 (clampN 1 (s.sess i).maxData (u32 f.payload 8))) (min room (setupBase + 0x1000000 - a))
    let u := ((s.pass dt).modSess i fun x => { x with lastFrame := s.now + dt }).heard i p peer
    PortTakes s p peer f 0x11 → NextRequest s f i → (s.sess i).place (u64 f.payload 0) = some (a, room) → inSetup a = true →
    Gives (.read dt p peer f) s fun t =>
      if a % 4 = 0 ∧ n % 4 = 0 then Answered s t i p peer f 0 n (State.readWords (n / 4) (a - setupBase) u).1 true
      else Answered s t i p peer f 1 0 [] true) ∧
  (∀ (s : State) dt p peer f i, let off := u32 (confBody f) 4
    let u := (((s.pass dt).modSess i fun x => { x with lastFrame := s.now + dt }).heard i p peer).writeReg off
      (BitVec.ofNat 32 (u32 (confBody f) 8))
    PortTakes s p peer f 0x12 → NextRequest s f i → (s.sess i).recover = false → tagOk f (s.sess i).key = true →
    confOp f = 1 → u8 (confBody f) 1 = 1 → (confBody f).length = 12 → off < 0x1000000 → off % 4 = 0 → u.aon.swRun = s.aon.swRun →
    Gives (.regwrite dt p peer f) s fun t =>
      t.regs = u.regs ∧ (t.sess i).next = f.seq + 1 ∧
        (t.sess i).cache.head? = some (f.seq, some (respBytes 0 1 (by4 (u.readWord off).toNat))) ∧
        .frame p peer (s.wired p peer (mkFrame 0x18 i f.token.toNat f.seq false (respBytes 0 1 (by4 (u.readWord off).toNat)))) ∈ t.out) ∧
  (∀ (s : State) dt p peer f i, PortTakes s p peer f 0x12 → InSession s f i → confOp f = 1 → tagOk f (s.sess i).key = false →
    Gives (.regwrite dt p peer f) s fun t =>
      t.hl.authFail = satAdd 65535 s.hl.authFail 1 ∧ t.out = s.out ∧ t.regs = s.regs ∧ (t.sess i).next = (s.sess i).next) ∧
  (∀ (s : State) dt p peer f i, let w := min 16383 (u32 (confBody f) 4)
    PortTakes s p peer f 0x12 → NextRequest s f i → (s.sess i).recover = false → tagOk f (s.sess i).key = true →
    confOp f = 2 → (confBody f).length = 8 →
    Gives (.window dt p peer f) s fun t =>
      if (s.sess i).slide then (t.sess i).window = w ∧ Answered s t i p peer f 0 0 (by4 w) true
      else (t.sess i).window = (s.sess i).window ∧ Answered s t i p peer f 4 0 [] true) ∧
  (∀ (s : State) dt p peer f i, PortTakes s p peer f 0x12 → NextRequest s f i → tagOk f (s.sess i).key = true → confOp f = 3 →
    (confBody f).length = 36 →
    Gives (.keyset dt p peer f) s fun t =>
      t.aon.linkKey = some (newKey (s.sess i).key f.seq ((confBody f).drop 4)) ∧ t.aon.keyGen = (s.aon.keyGen + 1) % 256 ∧
        t.aon.keyBad = false ∧ Answered s t i p peer f 0 0 [] true) ∧
  (∀ (s : State) dt p peer f i, PortTakes s p peer f 0x12 → NextRequest s f i → tagOk f (s.sess i).key = true → confOp f = 4 →
    (confBody f).length = 4 →
    Gives (.close dt p peer f) s fun t =>
      t.out = s.out ++ [.frame p peer (s.wired p peer (mkFrame 0x18 i f.token.toNat f.seq false (respBytes 0 0 [])))] ∧
        (t.sess i).isOpen = false ∧
        (t.sess i).outst = [] ∧ (t.sess i).todo = [] ∧ (t.sess i).holds = [] ∧ (t.sess i).cache = []) ∧
  (∀ (s : State) dt p peer f i, PortTakes s p peer f 0x13 → NextRequest s f i →
    Gives (.ping dt p peer f) s fun t => t.mem = s.mem ∧ t.regs = s.regs ∧ Answered s t i p peer f 0 0 [] true) ∧
  (∀ (s : State) dt p peer f i r, PortTakes s p peer f 0x13 → InSession s f i → -64 ≤ ixSub f.seq (s.sess i).next →
    ixSub f.seq (s.sess i).next < 0 → (s.sess i).cache.find? (fun c => decide (c.1 = f.seq)) = some (f.seq, some r) →
    Gives (.ping dt p peer f) s fun t =>
      t.out = s.out ++ [.frame p peer (s.wired p peer (mkFrame 0x18 i f.token.toNat f.seq true r))] ∧ (t.sess i).next = (s.sess i).next ∧
        (t.sess i).hostDup = satAdd 65535 (s.sess i).hostDup 1) ∧
  (∀ (s : State) dt p peer f i, PortTakes s p peer f 0x13 → InSession s f i → 0 < ixSub f.seq (s.sess i).next →
    ixSub f.seq (s.sess i).next ≤ 63 → (∀ g ∈ (s.sess i).holds, g.seq ≠ f.seq) → (s.sess i).holds.length < 16 →
    Gives (.ping dt p peer f) s fun t =>
      (t.sess i).holds = (s.sess i).holds ++ [f] ∧ t.out = s.out ∧ (t.sess i).next = (s.sess i).next) ∧
  (∀ (s : State) dt p peer f, let i := f.session.toNat
    PortTakes s p peer f 0x13 → (7 < i ∨ (s.sess i).isOpen = false ∨ (s.sess i).token ≠ f.token) →
    Gives (.ping dt p peer f) s fun t => t = (s.pass dt).countNoSession)

/-- Doorbells, answers to device requests and timers of a session (R448, R450, R458, R460, R462, R463; 13_rings.md R480, R495, R501): NUDGE
and the FDATA of a doorbell word take its IDX; FDATA with descriptors stages them; PACK acknowledges a piece; STATUS 1 stops the ring; a
request that is not answered is sent again with twice the time, and after MAX_TRY times its session is lost, as it is when the keepalive
time ends; PROBE is answered by one STATUS, ten times in a second at most, and the beacon sends one on its own, before a first lock at rate
after rate (15_startup.md R535).
The model's readings in it: log 127, 128, 129, 132, 148, 174, 192, 193. -/
def Obligations.DeviceRequests : Prop :=
  (∀ (s : State) dt p peer f i r, let ix := BitVec.ofNat 32 (u64 f.payload 0)
    PortTakes s p peer f 0x30 → InSession s f i → f.payload.length = 12 → r = u8 f.payload 8 → r < 32 → s.hlRingCfg_EN r = true →
    s.hlRingCfg_SESSION r = i → u64 f.payload 0 / 2 ^ 32 % 65536 = s.hlRingGen_GEN r → 0 < ixSub ix (s.ring r).hidx →
    ixSub ix ((s.ring r).own + BitVec.ofNat 32 (s.ringSize r)) ≤ 0 →
    Gives (.nudge dt p peer f) s fun t => (t.ring r).hidx = ix ∧ (t.ring r).pollAt = t.now ∧ t.now = s.now + dt) ∧
  (∀ (s : State) dt p peer f i r, PortTakes s p peer f 0x30 → InSession s f i → f.payload.length = 12 → r = u8 f.payload 8 →
    (32 ≤ r ∨ s.hlRingCfg_EN r = false ∨ s.hlRingCfg_SESSION r ≠ i) →
    Gives (.nudge dt p peer f) s fun t => t.hl.noSession = satAdd 65535 s.hl.noSession 1 ∧ t.hl.rings = s.hl.rings) ∧
  (∀ (s : State) dt p peer f, PortTakes s p peer f 0x31 → (s.port p).probeN < 10 →
    Gives (.probe dt p peer f) s fun t => t.out = s.out ++ [(s.pass dt).statusTo p peer]) ∧
  (∀ (s : State) dt p peer f, PortTakes s p peer f 0x31 → 10 ≤ (s.port p).probeN → s.now + dt < (s.port p).probeAt + 4000000000 →
    Gives (.probe dt p peer f) s fun t => t = s.pass dt) ∧
  (∀ (s : State) dt p peer f i q, let ix := BitVec.ofNat 32 (u64 f.payload 8)
    PortTakes s p peer f 0x28 → InSession s f i →
    (s.sess i).outst.find? (fun q => decide (q.seq = f.seq) && decide (q.kind.fetches = true)) = some q → q.kind = .doorbell →
    q.dead = false → q.len = 8 → u8 f.payload 0 = 0 → u32 f.payload 4 = 8 → f.payload.length = 16 → q.ring < 32 →
    u64 f.payload 8 / 2 ^ 32 % 65536 = s.hlRingGen_GEN q.ring → 0 < ixSub ix (s.ring q.ring).hidx →
    ixSub ix ((s.ring q.ring).own + BitVec.ofNat 32 (s.ringSize q.ring)) ≤ 0 →
    Gives (.fdata dt p peer f) s fun t => (t.ring q.ring).hidx = ix ∧ (t.sess i).lastFrame = t.now) ∧
  (∀ (s : State) dt p peer f i q ix, PortTakes s p peer f 0x28 → InSession s f i →
    (s.sess i).outst.find? (fun q => decide (q.seq = f.seq) && decide (q.kind.fetches = true)) = some q → q.kind = .descriptors ix 1 →
    q.dead = false → q.len = 64 → u8 f.payload 0 = 0 → u32 f.payload 4 = 64 → f.payload.length = 72 → (s.ring q.ring).staging = [] →
    (s.ring q.ring).own = ix →
    Gives (.fdata dt p peer f) s fun t =>
      (t.ring q.ring).staging = [(ix, f.payload.drop 8)] ∧ (t.ring q.ring).own = ix + 1 ∧ (t.ring q.ring).didx = ix + 1) ∧
  (∀ (s : State) dt p peer f i q id e rest, PortTakes s p peer f 0x29 → InSession s f i →
    (s.sess i).outst.find? (fun q => decide (q.seq = f.seq) && decide (q.kind.fetches = false)) = some q → q.kind = .record id →
    q.dead = false → u8 f.payload 0 = 0 → Tab.get [] i s.hl.posts = e :: rest → e.id = id → (∀ x ∈ rest, x.id ≠ id) →
    Gives (.pack dt p peer f) s fun t =>
      Tab.get [] i t.hl.posts = if e.left ≤ 1 then rest else { e with left := e.left - 1 } :: rest) ∧
  (∀ (s : State) dt p peer f i q, PortTakes s p peer f 0x29 → InSession s f i →
    (s.sess i).outst.find? (fun q => decide (q.seq = f.seq) && decide (q.kind.fetches = false)) = some q → q.dead = false →
    u8 f.payload 0 = 1 →
    Gives (.pack dt p peer f) s fun t => (t.ring q.ring).stopped = true) ∧
  (∀ (s : State) i q rest, let x := s.sess i
    x.outst = q :: rest → (s.port x.port).settling = false → (s.port x.port).up = true → (∀ y ∈ rest, q.due ≤ y.due) →
    q.tries < s.hlRetx_MAX_TRY →
    Gives (.deviceRetxTimeout i) s fun t => t.now = max s.now q.due ∧
      (t.sess i).outst = { q with tries := q.tries + 1, rto := min 100000 (2 * q.rto), sentAt := t.now } :: rest ∧
      t.out = s.out ++ [.frame x.port x.peer (s.wired x.port x.peer (mkFrame (if q.kind.fetches then 0x20 else 0x21) i x.token.toNat q.seq true q.payload))]) ∧
  (∀ (s : State) i q rest, let x := s.sess i
    x.outst = q :: rest → (s.port x.port).settling = false → (∀ y ∈ rest, q.due ≤ y.due) → s.hlRetx_MAX_TRY ≤ q.tries →
    Gives (.deviceRetxTimeout i) s fun t => t.now = max s.now q.due ∧ (t.sess i).isOpen = false ∧ (t.sess i).outst = []) ∧
  (∀ (s : State) i, (s.sess i).isOpen = true →
    Gives (.keepaliveExpire i) s fun t =>
      t.now = max s.now ((s.sess i).lastFrame + s.hlKeepalive_MS * 4000000 + 1) ∧ (t.sess i).isOpen = false ∧ (t.sess i).outst = [] ∧
        (t.sess i).holds = []) ∧
  (∀ (s : State) p lock, let u := s.waitUntil ((s.port p).beaconAt + s.hlCtrl_BEACON_S * 4000000000)
    s.aon.sl1 = true → s.hlCtrl_BEACON_S ≠ 0 → s.portOn p = true → (s.port p).up = true → (s.port p).settling = false →
    s.hlPAddr4_ADDR4 p = 0 →
    Gives (.statusBeacon p lock) s fun t =>
      t.now = u.now ∧ (t.port p).beaconAt = t.now ∧ t.out = s.out ++ [u.statusTo p allNodes]) ∧
  (∀ (s : State) lock, let u := s.waitUntil ((s.port 0).beaconAt + 4000000000)
    let r := if s.aon.lastRate = 0 then s.aon.trial else s.aon.lastRate
    s.aon.sl1 = false → s.aon.rail = true → s.hlPAddr4_ADDR4 0 = 0 →
    Gives (.statusBeacon 0 lock) s fun t =>
      t.now = u.now ∧ (t.port 0).beaconAt = t.now ∧ t.aon.trial = (if s.aon.lastRate = 0 then r % 3 + 1 else s.aon.trial) ∧
        if s.aon.lastRate = 0 ∧ lock = false then t.out = s.out
        else t.aon.beaconRate = r ∧ t.out = s.out ++ [u.statusTo 0 allNodes])

/-- Host ports (R434, R470 to R473; 03_sensor_ports.md R128): a settling port locks; past its limit it is contained, with
HL_PORT_FAULT, and it is tried again every 1 s; a port of SPEED 0 searches rate after rate; a link that goes down settles anew or
waits for its signal; an address or echo request for an own address is answered, and one in tags or options that the port does not
take is counted. The model's readings in it: log 55, 129, 131, 163, 189. -/
def Obligations.HostPorts : Prop :=
  (∀ (s : State) dt p, s.portOn p = true → (s.port p).up = false → (s.port p).settling = true → s.portsStarted = true →
    Gives (.hlPortLock dt p) s fun t =>
      (t.port p).up = true ∧ (t.port p).rate = (s.port p).tryRate ∧ (t.port p).settling = false ∧ (t.port p).fault = false ∧
        (t.port p).held = [] ∧ (s.aon.phase = .done → s.aon.hlFail = false → t.aon.sl1 = true) ∧ (p = 0 →
        t.aon.lastRate = (s.port p).tryRate)) ∧
  (∀ (s : State) p, (s.port p).settling = true → s.hlPCfg_SPEED p ≠ 0 →
    Gives (.hlSettleLimit p) s fun t =>
      t.now = max s.now ((s.port p).settleAt + s.hlSettle_LIMIT_US * 4000) ∧ (t.port p).fault = true ∧ (t.port p).settling = false ∧
        (t.port p).held = [] ∧ ((s.port p).lockedSince = true → HasRoom s 0x70 → Raised s t 0x72 0x70 p 0)) ∧
  (∀ (s : State) p, (s.port p).settling = true → s.hlPCfg_SPEED p = 0 →
    Gives (.hlSettleLimit p) s fun t =>
      (t.port p).fault = (s.port p).fault ∧ (t.port p).settling = false ∧ (t.port p).held = [] ∧ t.flt = s.flt) ∧
  (∀ (s : State) p, (s.port p).fault = true → (s.port p).settling = false → s.portOn p = true →
    Gives (.hlPortRetry p) s fun t =>
      t.now = max s.now ((s.port p).stepAt + 4000000000) ∧ (t.port p).retries = satAdd 65535 (s.port p).retries 1 ∧
        (t.port p).settling = true ∧ (t.port p).settleAt = t.now ∧ (t.port p).up = false ∧
        (t.port p).tryRate = if s.hlPCfg_SPEED p = 0 then 1 else s.hlPCfg_SPEED p) ∧
  (∀ (s : State) p, (s.port p).up = false → s.hlPCfg_SPEED p = 0 → s.portOn p = true → s.portsStarted = true →
    Gives (.hlSpeedSearch p) s fun t =>
      t.now = max s.now ((s.port p).stepAt + 1600000000) ∧ (t.port p).settling = true ∧ (t.port p).settleAt = t.now ∧
        (t.port p).tryRate = (s.port p).tryRate % 3 + 1) ∧
  (∀ (s : State) dt p, (s.port p).up = true →
    Gives (.hlLinkDown dt p) s fun t => t.now = s.now + dt ∧ (t.port p).up = false ∧ (t.port p).rate = 0 ∧
      (s.hlPCfg_SPEED p = 0 → (t.port p).settling = true ∧ (t.port p).tryRate = 1 ∧ (t.port p).settleAt = t.now) ∧
      (s.hlPCfg_SPEED p ≠ 0 → (t.port p).settling = false ∧ (t.port p).held = [])) ∧
  (∀ (s : State) dt p, (s.port p).up = false → (s.port p).settling = false → (s.port p).fault = false → s.portOn p = true →
    s.portsStarted = true →
    Gives (.hlSignalRegained dt p) s fun t => t.now = s.now + dt ∧ (t.port p).settling = true ∧ (t.port p).settleAt = t.now ∧
      (t.port p).tryRate = if s.hlPCfg_SPEED p = 0 then max 1 (s.port p).tryRate else s.hlPCfg_SPEED p) ∧
  (∀ (s : State) dt p r, r.sensor = false → s.portOn p = true → (s.port p).up = true → (s.port p).settling = false →
    s.plain p r.via = true →
    (r.kind = .arp ∨ r.kind = .nd ∨ r.kind = .echo4 ∨ r.kind = .echo6) →
    Gives (.arpNdEchoRequest dt p r) s fun t =>
      t.out = s.out ++ if s.hostOwns p r.target then [.net false p r.kind r.src r.data ⟨s.ownTags p, false, some r.target⟩] else []) ∧
  (∀ (s : State) dt p r, r.sensor = true → (s.sen p).up = true → (s.quad 4).settling = false → reqFrameLen r ≤ 9216 →
    r.via.odd = false → r.via.tags = [] →
    (r.kind = .arp ∨ r.kind = .nd ∨ r.kind = .echo4 ∨ r.kind = .echo6) →
    Gives (.arpNdEchoRequest dt p r) s fun t =>
      t.out = s.out ++ if s.senOwns p r.target then [.net true p r.kind r.src r.data ⟨[], false, some r.target⟩] else []) ∧
  (∀ (s : State) dt p r, r.sensor = false → s.portOn p = true → (s.port p).up = true → s.plain p r.via = false →
    Gives (.arpNdEchoRequest dt p r) s fun t => t = (s.pass dt).countBad)

/-! ### Rings (13_rings.md) -/

/-- A ring's work (R480 to R483, R490 to R497, R500, R501): the doorbell word is fetched once each poll interval; the staged
descriptor is dispatched once its engine has room, a lower ring's for the same engine first, with its Job Status Word written; a
waiting record is posted at the device index, which moves on, one posted before to the same entries as it was, and one without TYPE or whole
header is discarded with HL_RECORD_BAD (12_imcel.md R465); a running operation's Job Status Word is written again after 100 µs;
enabling a ring starts its indices, disabling it discards what waits. The model's readings in it: log 130, 133, 195. -/
def Obligations.RingsRun : Prop :=
  (∀ (s : State) r, let i := s.hlRingCfg_SESSION r
    let x := s.sess i
    let q : DevReq := { kind := .doorbell, ring := r, haddr := BitVec.ofNat 64 (s.hlRingDbaddr_DBADDR r), len := 8, data := [],
                        seq := x.devNext, tries := 0, rto := s.hlRetx_RTO_US,
                        sentAt := max s.now ((s.ring r).pollAt + s.hlPoll_US * 4000), dead := false }
    r < 32 → s.ringLive r = true → x.todo = [] → x.outst.length < 32 → (s.port x.port).up = true → (s.port x.port).settling = false →
    Gives (.doorbellPoll r) s fun t =>
      t.now = max s.now ((s.ring r).pollAt + s.hlPoll_US * 4000) ∧ (t.ring r).pollAt = t.now ∧ (t.sess i).outst = x.outst ++ [q] ∧
        (t.sess i).devNext = x.devNext + 1 ∧
        t.out = s.out ++ [.frame x.port x.peer (s.wired x.port x.peer (mkFrame 0x20 i x.token.toNat x.devNext false
          (by8 q.haddr.toNat ++ by4 8 ++ (by1 0 ++ by1 r))))]) ∧
  (∀ (s : State) r idx d0 rest, let d := s.clampDesc d0
    let o : Op := { ring := r + 64 * (s.ring r).life, didx := idx, session := s.hlRingCfg_SESSION r, desc := d,
                    jsw := if bit (u8 d 1) 0 then some (u64 d 8) else none, jstate := 0, valid := 0, total := s.opTotal d, serial := 1,
                    started := 0, jswAt := s.now, taken := false, sentAt := s.now,
                    busHeld := decide (u8 d 0 = 1) && s.i2cIsHeld (min 24 (u16 d 2) - 16) }
    (∀ k, k < r → ∀ e ∈ s.headDesc k, s.descEngine e ≠ s.descEngine d) → (s.ring r).staging = (idx, d0) :: rest →
      s.hlRingCfg_EN r = true → (s.ring r).stopped = false → 0 < ixSub (s.ring r).own idx →
    s.roomFor d = true → (bit (u8 d 1) 2 = true → ∀ x ∈ s.hl.ops, x.subRing ≠ r) →
    Gives (.descriptorDispatch r) s fun t =>
      t.hl.ops = s.hl.ops ++ [o] ∧ (t.ring r).staging = rest ∧
        (bit (u8 d 1) 0 = true → t.mem = (s.writeMem (u64 d 8) (jswBytes o 0 s.dev ++ zeros 24)).mem) ∧
        (bit (u8 d 1) 0 = false → t.mem = s.mem)) ∧
  (∀ (s : State) r idx d0 rest, (s.ring r).staging = (idx, d0) :: rest → s.roomFor (s.clampDesc d0) = false →
    Gives (.descriptorDispatch r) s fun t => t = s) ∧
  (∀ (s : State) r k d e, k < r → s.headDesc r = some d → s.headDesc k = some e → s.descEngine e = s.descEngine d →
    (∀ j, j < k → ∀ x ∈ s.headDesc j, s.descEngine x ≠ s.descEngine d) →
    Gives (.descriptorDispatch r) s fun t =>
      ∃ o l, t.hl.ops = s.hl.ops ++ o :: l ∧ o.ring = k + 64 * (s.ring k).life ∧ o.desc = e) ∧
  (∀ (s : State) r e, 32 ≤ r → s.waiting r = some e → e.bad = true → HasRoom s 0x70 →
    Gives (.recordPost r) s fun t =>
      Raised s t 0x74 0x70 r (u32 e.data 0) ∧ Tab.get [] (s.hlRingCfg_SESSION r) t.hl.posts =
        (Tab.get [] (s.hlRingCfg_SESSION r) s.hl.posts).filter fun y => decide (y.id ≠ e.id)) ∧
  (∀ (s : State) r e, 32 ≤ r → s.waiting r = some e → e.bad = false → s.ringLive r = true → s.fits e = true → e.idx = none →
    Gives (.recordPost r) s fun t =>
      (t.ring r).own = (s.ring r).own + BitVec.ofNat 32 e.units ∧ (t.ring r).lossRec = 0 ∧
        (s.repostsLeft e = false → (t.ring r).didx = (t.ring r).own ∧ (t.ring r).lossSince = 0) ∧
        ∃ y ∈ Tab.get [] (s.hlRingCfg_SESSION r) t.hl.posts, y.id = e.id ∧ y.idx = some (s.ring r).own ∧
          y.data = withLoss r (s.ring r).lossRec e.data) ∧
  (∀ (s : State) r e k, 32 ≤ r → s.waiting r = some e → e.bad = false → s.ringLive r = true → e.idx = some k →
    Gives (.recordPost r) s fun t =>
      (t.ring r).own = (s.ring r).own ∧
        ∃ y ∈ Tab.get [] (s.hlRingCfg_SESSION r) t.hl.posts, y.id = e.id ∧ y.idx = some k ∧ y.data = e.data) ∧
  (∀ (s : State) r d o a, let n := max s.now (o.jswAt + 400000)
    s.hl.ops.filter (fun x => decide (x.subRing = r ∧ x.didx = d ∧ x.jstate = 1) && x.jsw.isSome) = [o] →
    s.hl.ops.find? (Op.is o.ring d) = some o → o.jsw = some a →
    Gives (.jswUpdate r d) s fun t =>
      t.now = n ∧ t.hl.ops.find? (Op.is o.ring d) = some { o with serial := (o.serial + 1) % 2 ^ 32, jswAt := n } ∧
        t.mem = (s.writeMem a (jswBytes { o with serial := (o.serial + 1) % 2 ^ 32, jswAt := n } 0 (s.devAt n))).mem) ∧
  (∀ (s : State) r v, r < 64 → RegOpen s .hlRingCfg r 0 → s.hlRingCfg_EN r = false → bit v.toNat 31 = true →
    Gives (.ringEnableWrite r v) s fun t =>
      t.hlRingCfg_EN r = true ∧ (t.ring r).hidx = 0 ∧ (t.ring r).own = 0 ∧ (t.ring r).didx = 0 ∧ (t.ring r).stopped = false ∧
        (t.ring r).loss = 0 ∧ (t.ring r).staging = []) ∧
  (∀ (s : State) r v, r < 64 → RegOpen s .hlRingCfg r 0 → s.hlRingCfg_EN r = true → bit v.toNat 31 = false →
    Gives (.ringEnableWrite r v) s fun t =>
      t.hlRingCfg_EN r = false ∧ (t.ring r).hidx = 0 ∧ (t.ring r).own = 0 ∧ (t.ring r).didx = 0 ∧ (t.ring r).staging = [] ∧
        ∀ e ∈ Tab.get [] (s.hlRingCfg_SESSION r) t.hl.posts, e.ring ≠ r)

/-- What descriptors do (R482 to R485; 14_faults.md R516; 15_startup.md R536 to R540): NOP completes; SLV_HEAT puts its heat into the
Solver's intake with the header it writes; INJECT posts its record to a ring or gives it to the Actuation Unit, or is refused with its
REASON; in the safe state heats and actuation complete with CSTATUS 11; a PROFILE is taken up, one at a time, and its end does what its
ACTION says. The model's readings in it: log 133, 145. -/
def Obligations.DescriptorsDone : Prop :=
  (∀ (s : State) o, Heads s 0x00 o → Gives .nopDescriptor s fun t => Completed s t o 0 0 []) ∧
  (∀ (s : State) o, let a := o.inlNat 0 8
    let u := if s.inDram a 8 then s.writeMem (a + 1) (by1 (0x78 + o.session) ++ zeros 4) else s
    Heads s 0x23 o → s.flt.safe = false → s.slv.intake.length < 32 → (s.slv.intake.filter fun h => h.host.isSome).length < s.slvHost_MAX →
    Gives .slvHeat s fun t =>
      t.mem = u.mem ∧
        t.slv.intake = s.slv.intake ++ [{ no := s.slv.heatNo, addr := a, baton := none, host := some (o.ring, o.didx),
                                          head := u.readMem a 64, epoch := 0, flags := u8 (u.readMem a 64) 3 }] ∧
        t.hl.ops.find? (Op.is o.ring o.didx) = some { o with taken := true }) ∧
  (∀ (s : State) o, Heads s 0x23 o → s.flt.safe = true →
    Gives .slvHeat s fun t => t.slv = s.slv ∧ Completed s t o 11 (s.flt.cause % 256) []) ∧
  (∀ (s : State) o b, s.nextOp 0x38 (fun o => !bit (u8 o.desc 8) 0) = some o → s.hl.ops.find? (Op.is o.ring o.didx) = some o →
    s.injected o = .ok b →
    Gives .injectReport s fun t =>
      t.hl.ops = dropFirst (Op.is o.ring o.didx) s.hl.ops ∧
        (PostRoom s (u8 o.desc 9) b.length → bit (u8 o.desc 1) 1 = true → Posted s t (u8 o.desc 9) b) ∧
        (s.hlRingCfg_EN (u8 o.desc 9) = false → Completed s t o 0 0 (by2 (u16 b 6)))) ∧
  (∀ (s : State) o n, s.nextOp 0x38 (fun o => !bit (u8 o.desc 8) 0) = some o → s.hl.ops.find? (Op.is o.ring o.didx) = some o →
    s.injected o = .error n →
    Gives .injectReport s fun t =>
      Completed s t o 1 n [] ∧
        (t.sess o.session).discards = if n = 4 then (s.sess o.session).discards else (s.sess o.session).discards + 1) ∧
  (∀ (s : State) o b, s.nextOp 0x38 (fun o => bit (u8 o.desc 8) 0) = some o → s.hl.ops.find? (Op.is o.ring o.didx) = some o →
    s.flt.safe = false → s.act.intake.length < 32 → s.injected o = .ok b →
    Gives .injectActuation s fun t =>
      t.act.intake = s.act.intake ++ [⟨intakeBytes b, none, true, false⟩] ∧ Completed s t o 0 0 (by2 (u16 b 6))) ∧
  (∀ (s : State) o n, s.nextOp 0x38 (fun o => bit (u8 o.desc 8) 0) = some o → s.hl.ops.find? (Op.is o.ring o.didx) = some o →
    s.flt.safe = false → s.act.intake.length < 32 → s.injected o = .error n →
    Gives .injectActuation s fun t => t.act = s.act ∧ Completed s t o 1 n []) ∧
  (∀ (s : State) o, s.nextOp 0x38 (fun o => bit (u8 o.desc 8) 0) = some o → s.hl.ops.find? (Op.is o.ring o.didx) = some o →
    s.flt.safe = true → Gives .injectActuation s fun t => t.act = s.act ∧ Completed s t o 11 (s.flt.cause % 256) []) ∧
  (∀ (s : State) o c k, (c = .profileRead ∧ k = 0 ∨ c = .profileWrite ∧ k = 1 ∨ c = .profileErase ∧
    k = 2 ∨ c = .profileSelectBoot ∧ k = 3) →
    Heads s 0x48 o → (∀ x ∈ s.hl.ops, x.code = 0x48 → x.taken = false) → profAction o = k →
    Gives c s fun t =>
      t.hl.ops.find? (Op.is o.ring o.didx) = some { o with
        taken := true
        jstate := 1
        started := s.dev.toNat
        serial := (o.serial + 1) % 2 ^ 32
        jswAt := s.now } ∧
        t.aon.slots = s.aon.slots) ∧
  (∀ (s : State) o, let n := profSlot o
    let len := profLength o
    let b := s.slotBytes n
    s.hl.ops.find? (fun o => decide (o.code = 0x48) && o.taken) = some o → s.hl.ops.find? (Op.is o.ring o.didx) = some o →
    Gives .profileComplete s fun t =>
      (profAction o = 0 → b ≠ [] → o.jsw = none →
        t.mem = (s.writeMem (profAddr o) ((b ++ List.replicate (len - b.length) 0xFF).take len)).mem ∧
          Completed s t o 0 0 (t.profResult n len)) ∧
      (profAction o = 1 → profValid (s.readMem (profAddr o) len) = true → Tab.get 0 n s.aon.slotWrites < 100000 →
        t.slotBytes n = s.readMem (profAddr o) len ∧ Tab.get 0 n t.aon.slotWrites = Tab.get 0 n s.aon.slotWrites + 1 ∧
          Completed s t o 0 0 (t.profResult n len)) ∧
      (profAction o = 1 → profValid (s.readMem (profAddr o) len) = false →
        t.aon.slots = s.aon.slots ∧ Completed s t o 1 1 (t.profResult n 0)) ∧
      (profAction o = 2 → t.slotBytes n = [] ∧ t.aon.boot ≠ some n ∧ Completed s t o 0 0 (t.profResult n 0)) ∧
      (profAction o = 3 → len ≠ 0 → profValid b = true → t.aon.boot = some n ∧ Completed s t o 0 0 (t.profResult n 0)) ∧
      (profAction o = 3 → len ≠ 0 → profValid b = false → t.aon.boot = s.aon.boot ∧ Completed s t o 1 2 (t.profResult n 0)))

/-! ### Faults and the safe state (14_faults.md) -/

/-- Messages and their classes (R505 to R512, R518, R523 to R525; 15_startup.md R542): the next message is counted, logged and recorded
under its effective class, one of effective class F enters the safe state; a fatal line, which is the fault that its message has brought
or brings later, a silent island, a failed memory channel, a
memory error and a forced fault do as their code says; class C is acknowledged after its time, any class by FLT_ACK, of what has been
classified by then; ALIVE toggles. The model's readings in it: log 13, 14, 27, 134, 135, 136, 141, 168. -/
def Obligations.FaultsClassified : Prop :=
  (∀ (s : State) m, let e := escalate (faultClass m.code) s.flt.unackC s.flt.unackU
    let n := nextSerial s.flt.serial
    s.nextMsg = some m → s.flt.dead = false → m.loss = false → islandOf m.source m.unit ∉ s.flt.lossOf →
    Gives .faultClassify s fun t =>
      t.flt.serial = n ∧
        t.flt.unackC = (if e.1 = 0 then min 1023 (s.flt.unackC + 1) else s.flt.unackC) ∧
        t.flt.unackU = (if e.1 = 1 then min 1023 (s.flt.unackU + 1) else s.flt.unackU) ∧
        t.flt.unackF = (if e.1 = 2 then min 1023 (s.flt.unackF + 1) else s.flt.unackF) ∧
        (t.flt.log.find? fun x => decide (x.1 = t.flt.logHead)) =
          some (t.flt.logHead, ⟨logWord m (faultClass m.code) e.1 e.2 (decide (e.1 = 2) && !s.flt.safe), n, BitVec.ofNat 32 m.arg,
            if faultClass m.code = 2 then m.dev else s.dev⟩) ∧
        Tab.get 0 (m.code % 256) t.flt.counts = satAdd 0xFFFFFFFF (Tab.get 0 (m.code % 256) s.flt.counts) 1 ∧
        (e.1 = 2 → t.flt.safe = true ∧ (s.flt.safe = false → t.flt.cause = m.code ∧ t.flt.safeSerial = n ∧ t.flt.safeAt = s.now)) ∧
        (e.1 ≠ 2 → t.flt.safe = s.flt.safe ∧
          Tab.get [] (islandOf m.source m.unit) t.flt.bufs =
            dropFirst (fun x => decide (x = m)) (Tab.get [] (islandOf m.source m.unit) s.flt.bufs) ∧
          Reported s t s.fltReport_EN s.fltReport_RING (mkRec 0x78 0x5F (fLAST + flagIf s.tunc fTUNC) 0 s.dev
            (by1 m.code ++ by1 (faultClass m.code) ++ by1 e.1 ++ by1 (e.2 + 16 * b2n (codesSticky.contains m.code)) ++ by1 m.source ++
              by1 m.unit ++ zeros 2 ++ by4 n.toNat ++ by4 m.arg)))) ∧
  (∀ (s : State) dt island code unit arg, s.aon.phase ≠ .held → s.flt.dead = false → faultClass code = 2 → code < 256 →
    (s.flt.bufs.flatMap fun e => e.2).find? (fun m => decide (m.source = island ∧ faultClass m.code = 2)) = none →
    (island, code) ∉ s.flt.lined →
    Gives (.fatalLine dt island code unit arg) s fun t => t.flt.safe = true ∧ t.now = s.now + dt ∧
      (s.flt.safe = false → t.flt.cause = code ∧ t.flt.safeTime = (s.pass dt).dev)) ∧
  (∀ (s : State) dt island code unit arg, s.aon.phase ≠ .held → faultClass code = 2 →
    (s.flt.bufs.flatMap fun e => e.2).find? (fun m => decide (m.source = island ∧ faultClass m.code = 2)) = none →
    (island, code) ∈ s.flt.lined →
    Gives (.fatalLine dt island code unit arg) s fun t => t.flt.serial = s.flt.serial ∧ t.flt.log = s.flt.log ∧ t.flt.safe = s.flt.safe) ∧
  (∀ (s : State) dt island code unit arg m, s.flt.dead = false → faultClass m.code = 2 →
    (s.flt.bufs.flatMap fun e => e.2).find? (fun m => decide (m.source = island ∧ faultClass m.code = 2)) = some m →
    Gives (.fatalLine dt island code unit arg) s fun t => t.flt.safe = true ∧
      (s.flt.safe = false → t.flt.cause = m.code ∧ t.flt.safeTime = (s.pass dt).dev)) ∧
  (∀ (s : State) v, RegOpen s .fltCtrl 0 0 → bit v.toNat 0 = true → Gives (.forceFault v) s fun t => Raised s t 0x94 0x5F 0xFF 0) ∧
  (∀ (s : State) dt island, coreIsland island = true → s.aon.phase ≠ .held →
    Gives (.islandTimeout dt island) s fun t => Raised s t 0x93 0x5F 0xFF island ∧ t.now = s.now + dt) ∧
  (∀ (s : State) dt a, s.dramAt a = true → s.aon.zeroed = true → HasRoom s 0x5F 0xE0 →
    Gives (.dramError dt (.dram a) false) s fun t => Raised s t 0x80 0x5F 0xE0 (a / 256) ∧ t.mem = s.mem) ∧
  (∀ (s : State) dt a, s.dramAt a = true → s.aon.zeroed = true → HasRoom s 0x5F 0xE0 →
    Gives (.dramError dt (.dram a) true) s fun t =>
      Raised s t 0x81 0x5F 0xE0 (a / 256) ∧ t.readMem (a / 32 * 32) 32 = zeros 32 ∧ a / 32 ∈ t.aon.ueUnits ∧
        ∀ x, ¬(a / 32 * 32 ≤ x ∧ x < a / 32 * 32 + 32) → t.readByte x = s.readByte x) ∧
  (∀ (s : State) dt ue, HasRoom s 0x5F →
    Gives (.dramError dt .collector ue) s fun t => (∃ w, Raised s t 0x90 0x5F 0xFF w) ∧ t.flt.log = s.flt.log) ∧
  (∀ (s : State) dt a c, HasRoom s 0x5B → c < 4 → s.kvFirst c ≤ a → a < s.kvFirst c + s.kvpCacheSeqs_NSEQ c →
    Gives (.dramError dt (.kvSeq a) true) s fun t =>
      (∃ w, Raised s t 0x41 0x5B c w) ∧ t.kvSeq a = { tag := 0xFFFFFFFF } ∧ ∀ m ∈ t.kvp.log, m.seq ≠ a) ∧
  (∀ (s : State) dt a c, HasRoom s 0x5B → c < 4 → s.kvFirst c ≤ a → a < s.kvFirst c + s.kvpCacheSeqs_NSEQ c →
    Gives (.dramError dt (.kvSeq a) false) s fun t => (∃ w, Raised s t 0x40 0x5B c w) ∧ t.kvp = s.kvp) ∧
  (∀ (s : State) dt u, HasRoom s 0x5C → s.slv.notices = [] →
    Gives (.dramError dt (.slvUnit u) true) s fun t => (∃ w, Raised s t 0x51 0x5C u w) ∧ ∀ x ∈ t.slv.units, x.1 ≠ u) ∧
  (∀ (s : State) dt u, HasRoom s 0x5C → s.slv.notices = [] →
    Gives (.dramError dt (.slvUnit u) false) s fun t => (∃ w, Raised s t 0x50 0x5C u w) ∧ t.slv = s.slv) ∧
  (∀ (s : State) dt i k, HasRoom s 0x70 →
    Gives (.dramError dt (.hlHold i k) true) s fun t =>
      (∃ w, Raised s t 0x71 0x70 i w) ∧ (t.sess i).holds = (s.sess i).holds.eraseIdx k) ∧
  (∀ (s : State) dt i k e, HasRoom s 0x70 → (Tab.get [] i s.hl.posts)[k]? = some e →
    Gives (.dramError dt (.hlPost i k) true) s fun t =>
      (∃ w, Raised s t 0x71 0x70 i w) ∧ Tab.get [] i t.hl.posts = (Tab.get [] i s.hl.posts).eraseIdx k ∧
        (t.ring e.ring).loss = satAdd 0xFFFFFFFF (s.ring e.ring).loss 1) ∧
  (∀ (s : State) dt i k x, HasRoom s 0x70 → (x = .hlHold i k ∨ x = .hlPost i k) →
    Gives (.dramError dt x false) s fun t => (∃ w, Raised s t 0x70 0x70 i w) ∧ t.hl = s.hl) ∧
  (∀ (s : State) dt ue, HasRoom s 0x70 →
    Gives (.dramError dt .linkKey ue) s fun t => (∃ w, Raised s t 0x73 0x70 0xFF w) ∧ t.aon.keyBad = true) ∧
  (∀ (s : State) dt c, c < 4 → s.chanFailed c = false → s.aon.zeroed = true → s.aon.phase ≠ .held →
    Gives (.dramLinkFail dt c) s fun t =>
      Raised s t 0x82 0x5F 0xE0 c ∧ t.chanFailed c = true ∧
        ∀ a, c * 0x200000000 ≤ a → a < (c + 1) * 0x200000000 → t.readByte a = 0) ∧
  (∀ s : State, s.fltAuto_MS ≠ 0 → s.flt.unackC ≠ 0 → s.flt.dead = false →
    Gives .autoAck s fun t => t.flt.unackC = 0 ∧ t.now = max s.now (s.flt.latestCAt + s.fltAuto_MS * 4000000) ∧
      (s.nextMsg = none → t.flt.unackU = s.flt.unackU ∧ t.flt.unackF = s.flt.unackF)) ∧
  (∀ (s : State) o, let k := o.inlNat 0 1
    Heads s 0x40 o → s.nextMsg = none → o.inlNat 4 4 = 0 → s.flt.dead = false →
    Gives .fltAck s fun t =>
      t.flt.unackC = (if bit k 0 then 0 else s.flt.unackC) ∧ t.flt.unackU = (if bit k 1 then 0 else s.flt.unackU) ∧
        t.flt.unackF = (if bit k 2 then 0 else s.flt.unackF) ∧
        Completed s t o 0 0 (by4 ((if bit k 0 then s.flt.unackC else 0) + (if bit k 1 then s.flt.unackU else 0) +
            (if bit k 2 then s.flt.unackF else 0)) ++ by1 (min 255 t.flt.unackC) ++ by1 (min 255 t.flt.unackU) ++
          by1 (min 255 t.flt.unackF) ++ by1 (8 * b2n (t.flt.safe && !t.releasable t.now)) ++ by4 s.flt.serial.toNat)) ∧
  (∀ (s : State) o, let x := BitVec.ofNat 32 (o.inlNat 4 4)
    Heads s 0x40 o → s.nextMsg = none → x ≠ 0 → o.inlNat 0 1 = 4 → ixSub x s.flt.latestF < 0 →
    Gives .fltAck s fun t => t.flt.unackC = s.flt.unackC ∧ t.flt.unackU = s.flt.unackU ∧ t.flt.unackF = s.flt.unackF) ∧
  (∀ (s t : State) o, s.nextOp 0x40 (fun _ => true) = some o → s.msgCount = 1 → exec .faultClassify s = .next t → t.nextMsg = none →
    t.nextOp 0x40 (fun _ => true) = some o → exec .fltAck s = exec .fltAck t) ∧
  (∀ s : State, s.aliveRun = true →
    Gives .aliveToggle s fun t =>
      t.flt.alive = !s.flt.alive ∧ t.flt.aliveAt = t.now ∧ t.now = max s.now (s.flt.aliveAt + 4000000))

/-- The safe state (R514 to R517, R523, R524; 11_actuation.md R428): when a fault of class F or the death of the collector enters it, every
pin is at its SAFE level unless its output has tripped, LINE_STOP_N is asserted, schedule and intake are empty, no context is open, the
batons are FREE and the streams stand at the program's entries; it is released 1 ms after its last entry once class F is acknowledged,
unless it is sticky. The model's readings in it: log 138, 139, 140. -/
def Obligations.SafeStateHolds : Prop :=
  (∀ (s : State) m, let img := Tab.get [] s.rly.prog.active s.rly.prog.slots
    s.nextMsg = some m → s.flt.dead = false → (escalate (faultClass m.code) s.flt.unackC s.flt.unackU).1 = 2 →
    s.flt.safe = false →
    Gives .faultClassify s fun t => t.flt.safe = true ∧ t.act.lstop = true ∧ t.act.entries = [] ∧ t.act.intake = [] ∧ t.rly.ctx = none ∧
      t.rly.bandq = [] ∧ (∀ b, b < 256 → (t.baton b).state = 0) ∧
      (∀ n, n < 16 → (t.lane n).apc = imgEntry img .access ∧ (t.lane n).epc = imgEntry img .execute) ∧
      ∀ n, n < 32 → (t.outp n).trip = false → t.aon.sag = false ∨ 16 ≤ n → t.outLevel n = t.actCfg_SAFE n) ∧
  (∀ s : State, let img := Tab.get [] s.rly.prog.active s.rly.prog.slots
    s.flt.dead = false → s.aon.sl1 = true →
    Gives .fltHeartbeatMiss s fun t =>
      t.now = s.now + 1200000 ∧ t.flt.dead = true ∧ t.flt.safe = true ∧ t.flt.sticky = true ∧ t.flt.cause = 0x91 ∧
        (s.flt.safe = false → t.act.lstop = true ∧ t.act.entries = [] ∧ t.act.intake = [] ∧ t.rly.ctx = none ∧ t.rly.bandq = [] ∧
          (∀ b, b < 256 → (t.baton b).state = 0) ∧ (∀ n, n < 16 →
            (t.lane n).apc = imgEntry img .access ∧ (t.lane n).epc = imgEntry img .execute)) ∧
        ∀ n, n < 32 → (t.outp n).trip = false → t.aon.sag = false ∨ 16 ≤ n → t.outLevel n = t.actCfg_SAFE n) ∧
  (∀ s : State, let u := s.waitUntil (s.flt.safeAt + 4000000)
    let img := Tab.get [] s.rly.prog.active s.rly.prog.slots
    s.flt.safe = true → s.flt.sticky = false → s.flt.unackF = 0 → s.nextMsg = none → s.flt.silent = [] →
    Gives .safeStateRelease s fun t =>
      t.flt.safe = false ∧ t.now = u.now ∧
        Reported s t s.fltReport_EN s.fltReport_RING (mkRec 0x79 0x5F (fLAST + flagIf s.tunc fTUNC) 0 u.dev
          (by1 0 ++ by1 s.flt.cause ++ zeros 2 ++ by4 s.flt.safeSerial.toNat)) ∧
        (∀ n, n < 16 → (t.lane n).apc = imgEntry img .access ∧ (t.lane n).epc = imgEntry img .execute) ∧
        ∀ f, (s.pf f).enabled = true → (t.pf f).resume = true ∧ (t.pf f).finalUntil = t.now + 4000000000) ∧
  (∀ s : State, s.flt.safe = true → (s.flt.sticky = true ∨ s.flt.unackF ≠ 0) → Gives .safeStateRelease s fun t => t = s)

/-! ### Supply, reset and start-up (15_startup.md) -/

/-- The supply and the sources of reset (R528 to R534; 16_module.md R582): each that begins a reset makes it held with its cause;
while reset is held a further one changes no more than its own mark, and the cause where it is listed first of those of one cycle; a
source that ends no longer holds it, and once none does reset is released, with its cause and duration recorded and interval time at
0. The model's readings in it: log 142, 143, 144. -/
def Obligations.ResetTaken : Prop :=
  (∀ (s : State) dt, s.aon.rail = true →
    Gives (.powerGood dt) s fun t => t.aon.powerGood = true ∧ Cause.powerOn ∉ t.aon.supply ∧ Cause.brownout ∉ t.aon.supply ∧
      (s.aon.powerGood = false → ∀ n, n < 16 → s.sspPocxp_EN n = true → (s.ssp n).pocxpTrip = false →
        (t.ssp n).pocxpOn = (s.ssp n).detected ∧ (t.ssp n).detecting = !(s.ssp n).detected)) ∧
  (∀ (s : State) dt, s.aon.rail = true → Gives (.lowVin dt) s fun t => t = (s.pass dt).modAon fun a =>
    { a with lowVin := true, eventAt := Tab.set 2 (s.now + dt) a.eventAt }) ∧
  (∀ (s : State) dt, s.aon.rail = true →
    Gives (.pocxpCut dt) s fun t => t.aon.powerGood = false ∧ ∀ n, n < 16 → (t.ssp n).pocxpOn = false ∧ (t.ssp n).detecting = false) ∧
  (∀ (s : State) dt c k, (c = .brownout dt ∧ k = Cause.brownout ∨ c = .overvolt dt ∧ k = Cause.overvolt ∨ c = .overtemp dt ∧
    k = Cause.thermal) →
    s.aon.rail = true →
    Gives c s fun t => t.now = s.now + dt ∧ t.aon.brownouts = satAdd 65535 s.aon.brownouts 1 ∧ k ∈ t.aon.supply ∧ t.aon.phase = .held ∧
      (s.aon.phase ≠ .held → Holds s t k) ∧
      (s.aon.phase = .held → t.aon.heldAt = s.aon.heldAt ∧ t.aon.heldCause =
        if s.aon.heldAt = s.now + dt ∧ k.rank < s.aon.heldCause.rank then k else s.aon.heldCause)) ∧
  (∀ (s : State) dt, s.aon.rail = true → s.aon.powerGood = true → Gives (.supplyResetRelease dt) s fun t => t.aon.supply = []) ∧
  (∀ (s : State) dt, s.aon.rail = true → s.aon.phase ≠ .held →
    Gives (.resetNChange dt false) s fun t => t.aon.resetN = true ∧ Holds s t .resetN) ∧
  (∀ (s : State) dt c k, (c = .resetNChange dt false ∧ k = Cause.resetN ∨ c = .buttonChange dt true ∧ k = Cause.button) →
    s.aon.rail = true → s.aon.phase = .held →
    Gives c s fun t => t.aon.phase = .held ∧ t.aon.heldAt = s.aon.heldAt ∧ t.aon.heldCause =
      (if s.aon.heldAt = s.now + dt ∧ k.rank < s.aon.heldCause.rank then k else s.aon.heldCause) ∧ t.aon.free = false) ∧
  (∀ (s : State) dt, s.aon.rail = true →
    Gives (.resetNChange dt true) s fun t => t = (s.pass dt).modAon fun a => { a with resetN := false }) ∧
  (∀ (s : State) dt, s.aon.rail = true → s.aon.phase ≠ .held →
    Gives (.buttonChange dt true) s fun t => t.aon.pressed = true ∧ Holds s t .button) ∧
  (∀ (s : State) dt, s.aon.rail = true →
    Gives (.buttonChange dt false) s fun t => t = (s.pass dt).modAon fun a => { a with pressed := false }) ∧
  (∀ (s : State) v, RegOpen s .aonSwreset 0 0 → v = 0xD00D → s.aon.swRun = false →
    Gives (.swreset v) s fun t => t.aon.swRun = true ∧ Holds s t .software) ∧
  (∀ s : State, s.aon.swRun = true → s.aon.phase = .held →
    Gives .swresetRelease s fun t => t.aon.swRun = false ∧ t.now = max s.now (s.aon.heldAt + 40000000)) ∧
  (∀ (s : State) otp, s.aon.phase = .held → s.aon.free = true →
    Gives (.resetRelease otp) s fun t =>
      t.now = 0 ∧ t.aon.phase = (if otp then .released else .failed) ∧ t.aon.cause = s.aon.heldCause ∧
        t.aon.holdMs = min 0xFFFFFF ((s.now - s.aon.heldAt) / 4000000) ∧ t.aon.otpOk = otp ∧
        t.aon.releases = if s.aon.heldCause = .powerOn then s.aon.releases else (s.aon.releases + 1) % 65536) ∧
  (∀ (s : State) otp, s.aon.phase = .held → s.aon.free = false → Gives (.resetRelease otp) s fun t => t = s) ∧
  (∀ (s : State) dt, Gives (.aonPowerLoss dt) s fun t =>
    t.aon.phase = .held ∧ t.aon.supply = [.powerOn] ∧ t.aon.rail = false ∧ t.regs = [] ∧ t.act.lstop = true ∧ t.aon.slots = s.aon.slots ∧
      t.aon.boot = s.aon.boot ∧ t.aon.linkKey = s.aon.linkKey ∧ t.now = s.now + dt) ∧
  (∀ (s : State) dt, s.aon.rail = false →
    Gives (.aonPowerUp dt) s fun t => t.aon.rail = true ∧ t.aon.heldAt = t.now ∧ t.now = s.now + dt)

/-- Start-up in its order (R536 to R539, R541, R542, R547, R548, R553): a boot image, or none and SL0 for good; the boot profile's
entries, writes and waits, or none; the host ports settle while the channels train; zeroing; then every queue is empty, the failed
islands stay in reset, and SL1 is declared once a host port has locked, unless the Host Link failed its self-test. The model's
readings in it: log 146, 147, 189. -/
def Obligations.StartUp : Prop :=
  (∀ (s : State) dt b, s.aon.phase = .released →
    Gives (.bootImageLoaded dt (some b)) s fun t =>
      t.aon.phase = .profile ∧ t.aon.link = b2n b ∧ t.aon.pslot = s.aon.boot.getD 31 ∧ t.aon.profIdx = 0) ∧
  (∀ (s : State) dt, s.aon.phase = .released →
    Gives (.bootImageLoaded dt none) s fun t => t.aon.phase = .failed ∧ t.aon.link = 3 ∧ t.aon.linkId = 0) ∧
  (∀ (s : State) k, s.aon.phase = .profile → s.aon.profWait = none →
    (s.aon.boot = none ∧ k = 0 ∨ ∃ n, s.aon.boot = some n ∧ profValid (s.slotBytes n) = false ∧ k = 2) →
    Gives .bootProfileApply s fun t =>
      t.aon.phase = .training ∧ t.aon.pstatus = k ∧ t.regs = s.regs ∧
        ∀ p, s.portOn p = true → (t.port p).settling = true ∧ (t.port p).settleAt = t.now) ∧
  (∀ (s : State) n b off v, let u := (s.modAon fun a => { a with profIdx := 1 }).writeReg off (BitVec.ofNat 32 v)
    s.aon.phase = .profile → s.aon.profWait = none → s.aon.boot = some n → b = s.slotBytes n → profValid b = true → u32 b 8 = 1 →
    s.aon.profIdx = 0 → off = u32 b 16 → v = u32 b 20 → off < 2 ^ 31 → profSkips off = false → off % 4 = 0 →
    Gives .bootProfileApply s fun t => t.aon.phase = .training ∧ t.aon.pstatus = 1 ∧ t.regs = u.regs) ∧
  (∀ (s : State) n b, s.aon.phase = .profile → s.aon.profWait = none → s.aon.boot = some n → b = s.slotBytes n → profValid b = true →
    s.aon.profIdx < u32 b 8 → 2 ^ 31 ≤ u32 b (16 + 8 * s.aon.profIdx) →
    Gives .bootProfileApply s fun t =>
      t.aon.phase = .profile ∧ t.aon.profIdx = s.aon.profIdx + 1 ∧ t.regs = s.regs ∧
        t.aon.profWait = some (s.now + min 100000 (u32 b (16 + 8 * s.aon.profIdx + 4)) * 4000)) ∧
  (∀ (s : State) n x, s.aon.phase = .profile → s.aon.profWait = some x → s.aon.boot = some n → profValid (s.slotBytes n) = true →
    u32 (s.slotBytes n) 8 ≤ s.aon.profIdx →
    Gives .profileWaitExpire s fun t =>
      t.now = max s.now x ∧ t.aon.phase = .training ∧ t.aon.pstatus = 1 ∧ t.aon.profWait = none ∧ t.regs = s.regs) ∧
  (∀ (s : State) dt m c, s.aon.phase = .training → c < 4 →
    Gives (.dramTrainingDone dt m) s fun t =>
      t.aon.phase = .zeroing ∧ t.chanFailed c = (!bit m c) ∧ (Tab.get {} c t.aon.chans).trained = bit m c) ∧
  (∀ (s : State) dt k l u, s.aon.phase = .zeroing →
    Gives (.zeroingDone dt k l u) s fun t =>
      t.aon.phase = .done ∧ t.aon.zeroed = true ∧ (∀ a, t.readByte a = 0) ∧ t.aon.coreFail = k % 256 ∧ t.rly.fenced = l % 65536 ∧
        t.slv.fenced = u % 65536 ∧ t.act.entries = [] ∧ t.act.intake = [] ∧ t.slv.intake = [] ∧ t.trk.intake = [] ∧ t.rly.bandq = [] ∧
        t.rly.tracker = [] ∧ (∀ b, (t.baton b).state = 0) ∧ (∀ n, (t.slot n).fifo = []) ∧ (∀ f, (t.pf f).outst = []) ∧
          (bit k 2 = true → t.act.lstop = true ∧ t.act.entries = []) ∧
        (s.aon.hostLocked = true → bit k 8 = false → t.aon.sl1 = true))

/-! ### The machine as a whole -/

/-- A step takes the command at the front of the queue and runs it with the rest; on an empty queue one tick of 0.25 ns passes, which is
the model's own choice and no rule of the spec. The model's readings in it: log 1, 2. -/
def Obligations.StepsRunCommands : Prop :=
  (∀ (s : State) c l, step { s with pending := c :: l } = exec c { s with pending := l }) ∧
  (∀ s : State, s.pending = [] → step s = .next { s with now := s.now + 1 })

/-- Every command answers a next state from every state, and none changes the queue of commands that wait (no rule of the spec gives a
command no effect at all). The model's readings in it: log 2, 3. -/
def Obligations.CommandsRun : Prop := ∀ c s, ∃ t, exec c s = .next t ∧ t.pending = s.pending

/-- Device memory stays in its canonical form: addresses rising, no byte 0 listed. The model's readings in it: log 12. -/
def Obligations.MemoryStaysCanonical : Prop := ∀ s t, MemOk s → step s = .next t → MemOk t

/-- The entries of the Actuation Unit's schedule stay numbered apart, below the next number (11_actuation.md R401).
The model's readings in it: log 7. -/
def Obligations.ScheduleStaysNumbered : Prop := ∀ s t, Numbered s → step s = .next t → Numbered t

/-- The state after reset (01_line.md R57, R58; 11_actuation.md R428, R432; 12_imcel.md R438; 14_faults.md R514): memory reads 0, no command
or entry waits, no program is loaded, no session is open, the Actuation Unit, the Relay, the Pan and the Track Engine are not enabled, every
output is at its safe level, LINE_STOP_N is asserted, no transfer runs on a serial bus, and the sensor supplies are on as power-good holds.
The model's readings in it: log 8, 12, 191. -/
def Obligations.ResetState : Prop :=
  MemOk State.reset ∧ Numbered State.reset ∧ (∀ a, State.reset.readByte a = 0) ∧ State.reset.pending = [] ∧ State.reset.activeImage = [] ∧
    State.reset.rly.ctx = none ∧ (∀ b, (State.reset.baton b).state = 0) ∧ (∀ i, (State.reset.sess i).isOpen = false) ∧
    State.reset.hl.ops = [] ∧ State.reset.act.entries = [] ∧ State.reset.act.lstop = true ∧ State.reset.flt.safe = false ∧
    State.reset.actCtrl_EN = false ∧ State.reset.rlyCtrl_EN = false ∧ State.reset.panCtrl_EN = false ∧ State.reset.trkCtrl_EN = false ∧
    PinsSafe State.reset ∧ (∀ p, State.reset.busPin p = match p with | .spiCsN _ => .high | .sda _ | .scl _ => .released | _ => .low) ∧
      ∀ s p, State.supplyOn s p = s.aon.powerGood

/-- R99. After reset the Timekeeper is in FREE with device time starting at DT64 0, era 0, and TK.STATUS.SET at 0; integ and adj are 0, no
parent is known, every photo-finish unit is disabled, and every stall detector is stopped. Interval time restarts from 0. -/
def Obligations.ResetTime : Prop :=
  (∀ (s : State) otp, s.aon.phase = .held → s.aon.free = true → Gives (.resetRelease otp) s fun t =>
    t.now = 0 ∧ t.tk = { State.reset.tk with caps := capsAt fun n => (s.cap n).pin }) ∧
  (∀ (s : State) c, s.aon.phase ≠ .held → (s.takeReset c).tk = { State.reset.tk with caps := s.capPins }) ∧
  (∀ (s : State) c n, s.aon.phase ≠ .held → n < 32 → (s.takeReset c).tkCapCfg_EN n = false ∧ (s.takeReset c).tkCapStall_EN n = false) ∧
  State.reset.tk.state = .free ∧ State.reset.dev = 0 ∧ State.reset.tk.total = 0 ∧ State.reset.tk.isSet = false ∧ State.reset.tk.integ = 0 ∧
    State.reset.tk.adj = 0 ∧ State.reset.tk.parent = none ∧ State.reset.now = 0 ∧
    ∀ n, n < 32 → State.reset.tkCapCfg_EN n = false ∧ State.reset.tkCapStall_EN n = false

/-- R555. A sticky safe state is released only by reset: whatever command runs, it still holds unless reset is held now; the software reset
of R532 takes that reset. -/
def Obligations.StickySafeStateStays : Prop :=
  (∀ c s t, s.flt.safe = true → s.flt.sticky = true → exec c s = .next t → t.aon.phase ≠ .held → t.flt.safe = true ∧ t.flt.sticky = true) ∧
  (∀ s : State, RegOpen s .aonSwreset 0 0 → s.aon.swRun = false →
    Gives (.swreset 0xD00D) s fun t => t.aon.phase = .held ∧ t.flt.safe = false)

/-- LINE_STOP_N, once asserted, stays asserted (R413, R428): through every command while the safe state holds, and otherwise through every
command but those by which the line host writes a register. The model's readings in it: log 114. -/
def Obligations.LineStopLatched : Prop :=
  (∀ c s t, s.act.lstop = true → s.flt.safe = true → exec c s = .next t → t.act.lstop = true) ∧
  (∀ c s t, s.act.lstop = true → exec c s = .next t → (∀ v, c ≠ .lstopRelease v) → (∀ off v, c ≠ .setupRegisterWrite off v) →
    (∀ dt p peer f, c ≠ .write dt p peer f ∧ c ≠ .read dt p peer f ∧ c ≠ .regwrite dt p peer f ∧ c ≠ .window dt p peer f ∧
      c ≠ .keyset dt p peer f ∧ c ≠ .close dt p peer f ∧ c ≠ .ping dt p peer f) → t.act.lstop = true)

/-- R511. While FLT.AUTO.MS is not 0, class C is acknowledged that many ms after its latest fault; with 0 it is not; and no command but
FLT_ACK ever lowers the unacknowledged counts of classes U and F, short of a reset. -/
def Obligations.ClassCAcknowledged : Prop :=
  (∀ s : State, let u := s.waitUntil (s.flt.latestCAt + s.fltAuto_MS * 4000000)
    s.fltAuto_MS ≠ 0 → s.flt.unackC ≠ 0 → s.flt.dead = false →
    Gives .autoAck s fun t => t.flt.unackC = 0 ∧ t.now = u.now ∧
      (s.nextMsg = none → t = u.modFlt fun f => { f with unackC := 0 })) ∧
  (∀ s : State, s.fltAuto_MS = 0 → Gives .autoAck s fun t => t = s) ∧
  (∀ c s t, c ≠ .fltAck → exec c s = .next t → t.aon.phase ≠ .held → s.flt.unackU ≤ 1023 → s.flt.unackF ≤ 1023 →
    s.flt.unackU ≤ t.flt.unackU ∧ s.flt.unackF ≤ t.flt.unackF)

/-! ### Frames -/

/-- A Lane's command that completes changes nothing of the other Lanes and the Relay, and in its own Lane, beside its stream's place, its
destination alone (06_aurik_machine.md R232 to R238, R245). The model's readings in it: log 5. -/
def Obligations.LanesKeepRest : Prop :=
  (∀ (s : State) n c, Issues s 0x08 .access n c ∨ Issues s 0x09 .access n c →
    Gives (if cOp c = 8 then .seta n else .adda n) s fun t =>
      LaneAlone s t n ∧ Only [.rly] s t ∧ (∀ a, a ≠ u8 c 8 % 8 → (t.lane n).areg a = (s.lane n).areg a) ∧ (t.lane n).c = (s.lane n).c ∧
        (t.lane n).k = (s.lane n).k ∧ (t.lane n).dq = (s.lane n).dq ∧ (t.lane n).epc = (s.lane n).epc) ∧
  (∀ (s : State) n c, Issues s 0x05 .access n c →
    s.laneReads n ((s.lane n).memAddr (u8 c 9 % 8) (s64 c 16)) (if u8 c 10 = 1 then 8 else 4) = true →
    Gives (.lda n) s fun t =>
      LaneAlone s t n ∧ Only [.rly] s t ∧ (∀ a, a ≠ u8 c 8 % 8 → (t.lane n).areg a = (s.lane n).areg a) ∧ (t.lane n).c = (s.lane n).c ∧
        (t.lane n).k = (s.lane n).k ∧ (t.lane n).dq = (s.lane n).dq ∧ (t.lane n).epc = (s.lane n).epc) ∧
  (∀ (s : State) n st c, Issues s 0x0A st n c ∨ Issues s 0x0B st n c →
    Gives (if cOp c = 0x0A then .setc n st else .addc n st) s fun t =>
      LaneAlone s t n ∧ Only [.rly] s t ∧ (∀ x, x ≠ u8 c 8 % 8 → (t.lane n).cnt x = (s.lane n).cnt x) ∧ (t.lane n).a = (s.lane n).a ∧
        (t.lane n).k = (s.lane n).k ∧ (t.lane n).dq = (s.lane n).dq) ∧
  (∀ (s : State) n st c, Issues s 0x0C st n c →
    Gives (.cmp n st) s fun t =>
      LaneAlone s t n ∧ Only [.rly] s t ∧ (∀ x, x ≠ u8 c 8 % 4 → (t.lane n).comp x = (s.lane n).comp x) ∧ (t.lane n).a = (s.lane n).a ∧
        (t.lane n).c = (s.lane n).c ∧ (t.lane n).dq = (s.lane n).dq) ∧
  (∀ (s : State) n st c, Issues s 0x2F st n c →
    Gives (.nop n st) s fun t =>
      LaneAlone s t n ∧ Only [.rly] s t ∧ (t.lane n).a = (s.lane n).a ∧ (t.lane n).c = (s.lane n).c ∧ (t.lane n).k = (s.lane n).k ∧
        (t.lane n).dq = (s.lane n).dq) ∧
  (∀ (s : State) n c d, Issues s 0x03 .access n c → ((s.lane n).tiles (u8 c 8 % 4)).length < 64 →
    tileRows s n (rowBytes (u8 c 10) 32) (u32 c 16) 32 (s.spAddr n c) = some d →
    Gives (.push n) s fun t =>
      LaneAlone s t n ∧ Only [.rly] s t ∧ (∀ q, q ≠ u8 c 8 % 4 → (t.lane n).tiles q = (s.lane n).tiles q) ∧ (t.lane n).a = (s.lane n).a ∧
        (t.lane n).c = (s.lane n).c ∧ (t.lane n).k = (s.lane n).k) ∧
  (∀ (s : State) n c u, Issues s 0x01 .access n c →
    loadRows n (u16 c 10) (s32 c 20) (u32 c 24) (u16 c 16) ((s.lane n).memAddr (u8 c 8 % 8) (s32 c 28)) (s.spAddr n c) s = .done u →
    Gives (.load n) s fun t =>
      LaneAlone s t n ∧ Only [.rly, .mem, .aon] s t ∧ (t.lane n).a = (s.lane n).a ∧ (t.lane n).c = (s.lane n).c ∧
        (t.lane n).k = (s.lane n).k ∧ (t.lane n).dq = (s.lane n).dq)

/-- Where commands store, every other byte of memory reads as before: LOAD in the rows it fills of its scratchpad, STORE in the rows it
writes, POP in the rows of its tile, HANDOFF, EMIT and SLV_HEAT in the five header bytes they write, a dispatch and an update in the Job
Status Word; a macro-operation in the rows of a D that lies in its Lane's scratchpad; KV_APPEND in the page-table entries of the groups
it reaches and in its tokens' vectors, KV_RESET and KV_TRIM in the entries of the pages they free, a rebuild in its sequence's entries and
in the vectors of the tokens it makes again (06_aurik_machine.md R233, R236, R244, R247; 08_attention.md R305, R307, R308, R323;
13_rings.md R483, R493). A form that stores nothing leaves every byte. The model's readings in it: log 5, 6. -/
def Obligations.StoresStayInPlace : Prop :=
  (∀ (s : State) n c, s.laneCmd .access n = some c →
    Keeps (.load n) s (InRows (u16 c 16) (u16 c 10) fun k => spBase + n * spSize + (s.spAddr n c + k * u32 c 24) % 2 ^ 40) ∧
    Keeps (.store n) s (InRows (u16 c 16) (u16 c 10) fun k =>
      wrapU 40 (((s.lane n).memAddr (u8 c 8 % 8) (s32 c 28) : Int) + k * s32 c 20)) ∧
    Keeps (.pop n) s (InRows 32 (rowBytes (u8 c 10) 32) fun k => spBase + n * spSize + (s.spAddr n c + k * u32 c 16) % 2 ^ 40) ∧
    Keeps (.emit n) s (InRows 1 5 fun _ => (s.lane n).memAddr (u8 c 8 % 8) (s64 c 16) + 1)) ∧
  (∀ (s : State) c, s.barrier .access = some c →
    Keeps .handoff s (InRows 1 5 fun _ => (s.lane s.lane0).memAddr (u8 c 10 % 8) (s64 c 16) + 1)) ∧
  (∀ (s : State) o, s.nextOp 0x23 (fun _ => true) = some o → s.flt.safe = false →
    Keeps .slvHeat s (InRows 1 5 fun _ => o.inlNat 0 8 + 1)) ∧
  (∀ (s : State) r, Keeps (.descriptorDispatch r) s fun a => ∃ k d0, k ≤ r ∧ (s.ring k).staging.head?.map Prod.snd = some d0 ∧
    InRows 1 64 (fun _ => u64 (s.clampDesc d0) 8) a) ∧
  (∀ (s : State) r d, Keeps (.jswUpdate r d) s fun x => ∃ o ∈ s.hl.ops, o.subRing = r ∧ o.didx = d ∧
    ∃ a, o.jsw = some a ∧ InRows 1 40 (fun _ => a) x) ∧
  (∀ (s : State) n c k a p, let q := s.kvSeq a
    let pos := q.len (u8 c 10)
    let e := s.ptAddr k a q.bank (pos / 256) (u8 c 10)
    s.laneCmd .access n = some c → KvFinds s n c false k a → s.aon.ueUnits = [] → pos % 256 + u16 c 20 ≤ 256 →
    (s.ptGet k a q.bank (pos / 256) (u8 c 10) = some p ∨
      s.ptGet k a q.bank (pos / 256) (u8 c 10) = none ∧ p = lowestFree 0 ((Tab.get [] k s.kvp.used).map fun u => u.1)) →
    p < 2 ^ 18 → (e + 4 ≤ s.kvAt k p 0 0 ∨ s.kvAt k p 0 0 + s.kvPb k ≤ e) →
    Keeps (.kvAppend n) s fun x => InRows 1 4 (fun _ => e) x ∨ ∃ i, i < u16 c 20 ∧
      (InRows (s.kvH k) (s.kvVec k) (fun h => s.kvAt k p h (pos + i)) x ∨
        InRows (s.kvH k) (s.kvVec k) (fun h => s.kvAt k p h (pos + i) + s.kvPb k / 2) x)) ∧
  (∀ (s : State) n c k a, let q := s.kvSeq a
    s.laneCmd .access n = some c → KvFinds s n c false k a → s.aon.ueUnits = [] →
    Keeps (.kvAppend n) s (fun x => ∃ i, i < u16 c 20 ∧
      (InRows 1 4 (fun _ => s.ptAddr k a q.bank ((q.len (u8 c 10) + i) / 256) (u8 c 10)) x ∨
        ∃ p, InRows (s.kvH k) (s.kvVec k) (fun h => s.kvAt k p h (q.len (u8 c 10) + i)) x ∨
          InRows (s.kvH k) (s.kvVec k) (fun h => s.kvAt k p h (q.len (u8 c 10) + i) + s.kvPb k / 2) x)) ∧
    Keeps (.kvReset n) s (fun x => s.unsettled s.rly.we = false ∧ ∃ e ∈ s.ptEntries k a q.bank,
      InRows 1 4 (fun _ => s.ptBank a q.bank + 4 * e.1) x) ∧
    Keeps (.kvTrim n) s fun x => s.unsettled s.rly.we = false ∧
      ∃ e ∈ s.trimmedIn k a q.bank (clampI 0 q.maxLen (s.scalar n (u8 c 16) (u8 c 17 % 8) + s32 c 28)).toNat q.nglob,
        InRows 1 4 (fun _ => s.ptBank a q.bank + 4 * e.1) x) ∧
  (∀ (s : State) k a, s.kvp.later.find? (fun y => !s.attending y.2) = some (k, a) →
    Keeps .kvTrackerUpdate s fun x =>
      (∃ j b, ∃ e ∈ s.ptEntries j a b, InRows 1 4 (fun _ => s.ptBank a b + 4 * e.1) x) ∨
        ∃ m ∈ s.kvp.log, m.seq = a ∧ m.gone = false ∧ ∃ l u v i b, m.kind = .append l u v ∧
          (InRows 1 4 (fun _ => s.ptAddr m.cache a b (i / 256) l) x ∨
            ∃ p, InRows (s.kvH m.cache) (s.kvVec m.cache) (fun h => s.kvAt m.cache p h i) x ∨
              InRows (s.kvH m.cache) (s.kvVec m.cache) (fun h => s.kvAt m.cache p h i + s.kvPb m.cache / 2) x)) ∧
  (∀ (s : State) n c u, let d := s.desc (u8 c 8)
    s.laneCmd .execute n = some c →
    (u = .matmul n ∨ u = .conv2d n ∨ u = .warp n ∨ u = .meshi n ∨ u = .reduce n ∨ u = .eltwise n ∨ u = .hist n ∨ u = .gather n ∨
      u = .scatter n ∨ u = .convert n ∨ u = .norm n) →
    Keeps u s (InRows (if d.loc = 0 then d.d1 * d.d2 * d.d3 else 0) (rowBytes d.fmt d.d0) fun r => spBase + n * spSize + d.rowOff r)) ∧
  (∀ (s : State) n st c, (c = .push n ∨ c = .lda n ∨ c = .seta n ∨ c = .adda n ∨ c = .setc n st ∨ c = .addc n st ∨ c = .cmp n st ∨
      c = .nop n st ∨ c = .rscalar n ∨ c = .br st ∨ c = .decide ∨ c = .bandEnd ∨ c = .takeb ∨ c = .waitb ∨ c = .freeb) →
    Keeps c s fun _ => False)

/-- The write of a setup register changes no other register, but for those whose range it sets; and a command that writes one register has
the effect of the general command at its offset (00_scope.md R12 to R15; 01_line.md R47, R51). The model's readings in it: log 15, 17. -/
def Obligations.WritesKeepOtherRegisters : Prop :=
  (∀ (s : State) off v r i j w, regAt off = some ⟨r, i, j, w⟩ → r ≠ .aonSwreset → RegOpen s r i j →
    Gives (.setupRegisterWrite off v) s fun t => ∀ off2 p, regAt off2 = some p → (p.reg, p.i, p.j) ≠ (r, i, j) →
      (p.reg, p.i) ∉ dependents r i → t.regW off2 = s.regW off2) ∧
  (∀ (s : State) v, exec (.sourceWrite v) s = exec (.setupRegisterWrite (Reg.off .tkCtrl 0 0) v) s ∧
    exec (.acceptStep v) s = exec (.setupRegisterWrite (Reg.off .tkAcceptStep 0 0) v) s ∧
    exec (.eraWrite v) s = exec (.setupRegisterWrite (Reg.off .tkEra 0 0) v) s ∧
    exec (.quadRetry v) s = exec (.setupRegisterWrite (Reg.off .iocQuadRetry 0 0) v) s ∧
    exec (.exchangeAbort v) s = exec (.setupRegisterWrite (Reg.off .rlyProg 0 0) v) s ∧
    exec (.forceFault v) s = exec (.setupRegisterWrite (Reg.off .fltCtrl 0 0) v) s ∧
    exec (.swreset v) s = exec (.setupRegisterWrite (Reg.off .aonSwreset 0 0) v) s ∧
    (bit v.toNat 0 = true → exec (.dbgStepA v) s = exec (.setupRegisterWrite (Reg.off .rlyDbgCmd 0 0) v) s ∧
      exec (.actUnitEnable v) s = exec (.setupRegisterWrite (Reg.off .actCtrl 0 0) v) s) ∧
    (bit v.toNat 1 = true → exec (.dbgStepE v) s = exec (.setupRegisterWrite (Reg.off .rlyDbgCmd 0 0) v) s ∧
      exec (.actRun v) s = exec (.setupRegisterWrite (Reg.off .actCtrl 0 0) v) s) ∧
    (bit v.toNat 2 = true → exec (.dbgResume v) s = exec (.setupRegisterWrite (Reg.off .rlyDbgCmd 0 0) v) s) ∧
    (bit v.toNat 3 = true → exec (.dbgHalt v) s = exec (.setupRegisterWrite (Reg.off .rlyDbgCmd 0 0) v) s) ∧
    (bit v.toNat 8 = true → exec (.lstopRelease v) s = exec (.setupRegisterWrite (Reg.off .actLstop 0 0) v) s) ∧
    (bit v.toNat 0 = false → exec (.actUnitDisable v) s = exec (.setupRegisterWrite (Reg.off .actCtrl 0 0) v) s)) ∧
  (∀ (s : State) n v,
    (n < 48 → exec (.slotEnableWrite n v) s = exec (.setupRegisterWrite (Reg.off .iocSlotCfg n 0) v) s) ∧
    (n < 16 → exec (.sspEnableWrite n v) s = exec (.setupRegisterWrite (Reg.off .sspCtrl n 0) v) s ∧
      exec (.pocxpEnableWrite n v) s = exec (.setupRegisterWrite (Reg.off .sspPocxp n 0) v) s) ∧
    (n < 4 → exec (.senEnableWrite n v) s = exec (.setupRegisterWrite (Reg.off .senCtrl n 0) v) s) ∧
    (n < 8 → exec (.encEnableWrite n v) s = exec (.setupRegisterWrite (Reg.off .mpEncCfg n 0) v) s ∧
      exec (.spiEnableWrite n v) s = exec (.setupRegisterWrite (Reg.off .mpSpiCfg n 0) v) s) ∧
    (n < 64 → exec (.ringEnableWrite n v) s = exec (.setupRegisterWrite (Reg.off .hlRingCfg n 0) v) s) ∧
    (n < 32 → bit v.toNat 0 = false → exec (.capDisable n v) s = exec (.setupRegisterWrite (Reg.off .tkCapCfg n 0) v) s) ∧
    (n < 32 → bit v.toNat 31 = false → exec (.actOutputDisable n v) s = exec (.setupRegisterWrite (Reg.off .actCfg n 0) v) s) ∧
    (n < 8 → bit v.toNat 0 = true → exec (.motFrameEnable n v) s = exec (.setupRegisterWrite (Reg.off .motCtrl n 0) v) s ∧
      exec (.panFrameEnable n v) s = exec (.setupRegisterWrite (Reg.off .panFrameCfg n 0) v) s) ∧
    (n < 8 → bit v.toNat 0 = false → exec (.motFrameDisable n v) s = exec (.setupRegisterWrite (Reg.off .motCtrl n 0) v) s ∧
      exec (.panFrameDisable n v) s = exec (.setupRegisterWrite (Reg.off .panFrameCfg n 0) v) s))

/-- Each command named here changes no part of the state but those named with it (00_scope.md R12; 01_line.md R23, R27 to R29): all but
the register writes, the commands that run what a host frame asks, those that take the safe state and those that take reset.
The model's readings in it: log 2, 3. -/
def Obligations.CommandsKeepOtherParts : Prop :=
  Touches [.now] .eraWrap ∧
  (∀ dt port m, Touches [.now, .out, .hl, .aon, .tk, .ing, .mot, .act] (.syncReceive dt port m) ∧
    Touches [.now, .out, .hl, .aon, .tk, .ing, .mot, .act] (.followUpReceive dt port m)) ∧
  (∀ dt port m, Touches [.now, .tk] (.delayRespReceive dt port m) ∧ Touches [.now, .tk] (.pdelayRespReceive dt port m)) ∧
  (∀ dt n level, Touches [.now, .tk] (.capEdge dt n level)) ∧
  Touches [.now, .out, .hl, .tk] .delayReqSend ∧
  (∀ port, Touches [.now, .out, .hl, .tk] (.pdelayReqSend port)) ∧
  (∀ dt port m, Touches [.now, .out, .hl, .tk] (.pdelayReqReceive dt port m) ∧
    Touches [.now, .out, .hl, .tk] (.tcFollowerForward dt port m)) ∧
  (∀ dt port residence m, Touches [.now, .out, .hl, .tk] (.tcForward dt port residence m) ∧
    Touches [.now, .out, .hl, .tk] (.asRelaySync dt port residence m)) ∧
  (∀ dt port m, Touches [.now, .hl, .tk] (.announceReceive dt port m)) ∧
  (∀ dt, Touches [.now, .hl, .tk] (.rxLinkDrop dt)) ∧
  (∀ port, Touches [.now, .hl, .tk] (.hlPortRetry port) ∧ Touches [.now, .hl, .tk] (.hlSpeedSearch port)) ∧
  (∀ dt port, Touches [.now, .hl, .tk] (.hlLinkDown dt port) ∧ Touches [.now, .hl, .tk] (.hlSignalRegained dt port)) ∧
  Touches [.now, .tk] .tcOrphanTimeout ∧
  (∀ c : Instr, (c = .holdTimeout ∨ c = .announceTimeout) → Touches [.now, .hl, .tk] c) ∧
  Touches [.now, .flt, .tk] .holdLimit ∧
  Touches [.flt, .tk] .servoRail ∧
  (∀ unit, Touches [.flt] (.copySlip unit)) ∧
  (∀ n, Touches [.now, .hl, .tk, .ing, .mot, .pan, .act] (.capFilterValidate n)) ∧
  (∀ n, Touches [.now, .hl, .tk, .ing, .mot, .pan] (.capStall n)) ∧
  (∀ slot m d, Touches [.hl, .ing] (.wordArrive slot m d)) ∧
  (∀ dt l, Touches [.now, .out, .hl, .aon, .ing] (.cxpLinkUp dt l)) ∧
  (∀ dt n, Touches [.now, .out, .hl, .aon, .ing] (.cxpLinkDown dt n)) ∧
  (∀ dt p, Touches [.now, .out, .hl, .aon, .ing] (.senLinkDown dt p)) ∧
  (∀ dt p speed, Touches [.now, .out, .hl, .aon, .ing] (.senLinkUp dt p speed)) ∧
  (∀ dt n p, Touches [.now, .hl, .ing, .mot, .pan] (.cxpStreamPacket dt n p)) ∧
  (∀ dt n data, Touches [.now, .hl, .ing, .mot, .pan] (.cxpEventPacket dt n data) ∧
    Touches [.now, .hl, .ing, .mot, .pan] (.spiXactDone dt n data)) ∧
  (∀ dt p d, Touches [.now, .hl, .ing, .mot, .pan] (.senDatagram dt p d)) ∧
  (∀ p q, Touches [.now, .hl, .ing, .mot, .pan] (.profileCloseTimeout p q)) ∧
  (∀ n, Touches [.now, .hl, .ing, .mot, .pan] (.encBatchClose n)) ∧
  (∀ c : Instr, (c = .portXactCxpWrite ∨ c = .portXactCxpRead) → Touches [.mem, .out, .hl, .aon, .ing] c) ∧
  Touches [.mem, .now, .out, .hl, .aon, .ing] .portXactI2c ∧
  (∀ dt n a, Touches [.mem, .now, .hl, .aon, .ing] (.cxpAckReceive dt n a)) ∧
  (∀ n, Touches [.mem, .now, .hl, .aon, .ing] (.cxpXactTimeout n) ∧ Touches [.mem, .now, .hl, .aon, .ing] (.triggerDue n)) ∧
  (∀ n, Touches [.mem, .now, .out, .hl, .aon, .ing] (.triggerLaunch n)) ∧
  (∀ dt n e, Touches [.mem, .now, .out, .hl, .aon, .ing] (.i2cXferDone dt n e)) ∧
  (∀ dt n sdaLow, Touches [.mem, .now, .out, .hl, .aon, .ing] (.i2cStretchTimeout dt n sdaLow)) ∧
  (∀ q, Touches [.mem, .now, .out, .hl, .aon, .ing] (.quadSettleLimit q)) ∧
  (∀ n, Touches [.now, .ing] (.heldTriggerLate n)) ∧
  (∀ dt n line level, Touches [.now, .ing] (.encEdge dt n line level)) ∧
  (∀ n line, Touches [.now, .ing] (.encFilterValidate n line)) ∧
  (∀ dt n line, Touches [.now, .ing] (.encLineFaultClear dt n line)) ∧
  (∀ dt n ok, Touches [.now, .ing] (.pocxpDetectionDone dt n ok)) ∧
  Touches [.mem, .hl, .aon, .ing] .trigOne ∧
  (∀ dt n, Touches [.freeCtr, .now, .hl, .ing] (.pocxpTrip dt n)) ∧
  (∀ dt n line, Touches [.now, .hl, .ing] (.encLineFault dt n line)) ∧
  (∀ n, Touches [.now, .hl, .ing] (.encStallTimeout n) ∧ Touches [.now, .hl, .ing] (.spiStallTimeout n) ∧
    Touches [.now, .hl, .ing] (.slotStall n)) ∧
  (∀ dt n, Touches [.now, .hl, .ing] (.i2cSclHeldIdle dt n)) ∧
  (∀ dt n, Touches [.now, .out, .hl, .ing] (.spiDataReady dt n)) ∧
  (∀ n, Touches [.now, .out, .hl, .ing] (.spiTimer n)) ∧
  (∀ dt port r, Touches [.now, .out, .hl, .ing] (.arpNdEchoRequest dt port r)) ∧
  (∀ dt q, Touches [.now, .out, .ing] (.quadLock dt q)) ∧
  (∀ f, Touches [.hl, .tk, .ing, .mot, .pan, .act] (.fusionTick f)) ∧
  (∀ f, Touches [.hl, .mot] (.motionReport f)) ∧
  (∀ f, Touches [.mem, .hl, .flt, .aon, .tk, .ing, .mot, .pan, .act] (.frameAbsent f)) ∧
  (∀ slot, Touches [.mem, .hl, .flt, .aon, .ing, .pan] (.panSampleRead slot)) ∧
  (∀ stream, Touches [.pan] (.samplePlace stream) ∧ Touches [.pan] (.sampleReplace stream)) ∧
  (∀ f stream, Touches [.mem, .now, .hl, .flt, .aon, .ing, .pan] (.streamForfeit f stream)) ∧
  (∀ f, Touches [.mem, .hl, .flt, .aon, .tk, .ing, .mot, .pan, .act] (.bandRelease f) ∧ Touches [.mem, .aon, .pan] (.reRelease f)) ∧
  (∀ c : Instr, (c = .sluiceTokenPlace ∨ c = .bandqRecallEnter) →
    Touches [.mem, .flt, .aon, .pan, .trk, .rly, .kvp, .slv, .act] c) ∧
  Touches [.pan] .bandDoneCredit ∧
  (∀ f, Touches [.hl, .pan] (.epochDecide f) ∧ Touches [.hl, .pan] (.sealIssue f)) ∧
  (∀ c : Instr, (c = .panLoad ∨ c = .panSwap ∨ c = .panSwapCopyDone) → Touches [.mem, .hl, .aon, .pan] c) ∧
  (∀ dt w, Touches [.now, .flt, .pan, .rly] (.panSramUe dt w)) ∧
  (∀ c : Instr, (c = .trkNotice ∨ c = .trackBatchProcess) → Touches [.freeCtr, .flt, .trk] c) ∧
  Touches [.mem, .hl, .aon, .trk, .rly] .trkTokenPlace ∧
  Touches [.mem, .hl, .aon, .trk] .trkClear ∧
  (∀ dt w, Touches [.now, .flt, .trk] (.trkSramUe dt w)) ∧
  (∀ lane, Touches [.mem, .hl, .flt, .aon, .pan, .trk, .rly] (.load lane) ∧
    Touches [.mem, .hl, .flt, .aon, .pan, .trk, .rly] (.store lane) ∧ Touches [.mem, .hl, .flt, .aon, .pan, .trk, .rly] (.pop lane)) ∧
  (∀ lane, Touches [.hl, .flt, .pan, .trk, .rly] (.push lane) ∧ Touches [.hl, .flt, .pan, .trk, .rly] (.lda lane) ∧
    Touches [.hl, .flt, .pan, .trk, .rly] (.seta lane) ∧ Touches [.hl, .flt, .pan, .trk, .rly] (.adda lane) ∧
    Touches [.hl, .flt, .pan, .trk, .rly] (.rscalar lane)) ∧
  (∀ lane st, Touches [.hl, .flt, .pan, .trk, .rly] (.setc lane st) ∧ Touches [.hl, .flt, .pan, .trk, .rly] (.addc lane st) ∧
    Touches [.hl, .flt, .pan, .trk, .rly] (.cmp lane st) ∧ Touches [.hl, .flt, .pan, .trk, .rly] (.nop lane st)) ∧
  (∀ st, Touches [.rly] (.br st)) ∧
  (∀ b, Touches [.rly] (.breakHit b)) ∧
  (∀ c : Instr, (c = .decide ∨ c = .programRetire) → Touches [.rly] c) ∧
  Touches [.mem, .out, .hl, .flt, .aon, .pan, .rly, .kvp, .act] .bandOpen ∧
  (∀ c : Instr, (c = .bandEnd ∨ c = .takeb ∨ c = .waitb ∨ c = .freeb) → Touches [.hl, .flt, .pan, .trk, .rly] c) ∧
  Touches [.mem, .hl, .flt, .aon, .pan, .trk, .rly, .slv] .handoff ∧
  (∀ lane, Touches [.mem, .hl, .flt, .aon, .pan, .trk, .rly, .act] (.emit lane)) ∧
  Touches [.mem, .flt, .aon, .trk, .rly, .kvp] .trackTokenTake ∧
  Touches [.mem, .hl, .flt, .aon, .trk, .rly, .kvp, .slv, .act] .noticePass ∧
  Touches [.now, .hl, .flt, .pan, .trk, .rly] .watchdogExpire ∧
  (∀ dt lane, Touches [.now, .out, .hl, .flt, .aon, .pan, .trk, .rly] (.laneFail dt lane)) ∧
  (∀ dt lane w, Touches [.mem, .now, .hl, .flt, .aon, .pan, .trk, .rly] (.laneSpUe dt lane w)) ∧
  (∀ lane, Touches [.mem, .freeCtr, .hl, .flt, .aon, .pan, .trk, .rly] (.matmul lane) ∧
    Touches [.mem, .freeCtr, .hl, .flt, .aon, .pan, .trk, .rly] (.conv2d lane) ∧
    Touches [.mem, .freeCtr, .hl, .flt, .aon, .pan, .trk, .rly] (.warp lane) ∧
    Touches [.mem, .freeCtr, .hl, .flt, .aon, .pan, .trk, .rly] (.meshi lane) ∧
    Touches [.mem, .freeCtr, .hl, .flt, .aon, .pan, .trk, .rly] (.reduce lane) ∧
    Touches [.mem, .freeCtr, .hl, .flt, .aon, .pan, .trk, .rly] (.eltwise lane) ∧
    Touches [.mem, .freeCtr, .hl, .flt, .aon, .pan, .trk, .rly] (.hist lane) ∧
    Touches [.mem, .freeCtr, .hl, .flt, .aon, .pan, .trk, .rly] (.gather lane) ∧
    Touches [.mem, .freeCtr, .hl, .flt, .aon, .pan, .trk, .rly] (.scatter lane) ∧
    Touches [.mem, .freeCtr, .hl, .flt, .aon, .pan, .trk, .rly] (.convert lane) ∧
    Touches [.mem, .freeCtr, .hl, .flt, .aon, .pan, .trk, .rly] (.norm lane)) ∧
  (∀ lane, Touches [.mem, .hl, .flt, .aon, .pan, .trk, .rly, .kvp] (.attend lane) ∧
    Touches [.mem, .hl, .flt, .aon, .pan, .trk, .rly, .kvp] (.kvAppend lane) ∧
    Touches [.mem, .hl, .flt, .aon, .pan, .trk, .rly, .kvp] (.kvReset lane) ∧
    Touches [.mem, .hl, .flt, .aon, .pan, .trk, .rly, .kvp] (.kvTrim lane) ∧
    Touches [.mem, .hl, .flt, .aon, .pan, .trk, .rly, .kvp] (.kvLen lane)) ∧
  Touches [.mem, .flt, .aon, .kvp] .kvTrackerUpdate ∧
  Touches [.kvp] .kvRebuildDone ∧
  Touches [.mem, .hl, .aon, .kvp] .kvpClear ∧
  (∀ c : Instr, (c = .slvNotice ∨ c = .heatStart) → Touches [.mem, .hl, .flt, .aon, .trk, .rly, .slv] c) ∧
  (∀ unit, Touches [.mem, .hl, .flt, .aon, .trk, .rly, .slv] (.problemDeal unit)) ∧
  (∀ unit, Touches [.mem, .now, .hl, .flt, .aon, .trk, .rly, .slv] (.problemDone unit)) ∧
  Touches [.mem, .now, .hl, .flt, .aon, .trk, .rly, .slv] .heatDeadline ∧
  (∀ dt unit, Touches [.mem, .now, .out, .hl, .flt, .aon, .trk, .rly, .slv] (.slvUnitFail dt unit)) ∧
  (∀ dt w, Touches [.mem, .freeCtr, .now, .hl, .flt, .aon, .trk, .rly, .slv] (.slvSchedUe dt w)) ∧
  (∀ c : Instr, (c = .slvLoad ∨ c = .slvHeat) → Touches [.mem, .hl, .aon, .slv] c) ∧
  Touches [.mem, .hl, .aon, .rly, .slv] .schedVerifyDone ∧
  (∀ c : Instr, (c = .progLoad ∨ c = .progVerifyDone) → Touches [.mem, .hl, .aon, .rly] c) ∧
  Touches [.mem, .out, .hl, .flt, .aon, .rly, .act] .exchange ∧
  Touches [.trk, .rly] .programChange ∧
  (∀ dt w, Touches [.mem, .freeCtr, .now, .out, .hl, .flt, .aon, .pan, .trk, .rly, .act] (.progMemUe dt w)) ∧
  Touches [.hl, .flt, .act] .verdictIntake ∧
  Touches [.mem, .hl, .flt, .aon, .act] .actArm ∧
  (∀ c : Instr, (c = .actClear ∨ c = .injectActuation) → Touches [.mem, .hl, .aon, .act] c) ∧
  (∀ n, Touches [.hl, .act] (.expectCreate n)) ∧
  Touches [.hl, .flt, .act] .actNotice ∧
  (∀ no, Touches [.now, .hl, .flt, .act] (.entryCommit no) ∧ Touches [.now, .hl, .flt, .act] (.edgeStart no) ∧
    Touches [.now, .hl, .flt, .act] (.entryTriggerPoint no)) ∧
  (∀ n, Touches [.now, .hl, .act] (.fullDriveEnd n) ∧ Touches [.now, .hl, .act] (.holdEnd n)) ∧
  (∀ dt n, Touches [.now, .flt, .act] (.actOvercurrent dt n) ∧ Touches [.now, .flt, .act] (.actReadback dt n)) ∧
  (∀ dt w known, Touches [.freeCtr, .now, .hl, .flt, .act] (.actSchedUe dt w known)) ∧
  (∀ dt ok, Touches [.now, .flt] (.safePathTest dt ok)) ∧
  (∀ dt island, Touches [.now, .flt] (.islandTimeout dt island)) ∧
  (∀ dt port peer f, Touches [.freeCtr, .now, .out, .hl] (.hello dt port peer f) ∧
    Touches [.freeCtr, .now, .out, .hl] (.openSession dt port peer f)) ∧
  (∀ ix, Touches [.now, .hl] (.challengeTimeout ix) ∧ Touches [.now, .hl] (.keepaliveExpire ix)) ∧
  (∀ dt port peer f, Touches [.now, .out, .hl] (.nudge dt port peer f) ∧ Touches [.now, .out, .hl] (.probe dt port peer f) ∧
    Touches [.now, .out, .hl] (.fdata dt port peer f) ∧ Touches [.now, .out, .hl] (.pack dt port peer f)) ∧
  (∀ ix, Touches [.now, .out, .hl] (.deviceRetxTimeout ix)) ∧
  (∀ port lock, Touches [.now, .out, .hl, .aon] (.statusBeacon port lock)) ∧
  (∀ r, Touches [.now, .out, .hl] (.doorbellPoll r)) ∧
  (∀ dt port, Touches [.now, .out, .hl, .aon, .tk] (.hlPortLock dt port)) ∧
  (∀ port, Touches [.now, .out, .hl, .flt, .aon] (.hlSettleLimit port)) ∧
  (∀ dt chan, Touches [.now, .out, .hl, .flt, .aon] (.dramLinkFail dt chan)) ∧
  (∀ r, Touches [.mem, .out, .hl, .aon] (.descriptorDispatch r)) ∧
  (∀ r, Touches [.out, .hl, .flt] (.recordPost r)) ∧
  (∀ ring didx, Touches [.mem, .now, .hl, .aon] (.jswUpdate ring didx)) ∧
  (∀ c : Instr, (c = .nopDescriptor ∨ c = .injectReport ∨ c = .profileRead ∨ c = .profileWrite ∨ c = .profileErase ∨
    c = .profileSelectBoot ∨ c = .profileComplete) → Touches [.mem, .hl, .aon] c) ∧
  (∀ s t, s.nextMsg = none → exec .fltAck s = .next t → Only [.mem, .hl, .flt, .aon] s t) ∧
  (∀ dt addr ue, Touches [.mem, .now, .flt, .aon] (.dramError dt (.dram addr) ue)) ∧
  (∀ dt x ue, Touches [.mem, .freeCtr, .now, .hl, .flt, .aon, .trk, .rly, .kvp, .slv] (.dramError dt x ue)) ∧
  Touches [.now, .flt] .aliveToggle ∧
  (∀ s t, s.nextMsg = none → exec .autoAck s = .next t → Only [.now, .flt] s t) ∧
  (∀ s t, s.nextMsg = none → exec .safeStateRelease s = .next t → Only [.now, .hl, .flt, .pan, .rly] s t) ∧
  (∀ dt, Touches [.now, .aon, .ing] (.powerGood dt) ∧ Touches [.now, .out, .hl, .aon, .ing] (.pocxpCut dt)) ∧
  (∀ dt, Touches [.now, .aon] (.lowVin dt) ∧ Touches [.now, .aon] (.supplyResetRelease dt) ∧ Touches [.now, .aon] (.aonPowerUp dt)) ∧
  (∀ dt image, Touches [.now, .aon] (.bootImageLoaded dt image)) ∧
  (∀ dt trained, Touches [.now, .aon] (.dramTrainingDone dt trained)) ∧
  Touches [.now, .aon] .swresetRelease ∧
  (∀ otp, Touches [.now, .hl, .flt, .aon, .tk] (.resetRelease otp)) ∧
  (∀ n, Touches [.now, .act] (.actSchedUeHoldEnd n))
end

