-- ==== Sys2Proof/Laws/State.lean ====
section
/-! SUPPORT. What each update of one part of the state leaves in every field: one lemma per field, true by definition. -/

-- One theorem at a time: a thread a theorem would be too many.
set_option Elab.async false

namespace Sys2Proof.Machine

open Sys2Proof

variable (s : State)

/-! `modHl` -/

@[simp] theorem State.modHl_pending (f : HostLink → HostLink) : (s.modHl f).pending = s.pending := rfl
@[simp] theorem State.modHl_regs (f : HostLink → HostLink) : (s.modHl f).regs = s.regs := rfl
@[simp] theorem State.modHl_holdLow (f : HostLink → HostLink) : (s.modHl f).holdLow = s.holdLow := rfl
@[simp] theorem State.modHl_latchHi (f : HostLink → HostLink) : (s.modHl f).latchHi = s.latchHi := rfl
@[simp] theorem State.modHl_mem (f : HostLink → HostLink) : (s.modHl f).mem = s.mem := rfl
@[simp] theorem State.modHl_freeCtr (f : HostLink → HostLink) : (s.modHl f).freeCtr = s.freeCtr := rfl
@[simp] theorem State.modHl_now (f : HostLink → HostLink) : (s.modHl f).now = s.now := rfl
@[simp] theorem State.modHl_out (f : HostLink → HostLink) : (s.modHl f).out = s.out := rfl
@[simp] theorem State.modHl_hl (f : HostLink → HostLink) : (s.modHl f).hl = f s.hl := rfl
@[simp] theorem State.modHl_flt (f : HostLink → HostLink) : (s.modHl f).flt = s.flt := rfl
@[simp] theorem State.modHl_aon (f : HostLink → HostLink) : (s.modHl f).aon = s.aon := rfl
@[simp] theorem State.modHl_tk (f : HostLink → HostLink) : (s.modHl f).tk = s.tk := rfl
@[simp] theorem State.modHl_ing (f : HostLink → HostLink) : (s.modHl f).ing = s.ing := rfl
@[simp] theorem State.modHl_mot (f : HostLink → HostLink) : (s.modHl f).mot = s.mot := rfl
@[simp] theorem State.modHl_pan (f : HostLink → HostLink) : (s.modHl f).pan = s.pan := rfl
@[simp] theorem State.modHl_trk (f : HostLink → HostLink) : (s.modHl f).trk = s.trk := rfl
@[simp] theorem State.modHl_rly (f : HostLink → HostLink) : (s.modHl f).rly = s.rly := rfl
@[simp] theorem State.modHl_kvp (f : HostLink → HostLink) : (s.modHl f).kvp = s.kvp := rfl
@[simp] theorem State.modHl_slv (f : HostLink → HostLink) : (s.modHl f).slv = s.slv := rfl
@[simp] theorem State.modHl_act (f : HostLink → HostLink) : (s.modHl f).act = s.act := rfl

/-! `modFlt` -/

@[simp] theorem State.modFlt_pending (f : Faults → Faults) : (s.modFlt f).pending = s.pending := rfl
@[simp] theorem State.modFlt_regs (f : Faults → Faults) : (s.modFlt f).regs = s.regs := rfl
@[simp] theorem State.modFlt_holdLow (f : Faults → Faults) : (s.modFlt f).holdLow = s.holdLow := rfl
@[simp] theorem State.modFlt_latchHi (f : Faults → Faults) : (s.modFlt f).latchHi = s.latchHi := rfl
@[simp] theorem State.modFlt_mem (f : Faults → Faults) : (s.modFlt f).mem = s.mem := rfl
@[simp] theorem State.modFlt_freeCtr (f : Faults → Faults) : (s.modFlt f).freeCtr = s.freeCtr := rfl
@[simp] theorem State.modFlt_now (f : Faults → Faults) : (s.modFlt f).now = s.now := rfl
@[simp] theorem State.modFlt_out (f : Faults → Faults) : (s.modFlt f).out = s.out := rfl
@[simp] theorem State.modFlt_hl (f : Faults → Faults) : (s.modFlt f).hl = s.hl := rfl
@[simp] theorem State.modFlt_flt (f : Faults → Faults) : (s.modFlt f).flt = f s.flt := rfl
@[simp] theorem State.modFlt_aon (f : Faults → Faults) : (s.modFlt f).aon = s.aon := rfl
@[simp] theorem State.modFlt_tk (f : Faults → Faults) : (s.modFlt f).tk = s.tk := rfl
@[simp] theorem State.modFlt_ing (f : Faults → Faults) : (s.modFlt f).ing = s.ing := rfl
@[simp] theorem State.modFlt_mot (f : Faults → Faults) : (s.modFlt f).mot = s.mot := rfl
@[simp] theorem State.modFlt_pan (f : Faults → Faults) : (s.modFlt f).pan = s.pan := rfl
@[simp] theorem State.modFlt_trk (f : Faults → Faults) : (s.modFlt f).trk = s.trk := rfl
@[simp] theorem State.modFlt_rly (f : Faults → Faults) : (s.modFlt f).rly = s.rly := rfl
@[simp] theorem State.modFlt_kvp (f : Faults → Faults) : (s.modFlt f).kvp = s.kvp := rfl
@[simp] theorem State.modFlt_slv (f : Faults → Faults) : (s.modFlt f).slv = s.slv := rfl
@[simp] theorem State.modFlt_act (f : Faults → Faults) : (s.modFlt f).act = s.act := rfl

/-! `modAon` -/

@[simp] theorem State.modAon_pending (f : Aon → Aon) : (s.modAon f).pending = s.pending := rfl
@[simp] theorem State.modAon_regs (f : Aon → Aon) : (s.modAon f).regs = s.regs := rfl
@[simp] theorem State.modAon_holdLow (f : Aon → Aon) : (s.modAon f).holdLow = s.holdLow := rfl
@[simp] theorem State.modAon_latchHi (f : Aon → Aon) : (s.modAon f).latchHi = s.latchHi := rfl
@[simp] theorem State.modAon_mem (f : Aon → Aon) : (s.modAon f).mem = s.mem := rfl
@[simp] theorem State.modAon_freeCtr (f : Aon → Aon) : (s.modAon f).freeCtr = s.freeCtr := rfl
@[simp] theorem State.modAon_now (f : Aon → Aon) : (s.modAon f).now = s.now := rfl
@[simp] theorem State.modAon_out (f : Aon → Aon) : (s.modAon f).out = s.out := rfl
@[simp] theorem State.modAon_hl (f : Aon → Aon) : (s.modAon f).hl = s.hl := rfl
@[simp] theorem State.modAon_flt (f : Aon → Aon) : (s.modAon f).flt = s.flt := rfl
@[simp] theorem State.modAon_aon (f : Aon → Aon) : (s.modAon f).aon = f s.aon := rfl
@[simp] theorem State.modAon_tk (f : Aon → Aon) : (s.modAon f).tk = s.tk := rfl
@[simp] theorem State.modAon_ing (f : Aon → Aon) : (s.modAon f).ing = s.ing := rfl
@[simp] theorem State.modAon_mot (f : Aon → Aon) : (s.modAon f).mot = s.mot := rfl
@[simp] theorem State.modAon_pan (f : Aon → Aon) : (s.modAon f).pan = s.pan := rfl
@[simp] theorem State.modAon_trk (f : Aon → Aon) : (s.modAon f).trk = s.trk := rfl
@[simp] theorem State.modAon_rly (f : Aon → Aon) : (s.modAon f).rly = s.rly := rfl
@[simp] theorem State.modAon_kvp (f : Aon → Aon) : (s.modAon f).kvp = s.kvp := rfl
@[simp] theorem State.modAon_slv (f : Aon → Aon) : (s.modAon f).slv = s.slv := rfl
@[simp] theorem State.modAon_act (f : Aon → Aon) : (s.modAon f).act = s.act := rfl

/-! `modTk` -/

@[simp] theorem State.modTk_pending (f : Tk → Tk) : (s.modTk f).pending = s.pending := rfl
@[simp] theorem State.modTk_regs (f : Tk → Tk) : (s.modTk f).regs = s.regs := rfl
@[simp] theorem State.modTk_holdLow (f : Tk → Tk) : (s.modTk f).holdLow = s.holdLow := rfl
@[simp] theorem State.modTk_latchHi (f : Tk → Tk) : (s.modTk f).latchHi = s.latchHi := rfl
@[simp] theorem State.modTk_mem (f : Tk → Tk) : (s.modTk f).mem = s.mem := rfl
@[simp] theorem State.modTk_freeCtr (f : Tk → Tk) : (s.modTk f).freeCtr = s.freeCtr := rfl
@[simp] theorem State.modTk_now (f : Tk → Tk) : (s.modTk f).now = s.now := rfl
@[simp] theorem State.modTk_out (f : Tk → Tk) : (s.modTk f).out = s.out := rfl
@[simp] theorem State.modTk_hl (f : Tk → Tk) : (s.modTk f).hl = s.hl := rfl
@[simp] theorem State.modTk_flt (f : Tk → Tk) : (s.modTk f).flt = s.flt := rfl
@[simp] theorem State.modTk_aon (f : Tk → Tk) : (s.modTk f).aon = s.aon := rfl
@[simp] theorem State.modTk_tk (f : Tk → Tk) : (s.modTk f).tk = f s.tk := rfl
@[simp] theorem State.modTk_ing (f : Tk → Tk) : (s.modTk f).ing = s.ing := rfl
@[simp] theorem State.modTk_mot (f : Tk → Tk) : (s.modTk f).mot = s.mot := rfl
@[simp] theorem State.modTk_pan (f : Tk → Tk) : (s.modTk f).pan = s.pan := rfl
@[simp] theorem State.modTk_trk (f : Tk → Tk) : (s.modTk f).trk = s.trk := rfl
@[simp] theorem State.modTk_rly (f : Tk → Tk) : (s.modTk f).rly = s.rly := rfl
@[simp] theorem State.modTk_kvp (f : Tk → Tk) : (s.modTk f).kvp = s.kvp := rfl
@[simp] theorem State.modTk_slv (f : Tk → Tk) : (s.modTk f).slv = s.slv := rfl
@[simp] theorem State.modTk_act (f : Tk → Tk) : (s.modTk f).act = s.act := rfl

/-! `modIng` -/

@[simp] theorem State.modIng_pending (f : Ingest → Ingest) : (s.modIng f).pending = s.pending := rfl
@[simp] theorem State.modIng_regs (f : Ingest → Ingest) : (s.modIng f).regs = s.regs := rfl
@[simp] theorem State.modIng_holdLow (f : Ingest → Ingest) : (s.modIng f).holdLow = s.holdLow := rfl
@[simp] theorem State.modIng_latchHi (f : Ingest → Ingest) : (s.modIng f).latchHi = s.latchHi := rfl
@[simp] theorem State.modIng_mem (f : Ingest → Ingest) : (s.modIng f).mem = s.mem := rfl
@[simp] theorem State.modIng_freeCtr (f : Ingest → Ingest) : (s.modIng f).freeCtr = s.freeCtr := rfl
@[simp] theorem State.modIng_now (f : Ingest → Ingest) : (s.modIng f).now = s.now := rfl
@[simp] theorem State.modIng_out (f : Ingest → Ingest) : (s.modIng f).out = s.out := rfl
@[simp] theorem State.modIng_hl (f : Ingest → Ingest) : (s.modIng f).hl = s.hl := rfl
@[simp] theorem State.modIng_flt (f : Ingest → Ingest) : (s.modIng f).flt = s.flt := rfl
@[simp] theorem State.modIng_aon (f : Ingest → Ingest) : (s.modIng f).aon = s.aon := rfl
@[simp] theorem State.modIng_tk (f : Ingest → Ingest) : (s.modIng f).tk = s.tk := rfl
@[simp] theorem State.modIng_ing (f : Ingest → Ingest) : (s.modIng f).ing = f s.ing := rfl
@[simp] theorem State.modIng_mot (f : Ingest → Ingest) : (s.modIng f).mot = s.mot := rfl
@[simp] theorem State.modIng_pan (f : Ingest → Ingest) : (s.modIng f).pan = s.pan := rfl
@[simp] theorem State.modIng_trk (f : Ingest → Ingest) : (s.modIng f).trk = s.trk := rfl
@[simp] theorem State.modIng_rly (f : Ingest → Ingest) : (s.modIng f).rly = s.rly := rfl
@[simp] theorem State.modIng_kvp (f : Ingest → Ingest) : (s.modIng f).kvp = s.kvp := rfl
@[simp] theorem State.modIng_slv (f : Ingest → Ingest) : (s.modIng f).slv = s.slv := rfl
@[simp] theorem State.modIng_act (f : Ingest → Ingest) : (s.modIng f).act = s.act := rfl

/-! `modPan` -/

@[simp] theorem State.modPan_pending (f : Pan → Pan) : (s.modPan f).pending = s.pending := rfl
@[simp] theorem State.modPan_regs (f : Pan → Pan) : (s.modPan f).regs = s.regs := rfl
@[simp] theorem State.modPan_holdLow (f : Pan → Pan) : (s.modPan f).holdLow = s.holdLow := rfl
@[simp] theorem State.modPan_latchHi (f : Pan → Pan) : (s.modPan f).latchHi = s.latchHi := rfl
@[simp] theorem State.modPan_mem (f : Pan → Pan) : (s.modPan f).mem = s.mem := rfl
@[simp] theorem State.modPan_freeCtr (f : Pan → Pan) : (s.modPan f).freeCtr = s.freeCtr := rfl
@[simp] theorem State.modPan_now (f : Pan → Pan) : (s.modPan f).now = s.now := rfl
@[simp] theorem State.modPan_out (f : Pan → Pan) : (s.modPan f).out = s.out := rfl
@[simp] theorem State.modPan_hl (f : Pan → Pan) : (s.modPan f).hl = s.hl := rfl
@[simp] theorem State.modPan_flt (f : Pan → Pan) : (s.modPan f).flt = s.flt := rfl
@[simp] theorem State.modPan_aon (f : Pan → Pan) : (s.modPan f).aon = s.aon := rfl
@[simp] theorem State.modPan_tk (f : Pan → Pan) : (s.modPan f).tk = s.tk := rfl
@[simp] theorem State.modPan_ing (f : Pan → Pan) : (s.modPan f).ing = s.ing := rfl
@[simp] theorem State.modPan_mot (f : Pan → Pan) : (s.modPan f).mot = s.mot := rfl
@[simp] theorem State.modPan_pan (f : Pan → Pan) : (s.modPan f).pan = f s.pan := rfl
@[simp] theorem State.modPan_trk (f : Pan → Pan) : (s.modPan f).trk = s.trk := rfl
@[simp] theorem State.modPan_rly (f : Pan → Pan) : (s.modPan f).rly = s.rly := rfl
@[simp] theorem State.modPan_kvp (f : Pan → Pan) : (s.modPan f).kvp = s.kvp := rfl
@[simp] theorem State.modPan_slv (f : Pan → Pan) : (s.modPan f).slv = s.slv := rfl
@[simp] theorem State.modPan_act (f : Pan → Pan) : (s.modPan f).act = s.act := rfl

/-! `modTrk` -/

@[simp] theorem State.modTrk_pending (f : Trk → Trk) : (s.modTrk f).pending = s.pending := rfl
@[simp] theorem State.modTrk_regs (f : Trk → Trk) : (s.modTrk f).regs = s.regs := rfl
@[simp] theorem State.modTrk_holdLow (f : Trk → Trk) : (s.modTrk f).holdLow = s.holdLow := rfl
@[simp] theorem State.modTrk_latchHi (f : Trk → Trk) : (s.modTrk f).latchHi = s.latchHi := rfl
@[simp] theorem State.modTrk_mem (f : Trk → Trk) : (s.modTrk f).mem = s.mem := rfl
@[simp] theorem State.modTrk_freeCtr (f : Trk → Trk) : (s.modTrk f).freeCtr = s.freeCtr := rfl
@[simp] theorem State.modTrk_now (f : Trk → Trk) : (s.modTrk f).now = s.now := rfl
@[simp] theorem State.modTrk_out (f : Trk → Trk) : (s.modTrk f).out = s.out := rfl
@[simp] theorem State.modTrk_hl (f : Trk → Trk) : (s.modTrk f).hl = s.hl := rfl
@[simp] theorem State.modTrk_flt (f : Trk → Trk) : (s.modTrk f).flt = s.flt := rfl
@[simp] theorem State.modTrk_aon (f : Trk → Trk) : (s.modTrk f).aon = s.aon := rfl
@[simp] theorem State.modTrk_tk (f : Trk → Trk) : (s.modTrk f).tk = s.tk := rfl
@[simp] theorem State.modTrk_ing (f : Trk → Trk) : (s.modTrk f).ing = s.ing := rfl
@[simp] theorem State.modTrk_mot (f : Trk → Trk) : (s.modTrk f).mot = s.mot := rfl
@[simp] theorem State.modTrk_pan (f : Trk → Trk) : (s.modTrk f).pan = s.pan := rfl
@[simp] theorem State.modTrk_trk (f : Trk → Trk) : (s.modTrk f).trk = f s.trk := rfl
@[simp] theorem State.modTrk_rly (f : Trk → Trk) : (s.modTrk f).rly = s.rly := rfl
@[simp] theorem State.modTrk_kvp (f : Trk → Trk) : (s.modTrk f).kvp = s.kvp := rfl
@[simp] theorem State.modTrk_slv (f : Trk → Trk) : (s.modTrk f).slv = s.slv := rfl
@[simp] theorem State.modTrk_act (f : Trk → Trk) : (s.modTrk f).act = s.act := rfl

/-! `modRly` -/

@[simp] theorem State.modRly_pending (f : Rly → Rly) : (s.modRly f).pending = s.pending := rfl
@[simp] theorem State.modRly_regs (f : Rly → Rly) : (s.modRly f).regs = s.regs := rfl
@[simp] theorem State.modRly_holdLow (f : Rly → Rly) : (s.modRly f).holdLow = s.holdLow := rfl
@[simp] theorem State.modRly_latchHi (f : Rly → Rly) : (s.modRly f).latchHi = s.latchHi := rfl
@[simp] theorem State.modRly_mem (f : Rly → Rly) : (s.modRly f).mem = s.mem := rfl
@[simp] theorem State.modRly_freeCtr (f : Rly → Rly) : (s.modRly f).freeCtr = s.freeCtr := rfl
@[simp] theorem State.modRly_now (f : Rly → Rly) : (s.modRly f).now = s.now := rfl
@[simp] theorem State.modRly_out (f : Rly → Rly) : (s.modRly f).out = s.out := rfl
@[simp] theorem State.modRly_hl (f : Rly → Rly) : (s.modRly f).hl = s.hl := rfl
@[simp] theorem State.modRly_flt (f : Rly → Rly) : (s.modRly f).flt = s.flt := rfl
@[simp] theorem State.modRly_aon (f : Rly → Rly) : (s.modRly f).aon = s.aon := rfl
@[simp] theorem State.modRly_tk (f : Rly → Rly) : (s.modRly f).tk = s.tk := rfl
@[simp] theorem State.modRly_ing (f : Rly → Rly) : (s.modRly f).ing = s.ing := rfl
@[simp] theorem State.modRly_mot (f : Rly → Rly) : (s.modRly f).mot = s.mot := rfl
@[simp] theorem State.modRly_pan (f : Rly → Rly) : (s.modRly f).pan = s.pan := rfl
@[simp] theorem State.modRly_trk (f : Rly → Rly) : (s.modRly f).trk = s.trk := rfl
@[simp] theorem State.modRly_rly (f : Rly → Rly) : (s.modRly f).rly = f s.rly := rfl
@[simp] theorem State.modRly_kvp (f : Rly → Rly) : (s.modRly f).kvp = s.kvp := rfl
@[simp] theorem State.modRly_slv (f : Rly → Rly) : (s.modRly f).slv = s.slv := rfl
@[simp] theorem State.modRly_act (f : Rly → Rly) : (s.modRly f).act = s.act := rfl

/-! `modKvp` -/

@[simp] theorem State.modKvp_pending (f : Kvp → Kvp) : (s.modKvp f).pending = s.pending := rfl
@[simp] theorem State.modKvp_regs (f : Kvp → Kvp) : (s.modKvp f).regs = s.regs := rfl
@[simp] theorem State.modKvp_holdLow (f : Kvp → Kvp) : (s.modKvp f).holdLow = s.holdLow := rfl
@[simp] theorem State.modKvp_latchHi (f : Kvp → Kvp) : (s.modKvp f).latchHi = s.latchHi := rfl
@[simp] theorem State.modKvp_mem (f : Kvp → Kvp) : (s.modKvp f).mem = s.mem := rfl
@[simp] theorem State.modKvp_freeCtr (f : Kvp → Kvp) : (s.modKvp f).freeCtr = s.freeCtr := rfl
@[simp] theorem State.modKvp_now (f : Kvp → Kvp) : (s.modKvp f).now = s.now := rfl
@[simp] theorem State.modKvp_out (f : Kvp → Kvp) : (s.modKvp f).out = s.out := rfl
@[simp] theorem State.modKvp_hl (f : Kvp → Kvp) : (s.modKvp f).hl = s.hl := rfl
@[simp] theorem State.modKvp_flt (f : Kvp → Kvp) : (s.modKvp f).flt = s.flt := rfl
@[simp] theorem State.modKvp_aon (f : Kvp → Kvp) : (s.modKvp f).aon = s.aon := rfl
@[simp] theorem State.modKvp_tk (f : Kvp → Kvp) : (s.modKvp f).tk = s.tk := rfl
@[simp] theorem State.modKvp_ing (f : Kvp → Kvp) : (s.modKvp f).ing = s.ing := rfl
@[simp] theorem State.modKvp_mot (f : Kvp → Kvp) : (s.modKvp f).mot = s.mot := rfl
@[simp] theorem State.modKvp_pan (f : Kvp → Kvp) : (s.modKvp f).pan = s.pan := rfl
@[simp] theorem State.modKvp_trk (f : Kvp → Kvp) : (s.modKvp f).trk = s.trk := rfl
@[simp] theorem State.modKvp_rly (f : Kvp → Kvp) : (s.modKvp f).rly = s.rly := rfl
@[simp] theorem State.modKvp_kvp (f : Kvp → Kvp) : (s.modKvp f).kvp = f s.kvp := rfl
@[simp] theorem State.modKvp_slv (f : Kvp → Kvp) : (s.modKvp f).slv = s.slv := rfl
@[simp] theorem State.modKvp_act (f : Kvp → Kvp) : (s.modKvp f).act = s.act := rfl

/-! `modSlv` -/

@[simp] theorem State.modSlv_pending (f : Slv → Slv) : (s.modSlv f).pending = s.pending := rfl
@[simp] theorem State.modSlv_regs (f : Slv → Slv) : (s.modSlv f).regs = s.regs := rfl
@[simp] theorem State.modSlv_holdLow (f : Slv → Slv) : (s.modSlv f).holdLow = s.holdLow := rfl
@[simp] theorem State.modSlv_latchHi (f : Slv → Slv) : (s.modSlv f).latchHi = s.latchHi := rfl
@[simp] theorem State.modSlv_mem (f : Slv → Slv) : (s.modSlv f).mem = s.mem := rfl
@[simp] theorem State.modSlv_freeCtr (f : Slv → Slv) : (s.modSlv f).freeCtr = s.freeCtr := rfl
@[simp] theorem State.modSlv_now (f : Slv → Slv) : (s.modSlv f).now = s.now := rfl
@[simp] theorem State.modSlv_out (f : Slv → Slv) : (s.modSlv f).out = s.out := rfl
@[simp] theorem State.modSlv_hl (f : Slv → Slv) : (s.modSlv f).hl = s.hl := rfl
@[simp] theorem State.modSlv_flt (f : Slv → Slv) : (s.modSlv f).flt = s.flt := rfl
@[simp] theorem State.modSlv_aon (f : Slv → Slv) : (s.modSlv f).aon = s.aon := rfl
@[simp] theorem State.modSlv_tk (f : Slv → Slv) : (s.modSlv f).tk = s.tk := rfl
@[simp] theorem State.modSlv_ing (f : Slv → Slv) : (s.modSlv f).ing = s.ing := rfl
@[simp] theorem State.modSlv_mot (f : Slv → Slv) : (s.modSlv f).mot = s.mot := rfl
@[simp] theorem State.modSlv_pan (f : Slv → Slv) : (s.modSlv f).pan = s.pan := rfl
@[simp] theorem State.modSlv_trk (f : Slv → Slv) : (s.modSlv f).trk = s.trk := rfl
@[simp] theorem State.modSlv_rly (f : Slv → Slv) : (s.modSlv f).rly = s.rly := rfl
@[simp] theorem State.modSlv_kvp (f : Slv → Slv) : (s.modSlv f).kvp = s.kvp := rfl
@[simp] theorem State.modSlv_slv (f : Slv → Slv) : (s.modSlv f).slv = f s.slv := rfl
@[simp] theorem State.modSlv_act (f : Slv → Slv) : (s.modSlv f).act = s.act := rfl

/-! `modAct` -/

@[simp] theorem State.modAct_pending (f : Act → Act) : (s.modAct f).pending = s.pending := rfl
@[simp] theorem State.modAct_regs (f : Act → Act) : (s.modAct f).regs = s.regs := rfl
@[simp] theorem State.modAct_holdLow (f : Act → Act) : (s.modAct f).holdLow = s.holdLow := rfl
@[simp] theorem State.modAct_latchHi (f : Act → Act) : (s.modAct f).latchHi = s.latchHi := rfl
@[simp] theorem State.modAct_mem (f : Act → Act) : (s.modAct f).mem = s.mem := rfl
@[simp] theorem State.modAct_freeCtr (f : Act → Act) : (s.modAct f).freeCtr = s.freeCtr := rfl
@[simp] theorem State.modAct_now (f : Act → Act) : (s.modAct f).now = s.now := rfl
@[simp] theorem State.modAct_out (f : Act → Act) : (s.modAct f).out = s.out := rfl
@[simp] theorem State.modAct_hl (f : Act → Act) : (s.modAct f).hl = s.hl := rfl
@[simp] theorem State.modAct_flt (f : Act → Act) : (s.modAct f).flt = s.flt := rfl
@[simp] theorem State.modAct_aon (f : Act → Act) : (s.modAct f).aon = s.aon := rfl
@[simp] theorem State.modAct_tk (f : Act → Act) : (s.modAct f).tk = s.tk := rfl
@[simp] theorem State.modAct_ing (f : Act → Act) : (s.modAct f).ing = s.ing := rfl
@[simp] theorem State.modAct_mot (f : Act → Act) : (s.modAct f).mot = s.mot := rfl
@[simp] theorem State.modAct_pan (f : Act → Act) : (s.modAct f).pan = s.pan := rfl
@[simp] theorem State.modAct_trk (f : Act → Act) : (s.modAct f).trk = s.trk := rfl
@[simp] theorem State.modAct_rly (f : Act → Act) : (s.modAct f).rly = s.rly := rfl
@[simp] theorem State.modAct_kvp (f : Act → Act) : (s.modAct f).kvp = s.kvp := rfl
@[simp] theorem State.modAct_slv (f : Act → Act) : (s.modAct f).slv = s.slv := rfl
@[simp] theorem State.modAct_act (f : Act → Act) : (s.modAct f).act = f s.act := rfl

/-! `modMotion` -/

@[simp] theorem State.modMotion_pending (n : Nat) (f : Motion → Motion) : (s.modMotion n f).pending = s.pending := rfl
@[simp] theorem State.modMotion_regs (n : Nat) (f : Motion → Motion) : (s.modMotion n f).regs = s.regs := rfl
@[simp] theorem State.modMotion_holdLow (n : Nat) (f : Motion → Motion) : (s.modMotion n f).holdLow = s.holdLow := rfl
@[simp] theorem State.modMotion_latchHi (n : Nat) (f : Motion → Motion) : (s.modMotion n f).latchHi = s.latchHi := rfl
@[simp] theorem State.modMotion_mem (n : Nat) (f : Motion → Motion) : (s.modMotion n f).mem = s.mem := rfl
@[simp] theorem State.modMotion_freeCtr (n : Nat) (f : Motion → Motion) : (s.modMotion n f).freeCtr = s.freeCtr := rfl
@[simp] theorem State.modMotion_now (n : Nat) (f : Motion → Motion) : (s.modMotion n f).now = s.now := rfl
@[simp] theorem State.modMotion_out (n : Nat) (f : Motion → Motion) : (s.modMotion n f).out = s.out := rfl
@[simp] theorem State.modMotion_hl (n : Nat) (f : Motion → Motion) : (s.modMotion n f).hl = s.hl := rfl
@[simp] theorem State.modMotion_flt (n : Nat) (f : Motion → Motion) : (s.modMotion n f).flt = s.flt := rfl
@[simp] theorem State.modMotion_aon (n : Nat) (f : Motion → Motion) : (s.modMotion n f).aon = s.aon := rfl
@[simp] theorem State.modMotion_tk (n : Nat) (f : Motion → Motion) : (s.modMotion n f).tk = s.tk := rfl
@[simp] theorem State.modMotion_ing (n : Nat) (f : Motion → Motion) : (s.modMotion n f).ing = s.ing := rfl
@[simp] theorem State.modMotion_mot (n : Nat) (f : Motion → Motion) : (s.modMotion n f).mot = Tab.mod {} n f s.mot := rfl
@[simp] theorem State.modMotion_pan (n : Nat) (f : Motion → Motion) : (s.modMotion n f).pan = s.pan := rfl
@[simp] theorem State.modMotion_trk (n : Nat) (f : Motion → Motion) : (s.modMotion n f).trk = s.trk := rfl
@[simp] theorem State.modMotion_rly (n : Nat) (f : Motion → Motion) : (s.modMotion n f).rly = s.rly := rfl
@[simp] theorem State.modMotion_kvp (n : Nat) (f : Motion → Motion) : (s.modMotion n f).kvp = s.kvp := rfl
@[simp] theorem State.modMotion_slv (n : Nat) (f : Motion → Motion) : (s.modMotion n f).slv = s.slv := rfl
@[simp] theorem State.modMotion_act (n : Nat) (f : Motion → Motion) : (s.modMotion n f).act = s.act := rfl

/-! `send` -/

@[simp] theorem State.send_pending (o : Out) : (s.send o).pending = s.pending := rfl
@[simp] theorem State.send_regs (o : Out) : (s.send o).regs = s.regs := rfl
@[simp] theorem State.send_holdLow (o : Out) : (s.send o).holdLow = s.holdLow := rfl
@[simp] theorem State.send_latchHi (o : Out) : (s.send o).latchHi = s.latchHi := rfl
@[simp] theorem State.send_mem (o : Out) : (s.send o).mem = s.mem := rfl
@[simp] theorem State.send_freeCtr (o : Out) : (s.send o).freeCtr = s.freeCtr := rfl
@[simp] theorem State.send_now (o : Out) : (s.send o).now = s.now := rfl
@[simp] theorem State.send_out (o : Out) : (s.send o).out = s.out ++ [o] := rfl
@[simp] theorem State.send_hl (o : Out) : (s.send o).hl = s.hl := rfl
@[simp] theorem State.send_flt (o : Out) : (s.send o).flt = s.flt := rfl
@[simp] theorem State.send_aon (o : Out) : (s.send o).aon = s.aon := rfl
@[simp] theorem State.send_tk (o : Out) : (s.send o).tk = s.tk := rfl
@[simp] theorem State.send_ing (o : Out) : (s.send o).ing = s.ing := rfl
@[simp] theorem State.send_mot (o : Out) : (s.send o).mot = s.mot := rfl
@[simp] theorem State.send_pan (o : Out) : (s.send o).pan = s.pan := rfl
@[simp] theorem State.send_trk (o : Out) : (s.send o).trk = s.trk := rfl
@[simp] theorem State.send_rly (o : Out) : (s.send o).rly = s.rly := rfl
@[simp] theorem State.send_kvp (o : Out) : (s.send o).kvp = s.kvp := rfl
@[simp] theorem State.send_slv (o : Out) : (s.send o).slv = s.slv := rfl
@[simp] theorem State.send_act (o : Out) : (s.send o).act = s.act := rfl

/-! `pass` -/

@[simp] theorem State.pass_pending (dt : Nat) : (s.pass dt).pending = s.pending := rfl
@[simp] theorem State.pass_regs (dt : Nat) : (s.pass dt).regs = s.regs := rfl
@[simp] theorem State.pass_holdLow (dt : Nat) : (s.pass dt).holdLow = s.holdLow := rfl
@[simp] theorem State.pass_latchHi (dt : Nat) : (s.pass dt).latchHi = s.latchHi := rfl
@[simp] theorem State.pass_mem (dt : Nat) : (s.pass dt).mem = s.mem := rfl
@[simp] theorem State.pass_freeCtr (dt : Nat) : (s.pass dt).freeCtr = s.freeCtr := rfl
@[simp] theorem State.pass_now (dt : Nat) : (s.pass dt).now = s.now + dt := rfl
@[simp] theorem State.pass_out (dt : Nat) : (s.pass dt).out = s.out := rfl
@[simp] theorem State.pass_hl (dt : Nat) : (s.pass dt).hl = s.hl := rfl
@[simp] theorem State.pass_flt (dt : Nat) : (s.pass dt).flt = s.flt := rfl
@[simp] theorem State.pass_aon (dt : Nat) : (s.pass dt).aon = s.aon := rfl
@[simp] theorem State.pass_tk (dt : Nat) : (s.pass dt).tk = s.tk := rfl
@[simp] theorem State.pass_ing (dt : Nat) : (s.pass dt).ing = s.ing := rfl
@[simp] theorem State.pass_mot (dt : Nat) : (s.pass dt).mot = s.mot := rfl
@[simp] theorem State.pass_pan (dt : Nat) : (s.pass dt).pan = s.pan := rfl
@[simp] theorem State.pass_trk (dt : Nat) : (s.pass dt).trk = s.trk := rfl
@[simp] theorem State.pass_rly (dt : Nat) : (s.pass dt).rly = s.rly := rfl
@[simp] theorem State.pass_kvp (dt : Nat) : (s.pass dt).kvp = s.kvp := rfl
@[simp] theorem State.pass_slv (dt : Nat) : (s.pass dt).slv = s.slv := rfl
@[simp] theorem State.pass_act (dt : Nat) : (s.pass dt).act = s.act := rfl

/-! `waitUntil` -/

@[simp] theorem State.waitUntil_pending (u : Nat) : (s.waitUntil u).pending = s.pending := rfl
@[simp] theorem State.waitUntil_regs (u : Nat) : (s.waitUntil u).regs = s.regs := rfl
@[simp] theorem State.waitUntil_holdLow (u : Nat) : (s.waitUntil u).holdLow = s.holdLow := rfl
@[simp] theorem State.waitUntil_latchHi (u : Nat) : (s.waitUntil u).latchHi = s.latchHi := rfl
@[simp] theorem State.waitUntil_mem (u : Nat) : (s.waitUntil u).mem = s.mem := rfl
@[simp] theorem State.waitUntil_freeCtr (u : Nat) : (s.waitUntil u).freeCtr = s.freeCtr := rfl
@[simp] theorem State.waitUntil_now (u : Nat) : (s.waitUntil u).now = max s.now u := rfl
@[simp] theorem State.waitUntil_out (u : Nat) : (s.waitUntil u).out = s.out := rfl
@[simp] theorem State.waitUntil_hl (u : Nat) : (s.waitUntil u).hl = s.hl := rfl
@[simp] theorem State.waitUntil_flt (u : Nat) : (s.waitUntil u).flt = s.flt := rfl
@[simp] theorem State.waitUntil_aon (u : Nat) : (s.waitUntil u).aon = s.aon := rfl
@[simp] theorem State.waitUntil_tk (u : Nat) : (s.waitUntil u).tk = s.tk := rfl
@[simp] theorem State.waitUntil_ing (u : Nat) : (s.waitUntil u).ing = s.ing := rfl
@[simp] theorem State.waitUntil_mot (u : Nat) : (s.waitUntil u).mot = s.mot := rfl
@[simp] theorem State.waitUntil_pan (u : Nat) : (s.waitUntil u).pan = s.pan := rfl
@[simp] theorem State.waitUntil_trk (u : Nat) : (s.waitUntil u).trk = s.trk := rfl
@[simp] theorem State.waitUntil_rly (u : Nat) : (s.waitUntil u).rly = s.rly := rfl
@[simp] theorem State.waitUntil_kvp (u : Nat) : (s.waitUntil u).kvp = s.kvp := rfl
@[simp] theorem State.waitUntil_slv (u : Nat) : (s.waitUntil u).slv = s.slv := rfl
@[simp] theorem State.waitUntil_act (u : Nat) : (s.waitUntil u).act = s.act := rfl

/-! `takeFree` -/

@[simp] theorem State.takeFree_pending (tag : Nat) : (s.takeFree tag).2.pending = s.pending := rfl
@[simp] theorem State.takeFree_regs (tag : Nat) : (s.takeFree tag).2.regs = s.regs := rfl
@[simp] theorem State.takeFree_holdLow (tag : Nat) : (s.takeFree tag).2.holdLow = s.holdLow := rfl
@[simp] theorem State.takeFree_latchHi (tag : Nat) : (s.takeFree tag).2.latchHi = s.latchHi := rfl
@[simp] theorem State.takeFree_mem (tag : Nat) : (s.takeFree tag).2.mem = s.mem := rfl
@[simp] theorem State.takeFree_freeCtr (tag : Nat) : (s.takeFree tag).2.freeCtr = s.freeCtr + 1 := rfl
@[simp] theorem State.takeFree_now (tag : Nat) : (s.takeFree tag).2.now = s.now := rfl
@[simp] theorem State.takeFree_out (tag : Nat) : (s.takeFree tag).2.out = s.out := rfl
@[simp] theorem State.takeFree_hl (tag : Nat) : (s.takeFree tag).2.hl = s.hl := rfl
@[simp] theorem State.takeFree_flt (tag : Nat) : (s.takeFree tag).2.flt = s.flt := rfl
@[simp] theorem State.takeFree_aon (tag : Nat) : (s.takeFree tag).2.aon = s.aon := rfl
@[simp] theorem State.takeFree_tk (tag : Nat) : (s.takeFree tag).2.tk = s.tk := rfl
@[simp] theorem State.takeFree_ing (tag : Nat) : (s.takeFree tag).2.ing = s.ing := rfl
@[simp] theorem State.takeFree_mot (tag : Nat) : (s.takeFree tag).2.mot = s.mot := rfl
@[simp] theorem State.takeFree_pan (tag : Nat) : (s.takeFree tag).2.pan = s.pan := rfl
@[simp] theorem State.takeFree_trk (tag : Nat) : (s.takeFree tag).2.trk = s.trk := rfl
@[simp] theorem State.takeFree_rly (tag : Nat) : (s.takeFree tag).2.rly = s.rly := rfl
@[simp] theorem State.takeFree_kvp (tag : Nat) : (s.takeFree tag).2.kvp = s.kvp := rfl
@[simp] theorem State.takeFree_slv (tag : Nat) : (s.takeFree tag).2.slv = s.slv := rfl
@[simp] theorem State.takeFree_act (tag : Nat) : (s.takeFree tag).2.act = s.act := rfl
@[simp] theorem State.takeFree_val (tag : Nat) : (s.takeFree tag).1 = Config.free tag s.freeCtr := rfl

end Sys2Proof.Machine
end

