-- ==== Sys2Proof/Laws/Memory.lean ====
section
/-! SUPPORT. Device memory as a list in canonical form: every operation keeps the form, a read after a write gives the value
written, a write leaves every other address alone, and two memories that read alike are the same list. -/

-- One theorem at a time: a thread a theorem would be too many.
set_option Elab.async false

namespace Sys2Proof.Machine

open Sys2Proof

/-! ### The canonical form -/

theorem memWfFrom_mono {lo hi : Nat} (h : lo ≤ hi) : ∀ {m : List Host.Cell}, memWfFrom hi m = true → memWfFrom lo m = true
  | [], _ => rfl
  | (k, b) :: t, w => by
    simp only [memWfFrom, Bool.and_eq_true, decide_eq_true_eq] at w ⊢
    exact ⟨⟨by omega, w.1.2⟩, w.2⟩

theorem memSet_wfFrom (a : Nat) (b : Byte) :
    ∀ {lo : Nat} {m : List Host.Cell}, lo ≤ a → memWfFrom lo m = true → memWfFrom lo (memSet a b m) = true
  | lo, [], h, _ => by
    unfold memSet
    split
    · rfl
    · simp only [memWfFrom, Bool.and_eq_true, decide_eq_true_eq]
      exact ⟨⟨h, ‹_›⟩, trivial⟩
  | lo, (k, c) :: t, h, w => by
    simp only [memWfFrom, Bool.and_eq_true, decide_eq_true_eq] at w
    obtain ⟨⟨wk, wc⟩, wt⟩ := w
    unfold memSet
    split
    · split
      · simp only [memWfFrom, Bool.and_eq_true, decide_eq_true_eq]
        exact ⟨⟨wk, wc⟩, wt⟩
      · simp only [memWfFrom, Bool.and_eq_true, decide_eq_true_eq]
        exact ⟨⟨h, ‹_›⟩, ⟨by omega, wc⟩, wt⟩
    · split
      · subst a
        split
        · exact memWfFrom_mono (by omega) wt
        · simp only [memWfFrom, Bool.and_eq_true, decide_eq_true_eq]
          exact ⟨⟨wk, ‹_›⟩, wt⟩
      · simp only [memWfFrom, Bool.and_eq_true, decide_eq_true_eq]
        exact ⟨⟨wk, wc⟩, memSet_wfFrom a b (by omega) wt⟩

/-- Writing a byte keeps the canonical form. -/
theorem memSet_wf (a : Nat) (b : Byte) {m : List Host.Cell} (w : Memory.wf m = true) : Memory.wf (memSet a b m) = true :=
  memSet_wfFrom a b (Nat.zero_le a) w

theorem filter_wfFrom (p : Host.Cell → Bool) : ∀ {lo : Nat} {m : List Host.Cell}, memWfFrom lo m = true → memWfFrom lo (m.filter p) = true
  | _, [], _ => rfl
  | lo, (k, b) :: t, w => by
    simp only [memWfFrom, Bool.and_eq_true, decide_eq_true_eq] at w
    obtain ⟨⟨wk, wb⟩, wt⟩ := w
    simp only [List.filter_cons]
    split
    · simp only [memWfFrom, Bool.and_eq_true, decide_eq_true_eq]
      exact ⟨⟨wk, wb⟩, filter_wfFrom p wt⟩
    · exact memWfFrom_mono (by omega) (filter_wfFrom p wt)

/-- Forgetting some addresses keeps the canonical form. -/
theorem filter_wf (p : Host.Cell → Bool) {m : List Host.Cell} (w : Memory.wf m = true) : Memory.wf (m.filter p) = true :=
  filter_wfFrom p w

@[simp] theorem nil_wf : Memory.wf [] = true := rfl

/-! ### Reads and writes of one byte -/

theorem memGet_below : ∀ {lo a : Nat} {m : List Host.Cell}, a < lo → memWfFrom lo m = true → memGet a m = 0
  | _, _, [], _, _ => rfl
  | lo, a, (k, b) :: t, h, w => by
    simp only [memWfFrom, Bool.and_eq_true, decide_eq_true_eq] at w
    unfold memGet
    split
    · omega
    · split
      · rfl
      · omega

theorem memGet_memSet_from (a x : Nat) (b : Byte) :
    ∀ {lo : Nat} {m : List Host.Cell}, memWfFrom lo m = true → memGet a (memSet x b m) = if a = x then b else memGet a m
  | _, [], _ => by
    simp only [memSet]
    repeat' split
    all_goals simp only [memGet]
    all_goals repeat' split
    all_goals first | rfl | omega | exact Eq.symm ‹b = 0›
  | lo, (k, c) :: t, w => by
    simp only [memWfFrom, Bool.and_eq_true, decide_eq_true_eq] at w
    obtain ⟨⟨wk, wc⟩, wt⟩ := w
    have below : a < k + 1 → memGet a t = 0 := fun h => memGet_below h wt
    have ih := memGet_memSet_from a x b wt
    simp only [memSet]
    repeat' split
    all_goals try simp only [memGet, ih]
    all_goals repeat' split
    all_goals first
      | rfl
      | omega
      | exact Eq.symm ‹b = 0›
      | exact below (by omega)
      | exact (below (by omega)).trans (Eq.symm ‹b = 0›)

/-- A byte read after a byte written: the value written at its address, any other byte as before. -/
theorem memGet_memSet (a x : Nat) (b : Byte) {m : List Host.Cell} (w : Memory.wf m = true) :
    memGet a (memSet x b m) = if a = x then b else memGet a m :=
  memGet_memSet_from a x b w

/-- Two memories in canonical form that read alike are the same list. -/
theorem mem_ext : ∀ {lo : Nat} {m n : List Host.Cell}, memWfFrom lo m = true → memWfFrom lo n = true →
    (∀ a, memGet a m = memGet a n) → m = n
  | _, [], [], _, _, _ => rfl
  | _, [], (k, b) :: t, _, w, h => by
    simp only [memWfFrom, Bool.and_eq_true, decide_eq_true_eq] at w
    exact absurd ((h k).trans (if_pos rfl)).symm w.1.2
  | _, (k, b) :: t, [], w, _, h => by
    simp only [memWfFrom, Bool.and_eq_true, decide_eq_true_eq] at w
    exact absurd ((if_pos rfl).symm.trans (h k)) w.1.2
  | lo, (k, b) :: t, (j, c) :: u, w, v, h => by
    simp only [memWfFrom, Bool.and_eq_true, decide_eq_true_eq] at w v
    have hk := h k
    have hj := h j
    simp only [memGet, if_true] at hk hj
    have e : k = j := by
      rcases Nat.lt_trichotomy k j with l | l | l
      · have : ¬ j = k := by omega
        simp [this, l] at hk; exact absurd hk w.1.2
      · exact l
      · have : ¬ k = j := by omega
        simp [this, l] at hj; exact absurd hj.symm v.1.2
    subst e
    simp only [if_true] at hk
    subst hk
    have ht : t = u := mem_ext w.2 v.2 fun a => by
      by_cases l : a < k + 1
      · rw [memGet_below l w.2, memGet_below l v.2]
      · have := h a
        have n1 : ¬ k = a := by omega
        have n2 : ¬ a < k := by omega
        simpa [memGet, n1, n2] using this
    rw [ht]

/-! ### The state's memory -/

/-- A byte written keeps the canonical form. -/
theorem State.writeByte_wf (s : State) (a : Nat) (b : Byte) (w : Memory.wf s.mem = true) : Memory.wf (s.writeByte a b).mem = true := by
  unfold State.writeByte
  split
  · exact memSet_wf a b w
  · exact w

/-- Bytes written keep the canonical form. -/
theorem State.writeMem_wf (l : List Byte) : ∀ (s : State) (a : Nat), Memory.wf s.mem = true → Memory.wf (s.writeMem a l).mem = true := by
  induction l with
  | nil => intro s a w; exact w
  | cons b t ih => intro s a w; exact ih _ _ (s.writeByte_wf a b w)

@[simp] theorem State.writeByte_pending (s : State) (a : Nat) (b : Byte) : (s.writeByte a b).pending = s.pending := by
  unfold State.writeByte; split <;> rfl

@[simp] theorem State.writeMem_pending (l : List Byte) : ∀ (s : State) (a : Nat), (s.writeMem a l).pending = s.pending := by
  induction l with
  | nil => intro s a; rfl
  | cons b t ih => intro s a; exact (ih _ _).trans (s.writeByte_pending a b)

/-- A write changes no failed channel. -/
theorem State.writeByte_chans (s : State) (a : Nat) (b : Byte) : (s.writeByte a b).aon.chans = s.aon.chans := by
  unfold State.writeByte; split <;> rfl

/-- What addresses are backed does not change with a write. -/
theorem State.writeByte_backed (s : State) (a x : Nat) (b : Byte) : (s.writeByte a b).backed x = s.backed x := by
  unfold State.backed State.dramAt State.chanFailed
  rw [State.writeByte_chans]

/-- A byte read after one written. -/
theorem State.readByte_writeByte (s : State) (a x : Nat) (b : Byte) (w : Memory.wf s.mem = true) :
    (s.writeByte a b).readByte x = if x = a ∧ s.backed a = true then b else s.readByte x := by
  unfold State.readByte
  rw [State.writeByte_backed]
  unfold State.writeByte
  by_cases hb : s.backed a = true
  · simp only [hb, if_true, and_true]
    rw [memGet_memSet _ _ _ w]
    by_cases h : x = a
    · subst h; simp [hb]
    · simp [h]
  · simp [hb]

/-- A write leaves every byte outside the bytes written as it was. -/
theorem State.readByte_writeMem_other (l : List Byte) : ∀ (s : State) (a x : Nat), Memory.wf s.mem = true →
    (x < a ∨ a + l.length ≤ x) → (s.writeMem a l).readByte x = s.readByte x := by
  induction l with
  | nil => intro s a x _ _; rfl
  | cons b t ih =>
    intro s a x w h
    simp only [List.length_cons] at h
    show ((s.writeByte a b).writeMem (a + 1) t).readByte x = _
    rw [ih _ _ _ (s.writeByte_wf a b w) (by omega), s.readByte_writeByte a x b w]
    have : ¬ x = a := by omega
    simp [this]

theorem State.writeMem_backed (l : List Byte) : ∀ (s : State) (a x : Nat), (s.writeMem a l).backed x = s.backed x := by
  induction l with
  | nil => intro s a x; rfl
  | cons b t ih => intro s a x; exact (ih _ _ _).trans (s.writeByte_backed a x b)

/-- Reading back what was written, where every byte is backed by storage. -/
theorem State.readMem_writeMem (l : List Byte) : ∀ (s : State) (a : Nat), Memory.wf s.mem = true →
    (∀ x, a ≤ x → x < a + l.length → s.backed x = true) → (s.writeMem a l).readMem a l.length = l := by
  induction l with
  | nil => intro s a _ _; rfl
  | cons b t ih =>
    intro s a w h
    show ((s.writeByte a b).writeMem (a + 1) t).readMem a (t.length + 1) = b :: t
    unfold State.readMem
    have w1 := s.writeByte_wf a b w
    rw [ih (s.writeByte a b) (a + 1) w1 (fun x h1 h2 => by
          rw [s.writeByte_backed]; exact h x (by omega) (by simp only [List.length_cons]; omega)),
      State.readByte_writeMem_other t _ _ _ w1 (by omega), s.readByte_writeByte a a b w]
    simp [h a (Nat.le_refl a) (by simp)]

end Sys2Proof.Machine
end

