-- ==== Sys2Proof/Laws/Stays.lean ====
section
/-! SUPPORT. What an operation may change, as one relation: the parts of the state outside a list are as before, and device
memory keeps its canonical form. Each shared operation has one lemma in this relation, beside the module that defines it. -/

-- One theorem at a time: a thread a theorem would be too many.
set_option Elab.async false

namespace Sys2Proof.Machine

open Sys2Proof

/-- Going from `s` to `t` changes nothing but the parts listed, and keeps the canonical form of memory. -/
structure Stays (l : List Part) (s t : State) : Prop where
  only : Only l s t
  memOk : MemOk s → MemOk t

theorem Part.same_trans {p : Part} {s t u : State} (h : p.same s t) (g : p.same t u) : p.same s u := by
  cases p <;> exact g.trans h

theorem Stays.refl (l : List Part) (s : State) : Stays l s s := ⟨fun p _ => by cases p <;> rfl, id⟩

theorem Stays.step {l k : List Part} {s t u : State} (h : Stays l s t) (g : Stays k t u) (m : ∀ p ∈ k, p ∈ l) : Stays l s u :=
  ⟨fun p hp => Part.same_trans (h.only p hp) (g.only p fun hk => hp (m p hk)), g.memOk ∘ h.memOk⟩

/-- `Stays.step`, the last change first. -/
theorem Stays.via {l k : List Part} {s t u : State} (g : Stays k t u) (h : Stays l s t) (m : ∀ p ∈ k, p ∈ l) : Stays l s u :=
  h.step g m

theorem Stays.fold {α : Type} {l : List Part} {f : State → α → State} (h : ∀ t a, Stays l t (f t a)) :
    ∀ (as : List α) (s : State), Stays l s (as.foldl f s)
  | [], s => Stays.refl l s
  | a :: as, s => Stays.step (h s a) (Stays.fold h as (f s a)) fun _ hp => hp

theorem Stays.each {α : Type} {l : List Part} {f : α → State → State} {as : List α} {s t : State}
    (g : ∀ a t, Stays l t (f a t)) (h : Stays l s t) : Stays l s (eachOf as f t) :=
  h.step (Stays.fold (fun t a => g a t) as t) fun _ hp => hp

theorem Stays.ite {l : List Part} {s a b : State} {c : Prop} [Decidable c] (h : Stays l s a) (g : Stays l s b) :
    Stays l s (if c then a else b) := by split <;> assumption

theorem Stays.elim {α : Type} {l : List Part} {s t : State} {o : Option α} {f : α → State} (h : Stays l s t)
    (g : ∀ a, o = some a → Stays l s (f a)) : Stays l s (o.elim t f) := by
  cases o with
  | none => exact h
  | some a => exact g a rfl

theorem Stays.ofPair {α : Type} {l : List Part} {s t : State} {e : α × State} {a : α} (h : e = (a, t)) (g : Stays l s e.2) :
    Stays l s t := by
  rw [h] at g; exact g

/-- A state written out, part by part. -/
theorem Stays.mk_of {l : List Part} {s t : State} (m : MemOk s → MemOk t) (h : ∀ p, l.contains p = true ∨ p.same s t) :
    Stays l s t :=
  ⟨fun p hp => (h p).resolve_left fun c => hp (by simpa using c), m⟩

/-- What a run of a Lane's command leaves stays within the parts listed. -/
def Ran.Within (l : List Part) (s : State) : Ran → Prop
  | .wait => True
  | .part t => Stays l s t
  | .done t => Stays l s t
  | .fault t => Stays l s t

theorem Ran.Within.trans {l : List Part} {s t : State} {r : Ran} (h : Stays l s t) (g : Ran.Within l t r) : Ran.Within l s r := by
  cases r with
  | wait => exact trivial
  | part u => exact h.step g fun _ h => h
  | done u => exact h.step g fun _ h => h
  | fault u => exact h.step g fun _ h => h

theorem Ran.Within.ite {l : List Part} {s : State} {c : Prop} [Decidable c] {a b : Ran} (h : Ran.Within l s a)
    (g : Ran.Within l s b) : Ran.Within l s (if c then a else b) := by split <;> assumption

theorem ite_cases {α : Type} {c : Prop} [Decidable c] {a b x : α} (h : (if c then a else b) = x) : a = x ∨ b = x := by
  split at h
  · exact Or.inl h
  · exact Or.inr h

end Sys2Proof.Machine
end

