-- ==== Sys2Proof/Laws/FrameOps.lean ====
section
/-! SUPPORT. What each operation of Machine/Ops.lean may change. -/

-- One theorem at a time: a thread a theorem would be too many. Proofs of one form name alternatives that some goals do not need.
set_option Elab.async false
set_option linter.all false

namespace Sys2Proof.Machine

open Sys2Proof

theorem State.modHl_stays (s : State) (f : HostLink → HostLink) :
    Stays [.hl] s (State.modHl s f) := by
  unfold State.modHl
  exact Stays.mk_of id fun p => by cases p <;> first | exact Or.inr rfl | exact Or.inl (by decide)

theorem State.modRing_stays (s : State) (r : Nat) (g : Ring → Ring) :
    Stays [.hl] s (State.modRing s r g) := by
  unfold State.modRing
  try dsimp only
  repeat' first
    | with_reducible apply Stays.ite
    | with_reducible apply Stays.each; (intro _ _; try dsimp only)
    | with_reducible apply Stays.fold; (intro _ _; try dsimp only)
    | refine Stays.via (by with_reducible apply State.modHl_stays) ?_ (by decide)
    | with_reducible apply Stays.refl
    | dsimp only
    | split
    | with_reducible apply Stays.elim <;> intros
    | exact Stays.mk_of id fun p => by cases p <;> first | exact Or.inr rfl | exact Or.inl (by decide)

theorem State.dropPost_stays (s : State) (r : Nat) :
    Stays [.hl] s (State.dropPost s r) := by
  unfold State.dropPost
  try dsimp only
  repeat' first
    | with_reducible apply Stays.ite
    | with_reducible apply Stays.each; (intro _ _; try dsimp only)
    | with_reducible apply Stays.fold; (intro _ _; try dsimp only)
    | refine Stays.via (by with_reducible apply State.modRing_stays) ?_ (by decide)
    | with_reducible apply Stays.refl
    | dsimp only
    | split
    | with_reducible apply Stays.elim <;> intros
    | exact Stays.mk_of id fun p => by cases p <;> first | exact Or.inr rfl | exact Or.inl (by decide)

theorem State.post_stays (s : State) (r : Nat) (data : List Byte) :
    Stays [.hl] s (State.post s r data) := by
  unfold State.post
  try dsimp only
  repeat' first
    | with_reducible apply Stays.ite
    | with_reducible apply Stays.each; (intro _ _; try dsimp only)
    | with_reducible apply Stays.fold; (intro _ _; try dsimp only)
    | refine Stays.via (by with_reducible apply State.dropPost_stays) ?_ (by decide)
    | refine Stays.via (by with_reducible apply State.modHl_stays) ?_ (by decide)
    | with_reducible apply Stays.refl
    | dsimp only
    | split
    | with_reducible apply Stays.elim <;> intros
    | exact Stays.mk_of id fun p => by cases p <;> first | exact Or.inr rfl | exact Or.inl (by decide)

theorem State.event_stays (s : State) (code : Nat) (uclass : Nat) (uindex : Nat) (arg : Nat) (withheld : Nat) :
    Stays [.hl] s (State.event s code uclass uindex arg withheld) := by
  unfold State.event
  try dsimp only
  repeat' first
    | with_reducible apply Stays.ite
    | with_reducible apply Stays.each; (intro _ _; try dsimp only)
    | with_reducible apply Stays.fold; (intro _ _; try dsimp only)
    | refine Stays.via (by with_reducible apply State.post_stays) ?_ (by decide)
    | with_reducible apply Stays.refl
    | dsimp only
    | split
    | with_reducible apply Stays.elim <;> intros
    | exact Stays.mk_of id fun p => by cases p <;> first | exact Or.inr rfl | exact Or.inl (by decide)

theorem State.modAct_stays (s : State) (f : Act → Act) :
    Stays [.act] s (State.modAct s f) := by
  unfold State.modAct
  exact Stays.mk_of id fun p => by cases p <;> first | exact Or.inr rfl | exact Or.inl (by decide)

theorem State.modAon_stays (s : State) (f : Aon → Aon) :
    Stays [.aon] s (State.modAon s f) := by
  unfold State.modAon
  exact Stays.mk_of id fun p => by cases p <;> first | exact Or.inr rfl | exact Or.inl (by decide)

theorem State.modFlt_stays (s : State) (f : Faults → Faults) :
    Stays [.flt] s (State.modFlt s f) := by
  unfold State.modFlt
  exact Stays.mk_of id fun p => by cases p <;> first | exact Or.inr rfl | exact Or.inl (by decide)

theorem State.modIng_stays (s : State) (f : Ingest → Ingest) :
    Stays [.ing] s (State.modIng s f) := by
  unfold State.modIng
  exact Stays.mk_of id fun p => by cases p <;> first | exact Or.inr rfl | exact Or.inl (by decide)

theorem State.modKvp_stays (s : State) (f : Kvp → Kvp) :
    Stays [.kvp] s (State.modKvp s f) := by
  unfold State.modKvp
  exact Stays.mk_of id fun p => by cases p <;> first | exact Or.inr rfl | exact Or.inl (by decide)

theorem State.modMotion_stays (s : State) (f : Nat) (g : Motion → Motion) :
    Stays [.mot] s (State.modMotion s f g) := by
  unfold State.modMotion
  exact Stays.mk_of id fun p => by cases p <;> first | exact Or.inr rfl | exact Or.inl (by decide)

theorem State.modPan_stays (s : State) (f : Pan → Pan) :
    Stays [.pan] s (State.modPan s f) := by
  unfold State.modPan
  exact Stays.mk_of id fun p => by cases p <;> first | exact Or.inr rfl | exact Or.inl (by decide)

theorem State.modPort_stays (s : State) (p : Nat) (g : HostPort → HostPort) :
    Stays [.hl] s (State.modPort s p g) := by
  unfold State.modPort
  try dsimp only
  repeat' first
    | with_reducible apply Stays.ite
    | with_reducible apply Stays.each; (intro _ _; try dsimp only)
    | with_reducible apply Stays.fold; (intro _ _; try dsimp only)
    | refine Stays.via (by with_reducible apply State.modHl_stays) ?_ (by decide)
    | with_reducible apply Stays.refl
    | dsimp only
    | split
    | with_reducible apply Stays.elim <;> intros
    | exact Stays.mk_of id fun p => by cases p <;> first | exact Or.inr rfl | exact Or.inl (by decide)

theorem State.modRly_stays (s : State) (f : Rly → Rly) :
    Stays [.rly] s (State.modRly s f) := by
  unfold State.modRly
  exact Stays.mk_of id fun p => by cases p <;> first | exact Or.inr rfl | exact Or.inl (by decide)

theorem State.modSess_stays (s : State) (i : Nat) (g : Session → Session) :
    Stays [.hl] s (State.modSess s i g) := by
  unfold State.modSess
  try dsimp only
  repeat' first
    | with_reducible apply Stays.ite
    | with_reducible apply Stays.each; (intro _ _; try dsimp only)
    | with_reducible apply Stays.fold; (intro _ _; try dsimp only)
    | refine Stays.via (by with_reducible apply State.modHl_stays) ?_ (by decide)
    | with_reducible apply Stays.refl
    | dsimp only
    | split
    | with_reducible apply Stays.elim <;> intros
    | exact Stays.mk_of id fun p => by cases p <;> first | exact Or.inr rfl | exact Or.inl (by decide)

theorem State.modSlv_stays (s : State) (f : Slv → Slv) :
    Stays [.slv] s (State.modSlv s f) := by
  unfold State.modSlv
  exact Stays.mk_of id fun p => by cases p <;> first | exact Or.inr rfl | exact Or.inl (by decide)

theorem State.modTk_stays (s : State) (f : Tk → Tk) :
    Stays [.tk] s (State.modTk s f) := by
  unfold State.modTk
  exact Stays.mk_of id fun p => by cases p <;> first | exact Or.inr rfl | exact Or.inl (by decide)

theorem State.modTrk_stays (s : State) (f : Trk → Trk) :
    Stays [.trk] s (State.modTrk s f) := by
  unfold State.modTrk
  exact Stays.mk_of id fun p => by cases p <;> first | exact Or.inr rfl | exact Or.inl (by decide)

theorem State.notify_stays (s : State) (code : Nat) (uclass : Nat) (uindex : Nat) (arg : Nat) :
    Stays [.hl, .ing] s (State.notify s code uclass uindex arg) := by
  unfold State.notify
  try dsimp only
  repeat' first
    | with_reducible apply Stays.ite
    | with_reducible apply Stays.each; (intro _ _; try dsimp only)
    | with_reducible apply Stays.fold; (intro _ _; try dsimp only)
    | refine Stays.via (by with_reducible apply State.modIng_stays) ?_ (by decide)
    | refine Stays.via (by with_reducible apply State.event_stays) ?_ (by decide)
    | with_reducible apply Stays.refl
    | dsimp only
    | split
    | with_reducible apply Stays.elim <;> intros
    | exact Stays.mk_of id fun p => by cases p <;> first | exact Or.inr rfl | exact Or.inl (by decide)

theorem State.pass_stays (s : State) (dt : Nat) :
    Stays [.now] s (State.pass s dt) := by
  unfold State.pass
  exact Stays.mk_of id fun p => by cases p <;> first | exact Or.inr rfl | exact Or.inl (by decide)

theorem State.raise_stays (s : State) (fatal : Bool) (code : Nat) (source : Nat) (unit : Nat) (arg : Nat) :
    Stays [.flt] s (State.raise s fatal code source unit arg) := by
  unfold State.raise
  try dsimp only
  repeat' first
    | with_reducible apply Stays.ite
    | with_reducible apply Stays.each; (intro _ _; try dsimp only)
    | with_reducible apply Stays.fold; (intro _ _; try dsimp only)
    | refine Stays.via (by with_reducible apply State.modFlt_stays) ?_ (by decide)
    | with_reducible apply Stays.refl
    | dsimp only
    | split
    | with_reducible apply Stays.elim <;> intros
    | exact Stays.mk_of id fun p => by cases p <;> first | exact Or.inr rfl | exact Or.inl (by decide)

theorem State.raiseU_stays (s : State) (code : Nat) (source : Nat) (unit : Nat) (arg : Nat) :
    Stays [.flt] s (State.raiseU s code source unit arg) := by
  unfold State.raiseU
  try dsimp only
  repeat' first
    | with_reducible apply Stays.ite
    | with_reducible apply Stays.each; (intro _ _; try dsimp only)
    | with_reducible apply Stays.fold; (intro _ _; try dsimp only)
    | refine Stays.via (by with_reducible apply State.raise_stays) ?_ (by decide)
    | with_reducible apply Stays.refl
    | dsimp only
    | split
    | with_reducible apply Stays.elim <;> intros
    | exact Stays.mk_of id fun p => by cases p <;> first | exact Or.inr rfl | exact Or.inl (by decide)

theorem State.report_stays (s : State) (en : Bool) (ring : Nat) (r : Rec) :
    Stays [.hl] s (State.report s en ring r) := by
  unfold State.report
  try dsimp only
  repeat' first
    | with_reducible apply Stays.ite
    | with_reducible apply Stays.each; (intro _ _; try dsimp only)
    | with_reducible apply Stays.fold; (intro _ _; try dsimp only)
    | refine Stays.via (by with_reducible apply State.post_stays) ?_ (by decide)
    | with_reducible apply Stays.refl
    | dsimp only
    | split
    | with_reducible apply Stays.elim <;> intros
    | exact Stays.mk_of id fun p => by cases p <;> first | exact Or.inr rfl | exact Or.inl (by decide)

theorem State.send_stays (s : State) (o : Out) :
    Stays [.out] s (State.send s o) := by
  unfold State.send
  exact Stays.mk_of id fun p => by cases p <;> first | exact Or.inr rfl | exact Or.inl (by decide)

theorem State.takeFree_stays (s : State) (tag : Nat) : Stays [.freeCtr] s (s.takeFree tag).2 := by
  unfold State.takeFree
  exact Stays.mk_of id fun p => by cases p <;> first | exact Or.inr rfl | exact Or.inl (by decide)

theorem State.waitUntil_stays (s : State) (t : Nat) :
    Stays [.now] s (State.waitUntil s t) := by
  unfold State.waitUntil
  exact Stays.mk_of id fun p => by cases p <;> first | exact Or.inr rfl | exact Or.inl (by decide)

theorem State.writeByte_stays (s : State) (a : Nat) (b : Byte) :
    Stays [.mem, .aon] s (State.writeByte s a b) := by
  unfold State.writeByte
  repeat' split
  all_goals first | exact Stays.refl _ _ | exact Stays.mk_of (fun w => memSet_wf _ _ w) fun p => by cases p <;> first | exact Or.inr rfl | exact Or.inl (by decide)

theorem State.writeMem_stays (s : State) (a : Nat) (l : List Byte) : Stays [.mem, .aon] s (s.writeMem a l) := by
  induction l generalizing s a with
  | nil => exact Stays.refl _ _
  | cons b t ih => exact Stays.step (State.writeByte_stays s a b) (ih _ _) fun _ h => h

end Sys2Proof.Machine
end

