-- ==== Sys2Proof/Laws/FrameJobs.lean ====
section
/-! SUPPORT. What each operation of Machine/Jobs.lean may change. -/

-- One theorem at a time: a thread a theorem would be too many. Proofs of one form name alternatives that some goals do not need.
set_option Elab.async false
set_option linter.all false

namespace Sys2Proof.Machine

open Sys2Proof

theorem State.jsw_stays (s : State) (r : Nat) (d : BitVec 32) (cstatus : Nat) (f : Op →
  Op) : Stays [.mem, .hl, .aon] s (s.jsw r d cstatus f) := by
  unfold State.jsw
  dsimp only
  split
  · exact Stays.refl _ _
  · split
    · exact Stays.step (Stays.step (Stays.refl _ _) (State.modHl_stays _ _) (by decide)) (State.writeMem_stays _ _ _) (by decide)
    · exact Stays.step (Stays.refl _ _) (State.modHl_stays _ _) (by decide)

theorem State.complete_stays (s : State) (r : Nat) (d : BitVec 32) (cstatus : Nat) (reason : Nat) (result : List Byte) :
    Stays [.mem, .hl, .aon] s (State.complete s r d cstatus reason result) := by
  unfold State.complete
  try dsimp only
  repeat' first
    | with_reducible apply Stays.ite
    | with_reducible apply Stays.each; (intro _ _; try dsimp only)
    | with_reducible apply Stays.fold; (intro _ _; try dsimp only)
    | refine Stays.via (by with_reducible apply State.jsw_stays) ?_ (by decide)
    | refine Stays.via (by with_reducible apply State.modHl_stays) ?_ (by decide)
    | refine Stays.via (by with_reducible apply State.post_stays) ?_ (by decide)
    | with_reducible apply Stays.refl
    | dsimp only
    | split
    | with_reducible apply Stays.elim <;> intros
    | exact Stays.mk_of id fun p => by cases p <;> first | exact Or.inr rfl | exact Or.inl (by decide)

theorem State.jobRun_stays (s : State) (r : Nat) (d : BitVec 32) (total : Nat) :
    Stays [.mem, .hl, .aon] s (State.jobRun s r d total) := by
  unfold State.jobRun
  try dsimp only
  repeat' first
    | with_reducible apply Stays.ite
    | with_reducible apply Stays.each; (intro _ _; try dsimp only)
    | with_reducible apply Stays.fold; (intro _ _; try dsimp only)
    | refine Stays.via (by with_reducible apply State.jsw_stays) ?_ (by decide)
    | with_reducible apply Stays.refl
    | dsimp only
    | split
    | with_reducible apply Stays.elim <;> intros
    | exact Stays.mk_of id fun p => by cases p <;> first | exact Or.inr rfl | exact Or.inl (by decide)

theorem State.jobValid_stays (s : State) (r : Nat) (d : BitVec 32) (valid : Nat) :
    Stays [.mem, .hl, .aon] s (State.jobValid s r d valid) := by
  unfold State.jobValid
  try dsimp only
  repeat' first
    | with_reducible apply Stays.ite
    | with_reducible apply Stays.each; (intro _ _; try dsimp only)
    | with_reducible apply Stays.fold; (intro _ _; try dsimp only)
    | refine Stays.via (by with_reducible apply State.jsw_stays) ?_ (by decide)
    | with_reducible apply Stays.refl
    | dsimp only
    | split
    | with_reducible apply Stays.elim <;> intros
    | exact Stays.mk_of id fun p => by cases p <;> first | exact Or.inr rfl | exact Or.inl (by decide)

theorem State.takeOp_stays (s : State) (o : Op) :
    Stays [.hl] s (State.takeOp s o) := by
  unfold State.takeOp
  try dsimp only
  repeat' first
    | with_reducible apply Stays.ite
    | with_reducible apply Stays.each; (intro _ _; try dsimp only)
    | with_reducible apply Stays.fold; (intro _ _; try dsimp only)
    | refine Stays.via (by with_reducible apply State.modHl_stays) ?_ (by decide)
    | with_reducible apply Stays.refl
    | dsimp only
    | split
    | with_reducible apply Stays.elim <;> intros
    | exact Stays.mk_of id fun p => by cases p <;> first | exact Or.inr rfl | exact Or.inl (by decide)

end Sys2Proof.Machine
end

