-- ==== Sys2Proof/Laws/FrameLane.lean ====
section
/-! SUPPORT. What each operation of Machine/Lane.lean may change. -/

-- One theorem at a time: a thread a theorem would be too many. Proofs of one form name alternatives that some goals do not need.
set_option Elab.async false
set_option linter.all false

namespace Sys2Proof.Machine

open Sys2Proof

theorem State.modBaton_stays (s : State) (b : Nat) (f : Baton → Baton) :
    Stays [.rly] s (State.modBaton s b f) := by
  unfold State.modBaton
  try dsimp only
  repeat' first
    | with_reducible apply Stays.ite
    | with_reducible apply Stays.each; (intro _ _; try dsimp only)
    | with_reducible apply Stays.fold; (intro _ _; try dsimp only)
    | refine Stays.via (by with_reducible apply State.modRly_stays) ?_ (by decide)
    | with_reducible apply Stays.refl
    | dsimp only
    | split
    | with_reducible apply Stays.elim <;> intros
    | exact Stays.mk_of id fun p => by cases p <;> first | exact Or.inr rfl | exact Or.inl (by decide)

theorem State.outCredit_stays (s : State) (c : Option Nat) :
    Stays [.trk] s (State.outCredit s c) := by
  unfold State.outCredit
  try dsimp only
  repeat' first
    | with_reducible apply Stays.ite
    | with_reducible apply Stays.each; (intro _ _; try dsimp only)
    | with_reducible apply Stays.fold; (intro _ _; try dsimp only)
    | refine Stays.via (by with_reducible apply State.modTrk_stays) ?_ (by decide)
    | with_reducible apply Stays.refl
    | dsimp only
    | split
    | with_reducible apply Stays.elim <;> intros
    | exact Stays.mk_of id fun p => by cases p <;> first | exact Or.inr rfl | exact Or.inl (by decide)

theorem State.freeBaton_stays (s : State) (b : Nat) :
    Stays [.trk, .rly] s (State.freeBaton s b) := by
  unfold State.freeBaton
  try dsimp only
  repeat' first
    | with_reducible apply Stays.ite
    | with_reducible apply Stays.each; (intro _ _; try dsimp only)
    | with_reducible apply Stays.fold; (intro _ _; try dsimp only)
    | refine Stays.via (by with_reducible apply State.outCredit_stays) ?_ (by decide)
    | refine Stays.via (by with_reducible apply State.modBaton_stays) ?_ (by decide)
    | with_reducible apply Stays.refl
    | dsimp only
    | split
    | with_reducible apply Stays.elim <;> intros
    | exact Stays.mk_of id fun p => by cases p <;> first | exact Or.inr rfl | exact Or.inl (by decide)

theorem State.dropBatons_stays (s : State) (p : Baton → Bool) :
    Stays [.trk, .rly] s (State.dropBatons s p) := by
  unfold State.dropBatons
  try dsimp only
  repeat' first
    | with_reducible apply Stays.ite
    | with_reducible apply Stays.each; (intro _ _; try dsimp only)
    | with_reducible apply Stays.fold; (intro _ _; try dsimp only)
    | refine Stays.via (by with_reducible apply State.freeBaton_stays) ?_ (by decide)
    | refine Stays.via (by with_reducible apply State.modBaton_stays) ?_ (by decide)
    | with_reducible apply Stays.refl
    | dsimp only
    | split
    | with_reducible apply Stays.elim <;> intros
    | exact Stays.mk_of id fun p => by cases p <;> first | exact Or.inr rfl | exact Or.inl (by decide)

theorem State.noteSent_stays (s : State) (dest : Nat) (e : Epoch) :
    Stays [.rly] s (State.noteSent s dest e) := by
  unfold State.noteSent
  try dsimp only
  repeat' first
    | with_reducible apply Stays.ite
    | with_reducible apply Stays.each; (intro _ _; try dsimp only)
    | with_reducible apply Stays.fold; (intro _ _; try dsimp only)
    | refine Stays.via (by with_reducible apply State.modRly_stays) ?_ (by decide)
    | with_reducible apply Stays.refl
    | dsimp only
    | split
    | with_reducible apply Stays.elim <;> intros
    | exact Stays.mk_of id fun p => by cases p <;> first | exact Or.inr rfl | exact Or.inl (by decide)

theorem State.rlyReport_stays (s : State) (r : Rec) :
    Stays [.hl, .rly] s (State.rlyReport s r) := by
  unfold State.rlyReport
  try dsimp only
  repeat' first
    | with_reducible apply Stays.ite
    | with_reducible apply Stays.each; (intro _ _; try dsimp only)
    | with_reducible apply Stays.fold; (intro _ _; try dsimp only)
    | refine Stays.via (by with_reducible apply State.post_stays) ?_ (by decide)
    | refine Stays.via (by with_reducible apply State.noteSent_stays) ?_ (by decide)
    | with_reducible apply Stays.refl
    | dsimp only
    | split
    | with_reducible apply Stays.elim <;> intros
    | exact Stays.mk_of id fun p => by cases p <;> first | exact Or.inr rfl | exact Or.inl (by decide)

theorem State.postAbandon_stays (s : State) (e : Epoch) (k : BitVec 32) (reason : Nat) (lane : Nat) :
    Stays [.hl, .rly] s (State.postAbandon s e k reason lane) := by
  unfold State.postAbandon
  try dsimp only
  repeat' first
    | with_reducible apply Stays.ite
    | with_reducible apply Stays.each; (intro _ _; try dsimp only)
    | with_reducible apply Stays.fold; (intro _ _; try dsimp only)
    | refine Stays.via (by with_reducible apply State.rlyReport_stays) ?_ (by decide)
    | with_reducible apply Stays.refl
    | dsimp only
    | split
    | with_reducible apply Stays.elim <;> intros
    | exact Stays.mk_of id fun p => by cases p <;> first | exact Or.inr rfl | exact Or.inl (by decide)

theorem State.bandCredit_stays (s : State) (off : Nat) :
    Stays [.pan] s (State.bandCredit s off) := by
  unfold State.bandCredit
  try dsimp only
  repeat' first
    | with_reducible apply Stays.ite
    | with_reducible apply Stays.each; (intro _ _; try dsimp only)
    | with_reducible apply Stays.fold; (intro _ _; try dsimp only)
    | refine Stays.via (by with_reducible apply State.modPan_stays) ?_ (by decide)
    | with_reducible apply Stays.refl
    | dsimp only
    | split
    | with_reducible apply Stays.elim <;> intros
    | exact Stays.mk_of id fun p => by cases p <;> first | exact Or.inr rfl | exact Or.inl (by decide)

theorem State.restartStreams_stays (s : State) (slot : Nat) :
    Stays [.rly] s (State.restartStreams s slot) := by
  unfold State.restartStreams
  try dsimp only
  repeat' first
    | with_reducible apply Stays.ite
    | with_reducible apply Stays.each; (intro _ _; try dsimp only)
    | with_reducible apply Stays.fold; (intro _ _; try dsimp only)
    | refine Stays.via (by with_reducible apply State.modRly_stays) ?_ (by decide)
    | with_reducible apply Stays.refl
    | dsimp only
    | split
    | with_reducible apply Stays.elim <;> intros
    | exact Stays.mk_of id fun p => by cases p <;> first | exact Or.inr rfl | exact Or.inl (by decide)

theorem State.abandon_stays (s : State) (reason : Nat) (lane : Nat) :
    Stays [.hl, .pan, .trk, .rly] s (State.abandon s reason lane) := by
  unfold State.abandon
  try dsimp only
  repeat' first
    | with_reducible apply Stays.ite
    | with_reducible apply Stays.each; (intro _ _; try dsimp only)
    | with_reducible apply Stays.fold; (intro _ _; try dsimp only)
    | refine Stays.via (by with_reducible apply State.dropBatons_stays) ?_ (by decide)
    | refine Stays.via (by with_reducible apply State.bandCredit_stays) ?_ (by decide)
    | refine Stays.via (by with_reducible apply State.postAbandon_stays) ?_ (by decide)
    | refine Stays.via (by with_reducible apply State.modRly_stays) ?_ (by decide)
    | refine Stays.via (by with_reducible apply State.restartStreams_stays) ?_ (by decide)
    | with_reducible apply Stays.refl
    | dsimp only
    | split
    | with_reducible apply Stays.elim <;> intros
    | exact Stays.mk_of id fun p => by cases p <;> first | exact Or.inr rfl | exact Or.inl (by decide)

theorem State.addrFault_stays (s : State) (n : Nat) :
    Stays [.hl, .flt, .pan, .trk, .rly] s (State.addrFault s n) := by
  unfold State.addrFault
  try dsimp only
  repeat' first
    | with_reducible apply Stays.ite
    | with_reducible apply Stays.each; (intro _ _; try dsimp only)
    | with_reducible apply Stays.fold; (intro _ _; try dsimp only)
    | refine Stays.via (by with_reducible apply State.raiseU_stays) ?_ (by decide)
    | refine Stays.via (by with_reducible apply State.abandon_stays) ?_ (by decide)
    | with_reducible apply Stays.refl
    | dsimp only
    | split
    | with_reducible apply Stays.elim <;> intros
    | exact Stays.mk_of id fun p => by cases p <;> first | exact Or.inr rfl | exact Or.inl (by decide)

theorem State.modLane_stays (s : State) (n : Nat) (f : Lane → Lane) :
    Stays [.rly] s (State.modLane s n f) := by
  unfold State.modLane
  try dsimp only
  repeat' first
    | with_reducible apply Stays.ite
    | with_reducible apply Stays.each; (intro _ _; try dsimp only)
    | with_reducible apply Stays.fold; (intro _ _; try dsimp only)
    | refine Stays.via (by with_reducible apply State.modRly_stays) ?_ (by decide)
    | with_reducible apply Stays.refl
    | dsimp only
    | split
    | with_reducible apply Stays.elim <;> intros
    | exact Stays.mk_of id fun p => by cases p <;> first | exact Or.inr rfl | exact Or.inl (by decide)

theorem State.allNext_stays (s : State) (st : Stream) (pc : Nat) :
    Stays [.rly] s (State.allNext s st pc) := by
  unfold State.allNext
  try dsimp only
  repeat' first
    | with_reducible apply Stays.ite
    | with_reducible apply Stays.each; (intro _ _; try dsimp only)
    | with_reducible apply Stays.fold; (intro _ _; try dsimp only)
    | refine Stays.via (by with_reducible apply State.modLane_stays) ?_ (by decide)
    | with_reducible apply Stays.refl
    | dsimp only
    | split
    | with_reducible apply Stays.elim <;> intros
    | exact Stays.mk_of id fun p => by cases p <;> first | exact Or.inr rfl | exact Or.inl (by decide)

theorem State.ranOnce_stays (s : State) (st : Stream) (n : Nat) (c : List Byte) :
    Stays [.rly] s (State.ranOnce s st n c) := by
  unfold State.ranOnce
  try dsimp only
  repeat' first
    | with_reducible apply Stays.ite
    | with_reducible apply Stays.each; (intro _ _; try dsimp only)
    | with_reducible apply Stays.fold; (intro _ _; try dsimp only)
    | refine Stays.via (by with_reducible apply State.modLane_stays) ?_ (by decide)
    | with_reducible apply Stays.refl
    | dsimp only
    | split
    | with_reducible apply Stays.elim <;> intros
    | exact Stays.mk_of id fun p => by cases p <;> first | exact Or.inr rfl | exact Or.inl (by decide)

theorem State.allRan_stays (s : State) (st : Stream) (c : List Byte) :
    Stays [.rly] s (State.allRan s st c) := by
  unfold State.allRan
  try dsimp only
  repeat' first
    | with_reducible apply Stays.ite
    | with_reducible apply Stays.each; (intro _ _; try dsimp only)
    | with_reducible apply Stays.fold; (intro _ _; try dsimp only)
    | refine Stays.via (by with_reducible apply State.ranOnce_stays) ?_ (by decide)
    | with_reducible apply Stays.refl
    | dsimp only
    | split
    | with_reducible apply Stays.elim <;> intros
    | exact Stays.mk_of id fun p => by cases p <;> first | exact Or.inr rfl | exact Or.inl (by decide)

theorem State.allWait_stays (s : State) (st : Stream) :
    Stays [.rly] s (State.allWait s st) := by
  unfold State.allWait
  try dsimp only
  repeat' first
    | with_reducible apply Stays.ite
    | with_reducible apply Stays.each; (intro _ _; try dsimp only)
    | with_reducible apply Stays.fold; (intro _ _; try dsimp only)
    | refine Stays.via (by with_reducible apply State.modLane_stays) ?_ (by decide)
    | with_reducible apply Stays.refl
    | dsimp only
    | split
    | with_reducible apply Stays.elim <;> intros
    | exact Stays.mk_of id fun p => by cases p <;> first | exact Or.inr rfl | exact Or.inl (by decide)

theorem State.laneDo_stays {l : List Part} {s : State} {op : Nat} {st : Stream} {n : Nat} {f : List Byte → State → Ran}
    (m : ∀ p ∈ [.hl, .flt, .pan, .trk, .rly], p ∈ l) (g : ∀ c, Ran.Within l s (f c s)) : Stays l s (s.laneDo op st n f) := by
  have mr : ∀ p ∈ [Part.rly], p ∈ l := fun p hp => m p (by revert p; decide)
  unfold State.laneDo
  split
  · exact Stays.refl _ _
  · rename_i c _
    split
    · exact Stays.refl _ _
    · split
      · exact Stays.step (Stays.refl _ _) (State.modLane_stays _ _ _) mr
      · have b := g c
        generalize f c s = r at b
        cases r with
        | wait => exact Stays.step (Stays.refl _ _) (State.modLane_stays _ _ _) mr
        | part t => exact Stays.step b (State.modLane_stays _ _ _) mr
        | done t => exact Stays.step b (Stays.step (Stays.refl [.hl, .flt, .pan, .trk, .rly] t) (State.ranOnce_stays _ _ _ _) (by decide)) m
        | fault t => exact Stays.step b (Stays.step (Stays.refl [.hl, .flt, .pan, .trk, .rly] t) (State.addrFault_stays _ _) (by decide)) m

theorem State.merge_stays {s : State} {e : Epoch} {f : Nat} {t : State} (h : s.merge e f = some t) : Stays [.rly] s t := by
  unfold State.merge at h
  simp only [Option.map_eq_some_iff] at h
  obtain ⟨w, _, rfl⟩ := h
  exact State.modRly_stays _ _

theorem State.standWait_stays (s : State) (st : Stream) (p : List Byte → Bool) :
    Stays [.rly] s (State.standWait s st p) := by
  unfold State.standWait
  try dsimp only
  repeat' first
    | with_reducible apply Stays.ite
    | with_reducible apply Stays.each; (intro _ _; try dsimp only)
    | with_reducible apply Stays.fold; (intro _ _; try dsimp only)
    | refine Stays.via (by with_reducible apply State.modLane_stays) ?_ (by decide)
    | with_reducible apply Stays.refl
    | dsimp only
    | split
    | with_reducible apply Stays.elim <;> intros
    | exact Stays.mk_of id fun p => by cases p <;> first | exact Or.inr rfl | exact Or.inl (by decide)

theorem State.relayDo_stays {l : List Part} {s : State} {op : Nat} {f : List Byte → State → Ran}
    (m : ∀ p ∈ [.hl, .flt, .pan, .trk, .rly], p ∈ l) (g : ∀ c, Ran.Within l s (f c s)) : Stays l s (s.relayDo op f) := by
  unfold State.relayDo
  split
  · exact Stays.step (Stays.refl _ _) (State.standWait_stays _ _ _) fun p hp => m p (by revert p; decide)
  · rename_i c _
    split
    · exact Stays.refl _ _
    · have b := g c
      generalize f c s = r at b
      cases r with
      | wait => exact Stays.step (Stays.refl _ _) (Stays.step (Stays.refl [.hl, .flt, .pan, .trk,
        .rly] _) (State.allWait_stays _ _) (by decide)) m
      | part t => exact Stays.step b (Stays.step (Stays.refl [.hl, .flt, .pan, .trk, .rly] _) (State.allWait_stays _ _) (by decide)) m
      | done t => exact Stays.step b (Stays.step (Stays.refl [.hl, .flt, .pan, .trk, .rly] _) (State.allRan_stays _ _ _) (by decide)) m
      | fault t => exact Stays.step b (Stays.step (Stays.refl [.hl, .flt, .pan, .trk, .rly] _) (State.addrFault_stays _ _) (by decide)) m

theorem State.returnBaton_stays (s : State) (b : Nat) (addr : Nat) (credit : Option Nat) :
    Stays [.trk, .rly] s (State.returnBaton s b addr credit) := by
  unfold State.returnBaton
  try dsimp only
  repeat' first
    | with_reducible apply Stays.ite
    | with_reducible apply Stays.each; (intro _ _; try dsimp only)
    | with_reducible apply Stays.fold; (intro _ _; try dsimp only)
    | refine Stays.via (by with_reducible apply State.modBaton_stays) ?_ (by decide)
    | refine Stays.via (by with_reducible apply State.outCredit_stays) ?_ (by decide)
    | with_reducible apply Stays.refl
    | dsimp only
    | split
    | with_reducible apply Stays.elim <;> intros
    | exact Stays.mk_of id fun p => by cases p <;> first | exact Or.inr rfl | exact Or.inl (by decide)

theorem State.spWrite_stays {s : State} {n a : Nat} {d : List Byte} {t : State} (h : s.spWrite n a d = some t) : Stays [.mem,
  .aon] s t := by
  unfold State.spWrite at h
  split at h
  · cases h
    exact State.writeMem_stays _ _ _
  · cases h

theorem State.gatherDo_stays {l : List Part} {s : State} {p : List Byte → Bool} {f : List Nat → List Byte → State → Ran}
    (m : ∀ q ∈ [.hl, .flt, .pan, .trk, .rly], q ∈ l) (g : ∀ on c t, Stays [.rly] s t → Ran.Within l s (f on c t)) :
    Stays l s (s.gatherDo p f) := by
  have mr : ∀ q ∈ [Part.rly], q ∈ l := fun q hq => m q (by revert q; decide)
  unfold State.gatherDo
  dsimp only
  generalize ho : s.lanesIn.filter _ = off
  have h1 := Stays.each (as := off) (fun n t => State.modLane_stays t n fun l => l.next .execute (l.pc .execute + 1)) (Stays.refl [.rly] s)
  generalize eachOf off _ s = s1 at h1
  have w := Stays.step (l := l) (Stays.refl _ s) h1 mr
  split
  · exact w.step (State.standWait_stays _ _ _) mr
  · rename_i ls c _
    split
    · exact w.step (State.standWait_stays _ _ _) mr
    · have b := g (ls.filter fun n => !off.contains n) c s1 h1
      generalize f _ c s1 = r at b
      cases r with
      | wait => exact w.step (Stays.each (fun n t => State.modLane_stays t n _) (Stays.refl _ _)) mr
      | part t => exact Stays.step b (Stays.each (fun n t => State.modLane_stays t n _) (Stays.refl _ _)) mr
      | done t => exact Stays.step b (Stays.each (fun n t => Stays.step (Stays.refl [.hl, .flt, .pan, .trk,
        .rly] t) (State.ranOnce_stays _ _ _ _) (by decide)) (Stays.refl _ _)) m
      | fault t => exact Stays.step b (Stays.step (Stays.refl [.hl, .flt, .pan, .trk, .rly] t) (State.addrFault_stays _ _) (by decide)) m

end Sys2Proof.Machine
end

