-- ==== Sys2Proof/Laws/FrameAccess.lean ====
section
/-! SUPPORT. What each operation of Machine/Access.lean may change. -/

-- One theorem at a time: a thread a theorem would be too many. Proofs of one form name alternatives that some goals do not need.
set_option Elab.async false
set_option linter.all false

namespace Sys2Proof.Machine

open Sys2Proof

theorem untileRows_stays {n rb stride k a : Nat} {d : List Byte} {s t : State} (h : untileRows n rb stride k a d s = some t) :
    Stays [.mem, .aon] s t := by
  induction k generalizing a d s with
  | zero => cases h; exact Stays.refl _ _
  | succ k ih =>
    unfold untileRows at h
    simp only [Option.bind_eq_some_iff] at h
    obtain ⟨s1, h1, h2⟩ := h
    exact Stays.step (State.spWrite_stays h1) (ih h2) fun _ h => h

theorem State.noteLoop_stays (s : State) (st : Stream) (n : Nat) (b : Bool) :
    Stays [.rly] s (State.noteLoop s st n b) := by
  unfold State.noteLoop
  try dsimp only
  repeat' first
    | with_reducible apply Stays.ite
    | with_reducible apply Stays.each; (intro _ _; try dsimp only)
    | with_reducible apply Stays.fold; (intro _ _; try dsimp only)
    | refine Stays.via (by with_reducible apply State.modRly_stays) ?_ (by decide)
    | with_reducible apply Stays.refl
    | dsimp only
    | split
    | with_reducible apply Stays.elim <;> intros
    | exact Stays.mk_of id fun p => by cases p <;> first | exact Or.inr rfl | exact Or.inl (by decide)

theorem State.laneBr_stays (s : State) (st : Stream) (n : Nat) :
    Stays [.rly] s (State.laneBr s st n) := by
  unfold State.laneBr
  try dsimp only
  repeat' first
    | with_reducible apply Stays.ite
    | with_reducible apply Stays.each; (intro _ _; try dsimp only)
    | with_reducible apply Stays.fold; (intro _ _; try dsimp only)
    | refine Stays.via (by with_reducible apply State.modLane_stays) ?_ (by decide)
    | refine Stays.via (by with_reducible apply State.ranOnce_stays) ?_ (by decide)
    | refine Stays.via (by with_reducible apply State.noteLoop_stays) ?_ (by decide)
    | with_reducible apply Stays.refl
    | dsimp only
    | split
    | with_reducible apply Stays.elim <;> intros
    | exact Stays.mk_of id fun p => by cases p <;> first | exact Or.inr rfl | exact Or.inl (by decide)

end Sys2Proof.Machine
end

