-- ==== Sys2Proof/Laws/FrameAct.lean ====
section
/-! SUPPORT. What each operation of Machine/Act.lean may change. -/

-- One theorem at a time: a thread a theorem would be too many. Proofs of one form name alternatives that some goals do not need.
set_option Elab.async false
set_option linter.all false

namespace Sys2Proof.Machine

open Sys2Proof

theorem State.postActState_stays (s : State) (st : Nat) (cause : Nat) :
    Stays [.hl] s (State.postActState s st cause) := by
  unfold State.postActState
  try dsimp only
  repeat' first
    | with_reducible apply Stays.ite
    | with_reducible apply Stays.each; (intro _ _; try dsimp only)
    | with_reducible apply Stays.fold; (intro _ _; try dsimp only)
    | refine Stays.via (by with_reducible apply State.report_stays) ?_ (by decide)
    | with_reducible apply Stays.refl
    | dsimp only
    | split
    | with_reducible apply Stays.elim <;> intros
    | exact Stays.mk_of id fun p => by cases p <;> first | exact Or.inr rfl | exact Or.inl (by decide)

theorem State.floodExit_stays (s : State) :
    Stays [.hl, .act] s (State.floodExit s) := by
  unfold State.floodExit
  try dsimp only
  repeat' first
    | with_reducible apply Stays.ite
    | with_reducible apply Stays.each; (intro _ _; try dsimp only)
    | with_reducible apply Stays.fold; (intro _ _; try dsimp only)
    | refine Stays.via (by with_reducible apply State.modAct_stays) ?_ (by decide)
    | refine Stays.via (by with_reducible apply State.postActState_stays) ?_ (by decide)
    | with_reducible apply Stays.refl
    | dsimp only
    | split
    | with_reducible apply Stays.elim <;> intros
    | exact Stays.mk_of id fun p => by cases p <;> first | exact Or.inr rfl | exact Or.inl (by decide)

theorem State.freeEntry_stays (s : State) (e : Entry) (outcome : Nat) (cause : Nat) :
    Stays [.hl, .act] s (State.freeEntry s e outcome cause) := by
  unfold State.freeEntry
  try dsimp only
  repeat' first
    | with_reducible apply Stays.ite
    | with_reducible apply Stays.each; (intro _ _; try dsimp only)
    | with_reducible apply Stays.fold; (intro _ _; try dsimp only)
    | refine Stays.via (by with_reducible apply State.modAct_stays) ?_ (by decide)
    | refine Stays.via (by with_reducible apply State.report_stays) ?_ (by decide)
    | refine Stays.via (by with_reducible apply State.floodExit_stays) ?_ (by decide)
    | with_reducible apply Stays.refl
    | dsimp only
    | split
    | with_reducible apply Stays.elim <;> intros
    | exact Stays.mk_of id fun p => by cases p <;> first | exact Or.inr rfl | exact Or.inl (by decide)

theorem State.modOut_stays (s : State) (n : Nat) (f : Output → Output) :
    Stays [.act] s (State.modOut s n f) := by
  unfold State.modOut
  try dsimp only
  repeat' first
    | with_reducible apply Stays.ite
    | with_reducible apply Stays.each; (intro _ _; try dsimp only)
    | with_reducible apply Stays.fold; (intro _ _; try dsimp only)
    | refine Stays.via (by with_reducible apply State.modAct_stays) ?_ (by decide)
    | with_reducible apply Stays.refl
    | dsimp only
    | split
    | with_reducible apply Stays.elim <;> intros
    | exact Stays.mk_of id fun p => by cases p <;> first | exact Or.inr rfl | exact Or.inl (by decide)

theorem State.actAbsent_stays (s : State) (f : Nat) :
    Stays [.hl, .act] s (State.actAbsent s f) := by
  unfold State.actAbsent
  try dsimp only
  repeat' first
    | with_reducible apply Stays.ite
    | with_reducible apply Stays.each; (intro _ _; try dsimp only)
    | with_reducible apply Stays.fold; (intro _ _; try dsimp only)
    | refine Stays.via (by with_reducible apply State.modOut_stays) ?_ (by decide)
    | refine Stays.via (by with_reducible apply State.freeEntry_stays) ?_ (by decide)
    | with_reducible apply Stays.refl
    | dsimp only
    | split
    | with_reducible apply Stays.elim <;> intros
    | exact Stays.mk_of id fun p => by cases p <;> first | exact Or.inr rfl | exact Or.inl (by decide)

theorem State.cancelEntry_stays (s : State) (e : Entry) :
    Stays [.hl, .act] s (State.cancelEntry s e) := by
  unfold State.cancelEntry
  try dsimp only
  repeat' first
    | with_reducible apply Stays.ite
    | with_reducible apply Stays.each; (intro _ _; try dsimp only)
    | with_reducible apply Stays.fold; (intro _ _; try dsimp only)
    | refine Stays.via (by with_reducible apply State.modAct_stays) ?_ (by decide)
    | refine Stays.via (by with_reducible apply State.freeEntry_stays) ?_ (by decide)
    | with_reducible apply Stays.refl
    | dsimp only
    | split
    | with_reducible apply Stays.elim <;> intros
    | exact Stays.mk_of id fun p => by cases p <;> first | exact Or.inr rfl | exact Or.inl (by decide)

theorem State.modEntry_stays (s : State) (no : Nat) (f : Entry → Entry) :
    Stays [.act] s (State.modEntry s no f) := by
  unfold State.modEntry
  try dsimp only
  repeat' first
    | with_reducible apply Stays.ite
    | with_reducible apply Stays.each; (intro _ _; try dsimp only)
    | with_reducible apply Stays.fold; (intro _ _; try dsimp only)
    | refine Stays.via (by with_reducible apply State.modAct_stays) ?_ (by decide)
    | with_reducible apply Stays.refl
    | dsimp only
    | split
    | with_reducible apply Stays.elim <;> intros
    | exact Stays.mk_of id fun p => by cases p <;> first | exact Or.inr rfl | exact Or.inl (by decide)

theorem State.takeNotice_stays (s : State) (rcl : Bool) (e : Epoch) :
    Stays [.flt, .act] s (State.takeNotice s rcl e) := by
  unfold State.takeNotice
  try dsimp only
  repeat' first
    | with_reducible apply Stays.ite
    | with_reducible apply Stays.each; (intro _ _; try dsimp only)
    | with_reducible apply Stays.fold; (intro _ _; try dsimp only)
    | refine Stays.via (by with_reducible apply State.raiseU_stays) ?_ (by decide)
    | refine Stays.via (by with_reducible apply State.modAct_stays) ?_ (by decide)
    | with_reducible apply Stays.refl
    | dsimp only
    | split
    | with_reducible apply Stays.elim <;> intros
    | exact Stays.mk_of id fun p => by cases p <;> first | exact Or.inr rfl | exact Or.inl (by decide)

theorem State.takeNotices_stays (n : Nat) (s : State) :
    Stays [.flt, .act] s (State.takeNotices n s) := by
  induction n generalizing s with
  | zero => exact Stays.refl _ _
  | succ n ih =>
    unfold State.takeNotices
    try dsimp only
    repeat' first
      | with_reducible apply Stays.ite
      | refine Stays.via (ih _) ?_ (by decide)
      | refine Stays.via (by with_reducible apply State.modAct_stays) ?_ (by decide)
      | refine Stays.via (by with_reducible apply State.takeNotice_stays) ?_ (by decide)
      | with_reducible apply Stays.refl
      | dsimp only
      | split
      | exact Stays.mk_of id fun p => by cases p <;> first | exact Or.inr rfl | exact Or.inl (by decide)

theorem State.shiftIntake_stays (s : State) :
    Stays [.act] s (State.shiftIntake s) := by
  unfold State.shiftIntake
  try dsimp only
  repeat' first
    | with_reducible apply Stays.ite
    | with_reducible apply Stays.each; (intro _ _; try dsimp only)
    | with_reducible apply Stays.fold; (intro _ _; try dsimp only)
    | refine Stays.via (by with_reducible apply State.modAct_stays) ?_ (by decide)
    | with_reducible apply Stays.refl
    | dsimp only
    | split
    | with_reducible apply Stays.elim <;> intros
    | exact Stays.mk_of id fun p => by cases p <;> first | exact Or.inr rfl | exact Or.inl (by decide)

theorem State.bindTo_stays (s : State) (q : Request) (b : Bearer) (e : Entry) :
    Stays [.act] s (State.bindTo s q b e) := by
  unfold State.bindTo
  try dsimp only
  repeat' first
    | with_reducible apply Stays.ite
    | with_reducible apply Stays.each; (intro _ _; try dsimp only)
    | with_reducible apply Stays.fold; (intro _ _; try dsimp only)
    | refine Stays.via (by with_reducible apply State.modEntry_stays) ?_ (by decide)
    | with_reducible apply Stays.refl
    | dsimp only
    | split
    | with_reducible apply Stays.elim <;> intros
    | exact Stays.mk_of id fun p => by cases p <;> first | exact Or.inr rfl | exact Or.inl (by decide)

theorem State.lineStop_stays (s : State) (cause : Nat) (again : Bool) :
    Stays [.act] s (State.lineStop s cause again) := by
  unfold State.lineStop
  try dsimp only
  repeat' first
    | with_reducible apply Stays.ite
    | with_reducible apply Stays.each; (intro _ _; try dsimp only)
    | with_reducible apply Stays.fold; (intro _ _; try dsimp only)
    | refine Stays.via (by with_reducible apply State.modAct_stays) ?_ (by decide)
    | with_reducible apply Stays.refl
    | dsimp only
    | split
    | with_reducible apply Stays.elim <;> intros
    | exact Stays.mk_of id fun p => by cases p <;> first | exact Or.inr rfl | exact Or.inl (by decide)

theorem State.pulseDone_stays (s : State) (n : Nat) :
    Stays [.hl, .act] s (State.pulseDone s n) := by
  unfold State.pulseDone
  try dsimp only
  repeat' first
    | with_reducible apply Stays.ite
    | with_reducible apply Stays.each; (intro _ _; try dsimp only)
    | with_reducible apply Stays.fold; (intro _ _; try dsimp only)
    | refine Stays.via (by with_reducible apply State.freeEntry_stays) ?_ (by decide)
    | refine Stays.via (by with_reducible apply State.modOut_stays) ?_ (by decide)
    | with_reducible apply Stays.refl
    | dsimp only
    | split
    | with_reducible apply Stays.elim <;> intros
    | exact Stays.mk_of id fun p => by cases p <;> first | exact Or.inr rfl | exact Or.inl (by decide)

theorem State.floodEnter_stays (s : State) :
    Stays [.hl, .act] s (State.floodEnter s) := by
  unfold State.floodEnter
  try dsimp only
  repeat' first
    | with_reducible apply Stays.ite
    | with_reducible apply Stays.each; (intro _ _; try dsimp only)
    | with_reducible apply Stays.fold; (intro _ _; try dsimp only)
    | refine Stays.via (by with_reducible apply State.modAct_stays) ?_ (by decide)
    | refine Stays.via (by with_reducible apply State.lineStop_stays) ?_ (by decide)
    | refine Stays.via (by with_reducible apply State.pulseDone_stays) ?_ (by decide)
    | refine Stays.via (by with_reducible apply State.postActState_stays) ?_ (by decide)
    | with_reducible apply Stays.refl
    | dsimp only
    | split
    | with_reducible apply Stays.elim <;> intros
    | exact Stays.mk_of id fun p => by cases p <;> first | exact Or.inr rfl | exact Or.inl (by decide)

theorem State.commit_stays (s : State) (e : Entry) :
    Stays [.hl, .act] s (State.commit s e) := by
  unfold State.commit
  try dsimp only
  repeat' first
    | with_reducible apply Stays.ite
    | with_reducible apply Stays.each; (intro _ _; try dsimp only)
    | with_reducible apply Stays.fold; (intro _ _; try dsimp only)
    | refine Stays.via (by with_reducible apply State.modAct_stays) ?_ (by decide)
    | refine Stays.via (by with_reducible apply State.freeEntry_stays) ?_ (by decide)
    | refine Stays.via (by with_reducible apply State.modEntry_stays) ?_ (by decide)
    | with_reducible apply Stays.refl
    | dsimp only
    | split
    | with_reducible apply Stays.elim <;> intros
    | exact Stays.mk_of id fun p => by cases p <;> first | exact Or.inr rfl | exact Or.inl (by decide)

theorem State.commitIfDue_stays (s : State) (no : Nat) :
    Stays [.hl, .act] s (State.commitIfDue s no) := by
  unfold State.commitIfDue
  try dsimp only
  repeat' first
    | with_reducible apply Stays.ite
    | with_reducible apply Stays.each; (intro _ _; try dsimp only)
    | with_reducible apply Stays.fold; (intro _ _; try dsimp only)
    | refine Stays.via (by with_reducible apply State.commit_stays) ?_ (by decide)
    | with_reducible apply Stays.refl
    | dsimp only
    | split
    | with_reducible apply Stays.elim <;> intros
    | exact Stays.mk_of id fun p => by cases p <;> first | exact Or.inr rfl | exact Or.inl (by decide)

theorem State.create_stays (s : State) (e : Entry) :
    Stays [.hl, .act] s (State.create s e) := by
  unfold State.create
  try dsimp only
  repeat' first
    | with_reducible apply Stays.ite
    | with_reducible apply Stays.each; (intro _ _; try dsimp only)
    | with_reducible apply Stays.fold; (intro _ _; try dsimp only)
    | refine Stays.via (by with_reducible apply State.modAct_stays) ?_ (by decide)
    | refine Stays.via (by with_reducible apply State.floodEnter_stays) ?_ (by decide)
    | refine Stays.via (by with_reducible apply State.modOut_stays) ?_ (by decide)
    | refine Stays.via (by with_reducible apply State.freeEntry_stays) ?_ (by decide)
    | refine Stays.via (by with_reducible apply State.commitIfDue_stays) ?_ (by decide)
    | with_reducible apply Stays.refl
    | dsimp only
    | split
    | with_reducible apply Stays.elim <;> intros
    | exact Stays.mk_of id fun p => by cases p <;> first | exact Or.inr rfl | exact Or.inl (by decide)

theorem State.request_stays (s : State) (q : Request) (b : Bearer) :
    Stays [.hl, .act] s (State.request s q b) := by
  unfold State.request
  try dsimp only
  repeat' first
    | with_reducible apply Stays.ite
    | with_reducible apply Stays.each; (intro _ _; try dsimp only)
    | with_reducible apply Stays.fold; (intro _ _; try dsimp only)
    | refine Stays.via (by with_reducible apply State.modAct_stays) ?_ (by decide)
    | refine Stays.via (by with_reducible apply State.bindTo_stays) ?_ (by decide)
    | refine Stays.via (by with_reducible apply State.modEntry_stays) ?_ (by decide)
    | refine Stays.via (by with_reducible apply State.create_stays) ?_ (by decide)
    | with_reducible apply Stays.refl
    | dsimp only
    | split
    | with_reducible apply Stays.elim <;> intros
    | exact Stays.mk_of id fun p => by cases p <;> first | exact Or.inr rfl | exact Or.inl (by decide)

theorem State.takeRecord_stays (s : State) (r : Intake) :
    Stays [.hl, .flt, .act] s (State.takeRecord s r) := by
  unfold State.takeRecord
  try dsimp only
  repeat' first
    | with_reducible apply Stays.ite
    | with_reducible apply Stays.each; (intro _ _; try dsimp only)
    | with_reducible apply Stays.fold; (intro _ _; try dsimp only)
    | refine Stays.via (by with_reducible apply State.raiseU_stays) ?_ (by decide)
    | refine Stays.via (by with_reducible apply State.modAct_stays) ?_ (by decide)
    | refine Stays.via (by with_reducible apply State.request_stays) ?_ (by decide)
    | with_reducible apply Stays.refl
    | dsimp only
    | split
    | with_reducible apply Stays.elim <;> intros
    | exact Stays.mk_of id fun p => by cases p <;> first | exact Or.inr rfl | exact Or.inl (by decide)

theorem State.takeIntake_stays (s : State) :
    Stays [.hl, .flt, .act] s (State.takeIntake s) := by
  unfold State.takeIntake
  try dsimp only
  repeat' first
    | with_reducible apply Stays.ite
    | with_reducible apply Stays.each; (intro _ _; try dsimp only)
    | with_reducible apply Stays.fold; (intro _ _; try dsimp only)
    | refine Stays.via (by with_reducible apply State.takeNotices_stays) ?_ (by decide)
    | refine Stays.via (by with_reducible apply State.shiftIntake_stays) ?_ (by decide)
    | refine Stays.via (by with_reducible apply State.takeRecord_stays) ?_ (by decide)
    | with_reducible apply Stays.refl
    | dsimp only
    | split
    | with_reducible apply Stays.elim <;> intros
    | exact Stays.mk_of id fun p => by cases p <;> first | exact Or.inr rfl | exact Or.inl (by decide)

theorem State.takeIntakes_stays (n : Nat) (s : State) :
    Stays [.hl, .flt, .act] s (State.takeIntakes n s) := by
  induction n generalizing s with
  | zero => exact Stays.refl _ _
  | succ n ih =>
    unfold State.takeIntakes
    try dsimp only
    repeat' first
      | with_reducible apply Stays.ite
      | refine Stays.via (ih _) ?_ (by decide)
      | refine Stays.via (by with_reducible apply State.takeIntake_stays) ?_ (by decide)
      | with_reducible apply Stays.refl
      | dsimp only
      | split
      | exact Stays.mk_of id fun p => by cases p <;> first | exact Or.inr rfl | exact Or.inl (by decide)

theorem State.takeWaiting_stays (s : State) :
    Stays [.hl, .flt, .act] s (State.takeWaiting s) := by
  unfold State.takeWaiting
  try dsimp only
  repeat' first
    | with_reducible apply Stays.ite
    | with_reducible apply Stays.each; (intro _ _; try dsimp only)
    | with_reducible apply Stays.fold; (intro _ _; try dsimp only)
    | refine Stays.via (by with_reducible apply State.takeNotices_stays) ?_ (by decide)
    | refine Stays.via (by with_reducible apply State.takeIntakes_stays) ?_ (by decide)
    | with_reducible apply Stays.refl
    | dsimp only
    | split
    | with_reducible apply Stays.elim <;> intros
    | exact Stays.mk_of id fun p => by cases p <;> first | exact Or.inr rfl | exact Or.inl (by decide)

theorem State.actCancel_stays (s0 : State) (slot : Nat) :
    Stays [.hl, .flt, .act] s0 (State.actCancel s0 slot) := by
  unfold State.actCancel
  try dsimp only
  repeat' first
    | with_reducible apply Stays.ite
    | with_reducible apply Stays.each; (intro _ _; try dsimp only)
    | with_reducible apply Stays.fold; (intro _ _; try dsimp only)
    | refine Stays.via (by with_reducible apply State.takeWaiting_stays) ?_ (by decide)
    | refine Stays.via (by with_reducible apply State.cancelEntry_stays) ?_ (by decide)
    | refine Stays.via (by with_reducible apply State.modEntry_stays) ?_ (by decide)
    | with_reducible apply Stays.refl
    | dsimp only
    | split
    | with_reducible apply Stays.elim <;> intros
    | exact Stays.mk_of id fun p => by cases p <;> first | exact Or.inr rfl | exact Or.inl (by decide)

theorem State.actPresent_stays (s : State) (f : Nat) :
    Stays [.act] s (State.actPresent s f) := by
  unfold State.actPresent
  try dsimp only
  repeat' first
    | with_reducible apply Stays.ite
    | with_reducible apply Stays.each; (intro _ _; try dsimp only)
    | with_reducible apply Stays.fold; (intro _ _; try dsimp only)
    | refine Stays.via (by with_reducible apply State.modAct_stays) ?_ (by decide)
    | with_reducible apply Stays.refl
    | dsimp only
    | split
    | with_reducible apply Stays.elim <;> intros
    | exact Stays.mk_of id fun p => by cases p <;> first | exact Or.inr rfl | exact Or.inl (by decide)

theorem State.actRelease_stays (s : State) :
    Stays [.act] s (State.actRelease s) := by
  unfold State.actRelease
  try dsimp only
  repeat' first
    | with_reducible apply Stays.ite
    | with_reducible apply Stays.each; (intro _ _; try dsimp only)
    | with_reducible apply Stays.fold; (intro _ _; try dsimp only)
    | refine Stays.via (by with_reducible apply State.modAct_stays) ?_ (by decide)
    | with_reducible apply Stays.refl
    | dsimp only
    | split
    | with_reducible apply Stays.elim <;> intros
    | exact Stays.mk_of id fun p => by cases p <;> first | exact Or.inr rfl | exact Or.inl (by decide)

theorem State.actResume_stays (s : State) :
    Stays [.hl, .act] s (State.actResume s) := by
  unfold State.actResume
  try dsimp only
  repeat' first
    | with_reducible apply Stays.ite
    | with_reducible apply Stays.each; (intro _ _; try dsimp only)
    | with_reducible apply Stays.fold; (intro _ _; try dsimp only)
    | refine Stays.via (by with_reducible apply State.modAct_stays) ?_ (by decide)
    | refine Stays.via (by with_reducible apply State.postActState_stays) ?_ (by decide)
    | with_reducible apply Stays.refl
    | dsimp only
    | split
    | with_reducible apply Stays.elim <;> intros
    | exact Stays.mk_of id fun p => by cases p <;> first | exact Or.inr rfl | exact Or.inl (by decide)

theorem State.actSafe_stays (s : State) (code : Nat) :
    Stays [.hl, .act] s (State.actSafe s code) := by
  unfold State.actSafe
  try dsimp only
  repeat' first
    | with_reducible apply Stays.ite
    | with_reducible apply Stays.each; (intro _ _; try dsimp only)
    | with_reducible apply Stays.fold; (intro _ _; try dsimp only)
    | refine Stays.via (by with_reducible apply State.modAct_stays) ?_ (by decide)
    | refine Stays.via (by with_reducible apply State.lineStop_stays) ?_ (by decide)
    | refine Stays.via (by with_reducible apply State.postActState_stays) ?_ (by decide)
    | with_reducible apply Stays.refl
    | dsimp only
    | split
    | with_reducible apply Stays.elim <;> intros
    | exact Stays.mk_of id fun p => by cases p <;> first | exact Or.inr rfl | exact Or.inl (by decide)

theorem State.actStep_stays (s : State) (old : DT64) (new : DT64) :
    Stays [.act] s (State.actStep s old new) := by
  unfold State.actStep
  try dsimp only
  repeat' first
    | with_reducible apply Stays.ite
    | with_reducible apply Stays.each; (intro _ _; try dsimp only)
    | with_reducible apply Stays.fold; (intro _ _; try dsimp only)
    | refine Stays.via (by with_reducible apply State.modAct_stays) ?_ (by decide)
    | with_reducible apply Stays.refl
    | dsimp only
    | split
    | with_reducible apply Stays.elim <;> intros
    | exact Stays.mk_of id fun p => by cases p <;> first | exact Or.inr rfl | exact Or.inl (by decide)

theorem State.clearOutput_stays (s : State) (n : Nat) :
    Stays [.hl, .act] s (State.clearOutput s n) := by
  unfold State.clearOutput
  try dsimp only
  repeat' first
    | with_reducible apply Stays.ite
    | with_reducible apply Stays.each; (intro _ _; try dsimp only)
    | with_reducible apply Stays.fold; (intro _ _; try dsimp only)
    | refine Stays.via (by with_reducible apply State.freeEntry_stays) ?_ (by decide)
    | refine Stays.via (by with_reducible apply State.modOut_stays) ?_ (by decide)
    | with_reducible apply Stays.refl
    | dsimp only
    | split
    | with_reducible apply Stays.elim <;> intros
    | exact Stays.mk_of id fun p => by cases p <;> first | exact Or.inr rfl | exact Or.inl (by decide)

theorem State.edgeNow_stays (s : State) (e : Entry) (due : DT64) :
    Stays [.hl, .act] s (State.edgeNow s e due) := by
  unfold State.edgeNow
  try dsimp only
  repeat' first
    | with_reducible apply Stays.ite
    | with_reducible apply Stays.each; (intro _ _; try dsimp only)
    | with_reducible apply Stays.fold; (intro _ _; try dsimp only)
    | refine Stays.via (by with_reducible apply State.modEntry_stays) ?_ (by decide)
    | refine Stays.via (by with_reducible apply State.lineStop_stays) ?_ (by decide)
    | refine Stays.via (by with_reducible apply State.modAct_stays) ?_ (by decide)
    | refine Stays.via (by with_reducible apply State.freeEntry_stays) ?_ (by decide)
    | refine Stays.via (by with_reducible apply State.modOut_stays) ?_ (by decide)
    | with_reducible apply Stays.refl
    | dsimp only
    | split
    | with_reducible apply Stays.elim <;> intros
    | exact Stays.mk_of id fun p => by cases p <;> first | exact Or.inr rfl | exact Or.inl (by decide)

theorem State.outputStart_stays (s : State) (n : Nat) :
    Stays [.act] s (State.outputStart s n) := by
  unfold State.outputStart
  try dsimp only
  repeat' first
    | with_reducible apply Stays.ite
    | with_reducible apply Stays.each; (intro _ _; try dsimp only)
    | with_reducible apply Stays.fold; (intro _ _; try dsimp only)
    | refine Stays.via (by with_reducible apply State.modOut_stays) ?_ (by decide)
    | with_reducible apply Stays.refl
    | dsimp only
    | split
    | with_reducible apply Stays.elim <;> intros
    | exact Stays.mk_of id fun p => by cases p <;> first | exact Or.inr rfl | exact Or.inl (by decide)

theorem State.outputOn_stays (s : State) (n : Nat) :
    Stays [.act] s (State.outputOn s n) := by
  unfold State.outputOn
  try dsimp only
  repeat' first
    | with_reducible apply Stays.ite
    | with_reducible apply Stays.each; (intro _ _; try dsimp only)
    | with_reducible apply Stays.fold; (intro _ _; try dsimp only)
    | refine Stays.via (by with_reducible apply State.outputStart_stays) ?_ (by decide)
    | refine Stays.via (by with_reducible apply State.modOut_stays) ?_ (by decide)
    | with_reducible apply Stays.refl
    | dsimp only
    | split
    | with_reducible apply Stays.elim <;> intros
    | exact Stays.mk_of id fun p => by cases p <;> first | exact Or.inr rfl | exact Or.inl (by decide)

theorem State.unitOff_stays (s : State) :
    Stays [.hl, .act] s (State.unitOff s) := by
  unfold State.unitOff
  try dsimp only
  repeat' first
    | with_reducible apply Stays.ite
    | with_reducible apply Stays.each; (intro _ _; try dsimp only)
    | with_reducible apply Stays.fold; (intro _ _; try dsimp only)
    | refine Stays.via (by with_reducible apply State.clearOutput_stays) ?_ (by decide)
    | refine Stays.via (by with_reducible apply State.lineStop_stays) ?_ (by decide)
    | refine Stays.via (by with_reducible apply State.modAct_stays) ?_ (by decide)
    | with_reducible apply Stays.refl
    | dsimp only
    | split
    | with_reducible apply Stays.elim <;> intros
    | exact Stays.mk_of id fun p => by cases p <;> first | exact Or.inr rfl | exact Or.inl (by decide)

theorem State.unitOn_stays (s : State) :
    Stays [.act] s (State.unitOn s) := by
  unfold State.unitOn
  try dsimp only
  repeat' first
    | with_reducible apply Stays.ite
    | with_reducible apply Stays.each; (intro _ _; try dsimp only)
    | with_reducible apply Stays.fold; (intro _ _; try dsimp only)
    | refine Stays.via (by with_reducible apply State.outputStart_stays) ?_ (by decide)
    | refine Stays.via (by with_reducible apply State.modAct_stays) ?_ (by decide)
    | with_reducible apply Stays.refl
    | dsimp only
    | split
    | with_reducible apply Stays.elim <;> intros
    | exact Stays.mk_of id fun p => by cases p <;> first | exact Or.inr rfl | exact Or.inl (by decide)

theorem State.commitNow_stays (s : State) (no : Nat) :
    Stays [.hl, .flt, .act] s (State.commitNow s no) := by
  unfold State.commitNow
  try dsimp only
  repeat' first
    | with_reducible apply Stays.ite
    | with_reducible apply Stays.each; (intro _ _; try dsimp only)
    | with_reducible apply Stays.fold; (intro _ _; try dsimp only)
    | refine Stays.via (by with_reducible apply State.takeWaiting_stays) ?_ (by decide)
    | refine Stays.via (by with_reducible apply State.commit_stays) ?_ (by decide)
    | with_reducible apply Stays.refl
    | dsimp only
    | split
    | with_reducible apply Stays.elim <;> intros
    | exact Stays.mk_of id fun p => by cases p <;> first | exact Or.inr rfl | exact Or.inl (by decide)

theorem State.edgeDue_stays (s : State) (no : Nat) (due : DT64) :
    Stays [.hl, .flt, .act] s (State.edgeDue s no due) := by
  unfold State.edgeDue
  try dsimp only
  repeat' first
    | with_reducible apply Stays.ite
    | with_reducible apply Stays.each; (intro _ _; try dsimp only)
    | with_reducible apply Stays.fold; (intro _ _; try dsimp only)
    | refine Stays.via (by with_reducible apply State.commitNow_stays) ?_ (by decide)
    | refine Stays.via (by with_reducible apply State.edgeNow_stays) ?_ (by decide)
    | with_reducible apply Stays.refl
    | dsimp only
    | split
    | with_reducible apply Stays.elim <;> intros
    | exact Stays.mk_of id fun p => by cases p <;> first | exact Or.inr rfl | exact Or.inl (by decide)

theorem State.edgesDue_stays (s : State) (f : Nat) :
    Stays [.hl, .flt, .act] s (State.edgesDue s f) := by
  unfold State.edgesDue
  try dsimp only
  repeat' first
    | with_reducible apply Stays.ite
    | with_reducible apply Stays.each; (intro _ _; try dsimp only)
    | with_reducible apply Stays.fold; (intro _ _; try dsimp only)
    | refine Stays.via (by with_reducible apply State.edgeDue_stays) ?_ (by decide)
    | with_reducible apply Stays.refl
    | dsimp only
    | split
    | with_reducible apply Stays.elim <;> intros
    | exact Stays.mk_of id fun p => by cases p <;> first | exact Or.inr rfl | exact Or.inl (by decide)

theorem State.pulseEnd_stays (s : State) (n : Nat) :
    Stays [.hl, .act] s (State.pulseEnd s n) := by
  unfold State.pulseEnd
  try dsimp only
  repeat' first
    | with_reducible apply Stays.ite
    | with_reducible apply Stays.each; (intro _ _; try dsimp only)
    | with_reducible apply Stays.fold; (intro _ _; try dsimp only)
    | refine Stays.via (by with_reducible apply State.modEntry_stays) ?_ (by decide)
    | refine Stays.via (by with_reducible apply State.modOut_stays) ?_ (by decide)
    | refine Stays.via (by with_reducible apply State.pulseDone_stays) ?_ (by decide)
    | with_reducible apply Stays.refl
    | dsimp only
    | split
    | with_reducible apply Stays.elim <;> intros
    | exact Stays.mk_of id fun p => by cases p <;> first | exact Or.inr rfl | exact Or.inl (by decide)

theorem State.lineHold_stays (s : State) :
    Stays [.act] s (State.lineHold s) := by
  unfold State.lineHold
  try dsimp only
  repeat' first
    | with_reducible apply Stays.ite
    | with_reducible apply Stays.each; (intro _ _; try dsimp only)
    | with_reducible apply Stays.fold; (intro _ _; try dsimp only)
    | refine Stays.via (by with_reducible apply State.lineStop_stays) ?_ (by decide)
    | with_reducible apply Stays.refl
    | dsimp only
    | split
    | with_reducible apply Stays.elim <;> intros
    | exact Stays.mk_of id fun p => by cases p <;> first | exact Or.inr rfl | exact Or.inl (by decide)

end Sys2Proof.Machine
end

