-- ==== Sys2Proof/Laws/FrameSlots.lean ====
section
/-! SUPPORT. What each operation of Machine/Slots.lean may change. -/

-- One theorem at a time: a thread a theorem would be too many. Proofs of one form name alternatives that some goals do not need.
set_option Elab.async false
set_option linter.all false

namespace Sys2Proof.Machine

open Sys2Proof

theorem State.modSlot_stays (s : State) (n : Nat) (f : Slot → Slot) :
    Stays [.ing] s (State.modSlot s n f) := by
  unfold State.modSlot
  try dsimp only
  repeat' first
    | with_reducible apply Stays.ite
    | with_reducible apply Stays.each; (intro _ _; try dsimp only)
    | with_reducible apply Stays.fold; (intro _ _; try dsimp only)
    | refine Stays.via (by with_reducible apply State.modIng_stays) ?_ (by decide)
    | with_reducible apply Stays.refl
    | dsimp only
    | split
    | with_reducible apply Stays.elim <;> intros
    | exact Stays.mk_of id fun p => by cases p <;> first | exact Or.inr rfl | exact Or.inl (by decide)

theorem State.attach_stays (s : State) (src : Source) (n : Nat) :
    Stays [.hl, .ing] s (State.attach s src n) := by
  unfold State.attach
  try dsimp only
  repeat' first
    | with_reducible apply Stays.ite
    | with_reducible apply Stays.each; (intro _ _; try dsimp only)
    | with_reducible apply Stays.fold; (intro _ _; try dsimp only)
    | refine Stays.via (by with_reducible apply State.modSlot_stays) ?_ (by decide)
    | refine Stays.via (by with_reducible apply State.modIng_stays) ?_ (by decide)
    | refine Stays.via (by with_reducible apply State.notify_stays) ?_ (by decide)
    | with_reducible apply Stays.refl
    | dsimp only
    | split
    | with_reducible apply Stays.elim <;> intros
    | exact Stays.mk_of id fun p => by cases p <;> first | exact Or.inr rfl | exact Or.inl (by decide)

theorem State.wordIn_stays (s : State) (n : Nat) (w : Entry65) :
    Stays [.hl, .ing] s (State.wordIn s n w) := by
  unfold State.wordIn
  try dsimp only
  repeat' first
    | with_reducible apply Stays.ite
    | with_reducible apply Stays.each; (intro _ _; try dsimp only)
    | with_reducible apply Stays.fold; (intro _ _; try dsimp only)
    | refine Stays.via (by with_reducible apply State.modSlot_stays) ?_ (by decide)
    | refine Stays.via (by with_reducible apply State.notify_stays) ?_ (by decide)
    | with_reducible apply Stays.refl
    | dsimp only
    | split
    | with_reducible apply Stays.elim <;> intros
    | exact Stays.mk_of id fun p => by cases p <;> first | exact Or.inr rfl | exact Or.inl (by decide)

theorem State.recIn_stays (s : State) (n : Nat) (r : Rec) :
    Stays [.hl, .ing] s (State.recIn s n r) := by
  unfold State.recIn
  try dsimp only
  repeat' first
    | with_reducible apply Stays.ite
    | with_reducible apply Stays.each; (intro _ _; try dsimp only)
    | with_reducible apply Stays.fold; (intro _ _; try dsimp only)
    | refine Stays.via (by with_reducible apply State.wordIn_stays) ?_ (by decide)
    | with_reducible apply Stays.refl
    | dsimp only
    | split
    | with_reducible apply Stays.elim <;> intros
    | exact Stays.mk_of id fun p => by cases p <;> first | exact Or.inr rfl | exact Or.inl (by decide)

theorem State.slotBack_stays (s : State) (n : Nat) :
    Stays [.mot, .pan] s (State.slotBack s n) := by
  unfold State.slotBack
  try dsimp only
  repeat' first
    | with_reducible apply Stays.ite
    | with_reducible apply Stays.each; (intro _ _; try dsimp only)
    | with_reducible apply Stays.fold; (intro _ _; try dsimp only)
    | refine Stays.via (by with_reducible apply State.modPan_stays) ?_ (by decide)
    | refine Stays.via (by with_reducible apply State.modMotion_stays) ?_ (by decide)
    | with_reducible apply Stays.refl
    | dsimp only
    | split
    | with_reducible apply Stays.elim <;> intros
    | exact Stays.mk_of id fun p => by cases p <;> first | exact Or.inr rfl | exact Or.inl (by decide)

theorem State.slotPresent_stays (s : State) (n : Nat) (t : DT64) (tunc : Bool) :
    Stays [.hl, .ing, .mot, .pan] s (State.slotPresent s n t tunc) := by
  unfold State.slotPresent
  try dsimp only
  repeat' first
    | with_reducible apply Stays.ite
    | with_reducible apply Stays.each; (intro _ _; try dsimp only)
    | with_reducible apply Stays.fold; (intro _ _; try dsimp only)
    | refine Stays.via (by with_reducible apply State.slotBack_stays) ?_ (by decide)
    | refine Stays.via (by with_reducible apply State.modSlot_stays) ?_ (by decide)
    | refine Stays.via (by with_reducible apply State.recIn_stays) ?_ (by decide)
    | refine Stays.via (by with_reducible apply State.notify_stays) ?_ (by decide)
    | with_reducible apply Stays.refl
    | dsimp only
    | split
    | with_reducible apply Stays.elim <;> intros
    | exact Stays.mk_of id fun p => by cases p <;> first | exact Or.inr rfl | exact Or.inl (by decide)

theorem State.deliver_stays (s : State) (n : Nat) (r : Rec) :
    Stays [.hl, .ing, .mot, .pan] s (State.deliver s n r) := by
  unfold State.deliver
  try dsimp only
  repeat' first
    | with_reducible apply Stays.ite
    | with_reducible apply Stays.each; (intro _ _; try dsimp only)
    | with_reducible apply Stays.fold; (intro _ _; try dsimp only)
    | refine Stays.via (by with_reducible apply State.slotPresent_stays) ?_ (by decide)
    | refine Stays.via (by with_reducible apply State.recIn_stays) ?_ (by decide)
    | refine Stays.via (by with_reducible apply State.modSlot_stays) ?_ (by decide)
    | with_reducible apply Stays.refl
    | dsimp only
    | split
    | with_reducible apply Stays.elim <;> intros
    | exact Stays.mk_of id fun p => by cases p <;> first | exact Or.inr rfl | exact Or.inl (by decide)

theorem State.slotAbsent_stays (s : State) (n : Nat) (cause : Nat) :
    Stays [.hl, .ing] s (State.slotAbsent s n cause) := by
  unfold State.slotAbsent
  try dsimp only
  repeat' first
    | with_reducible apply Stays.ite
    | with_reducible apply Stays.each; (intro _ _; try dsimp only)
    | with_reducible apply Stays.fold; (intro _ _; try dsimp only)
    | refine Stays.via (by with_reducible apply State.modSlot_stays) ?_ (by decide)
    | refine Stays.via (by with_reducible apply State.recIn_stays) ?_ (by decide)
    | refine Stays.via (by with_reducible apply State.notify_stays) ?_ (by decide)
    | with_reducible apply Stays.refl
    | dsimp only
    | split
    | with_reducible apply Stays.elim <;> intros
    | exact Stays.mk_of id fun p => by cases p <;> first | exact Or.inr rfl | exact Or.inl (by decide)

theorem State.detach_stays (s : State) (src : Source) (n : Nat) :
    Stays [.hl, .ing] s (State.detach s src n) := by
  unfold State.detach
  try dsimp only
  repeat' first
    | with_reducible apply Stays.ite
    | with_reducible apply Stays.each; (intro _ _; try dsimp only)
    | with_reducible apply Stays.fold; (intro _ _; try dsimp only)
    | refine Stays.via (by with_reducible apply State.modIng_stays) ?_ (by decide)
    | refine Stays.via (by with_reducible apply State.modSlot_stays) ?_ (by decide)
    | refine Stays.via (by with_reducible apply State.slotAbsent_stays) ?_ (by decide)
    | with_reducible apply Stays.refl
    | dsimp only
    | split
    | with_reducible apply Stays.elim <;> intros
    | exact Stays.mk_of id fun p => by cases p <;> first | exact Or.inr rfl | exact Or.inl (by decide)

theorem State.gapIn_stays (s : State) (n : Nat) (count : Nat) :
    Stays [.hl, .ing] s (State.gapIn s n count) := by
  unfold State.gapIn
  try dsimp only
  repeat' first
    | with_reducible apply Stays.ite
    | with_reducible apply Stays.each; (intro _ _; try dsimp only)
    | with_reducible apply Stays.fold; (intro _ _; try dsimp only)
    | refine Stays.via (by with_reducible apply State.wordIn_stays) ?_ (by decide)
    | with_reducible apply Stays.refl
    | dsimp only
    | split
    | with_reducible apply Stays.elim <;> intros
    | exact Stays.mk_of id fun p => by cases p <;> first | exact Or.inr rfl | exact Or.inl (by decide)

theorem State.modCap_stays (s : State) (n : Nat) (f : Cap → Cap) :
    Stays [.tk] s (State.modCap s n f) := by
  unfold State.modCap
  try dsimp only
  repeat' first
    | with_reducible apply Stays.ite
    | with_reducible apply Stays.each; (intro _ _; try dsimp only)
    | with_reducible apply Stays.fold; (intro _ _; try dsimp only)
    | refine Stays.via (by with_reducible apply State.modTk_stays) ?_ (by decide)
    | with_reducible apply Stays.refl
    | dsimp only
    | split
    | with_reducible apply Stays.elim <;> intros
    | exact Stays.mk_of id fun p => by cases p <;> first | exact Or.inr rfl | exact Or.inl (by decide)

theorem State.modEnc_stays (s : State) (n : Nat) (f : Enc → Enc) :
    Stays [.ing] s (State.modEnc s n f) := by
  unfold State.modEnc
  try dsimp only
  repeat' first
    | with_reducible apply Stays.ite
    | with_reducible apply Stays.each; (intro _ _; try dsimp only)
    | with_reducible apply Stays.fold; (intro _ _; try dsimp only)
    | refine Stays.via (by with_reducible apply State.modIng_stays) ?_ (by decide)
    | with_reducible apply Stays.refl
    | dsimp only
    | split
    | with_reducible apply Stays.elim <;> intros
    | exact Stays.mk_of id fun p => by cases p <;> first | exact Or.inr rfl | exact Or.inl (by decide)

theorem State.resumeTimers_stays (s : State) (f : Nat) :
    Stays [.tk, .ing] s (State.resumeTimers s f) := by
  unfold State.resumeTimers
  try dsimp only
  repeat' first
    | with_reducible apply Stays.ite
    | with_reducible apply Stays.each; (intro _ _; try dsimp only)
    | with_reducible apply Stays.fold; (intro _ _; try dsimp only)
    | refine Stays.via (by with_reducible apply State.modCap_stays) ?_ (by decide)
    | refine Stays.via (by with_reducible apply State.modEnc_stays) ?_ (by decide)
    | with_reducible apply Stays.refl
    | dsimp only
    | split
    | with_reducible apply Stays.elim <;> intros
    | exact Stays.mk_of id fun p => by cases p <;> first | exact Or.inr rfl | exact Or.inl (by decide)

theorem State.gate_stays (s : State) (f : Nat) (wasSlow : Bool) :
    Stays [.tk, .ing, .mot] s (State.gate s f wasSlow) := by
  unfold State.gate
  try dsimp only
  repeat' first
    | with_reducible apply Stays.ite
    | with_reducible apply Stays.each; (intro _ _; try dsimp only)
    | with_reducible apply Stays.fold; (intro _ _; try dsimp only)
    | refine Stays.via (by with_reducible apply State.resumeTimers_stays) ?_ (by decide)
    | refine Stays.via (by with_reducible apply State.modMotion_stays) ?_ (by decide)
    | with_reducible apply Stays.refl
    | dsimp only
    | split
    | with_reducible apply Stays.elim <;> intros
    | exact Stays.mk_of id fun p => by cases p <;> first | exact Or.inr rfl | exact Or.inl (by decide)

theorem State.slotOff_stays (s : State) (n : Nat) :
    Stays [.ing] s (State.slotOff s n) := by
  unfold State.slotOff
  try dsimp only
  repeat' first
    | with_reducible apply Stays.ite
    | with_reducible apply Stays.each; (intro _ _; try dsimp only)
    | with_reducible apply Stays.fold; (intro _ _; try dsimp only)
    | refine Stays.via (by with_reducible apply State.modSlot_stays) ?_ (by decide)
    | with_reducible apply Stays.refl
    | dsimp only
    | split
    | with_reducible apply Stays.elim <;> intros
    | exact Stays.mk_of id fun p => by cases p <;> first | exact Or.inr rfl | exact Or.inl (by decide)

theorem State.slotOn_stays (s : State) (n : Nat) :
    Stays [.ing] s (State.slotOn s n) := by
  unfold State.slotOn
  try dsimp only
  repeat' first
    | with_reducible apply Stays.ite
    | with_reducible apply Stays.each; (intro _ _; try dsimp only)
    | with_reducible apply Stays.fold; (intro _ _; try dsimp only)
    | refine Stays.via (by with_reducible apply State.modSlot_stays) ?_ (by decide)
    | with_reducible apply Stays.refl
    | dsimp only
    | split
    | with_reducible apply Stays.elim <;> intros
    | exact Stays.mk_of id fun p => by cases p <;> first | exact Or.inr rfl | exact Or.inl (by decide)

theorem State.slotTake_stays {s : State} {n : Nat} {x : Taken × State} (h : s.slotTake n = some x) : Stays [.hl, .ing] s x.2 := by
  have m : ∀ f, Stays [.hl, .ing] s (s.modSlot n f) := fun f => Stays.step (Stays.refl _ _) (State.modSlot_stays _ _ _) (by decide)
  unfold State.slotTake at h
  dsimp only at h
  split at h
  · cases h
    exact Stays.each (fun w t => State.wordIn_stays _ _ _) (m _)
  · simp only [Option.map_eq_some_iff] at h
    obtain ⟨y, _, rfl⟩ := h
    exact m _

end Sys2Proof.Machine
end

