-- ==== Sys2Proof/Laws/FrameCamera.lean ====
section
/-! SUPPORT. What each operation of Machine/Camera.lean may change. -/

-- One theorem at a time: a thread a theorem would be too many. Proofs of one form name alternatives that some goals do not need.
set_option Elab.async false
set_option linter.all false

namespace Sys2Proof.Machine

open Sys2Proof

theorem State.modSsp_stays (s : State) (n : Nat) (f : Ssp → Ssp) :
    Stays [.ing] s (State.modSsp s n f) := by
  unfold State.modSsp
  try dsimp only
  repeat' first
    | with_reducible apply Stays.ite
    | with_reducible apply Stays.each; (intro _ _; try dsimp only)
    | with_reducible apply Stays.fold; (intro _ _; try dsimp only)
    | refine Stays.via (by with_reducible apply State.modIng_stays) ?_ (by decide)
    | with_reducible apply Stays.refl
    | dsimp only
    | split
    | with_reducible apply Stays.elim <;> intros
    | exact Stays.mk_of id fun p => by cases p <;> first | exact Or.inr rfl | exact Or.inl (by decide)

theorem State.camBadFmt_stays (s : State) (n : Nat) (pfnc : BitVec 32) :
    Stays [.hl, .ing] s (State.camBadFmt s n pfnc) := by
  unfold State.camBadFmt
  try dsimp only
  repeat' first
    | with_reducible apply Stays.ite
    | with_reducible apply Stays.each; (intro _ _; try dsimp only)
    | with_reducible apply Stays.fold; (intro _ _; try dsimp only)
    | refine Stays.via (by with_reducible apply State.modSsp_stays) ?_ (by decide)
    | refine Stays.via (by with_reducible apply State.notify_stays) ?_ (by decide)
    | with_reducible apply Stays.refl
    | dsimp only
    | split
    | with_reducible apply Stays.elim <;> intros
    | exact Stays.mk_of id fun p => by cases p <;> first | exact Or.inr rfl | exact Or.inl (by decide)

theorem State.camBreak_stays (s : State) (n : Nat) :
    Stays [.hl, .ing] s (State.camBreak s n) := by
  unfold State.camBreak
  try dsimp only
  repeat' first
    | with_reducible apply Stays.ite
    | with_reducible apply Stays.each; (intro _ _; try dsimp only)
    | with_reducible apply Stays.fold; (intro _ _; try dsimp only)
    | refine Stays.via (by with_reducible apply State.modSsp_stays) ?_ (by decide)
    | refine Stays.via (by with_reducible apply State.gapIn_stays) ?_ (by decide)
    | with_reducible apply Stays.refl
    | dsimp only
    | split
    | with_reducible apply Stays.elim <;> intros
    | exact Stays.mk_of id fun p => by cases p <;> first | exact Or.inr rfl | exact Or.inl (by decide)

theorem State.camDown_stays (s : State) (n : Nat) (declare : Bool) :
    Stays [.hl, .ing] s (State.camDown s n declare) := by
  unfold State.camDown
  try dsimp only
  repeat' first
    | with_reducible apply Stays.ite
    | with_reducible apply Stays.each; (intro _ _; try dsimp only)
    | with_reducible apply Stays.fold; (intro _ _; try dsimp only)
    | refine Stays.via (by with_reducible apply State.camBreak_stays) ?_ (by decide)
    | refine Stays.via (by with_reducible apply State.modSsp_stays) ?_ (by decide)
    | refine Stays.via (by with_reducible apply State.slotAbsent_stays) ?_ (by decide)
    | refine Stays.via (by with_reducible apply State.notify_stays) ?_ (by decide)
    | with_reducible apply Stays.refl
    | dsimp only
    | split
    | with_reducible apply Stays.elim <;> intros
    | exact Stays.mk_of id fun p => by cases p <;> first | exact Or.inr rfl | exact Or.inl (by decide)

theorem State.camGap_stays (s : State) (n : Nat) (count : Nat) :
    Stays [.hl, .ing] s (State.camGap s n count) := by
  unfold State.camGap
  try dsimp only
  repeat' first
    | with_reducible apply Stays.ite
    | with_reducible apply Stays.each; (intro _ _; try dsimp only)
    | with_reducible apply Stays.fold; (intro _ _; try dsimp only)
    | refine Stays.via (by with_reducible apply State.gapIn_stays) ?_ (by decide)
    | with_reducible apply Stays.refl
    | dsimp only
    | split
    | with_reducible apply Stays.elim <;> intros
    | exact Stays.mk_of id fun p => by cases p <;> first | exact Or.inr rfl | exact Or.inl (by decide)

theorem State.camRec_stays (s : State) (n : Nat) (r : Rec) :
    Stays [.hl, .ing, .mot, .pan] s (State.camRec s n r) := by
  unfold State.camRec
  try dsimp only
  repeat' first
    | with_reducible apply Stays.ite
    | with_reducible apply Stays.each; (intro _ _; try dsimp only)
    | with_reducible apply Stays.fold; (intro _ _; try dsimp only)
    | refine Stays.via (by with_reducible apply State.deliver_stays) ?_ (by decide)
    | refine Stays.via (by with_reducible apply State.modSsp_stays) ?_ (by decide)
    | with_reducible apply Stays.refl
    | dsimp only
    | split
    | with_reducible apply Stays.elim <;> intros
    | exact Stays.mk_of id fun p => by cases p <;> first | exact Or.inr rfl | exact Or.inl (by decide)

theorem State.camGive_stays (s : State) (n : Nat) :
    Stays [.hl, .ing, .mot, .pan] s (State.camGive s n) := by
  unfold State.camGive
  try dsimp only
  repeat' first
    | with_reducible apply Stays.ite
    | with_reducible apply Stays.each; (intro _ _; try dsimp only)
    | with_reducible apply Stays.fold; (intro _ _; try dsimp only)
    | refine Stays.via (by with_reducible apply State.camRec_stays) ?_ (by decide)
    | refine Stays.via (by with_reducible apply State.modSsp_stays) ?_ (by decide)
    | with_reducible apply Stays.refl
    | dsimp only
    | split
    | with_reducible apply Stays.elim <;> intros
    | exact Stays.mk_of id fun p => by cases p <;> first | exact Or.inr rfl | exact Or.inl (by decide)

theorem State.camLeave_stays (s : State) (n : Nat) :
    Stays [.hl, .ing] s (State.camLeave s n) := by
  unfold State.camLeave
  try dsimp only
  repeat' first
    | with_reducible apply Stays.ite
    | with_reducible apply Stays.each; (intro _ _; try dsimp only)
    | with_reducible apply Stays.fold; (intro _ _; try dsimp only)
    | refine Stays.via (by with_reducible apply State.camGap_stays) ?_ (by decide)
    | with_reducible apply Stays.refl
    | dsimp only
    | split
    | with_reducible apply Stays.elim <;> intros
    | exact Stays.mk_of id fun p => by cases p <;> first | exact Or.inr rfl | exact Or.inl (by decide)

theorem State.camStamp_stays (s : State) (n : Nat) (no : BitVec 32) : Stays [.ing] s (s.camStamp n no).2.2 := by
  unfold State.camStamp
  dsimp only
  split <;> exact State.modSsp_stays _ _ _

theorem State.camItem_stays (s : State) (n : Nat) (z0 : CxpItem) :
    Stays [.hl, .ing, .mot, .pan] s (State.camItem s n z0) := by
  unfold State.camItem
  try dsimp only
  repeat' first
    | with_reducible apply Stays.ite
    | with_reducible apply Stays.each; (intro _ _; try dsimp only)
    | with_reducible apply Stays.fold; (intro _ _; try dsimp only)
    | refine Stays.via (by with_reducible apply State.camLeave_stays) ?_ (by decide)
    | refine Stays.via (by with_reducible apply State.camStamp_stays) ?_ (by decide)
    | refine Stays.via (by with_reducible apply State.camBadFmt_stays) ?_ (by decide)
    | refine Stays.via (by with_reducible apply State.modSsp_stays) ?_ (by decide)
    | refine Stays.via (by with_reducible apply State.camGive_stays) ?_ (by decide)
    | with_reducible apply Stays.refl
    | dsimp only
    | split
    | with_reducible apply Stays.elim <;> intros
    | exact Stays.mk_of id fun p => by cases p <;> first | exact Or.inr rfl | exact Or.inl (by decide)

theorem State.camLost_stays (s : State) (n : Nat) :
    Stays [.hl, .ing] s (State.camLost s n) := by
  unfold State.camLost
  try dsimp only
  repeat' first
    | with_reducible apply Stays.ite
    | with_reducible apply Stays.each; (intro _ _; try dsimp only)
    | with_reducible apply Stays.fold; (intro _ _; try dsimp only)
    | refine Stays.via (by with_reducible apply State.modSsp_stays) ?_ (by decide)
    | refine Stays.via (by with_reducible apply State.camGap_stays) ?_ (by decide)
    | with_reducible apply Stays.refl
    | dsimp only
    | split
    | with_reducible apply Stays.elim <;> intros
    | exact Stays.mk_of id fun p => by cases p <;> first | exact Or.inr rfl | exact Or.inl (by decide)

theorem State.cxpBegin_stays (s : State) (o : Op) :
    Stays [.mem, .out, .hl, .aon, .ing] s (State.cxpBegin s o) := by
  unfold State.cxpBegin
  try dsimp only
  repeat' first
    | with_reducible apply Stays.ite
    | with_reducible apply Stays.each; (intro _ _; try dsimp only)
    | with_reducible apply Stays.fold; (intro _ _; try dsimp only)
    | refine Stays.via (by with_reducible apply State.takeOp_stays) ?_ (by decide)
    | refine Stays.via (by with_reducible apply State.complete_stays) ?_ (by decide)
    | refine Stays.via (by with_reducible apply State.modSsp_stays) ?_ (by decide)
    | refine Stays.via (by with_reducible apply State.send_stays) ?_ (by decide)
    | with_reducible apply Stays.refl
    | dsimp only
    | split
    | with_reducible apply Stays.elim <;> intros
    | exact Stays.mk_of id fun p => by cases p <;> first | exact Or.inr rfl | exact Or.inl (by decide)

theorem State.cxpEnd_stays (s : State) (n : Nat) (o : Op) (cstatus : Nat) (reason : Nat) (result : List Byte) :
    Stays [.mem, .hl, .aon, .ing] s (State.cxpEnd s n o cstatus reason result) := by
  unfold State.cxpEnd
  try dsimp only
  repeat' first
    | with_reducible apply Stays.ite
    | with_reducible apply Stays.each; (intro _ _; try dsimp only)
    | with_reducible apply Stays.fold; (intro _ _; try dsimp only)
    | refine Stays.via (by with_reducible apply State.modSsp_stays) ?_ (by decide)
    | refine Stays.via (by with_reducible apply State.complete_stays) ?_ (by decide)
    | with_reducible apply Stays.refl
    | dsimp only
    | split
    | with_reducible apply Stays.elim <;> intros
    | exact Stays.mk_of id fun p => by cases p <;> first | exact Or.inr rfl | exact Or.inl (by decide)

theorem State.modQuad_stays (s : State) (q : Nat) (f : Quad → Quad) :
    Stays [.ing] s (State.modQuad s q f) := by
  unfold State.modQuad
  try dsimp only
  repeat' first
    | with_reducible apply Stays.ite
    | with_reducible apply Stays.each; (intro _ _; try dsimp only)
    | with_reducible apply Stays.fold; (intro _ _; try dsimp only)
    | refine Stays.via (by with_reducible apply State.modIng_stays) ?_ (by decide)
    | with_reducible apply Stays.refl
    | dsimp only
    | split
    | with_reducible apply Stays.elim <;> intros
    | exact Stays.mk_of id fun p => by cases p <;> first | exact Or.inr rfl | exact Or.inl (by decide)

theorem State.pocxpEnable_stays (s : State) (n : Nat) (on : Bool) :
    Stays [.ing] s (State.pocxpEnable s n on) := by
  unfold State.pocxpEnable
  try dsimp only
  repeat' first
    | with_reducible apply Stays.ite
    | with_reducible apply Stays.each; (intro _ _; try dsimp only)
    | with_reducible apply Stays.fold; (intro _ _; try dsimp only)
    | refine Stays.via (by with_reducible apply State.modSsp_stays) ?_ (by decide)
    | with_reducible apply Stays.refl
    | dsimp only
    | split
    | with_reducible apply Stays.elim <;> intros
    | exact Stays.mk_of id fun p => by cases p <;> first | exact Or.inr rfl | exact Or.inl (by decide)

theorem State.quadSettle_stays (s : State) (q : Nat) :
    Stays [.ing] s (State.quadSettle s q) := by
  unfold State.quadSettle
  try dsimp only
  repeat' first
    | with_reducible apply Stays.ite
    | with_reducible apply Stays.each; (intro _ _; try dsimp only)
    | with_reducible apply Stays.fold; (intro _ _; try dsimp only)
    | refine Stays.via (by with_reducible apply State.modQuad_stays) ?_ (by decide)
    | with_reducible apply Stays.refl
    | dsimp only
    | split
    | with_reducible apply Stays.elim <;> intros
    | exact Stays.mk_of id fun p => by cases p <;> first | exact Or.inr rfl | exact Or.inl (by decide)

theorem State.quadEnable_stays (s : State) (q : Nat) (any : Bool) :
    Stays [.ing] s (State.quadEnable s q any) := by
  unfold State.quadEnable
  try dsimp only
  repeat' first
    | with_reducible apply Stays.ite
    | with_reducible apply Stays.each; (intro _ _; try dsimp only)
    | with_reducible apply Stays.fold; (intro _ _; try dsimp only)
    | refine Stays.via (by with_reducible apply State.modQuad_stays) ?_ (by decide)
    | refine Stays.via (by with_reducible apply State.quadSettle_stays) ?_ (by decide)
    | with_reducible apply Stays.refl
    | dsimp only
    | split
    | with_reducible apply Stays.elim <;> intros
    | exact Stays.mk_of id fun p => by cases p <;> first | exact Or.inr rfl | exact Or.inl (by decide)

theorem State.quadRetry_stays (s : State) (mask : Nat) :
    Stays [.ing] s (State.quadRetry s mask) := by
  unfold State.quadRetry
  try dsimp only
  repeat' first
    | with_reducible apply Stays.ite
    | with_reducible apply Stays.each; (intro _ _; try dsimp only)
    | with_reducible apply Stays.fold; (intro _ _; try dsimp only)
    | refine Stays.via (by with_reducible apply State.modQuad_stays) ?_ (by decide)
    | refine Stays.via (by with_reducible apply State.quadSettle_stays) ?_ (by decide)
    | with_reducible apply Stays.refl
    | dsimp only
    | split
    | with_reducible apply Stays.elim <;> intros
    | exact Stays.mk_of id fun p => by cases p <;> first | exact Or.inr rfl | exact Or.inl (by decide)

theorem State.shotDone_stays (s : State) (shot : Option Nat) (cstatus : Nat) (result : List Byte) :
    Stays [.mem, .hl, .aon] s (State.shotDone s shot cstatus result) := by
  unfold State.shotDone
  try dsimp only
  repeat' first
    | with_reducible apply Stays.ite
    | with_reducible apply Stays.each; (intro _ _; try dsimp only)
    | with_reducible apply Stays.fold; (intro _ _; try dsimp only)
    | refine Stays.via (by with_reducible apply State.complete_stays) ?_ (by decide)
    | with_reducible apply Stays.refl
    | dsimp only
    | split
    | with_reducible apply Stays.elim <;> intros
    | exact Stays.mk_of id fun p => by cases p <;> first | exact Or.inr rfl | exact Or.inl (by decide)

theorem State.xactsFail_stays (s : State) (port : Nat) (running : Bool) :
    Stays [.mem, .hl, .aon] s (State.xactsFail s port running) := by
  unfold State.xactsFail
  try dsimp only
  repeat' first
    | with_reducible apply Stays.ite
    | with_reducible apply Stays.each; (intro _ _; try dsimp only)
    | with_reducible apply Stays.fold; (intro _ _; try dsimp only)
    | refine Stays.via (by with_reducible apply State.complete_stays) ?_ (by decide)
    | with_reducible apply Stays.refl
    | dsimp only
    | split
    | with_reducible apply Stays.elim <;> intros
    | exact Stays.mk_of id fun p => by cases p <;> first | exact Or.inr rfl | exact Or.inl (by decide)

theorem State.trigDrop_stays (s : State) (n : Nat) (shot : Option Nat) :
    Stays [.mem, .hl, .aon, .ing] s (State.trigDrop s n shot) := by
  unfold State.trigDrop
  try dsimp only
  repeat' first
    | with_reducible apply Stays.ite
    | with_reducible apply Stays.each; (intro _ _; try dsimp only)
    | with_reducible apply Stays.fold; (intro _ _; try dsimp only)
    | refine Stays.via (by with_reducible apply State.modSsp_stays) ?_ (by decide)
    | refine Stays.via (by with_reducible apply State.notify_stays) ?_ (by decide)
    | refine Stays.via (by with_reducible apply State.shotDone_stays) ?_ (by decide)
    | with_reducible apply Stays.refl
    | dsimp only
    | split
    | with_reducible apply Stays.elim <;> intros
    | exact Stays.mk_of id fun p => by cases p <;> first | exact Or.inr rfl | exact Or.inl (by decide)

theorem State.trigsGo_stays (s : State) (n : Nat) (count : Bool) (cstatus : Nat) :
    Stays [.mem, .hl, .aon, .ing] s (State.trigsGo s n count cstatus) := by
  unfold State.trigsGo
  try dsimp only
  repeat' first
    | with_reducible apply Stays.ite
    | with_reducible apply Stays.each; (intro _ _; try dsimp only)
    | with_reducible apply Stays.fold; (intro _ _; try dsimp only)
    | refine Stays.via (by with_reducible apply State.modSsp_stays) ?_ (by decide)
    | refine Stays.via (by with_reducible apply State.trigDrop_stays) ?_ (by decide)
    | refine Stays.via (by with_reducible apply State.shotDone_stays) ?_ (by decide)
    | with_reducible apply Stays.refl
    | dsimp only
    | split
    | with_reducible apply Stays.elim <;> intros
    | exact Stays.mk_of id fun p => by cases p <;> first | exact Or.inr rfl | exact Or.inl (by decide)

theorem State.sspOff_stays (s : State) (n : Nat) :
    Stays [.mem, .hl, .aon, .ing] s (State.sspOff s n) := by
  unfold State.sspOff
  try dsimp only
  repeat' first
    | with_reducible apply Stays.ite
    | with_reducible apply Stays.each; (intro _ _; try dsimp only)
    | with_reducible apply Stays.fold; (intro _ _; try dsimp only)
    | refine Stays.via (by with_reducible apply State.trigsGo_stays) ?_ (by decide)
    | refine Stays.via (by with_reducible apply State.xactsFail_stays) ?_ (by decide)
    | refine Stays.via (by with_reducible apply State.modSsp_stays) ?_ (by decide)
    | refine Stays.via (by with_reducible apply State.detach_stays) ?_ (by decide)
    | refine Stays.via (by with_reducible apply State.quadEnable_stays) ?_ (by decide)
    | with_reducible apply Stays.refl
    | dsimp only
    | split
    | with_reducible apply Stays.elim <;> intros
    | exact Stays.mk_of id fun p => by cases p <;> first | exact Or.inr rfl | exact Or.inl (by decide)

theorem State.sspOn_stays (s : State) (n : Nat) :
    Stays [.hl, .ing] s (State.sspOn s n) := by
  unfold State.sspOn
  try dsimp only
  repeat' first
    | with_reducible apply Stays.ite
    | with_reducible apply Stays.each; (intro _ _; try dsimp only)
    | with_reducible apply Stays.fold; (intro _ _; try dsimp only)
    | refine Stays.via (by with_reducible apply State.modSsp_stays) ?_ (by decide)
    | refine Stays.via (by with_reducible apply State.attach_stays) ?_ (by decide)
    | refine Stays.via (by with_reducible apply State.quadEnable_stays) ?_ (by decide)
    | with_reducible apply Stays.refl
    | dsimp only
    | split
    | with_reducible apply Stays.elim <;> intros
    | exact Stays.mk_of id fun p => by cases p <;> first | exact Or.inr rfl | exact Or.inl (by decide)

theorem State.sspRegroup_stays (s : State) (q : Nat) (was : List Nat) :
    Stays [.mem, .hl, .aon, .ing] s (State.sspRegroup s q was) := by
  unfold State.sspRegroup
  try dsimp only
  repeat' first
    | with_reducible apply Stays.ite
    | with_reducible apply Stays.each; (intro _ _; try dsimp only)
    | with_reducible apply Stays.fold; (intro _ _; try dsimp only)
    | refine Stays.via (by with_reducible apply State.sspOff_stays) ?_ (by decide)
    | refine Stays.via (by with_reducible apply State.sspOn_stays) ?_ (by decide)
    | refine Stays.via (by with_reducible apply State.modSsp_stays) ?_ (by decide)
    | with_reducible apply Stays.refl
    | dsimp only
    | split
    | with_reducible apply Stays.elim <;> intros
    | exact Stays.mk_of id fun p => by cases p <;> first | exact Or.inr rfl | exact Or.inl (by decide)

theorem State.trigHold_stays (s : State) (n : Nat) (due : DT64) (shot : Option Nat) :
    Stays [.mem, .hl, .aon, .ing] s (State.trigHold s n due shot) := by
  unfold State.trigHold
  try dsimp only
  repeat' first
    | with_reducible apply Stays.ite
    | with_reducible apply Stays.each; (intro _ _; try dsimp only)
    | with_reducible apply Stays.fold; (intro _ _; try dsimp only)
    | refine Stays.via (by with_reducible apply State.trigDrop_stays) ?_ (by decide)
    | refine Stays.via (by with_reducible apply State.modSsp_stays) ?_ (by decide)
    | with_reducible apply Stays.refl
    | dsimp only
    | split
    | with_reducible apply Stays.elim <;> intros
    | exact Stays.mk_of id fun p => by cases p <;> first | exact Or.inr rfl | exact Or.inl (by decide)

theorem State.trigWrite_stays (s : State) (old : State) (n : Nat) :
    Stays [.ing] s (State.trigWrite s old n) := by
  unfold State.trigWrite
  try dsimp only
  repeat' first
    | with_reducible apply Stays.ite
    | with_reducible apply Stays.each; (intro _ _; try dsimp only)
    | with_reducible apply Stays.fold; (intro _ _; try dsimp only)
    | refine Stays.via (by with_reducible apply State.modSsp_stays) ?_ (by decide)
    | with_reducible apply Stays.refl
    | dsimp only
    | split
    | with_reducible apply Stays.elim <;> intros
    | exact Stays.mk_of id fun p => by cases p <;> first | exact Or.inr rfl | exact Or.inl (by decide)

theorem State.groupUp_stays (s : State) (m : Nat) :
    Stays [.hl, .ing] s (State.groupUp s m) := by
  unfold State.groupUp
  try dsimp only
  repeat' first
    | with_reducible apply Stays.ite
    | with_reducible apply Stays.each; (intro _ _; try dsimp only)
    | with_reducible apply Stays.fold; (intro _ _; try dsimp only)
    | refine Stays.via (by with_reducible apply State.modSsp_stays) ?_ (by decide)
    | refine Stays.via (by with_reducible apply State.notify_stays) ?_ (by decide)
    | with_reducible apply Stays.refl
    | dsimp only
    | split
    | with_reducible apply Stays.elim <;> intros
    | exact Stays.mk_of id fun p => by cases p <;> first | exact Or.inr rfl | exact Or.inl (by decide)

theorem State.linkDrop_stays (s : State) (n : Nat) :
    Stays [.out, .hl, .aon, .ing] s (State.linkDrop s n) := by
  unfold State.linkDrop
  try dsimp only
  repeat' first
    | with_reducible apply Stays.ite
    | with_reducible apply Stays.each; (intro _ _; try dsimp only)
    | with_reducible apply Stays.fold; (intro _ _; try dsimp only)
    | refine Stays.via (by with_reducible apply State.modSsp_stays) ?_ (by decide)
    | refine Stays.via (by with_reducible apply State.camDown_stays) ?_ (by decide)
    | refine Stays.via (by with_reducible apply State.quadSettle_stays) ?_ (by decide)
    | refine Stays.via (by with_reducible apply State.relevel_stays) ?_ (by decide)
    | with_reducible apply Stays.refl
    | dsimp only
    | split
    | with_reducible apply Stays.elim <;> intros
    | exact Stays.mk_of id fun p => by cases p <;> first | exact Or.inr rfl | exact Or.inl (by decide)

theorem State.pocxpBack_stays (s : State) :
    Stays [.ing] s (State.pocxpBack s) := by
  unfold State.pocxpBack
  try dsimp only
  repeat' first
    | with_reducible apply Stays.ite
    | with_reducible apply Stays.each; (intro _ _; try dsimp only)
    | with_reducible apply Stays.fold; (intro _ _; try dsimp only)
    | refine Stays.via (by with_reducible apply State.modSsp_stays) ?_ (by decide)
    | with_reducible apply Stays.refl
    | dsimp only
    | split
    | with_reducible apply Stays.elim <;> intros
    | exact Stays.mk_of id fun p => by cases p <;> first | exact Or.inr rfl | exact Or.inl (by decide)

theorem State.pocxpCut_stays (s : State) :
    Stays [.out, .hl, .aon, .ing] s (State.pocxpCut s) := by
  unfold State.pocxpCut
  try dsimp only
  repeat' first
    | with_reducible apply Stays.ite
    | with_reducible apply Stays.each; (intro _ _; try dsimp only)
    | with_reducible apply Stays.fold; (intro _ _; try dsimp only)
    | refine Stays.via (by with_reducible apply State.linkDrop_stays) ?_ (by decide)
    | refine Stays.via (by with_reducible apply State.modSsp_stays) ?_ (by decide)
    | with_reducible apply Stays.refl
    | dsimp only
    | split
    | with_reducible apply Stays.elim <;> intros
    | exact Stays.mk_of id fun p => by cases p <;> first | exact Or.inr rfl | exact Or.inl (by decide)

end Sys2Proof.Machine
end

