-- ==== Sys2Proof/Laws/FrameMacro.lean ====
section
/-! SUPPORT. What each operation of Machine/Macro.lean may change. -/

-- One theorem at a time: a thread a theorem would be too many. Proofs of one form name alternatives that some goals do not need.
set_option Elab.async false
set_option linter.all false

namespace Sys2Proof.Machine

open Sys2Proof

theorem State.putRows_stays (s : State) (n : Nat) (d : Desc) (k : Nat) (seg : TileAt → Nat → List Byte × Bool) :
    Stays [.mem, .aon] s (s.putRows n d k seg) := by
  unfold State.putRows
  exact Stays.each (fun w t => State.writeMem_stays _ _ _) (Stays.refl _ _)

theorem State.takeTiles_stays (s : State) (n : Nat) (x : Nat) (d : Desc) (m : Nat) :
    Stays [.rly] s (State.takeTiles s n x d m) := by
  unfold State.takeTiles
  try dsimp only
  repeat' first
    | with_reducible apply Stays.ite
    | with_reducible apply Stays.each; (intro _ _; try dsimp only)
    | with_reducible apply Stays.fold; (intro _ _; try dsimp only)
    | refine Stays.via (by with_reducible apply State.modLane_stays) ?_ (by decide)
    | with_reducible apply Stays.refl
    | dsimp only
    | split
    | with_reducible apply Stays.elim <;> intros
    | exact Stays.mk_of id fun p => by cases p <;> first | exact Or.inr rfl | exact Or.inl (by decide)

theorem State.freeTiles_stays (s : State) (m : MacroOp) (ops : Nat → Operand) (src : List (Nat × Desc)) (n : Nat) (d : Desc) (j : Nat) :
    Stays [.rly] s (State.freeTiles s m ops src n d j) := by
  unfold State.freeTiles
  try dsimp only
  repeat' first
    | with_reducible apply Stays.ite
    | with_reducible apply Stays.each; (intro _ _; try dsimp only)
    | with_reducible apply Stays.fold; (intro _ _; try dsimp only)
    | refine Stays.via (by with_reducible apply State.modLane_stays) ?_ (by decide)
    | with_reducible apply Stays.refl
    | dsimp only
    | split
    | with_reducible apply Stays.elim <;> intros
    | exact Stays.mk_of id fun p => by cases p <;> first | exact Or.inr rfl | exact Or.inl (by decide)

theorem State.putTile_stays (s : State) (n : Nat) (d : Desc) (p : TileAt) (k : Nat) (seg : Nat → List Byte × Bool) :
    Stays [.mem, .aon] s (State.putTile s n d p k seg) := by
  unfold State.putTile
  try dsimp only
  repeat' first
    | with_reducible apply Stays.ite
    | with_reducible apply Stays.each; (intro _ _; try dsimp only)
    | with_reducible apply Stays.fold; (intro _ _; try dsimp only)
    | refine Stays.via (by with_reducible apply State.writeMem_stays) ?_ (by decide)
    | with_reducible apply Stays.refl
    | dsimp only
    | split
    | with_reducible apply Stays.elim <;> intros
    | exact Stays.mk_of id fun p => by cases p <;> first | exact Or.inr rfl | exact Or.inl (by decide)

theorem State.madeTile_stays (s : State) (n : Nat) (made : Nat) :
    Stays [.rly] s (State.madeTile s n made) := by
  unfold State.madeTile
  try dsimp only
  repeat' first
    | with_reducible apply Stays.ite
    | with_reducible apply Stays.each; (intro _ _; try dsimp only)
    | with_reducible apply Stays.fold; (intro _ _; try dsimp only)
    | refine Stays.via (by with_reducible apply State.modLane_stays) ?_ (by decide)
    | with_reducible apply Stays.refl
    | dsimp only
    | split
    | with_reducible apply Stays.elim <;> intros
    | exact Stays.mk_of id fun p => by cases p <;> first | exact Or.inr rfl | exact Or.inl (by decide)

theorem State.macroGo_within {l : List Part} {mk : State → MacroOp} {c : List Byte} {n : Nat}
    (m : ∀ p ∈ [Part.mem, Part.aon, Part.rly], p ∈ l) (g : ∀ a o p t, Stays l t ((mk a).prep o p t)) :
    ∀ (k : Nat) (gone : Bool) (s : State), Ran.Within l s (State.macroGo mk c n k gone s) := by
  have lane : ∀ {a b : State} (f : Lane → Lane), Stays l a b → Stays l a (b.modLane n f) := fun f h =>
    Stays.step h (State.modLane_stays _ _ _) fun p hp => m p (by revert p; decide)
  have rows : ∀ {a b : State} (d : Desc) (k : Nat) f, Stays l a b → Stays l a (b.putRows n d k f) := fun d k f h =>
    Stays.step h (State.putRows_stays _ _ _ _ _) fun p hp => m p (by revert p; decide)
  intro k
  induction k with
  | zero => exact fun gone s => Stays.refl _ _
  | succ k ih =>
    intro gone s
    unfold State.macroGo
    extract_lets m0 d run made src ops0 whole short guides want room halt places s2 m1 ops rws p first r s3 used b
    have hh : Ran.Within l s halt := Ran.Within.ite (Stays.refl _ _) trivial
    have b1 : Stays l s (eachOf want (fun p s => s.takeTiles n p.1 p.2 1) s) :=
      Stays.each (fun p t => (Stays.refl l t).step (State.takeTiles_stays _ _ _ _ _) fun p hp => m p (by revert p; decide)) (Stays.refl _ _)
    have b2 : Stays l s s2 := Stays.each (fun p t => g _ _ _ _) (Stays.refl _ _)
    clear_value halt s2 want
    refine Ran.Within.ite (Ran.Within.ite (Ran.Within.trans b1 (ih true _)) hh) (Ran.Within.ite hh ?_)
    have free : ∀ {a b : State} (m : MacroOp) ops src (k k' : Nat), Stays l a b →
        Stays l a ((b.madeTile n k).freeTiles m ops src n d k') := fun m' ops src k k' h =>
      (h.step (State.madeTile_stays _ _ _) fun p hp => m p (by revert p; decide)).step (State.freeTiles_stays _ _ _ _ _ _ _)
        fun p hp => m p (by revert p; decide)
    refine Ran.Within.ite ?_ (Ran.Within.ite ?_ (Ran.Within.ite b2 (Ran.Within.ite hh ?_)))
    · split
      · exact rows _ _ _ b2
      · exact rows _ _ _ b2
    · have b3 : Stays l s s3 := free _ _ _ _ _ (b2.step (State.putTile_stays _ _ _ _ _ _) fun p hp => m p (by revert p; decide))
      exact Ran.Within.ite b2 (Ran.Within.ite b3 (Ran.Within.ite b3 (Ran.Within.trans b3 (ih true _))))
    · split
      · exact hh
      · extract_lets s4
        have b3 : Stays l s s4 := free _ _ _ _ _ (lane _ b2)
        exact Ran.Within.ite b3 (Ran.Within.trans b3 (ih true _))

theorem State.macroDo_stays {l : List Part} {s : State} {op n : Nat} {f : State → List Byte → MacroOp}
    (m : ∀ p ∈ [.mem, .freeCtr, .hl, .flt, .aon, .pan, .trk, .rly], p ∈ l) (g : ∀ a c o p t,
      Stays l t ((f a c).prep o p t)) : Stays l s (s.macroDo op n f) := by
  unfold State.macroDo
  refine State.laneDo_stays (fun p hp => m p (by revert p; decide)) fun c => ?_
  dsimp only
  split
  · exact Stays.refl _ _
  · have b := State.macroGo_within (c := c) (n := n) (mk := fun s => f s c) (l := l) (fun p hp => m p (by revert p; decide))
      (fun a o p t => g a c o p t) (s.macroSteps c (f s c).srcs) false s
    generalize State.macroGo _ _ _ _ _ _ = r at b
    cases r with
    | wait => exact b
    | part t => exact b
    | fault t => exact b
    | done t =>
      dsimp only
      refine Stays.step (k := l) b ?_ fun _ h => h
      split
      · refine Stays.step (Stays.refl l t) (k := [.freeCtr]) ?_ fun p hp => m p (by revert p; decide)
        exact Stays.mk_of id fun p => by cases p <;> first | exact Or.inr rfl | exact Or.inl (by decide)
      · exact Stays.refl _ _

theorem State.rscalarTake_stays (s : State) (n : Nat) (d : Desc) :
    Stays [.rly] s (State.rscalarTake s n d) := by
  unfold State.rscalarTake
  try dsimp only
  repeat' first
    | with_reducible apply Stays.ite
    | with_reducible apply Stays.each; (intro _ _; try dsimp only)
    | with_reducible apply Stays.fold; (intro _ _; try dsimp only)
    | refine Stays.via (by with_reducible apply State.takeTiles_stays) ?_ (by decide)
    | with_reducible apply Stays.refl
    | dsimp only
    | split
    | with_reducible apply Stays.elim <;> intros
    | exact Stays.mk_of id fun p => by cases p <;> first | exact Or.inr rfl | exact Or.inl (by decide)

end Sys2Proof.Machine
end

