-- ==== Sys2Proof/Laws/FrameMotionPort.lean ====
section
/-! SUPPORT. What each operation of Machine/MotionPort.lean may change. -/

-- One theorem at a time: a thread a theorem would be too many. Proofs of one form name alternatives that some goals do not need.
set_option Elab.async false
set_option linter.all false

namespace Sys2Proof.Machine

open Sys2Proof

theorem State.encOff_stays (s : State) (n : Nat) :
    Stays [.hl, .ing] s (State.encOff s n) := by
  unfold State.encOff
  try dsimp only
  repeat' first
    | with_reducible apply Stays.ite
    | with_reducible apply Stays.each; (intro _ _; try dsimp only)
    | with_reducible apply Stays.fold; (intro _ _; try dsimp only)
    | refine Stays.via (by with_reducible apply State.modEnc_stays) ?_ (by decide)
    | refine Stays.via (by with_reducible apply State.detach_stays) ?_ (by decide)
    | with_reducible apply Stays.refl
    | dsimp only
    | split
    | with_reducible apply Stays.elim <;> intros
    | exact Stays.mk_of id fun p => by cases p <;> first | exact Or.inr rfl | exact Or.inl (by decide)

theorem State.encOn_stays (s : State) (n : Nat) :
    Stays [.hl, .ing] s (State.encOn s n) := by
  unfold State.encOn
  try dsimp only
  repeat' first
    | with_reducible apply Stays.ite
    | with_reducible apply Stays.each; (intro _ _; try dsimp only)
    | with_reducible apply Stays.fold; (intro _ _; try dsimp only)
    | refine Stays.via (by with_reducible apply State.modEnc_stays) ?_ (by decide)
    | refine Stays.via (by with_reducible apply State.attach_stays) ?_ (by decide)
    | with_reducible apply Stays.refl
    | dsimp only
    | split
    | with_reducible apply Stays.elim <;> intros
    | exact Stays.mk_of id fun p => by cases p <;> first | exact Or.inr rfl | exact Or.inl (by decide)

theorem State.modI2c_stays (s : State) (n : Nat) (f : I2c → I2c) :
    Stays [.ing] s (State.modI2c s n f) := by
  unfold State.modI2c
  try dsimp only
  repeat' first
    | with_reducible apply Stays.ite
    | with_reducible apply Stays.each; (intro _ _; try dsimp only)
    | with_reducible apply Stays.fold; (intro _ _; try dsimp only)
    | refine Stays.via (by with_reducible apply State.modIng_stays) ?_ (by decide)
    | with_reducible apply Stays.refl
    | dsimp only
    | split
    | with_reducible apply Stays.elim <;> intros
    | exact Stays.mk_of id fun p => by cases p <;> first | exact Or.inr rfl | exact Or.inl (by decide)

theorem State.i2cHeld_stays (s : State) (n : Nat) (scl : Bool) :
    Stays [.hl, .ing] s (State.i2cHeld s n scl) := by
  unfold State.i2cHeld
  try dsimp only
  repeat' first
    | with_reducible apply Stays.ite
    | with_reducible apply Stays.each; (intro _ _; try dsimp only)
    | with_reducible apply Stays.fold; (intro _ _; try dsimp only)
    | refine Stays.via (by with_reducible apply State.modI2c_stays) ?_ (by decide)
    | refine Stays.via (by with_reducible apply State.notify_stays) ?_ (by decide)
    | with_reducible apply Stays.refl
    | dsimp only
    | split
    | with_reducible apply Stays.elim <;> intros
    | exact Stays.mk_of id fun p => by cases p <;> first | exact Or.inr rfl | exact Or.inl (by decide)

theorem State.i2cClear_stays (s : State) (n : Nat) (low : Nat) (scl : Bool) :
    Stays [.out, .ing] s (State.i2cClear s n low scl) := by
  unfold State.i2cClear
  try dsimp only
  repeat' first
    | with_reducible apply Stays.ite
    | with_reducible apply Stays.each; (intro _ _; try dsimp only)
    | with_reducible apply Stays.fold; (intro _ _; try dsimp only)
    | refine Stays.via (by with_reducible apply State.modI2c_stays) ?_ (by decide)
    | refine Stays.via (by with_reducible apply State.send_stays) ?_ (by decide)
    | with_reducible apply Stays.refl
    | dsimp only
    | split
    | with_reducible apply Stays.elim <;> intros
    | exact Stays.mk_of id fun p => by cases p <;> first | exact Or.inr rfl | exact Or.inl (by decide)

theorem State.i2cEnd_stays (s : State) (n : Nat) (cstatus : Nat) (reason : Nat) (result : List Byte) :
    Stays [.mem, .hl, .aon, .ing] s (State.i2cEnd s n cstatus reason result) := by
  unfold State.i2cEnd
  try dsimp only
  repeat' first
    | with_reducible apply Stays.ite
    | with_reducible apply Stays.each; (intro _ _; try dsimp only)
    | with_reducible apply Stays.fold; (intro _ _; try dsimp only)
    | refine Stays.via (by with_reducible apply State.modI2c_stays) ?_ (by decide)
    | refine Stays.via (by with_reducible apply State.complete_stays) ?_ (by decide)
    | with_reducible apply Stays.refl
    | dsimp only
    | split
    | with_reducible apply Stays.elim <;> intros
    | exact Stays.mk_of id fun p => by cases p <;> first | exact Or.inr rfl | exact Or.inl (by decide)

theorem State.i2cOff_stays (s : State) (n : Nat) :
    Stays [.mem, .hl, .aon, .ing] s (State.i2cOff s n) := by
  unfold State.i2cOff
  try dsimp only
  repeat' first
    | with_reducible apply Stays.ite
    | with_reducible apply Stays.each; (intro _ _; try dsimp only)
    | with_reducible apply Stays.fold; (intro _ _; try dsimp only)
    | refine Stays.via (by with_reducible apply State.i2cEnd_stays) ?_ (by decide)
    | refine Stays.via (by with_reducible apply State.modI2c_stays) ?_ (by decide)
    | with_reducible apply Stays.refl
    | dsimp only
    | split
    | with_reducible apply Stays.elim <;> intros
    | exact Stays.mk_of id fun p => by cases p <;> first | exact Or.inr rfl | exact Or.inl (by decide)

theorem State.i2cDeclare_stays (s : State) (n : Nat) :
    Stays [.hl, .ing] s (State.i2cDeclare s n) := by
  unfold State.i2cDeclare
  try dsimp only
  repeat' first
    | with_reducible apply Stays.ite
    | with_reducible apply Stays.each; (intro _ _; try dsimp only)
    | with_reducible apply Stays.fold; (intro _ _; try dsimp only)
    | refine Stays.via (by with_reducible apply State.modI2c_stays) ?_ (by decide)
    | refine Stays.via (by with_reducible apply State.i2cHeld_stays) ?_ (by decide)
    | with_reducible apply Stays.refl
    | dsimp only
    | split
    | with_reducible apply Stays.elim <;> intros
    | exact Stays.mk_of id fun p => by cases p <;> first | exact Or.inr rfl | exact Or.inl (by decide)

theorem State.i2cSettled_stays (s : State) (n : Nat) :
    Stays [.hl, .ing] s (State.i2cSettled s n) := by
  unfold State.i2cSettled
  try dsimp only
  repeat' first
    | with_reducible apply Stays.ite
    | with_reducible apply Stays.each; (intro _ _; try dsimp only)
    | with_reducible apply Stays.fold; (intro _ _; try dsimp only)
    | refine Stays.via (by with_reducible apply State.i2cDeclare_stays) ?_ (by decide)
    | with_reducible apply Stays.refl
    | dsimp only
    | split
    | with_reducible apply Stays.elim <;> intros
    | exact Stays.mk_of id fun p => by cases p <;> first | exact Or.inr rfl | exact Or.inl (by decide)

theorem State.i2cReenable_stays (s : State) (n : Nat) :
    Stays [.freeCtr, .out, .hl, .ing] s (State.i2cReenable s n) := by
  unfold State.i2cReenable
  try dsimp only
  repeat' first
    | with_reducible apply Stays.ite
    | with_reducible apply Stays.each; (intro _ _; try dsimp only)
    | with_reducible apply Stays.fold; (intro _ _; try dsimp only)
    | refine Stays.via (by with_reducible apply State.i2cSettled_stays) ?_ (by decide)
    | refine Stays.via (by with_reducible apply State.takeFree_stays) ?_ (by decide)
    | refine Stays.via (by with_reducible apply State.i2cClear_stays) ?_ (by decide)
    | with_reducible apply Stays.refl
    | dsimp only
    | split
    | with_reducible apply Stays.elim <;> intros
    | exact Stays.mk_of id fun p => by cases p <;> first | exact Or.inr rfl | exact Or.inl (by decide)

theorem State.modSpi_stays (s : State) (n : Nat) (f : Spi → Spi) :
    Stays [.ing] s (State.modSpi s n f) := by
  unfold State.modSpi
  try dsimp only
  repeat' first
    | with_reducible apply Stays.ite
    | with_reducible apply Stays.each; (intro _ _; try dsimp only)
    | with_reducible apply Stays.fold; (intro _ _; try dsimp only)
    | refine Stays.via (by with_reducible apply State.modIng_stays) ?_ (by decide)
    | with_reducible apply Stays.refl
    | dsimp only
    | split
    | with_reducible apply Stays.elim <;> intros
    | exact Stays.mk_of id fun p => by cases p <;> first | exact Or.inr rfl | exact Or.inl (by decide)

theorem State.spiOff_stays (s : State) (n : Nat) :
    Stays [.hl, .ing] s (State.spiOff s n) := by
  unfold State.spiOff
  try dsimp only
  repeat' first
    | with_reducible apply Stays.ite
    | with_reducible apply Stays.each; (intro _ _; try dsimp only)
    | with_reducible apply Stays.fold; (intro _ _; try dsimp only)
    | refine Stays.via (by with_reducible apply State.modSpi_stays) ?_ (by decide)
    | refine Stays.via (by with_reducible apply State.detach_stays) ?_ (by decide)
    | with_reducible apply Stays.refl
    | dsimp only
    | split
    | with_reducible apply Stays.elim <;> intros
    | exact Stays.mk_of id fun p => by cases p <;> first | exact Or.inr rfl | exact Or.inl (by decide)

theorem State.spiOn_stays (s : State) (n : Nat) :
    Stays [.hl, .ing] s (State.spiOn s n) := by
  unfold State.spiOn
  try dsimp only
  repeat' first
    | with_reducible apply Stays.ite
    | with_reducible apply Stays.each; (intro _ _; try dsimp only)
    | with_reducible apply Stays.fold; (intro _ _; try dsimp only)
    | refine Stays.via (by with_reducible apply State.modSpi_stays) ?_ (by decide)
    | refine Stays.via (by with_reducible apply State.attach_stays) ?_ (by decide)
    | with_reducible apply Stays.refl
    | dsimp only
    | split
    | with_reducible apply Stays.elim <;> intros
    | exact Stays.mk_of id fun p => by cases p <;> first | exact Or.inr rfl | exact Or.inl (by decide)

theorem State.spiStart_stays (s : State) (n : Nat) (timer : Bool) :
    Stays [.out, .hl, .ing] s (State.spiStart s n timer) := by
  unfold State.spiStart
  try dsimp only
  repeat' first
    | with_reducible apply Stays.ite
    | with_reducible apply Stays.each; (intro _ _; try dsimp only)
    | with_reducible apply Stays.fold; (intro _ _; try dsimp only)
    | refine Stays.via (by with_reducible apply State.modSpi_stays) ?_ (by decide)
    | refine Stays.via (by with_reducible apply State.gapIn_stays) ?_ (by decide)
    | refine Stays.via (by with_reducible apply State.notify_stays) ?_ (by decide)
    | refine Stays.via (by with_reducible apply State.send_stays) ?_ (by decide)
    | with_reducible apply Stays.refl
    | dsimp only
    | split
    | with_reducible apply Stays.elim <;> intros
    | exact Stays.mk_of id fun p => by cases p <;> first | exact Or.inr rfl | exact Or.inl (by decide)

theorem State.encStallWrite_stays (s : State) (old : State) (n : Nat) :
    Stays [.ing] s (State.encStallWrite s old n) := by
  unfold State.encStallWrite
  try dsimp only
  repeat' first
    | with_reducible apply Stays.ite
    | with_reducible apply Stays.each; (intro _ _; try dsimp only)
    | with_reducible apply Stays.fold; (intro _ _; try dsimp only)
    | refine Stays.via (by with_reducible apply State.modEnc_stays) ?_ (by decide)
    | with_reducible apply Stays.refl
    | dsimp only
    | split
    | with_reducible apply Stays.elim <;> intros
    | exact Stays.mk_of id fun p => by cases p <;> first | exact Or.inr rfl | exact Or.inl (by decide)

theorem State.i2cOn_stays (s : State) (n : Nat) :
    Stays [.freeCtr, .out, .ing] s (State.i2cOn s n) := by
  unfold State.i2cOn
  try dsimp only
  repeat' first
    | with_reducible apply Stays.ite
    | with_reducible apply Stays.each; (intro _ _; try dsimp only)
    | with_reducible apply Stays.fold; (intro _ _; try dsimp only)
    | refine Stays.via (by with_reducible apply State.modI2c_stays) ?_ (by decide)
    | refine Stays.via (by with_reducible apply State.takeFree_stays) ?_ (by decide)
    | refine Stays.via (by with_reducible apply State.i2cClear_stays) ?_ (by decide)
    | with_reducible apply Stays.refl
    | dsimp only
    | split
    | with_reducible apply Stays.elim <;> intros
    | exact Stays.mk_of id fun p => by cases p <;> first | exact Or.inr rfl | exact Or.inl (by decide)

theorem State.encPin_stays (s : State) (n : Nat) (line : Nat) (level : Bool) :
    Stays [.ing] s (State.encPin s n line level) := by
  unfold State.encPin
  try dsimp only
  repeat' first
    | with_reducible apply Stays.ite
    | with_reducible apply Stays.each; (intro _ _; try dsimp only)
    | with_reducible apply Stays.fold; (intro _ _; try dsimp only)
    | refine Stays.via (by with_reducible apply State.modEnc_stays) ?_ (by decide)
    | with_reducible apply Stays.refl
    | dsimp only
    | split
    | with_reducible apply Stays.elim <;> intros
    | exact Stays.mk_of id fun p => by cases p <;> first | exact Or.inr rfl | exact Or.inl (by decide)

theorem State.i2cStuck_stays (s : State) (n : Nat) :
    Stays [.now, .hl, .ing] s (State.i2cStuck s n) := by
  unfold State.i2cStuck
  try dsimp only
  repeat' first
    | with_reducible apply Stays.ite
    | with_reducible apply Stays.each; (intro _ _; try dsimp only)
    | with_reducible apply Stays.fold; (intro _ _; try dsimp only)
    | refine Stays.via (by with_reducible apply State.waitUntil_stays) ?_ (by decide)
    | refine Stays.via (by with_reducible apply State.i2cDeclare_stays) ?_ (by decide)
    | with_reducible apply Stays.refl
    | dsimp only
    | split
    | with_reducible apply Stays.elim <;> intros
    | exact Stays.mk_of id fun p => by cases p <;> first | exact Or.inr rfl | exact Or.inl (by decide)

end Sys2Proof.Machine
end

