-- ==== Sys2Proof/Laws/FrameSensorNet.lean ====
section
/-! SUPPORT. What each operation of Machine/SensorNet.lean may change. -/

-- One theorem at a time: a thread a theorem would be too many. Proofs of one form name alternatives that some goals do not need.
set_option Elab.async false
set_option linter.all false

namespace Sys2Proof.Machine

open Sys2Proof

theorem State.modSen_stays (s : State) (p : Nat) (f : Sen → Sen) :
    Stays [.ing] s (State.modSen s p f) := by
  unfold State.modSen
  try dsimp only
  repeat' first
    | with_reducible apply Stays.ite
    | with_reducible apply Stays.each; (intro _ _; try dsimp only)
    | with_reducible apply Stays.fold; (intro _ _; try dsimp only)
    | refine Stays.via (by with_reducible apply State.modIng_stays) ?_ (by decide)
    | with_reducible apply Stays.refl
    | dsimp only
    | split
    | with_reducible apply Stays.elim <;> intros
    | exact Stays.mk_of id fun p => by cases p <;> first | exact Or.inr rfl | exact Or.inl (by decide)

theorem State.modStream_stays (s : State) (p : Nat) (q : Nat) (f : SenStream → SenStream) :
    Stays [.ing] s (State.modStream s p q f) := by
  unfold State.modStream
  try dsimp only
  repeat' first
    | with_reducible apply Stays.ite
    | with_reducible apply Stays.each; (intro _ _; try dsimp only)
    | with_reducible apply Stays.fold; (intro _ _; try dsimp only)
    | refine Stays.via (by with_reducible apply State.modSen_stays) ?_ (by decide)
    | with_reducible apply Stays.refl
    | dsimp only
    | split
    | with_reducible apply Stays.elim <;> intros
    | exact Stays.mk_of id fun p => by cases p <;> first | exact Or.inr rfl | exact Or.inl (by decide)

theorem State.senGap_stays (s : State) (p : Nat) (q : Nat) (k : Nat) :
    Stays [.hl, .ing] s (State.senGap s p q k) := by
  unfold State.senGap
  try dsimp only
  repeat' first
    | with_reducible apply Stays.ite
    | with_reducible apply Stays.each; (intro _ _; try dsimp only)
    | with_reducible apply Stays.fold; (intro _ _; try dsimp only)
    | refine Stays.via (by with_reducible apply State.gapIn_stays) ?_ (by decide)
    | with_reducible apply Stays.refl
    | dsimp only
    | split
    | with_reducible apply Stays.elim <;> intros
    | exact Stays.mk_of id fun p => by cases p <;> first | exact Or.inr rfl | exact Or.inl (by decide)

theorem State.senLost_stays (s : State) (p : Nat) (q : Nat) (k : Nat) :
    Stays [.ing] s (State.senLost s p q k) := by
  unfold State.senLost
  try dsimp only
  repeat' first
    | with_reducible apply Stays.ite
    | with_reducible apply Stays.each; (intro _ _; try dsimp only)
    | with_reducible apply Stays.fold; (intro _ _; try dsimp only)
    | refine Stays.via (by with_reducible apply State.modStream_stays) ?_ (by decide)
    | with_reducible apply Stays.refl
    | dsimp only
    | split
    | with_reducible apply Stays.elim <;> intros
    | exact Stays.mk_of id fun p => by cases p <;> first | exact Or.inr rfl | exact Or.inl (by decide)

theorem State.senBlock_stays (s : State) (p : Nat) (q : Nat) :
    Stays [.ing] s (State.senBlock s p q) := by
  unfold State.senBlock
  try dsimp only
  repeat' first
    | with_reducible apply Stays.ite
    | with_reducible apply Stays.each; (intro _ _; try dsimp only)
    | with_reducible apply Stays.fold; (intro _ _; try dsimp only)
    | refine Stays.via (by with_reducible apply State.modStream_stays) ?_ (by decide)
    | with_reducible apply Stays.refl
    | dsimp only
    | split
    | with_reducible apply Stays.elim <;> intros
    | exact Stays.mk_of id fun p => by cases p <;> first | exact Or.inr rfl | exact Or.inl (by decide)

theorem State.senRecs_stays (s : State) (p : Nat) (q : Nat) (l : List Rec) :
    Stays [.hl, .ing, .mot, .pan] s (State.senRecs s p q l) := by
  unfold State.senRecs
  try dsimp only
  repeat' first
    | with_reducible apply Stays.ite
    | with_reducible apply Stays.each; (intro _ _; try dsimp only)
    | with_reducible apply Stays.fold; (intro _ _; try dsimp only)
    | refine Stays.via (by with_reducible apply State.deliver_stays) ?_ (by decide)
    | with_reducible apply Stays.refl
    | dsimp only
    | split
    | with_reducible apply Stays.elim <;> intros
    | exact Stays.mk_of id fun p => by cases p <;> first | exact Or.inr rfl | exact Or.inl (by decide)

theorem State.profClose_stays (s : State) (p : Nat) (q : Nat) :
    Stays [.hl, .ing, .mot, .pan] s (State.profClose s p q) := by
  unfold State.profClose
  try dsimp only
  repeat' first
    | with_reducible apply Stays.ite
    | with_reducible apply Stays.each; (intro _ _; try dsimp only)
    | with_reducible apply Stays.fold; (intro _ _; try dsimp only)
    | refine Stays.via (by with_reducible apply State.modStream_stays) ?_ (by decide)
    | refine Stays.via (by with_reducible apply State.senLost_stays) ?_ (by decide)
    | refine Stays.via (by with_reducible apply State.senGap_stays) ?_ (by decide)
    | refine Stays.via (by with_reducible apply State.senRecs_stays) ?_ (by decide)
    | refine Stays.via (by with_reducible apply State.senBlock_stays) ?_ (by decide)
    | with_reducible apply Stays.refl
    | dsimp only
    | split
    | with_reducible apply Stays.elim <;> intros
    | exact Stays.mk_of id fun p => by cases p <;> first | exact Or.inr rfl | exact Or.inl (by decide)

theorem State.senBad_stays (s : State) (p : Nat) :
    Stays [.ing] s (State.senBad s p) := by
  unfold State.senBad
  try dsimp only
  repeat' first
    | with_reducible apply Stays.ite
    | with_reducible apply Stays.each; (intro _ _; try dsimp only)
    | with_reducible apply Stays.fold; (intro _ _; try dsimp only)
    | refine Stays.via (by with_reducible apply State.modSen_stays) ?_ (by decide)
    | with_reducible apply Stays.refl
    | dsimp only
    | split
    | with_reducible apply Stays.elim <;> intros
    | exact Stays.mk_of id fun p => by cases p <;> first | exact Or.inr rfl | exact Or.inl (by decide)

theorem State.profTake_stays (s : State) (p : Nat) (q : Nat) (d : List Byte) :
    Stays [.hl, .ing, .mot, .pan] s (State.profTake s p q d) := by
  unfold State.profTake
  try dsimp only
  repeat' first
    | with_reducible apply Stays.ite
    | with_reducible apply Stays.each; (intro _ _; try dsimp only)
    | with_reducible apply Stays.fold; (intro _ _; try dsimp only)
    | refine Stays.via (by with_reducible apply State.senBad_stays) ?_ (by decide)
    | refine Stays.via (by with_reducible apply State.profClose_stays) ?_ (by decide)
    | refine Stays.via (by with_reducible apply State.modStream_stays) ?_ (by decide)
    | refine Stays.via (by with_reducible apply State.senLost_stays) ?_ (by decide)
    | with_reducible apply Stays.refl
    | dsimp only
    | split
    | with_reducible apply Stays.elim <;> intros
    | exact Stays.mk_of id fun p => by cases p <;> first | exact Or.inr rfl | exact Or.inl (by decide)

theorem State.streamBreak_stays (s : State) (p : Nat) (q : Nat) :
    Stays [.hl, .ing] s (State.streamBreak s p q) := by
  unfold State.streamBreak
  try dsimp only
  repeat' first
    | with_reducible apply Stays.ite
    | with_reducible apply Stays.each; (intro _ _; try dsimp only)
    | with_reducible apply Stays.fold; (intro _ _; try dsimp only)
    | refine Stays.via (by with_reducible apply State.modStream_stays) ?_ (by decide)
    | refine Stays.via (by with_reducible apply State.gapIn_stays) ?_ (by decide)
    | with_reducible apply Stays.refl
    | dsimp only
    | split
    | with_reducible apply Stays.elim <;> intros
    | exact Stays.mk_of id fun p => by cases p <;> first | exact Or.inr rfl | exact Or.inl (by decide)

theorem State.senDown_stays (s : State) (p : Nat) (declare : Bool) :
    Stays [.hl, .ing] s (State.senDown s p declare) := by
  unfold State.senDown
  try dsimp only
  repeat' first
    | with_reducible apply Stays.ite
    | with_reducible apply Stays.each; (intro _ _; try dsimp only)
    | with_reducible apply Stays.fold; (intro _ _; try dsimp only)
    | refine Stays.via (by with_reducible apply State.modSen_stays) ?_ (by decide)
    | refine Stays.via (by with_reducible apply State.streamBreak_stays) ?_ (by decide)
    | refine Stays.via (by with_reducible apply State.slotAbsent_stays) ?_ (by decide)
    | refine Stays.via (by with_reducible apply State.notify_stays) ?_ (by decide)
    | with_reducible apply Stays.refl
    | dsimp only
    | split
    | with_reducible apply Stays.elim <;> intros
    | exact Stays.mk_of id fun p => by cases p <;> first | exact Or.inr rfl | exact Or.inl (by decide)

theorem State.senGive_stays (s : State) (p : Nat) (q : Nat) (flush : Bool) :
    Stays [.hl, .ing, .mot, .pan] s (State.senGive s p q flush) := by
  unfold State.senGive
  try dsimp only
  repeat' first
    | with_reducible apply Stays.ite
    | with_reducible apply Stays.each; (intro _ _; try dsimp only)
    | with_reducible apply Stays.fold; (intro _ _; try dsimp only)
    | refine Stays.via (by with_reducible apply State.modStream_stays) ?_ (by decide)
    | refine Stays.via (by with_reducible apply State.senRecs_stays) ?_ (by decide)
    | with_reducible apply Stays.refl
    | dsimp only
    | split
    | with_reducible apply Stays.elim <;> intros
    | exact Stays.mk_of id fun p => by cases p <;> first | exact Or.inr rfl | exact Or.inl (by decide)

theorem State.senEnd_stays (s : State) (p : Nat) (q : Nat) (told : Bool) :
    Stays [.hl, .ing, .mot, .pan] s (State.senEnd s p q told) := by
  unfold State.senEnd
  try dsimp only
  repeat' first
    | with_reducible apply Stays.ite
    | with_reducible apply Stays.each; (intro _ _; try dsimp only)
    | with_reducible apply Stays.fold; (intro _ _; try dsimp only)
    | refine Stays.via (by with_reducible apply State.modStream_stays) ?_ (by decide)
    | refine Stays.via (by with_reducible apply State.senGive_stays) ?_ (by decide)
    | refine Stays.via (by with_reducible apply State.senGap_stays) ?_ (by decide)
    | refine Stays.via (by with_reducible apply State.senBlock_stays) ?_ (by decide)
    | with_reducible apply Stays.refl
    | dsimp only
    | split
    | with_reducible apply Stays.elim <;> intros
    | exact Stays.mk_of id fun p => by cases p <;> first | exact Or.inr rfl | exact Or.inl (by decide)

theorem State.senLeader_stays (s : State) (p : Nat) (q : Nat) (block : BitVec 32) (image : Bool) (ts : Nat) (w : Nat) (h : Nat) (pfnc : BitVec 32) :
    Stays [.hl, .ing, .mot, .pan] s (State.senLeader s p q block image ts w h pfnc) := by
  unfold State.senLeader
  try dsimp only
  repeat' first
    | with_reducible apply Stays.ite
    | with_reducible apply Stays.each; (intro _ _; try dsimp only)
    | with_reducible apply Stays.fold; (intro _ _; try dsimp only)
    | refine Stays.via (by with_reducible apply State.senEnd_stays) ?_ (by decide)
    | refine Stays.via (by with_reducible apply State.modStream_stays) ?_ (by decide)
    | refine Stays.via (by with_reducible apply State.senBad_stays) ?_ (by decide)
    | refine Stays.via (by with_reducible apply State.notify_stays) ?_ (by decide)
    | with_reducible apply Stays.refl
    | dsimp only
    | split
    | with_reducible apply Stays.elim <;> intros
    | exact Stays.mk_of id fun p => by cases p <;> first | exact Or.inr rfl | exact Or.inl (by decide)

theorem State.senMiss_stays (s : State) (p : Nat) (q : Nat) (k : Nat) (size : Nat) :
    Stays [.hl, .ing, .mot, .pan] s (State.senMiss s p q k size) := by
  unfold State.senMiss
  try dsimp only
  repeat' first
    | with_reducible apply Stays.ite
    | with_reducible apply Stays.each; (intro _ _; try dsimp only)
    | with_reducible apply Stays.fold; (intro _ _; try dsimp only)
    | refine Stays.via (by with_reducible apply State.senGive_stays) ?_ (by decide)
    | refine Stays.via (by with_reducible apply State.senLost_stays) ?_ (by decide)
    | refine Stays.via (by with_reducible apply State.senGap_stays) ?_ (by decide)
    | refine Stays.via (by with_reducible apply State.modStream_stays) ?_ (by decide)
    | with_reducible apply Stays.refl
    | dsimp only
    | split
    | with_reducible apply Stays.elim <;> intros
    | exact Stays.mk_of id fun p => by cases p <;> first | exact Or.inr rfl | exact Or.inl (by decide)

theorem State.senSend_stays (s : State) (p : Nat) (o : Out) :
    Stays [.out, .ing] s (State.senSend s p o) := by
  unfold State.senSend
  try dsimp only
  repeat' first
    | with_reducible apply Stays.ite
    | with_reducible apply Stays.each; (intro _ _; try dsimp only)
    | with_reducible apply Stays.fold; (intro _ _; try dsimp only)
    | refine Stays.via (by with_reducible apply State.modQuad_stays) ?_ (by decide)
    | refine Stays.via (by with_reducible apply State.send_stays) ?_ (by decide)
    | with_reducible apply Stays.refl
    | dsimp only
    | split
    | with_reducible apply Stays.elim <;> intros
    | exact Stays.mk_of id fun p => by cases p <;> first | exact Or.inr rfl | exact Or.inl (by decide)

theorem State.senNet_stays (s : State) (p : Nat) (r : NetRequest) :
    Stays [.out, .ing] s (State.senNet s p r) := by
  unfold State.senNet
  try dsimp only
  repeat' first
    | with_reducible apply Stays.ite
    | with_reducible apply Stays.each; (intro _ _; try dsimp only)
    | with_reducible apply Stays.fold; (intro _ _; try dsimp only)
    | refine Stays.via (by with_reducible apply State.senSend_stays) ?_ (by decide)
    | with_reducible apply Stays.refl
    | dsimp only
    | split
    | with_reducible apply Stays.elim <;> intros
    | exact Stays.mk_of id fun p => by cases p <;> first | exact Or.inr rfl | exact Or.inl (by decide)

theorem State.streamOff_stays (s : State) (p : Nat) (q : Nat) :
    Stays [.hl, .ing] s (State.streamOff s p q) := by
  unfold State.streamOff
  try dsimp only
  repeat' first
    | with_reducible apply Stays.ite
    | with_reducible apply Stays.each; (intro _ _; try dsimp only)
    | with_reducible apply Stays.fold; (intro _ _; try dsimp only)
    | refine Stays.via (by with_reducible apply State.modStream_stays) ?_ (by decide)
    | refine Stays.via (by with_reducible apply State.detach_stays) ?_ (by decide)
    | with_reducible apply Stays.refl
    | dsimp only
    | split
    | with_reducible apply Stays.elim <;> intros
    | exact Stays.mk_of id fun p => by cases p <;> first | exact Or.inr rfl | exact Or.inl (by decide)

theorem State.senOff_stays (s : State) (p : Nat) :
    Stays [.hl, .ing] s (State.senOff s p) := by
  unfold State.senOff
  try dsimp only
  repeat' first
    | with_reducible apply Stays.ite
    | with_reducible apply Stays.each; (intro _ _; try dsimp only)
    | with_reducible apply Stays.fold; (intro _ _; try dsimp only)
    | refine Stays.via (by with_reducible apply State.modSen_stays) ?_ (by decide)
    | refine Stays.via (by with_reducible apply State.streamOff_stays) ?_ (by decide)
    | refine Stays.via (by with_reducible apply State.quadEnable_stays) ?_ (by decide)
    | with_reducible apply Stays.refl
    | dsimp only
    | split
    | with_reducible apply Stays.elim <;> intros
    | exact Stays.mk_of id fun p => by cases p <;> first | exact Or.inr rfl | exact Or.inl (by decide)

theorem State.streamOn_stays (s : State) (p : Nat) (q : Nat) :
    Stays [.hl, .ing] s (State.streamOn s p q) := by
  unfold State.streamOn
  try dsimp only
  repeat' first
    | with_reducible apply Stays.ite
    | with_reducible apply Stays.each; (intro _ _; try dsimp only)
    | with_reducible apply Stays.fold; (intro _ _; try dsimp only)
    | refine Stays.via (by with_reducible apply State.modStream_stays) ?_ (by decide)
    | refine Stays.via (by with_reducible apply State.attach_stays) ?_ (by decide)
    | with_reducible apply Stays.refl
    | dsimp only
    | split
    | with_reducible apply Stays.elim <;> intros
    | exact Stays.mk_of id fun p => by cases p <;> first | exact Or.inr rfl | exact Or.inl (by decide)

theorem State.senOn_stays (s : State) (p : Nat) :
    Stays [.hl, .ing] s (State.senOn s p) := by
  unfold State.senOn
  try dsimp only
  repeat' first
    | with_reducible apply Stays.ite
    | with_reducible apply Stays.each; (intro _ _; try dsimp only)
    | with_reducible apply Stays.fold; (intro _ _; try dsimp only)
    | refine Stays.via (by with_reducible apply State.streamOn_stays) ?_ (by decide)
    | refine Stays.via (by with_reducible apply State.quadEnable_stays) ?_ (by decide)
    | with_reducible apply Stays.refl
    | dsimp only
    | split
    | with_reducible apply Stays.elim <;> intros
    | exact Stays.mk_of id fun p => by cases p <;> first | exact Or.inr rfl | exact Or.inl (by decide)

theorem State.senLate_stays (s : State) (p : Nat) (q : Nat) (block : BitVec 32) (packet : Nat) :
    Stays [.hl, .ing, .mot, .pan] s (State.senLate s p q block packet) := by
  unfold State.senLate
  try dsimp only
  repeat' first
    | with_reducible apply Stays.ite
    | with_reducible apply Stays.each; (intro _ _; try dsimp only)
    | with_reducible apply Stays.fold; (intro _ _; try dsimp only)
    | refine Stays.via (by with_reducible apply State.senEnd_stays) ?_ (by decide)
    | refine Stays.via (by with_reducible apply State.modStream_stays) ?_ (by decide)
    | refine Stays.via (by with_reducible apply State.senLost_stays) ?_ (by decide)
    | refine Stays.via (by with_reducible apply State.senGap_stays) ?_ (by decide)
    | with_reducible apply Stays.refl
    | dsimp only
    | split
    | with_reducible apply Stays.elim <;> intros
    | exact Stays.mk_of id fun p => by cases p <;> first | exact Or.inr rfl | exact Or.inl (by decide)

theorem State.senPayload_stays (s : State) (p : Nat) (q : Nat) (block : BitVec 32) (packet : Nat) (data : List Byte) :
    Stays [.hl, .ing, .mot, .pan] s (State.senPayload s p q block packet data) := by
  unfold State.senPayload
  try dsimp only
  repeat' first
    | with_reducible apply Stays.ite
    | with_reducible apply Stays.each; (intro _ _; try dsimp only)
    | with_reducible apply Stays.fold; (intro _ _; try dsimp only)
    | refine Stays.via (by with_reducible apply State.senLate_stays) ?_ (by decide)
    | refine Stays.via (by with_reducible apply State.senBad_stays) ?_ (by decide)
    | refine Stays.via (by with_reducible apply State.senMiss_stays) ?_ (by decide)
    | refine Stays.via (by with_reducible apply State.modStream_stays) ?_ (by decide)
    | refine Stays.via (by with_reducible apply State.senGive_stays) ?_ (by decide)
    | with_reducible apply Stays.refl
    | dsimp only
    | split
    | with_reducible apply Stays.elim <;> intros
    | exact Stays.mk_of id fun p => by cases p <;> first | exact Or.inr rfl | exact Or.inl (by decide)

theorem State.senProfile_stays (s : State) (p : Nat) (q : Nat) (d : List Byte) :
    Stays [.hl, .ing, .mot, .pan] s (State.senProfile s p q d) := by
  unfold State.senProfile
  try dsimp only
  repeat' first
    | with_reducible apply Stays.ite
    | with_reducible apply Stays.each; (intro _ _; try dsimp only)
    | with_reducible apply Stays.fold; (intro _ _; try dsimp only)
    | refine Stays.via (by with_reducible apply State.senBad_stays) ?_ (by decide)
    | refine Stays.via (by with_reducible apply State.profTake_stays) ?_ (by decide)
    | with_reducible apply Stays.refl
    | dsimp only
    | split
    | with_reducible apply Stays.elim <;> intros
    | exact Stays.mk_of id fun p => by cases p <;> first | exact Or.inr rfl | exact Or.inl (by decide)

theorem State.senTrailer_stays (s : State) (p : Nat) (q : Nat) (block : BitVec 32) (packet : Nat) :
    Stays [.hl, .ing, .mot, .pan] s (State.senTrailer s p q block packet) := by
  unfold State.senTrailer
  try dsimp only
  repeat' first
    | with_reducible apply Stays.ite
    | with_reducible apply Stays.each; (intro _ _; try dsimp only)
    | with_reducible apply Stays.fold; (intro _ _; try dsimp only)
    | refine Stays.via (by with_reducible apply State.senLate_stays) ?_ (by decide)
    | refine Stays.via (by with_reducible apply State.senEnd_stays) ?_ (by decide)
    | refine Stays.via (by with_reducible apply State.senBad_stays) ?_ (by decide)
    | refine Stays.via (by with_reducible apply State.senMiss_stays) ?_ (by decide)
    | with_reducible apply Stays.refl
    | dsimp only
    | split
    | with_reducible apply Stays.elim <;> intros
    | exact Stays.mk_of id fun p => by cases p <;> first | exact Or.inr rfl | exact Or.inl (by decide)

end Sys2Proof.Machine
end

