-- ==== Sys2Proof/Laws/FrameKvp.lean ====
section
/-! SUPPORT. What each operation of Machine/Kvp.lean may change. -/

-- One theorem at a time: a thread a theorem would be too many. Proofs of one form name alternatives that some goals do not need.
set_option Elab.async false
set_option linter.all false

namespace Sys2Proof.Machine

open Sys2Proof

theorem State.attMark_stays (s : State) (lane : Nat) (c : List Byte) :
    Stays [.rly] s (State.attMark s lane c) := by
  unfold State.attMark
  try dsimp only
  repeat' first
    | with_reducible apply Stays.ite
    | with_reducible apply Stays.each; (intro _ _; try dsimp only)
    | with_reducible apply Stays.fold; (intro _ _; try dsimp only)
    | refine Stays.via (by with_reducible apply State.modLane_stays) ?_ (by decide)
    | with_reducible apply Stays.refl
    | dsimp only
    | split
    | with_reducible apply Stays.elim <;> intros
    | exact Stays.mk_of id fun p => by cases p <;> first | exact Or.inr rfl | exact Or.inl (by decide)

theorem State.kvPage_stays (s : State) (c a g l : Nat) : Stays [.mem, .aon, .kvp] s (s.kvPage c a g l).2 := by
  unfold State.kvPage
  dsimp only
  split
  · exact Stays.refl _ _
  · exact Stays.step (Stays.step (Stays.refl _ _) (State.modKvp_stays _ _) (by decide)) (State.writeMem_stays _ _ _) (by decide)

theorem State.modKvSeq_stays (s : State) (a : Nat) (f : KvSeq → KvSeq) :
    Stays [.kvp] s (State.modKvSeq s a f) := by
  unfold State.modKvSeq
  try dsimp only
  repeat' first
    | with_reducible apply Stays.ite
    | with_reducible apply Stays.each; (intro _ _; try dsimp only)
    | with_reducible apply Stays.fold; (intro _ _; try dsimp only)
    | refine Stays.via (by with_reducible apply State.modKvp_stays) ?_ (by decide)
    | with_reducible apply Stays.refl
    | dsimp only
    | split
    | with_reducible apply Stays.elim <;> intros
    | exact Stays.mk_of id fun p => by cases p <;> first | exact Or.inr rfl | exact Or.inl (by decide)

theorem State.kvPut_stays (s : State) (c : Nat) (a : Nat) (l : Nat) (tok : List Byte × List Byte) :
    Stays [.mem, .aon, .kvp] s (State.kvPut s c a l tok) := by
  unfold State.kvPut
  try dsimp only
  repeat' first
    | with_reducible apply Stays.ite
    | with_reducible apply Stays.each; (intro _ _; try dsimp only)
    | with_reducible apply Stays.fold; (intro _ _; try dsimp only)
    | refine Stays.via (by with_reducible apply State.kvPage_stays) ?_ (by decide)
    | refine Stays.via (by with_reducible apply State.writeMem_stays) ?_ (by decide)
    | refine Stays.via (by with_reducible apply State.modKvSeq_stays) ?_ (by decide)
    | with_reducible apply Stays.refl
    | dsimp only
    | split
    | with_reducible apply Stays.elim <;> intros
    | exact Stays.mk_of id fun p => by cases p <;> first | exact Or.inr rfl | exact Or.inl (by decide)

theorem State.kvRelease_stays (s : State) (c : Nat) (p : Nat) :
    Stays [.kvp] s (State.kvRelease s c p) := by
  unfold State.kvRelease
  try dsimp only
  repeat' first
    | with_reducible apply Stays.ite
    | with_reducible apply Stays.each; (intro _ _; try dsimp only)
    | with_reducible apply Stays.fold; (intro _ _; try dsimp only)
    | refine Stays.via (by with_reducible apply State.modKvp_stays) ?_ (by decide)
    | with_reducible apply Stays.refl
    | dsimp only
    | split
    | with_reducible apply Stays.elim <;> intros
    | exact Stays.mk_of id fun p => by cases p <;> first | exact Or.inr rfl | exact Or.inl (by decide)

theorem State.ptDrop_stays (s : State) (c a b : Nat) (e : Nat × Nat) : Stays [.mem, .aon, .kvp] s (s.ptDrop c a b e) := by
  unfold State.ptDrop
  refine Stays.via (State.kvRelease_stays _ _ _) ?_ (by decide)
  exact Stays.step (Stays.refl _ _) (State.writeMem_stays _ _ _) (by decide)

theorem State.kvDropBank_stays (s : State) (c : Nat) (a : Nat) (b : Nat) :
    Stays [.mem, .aon, .kvp] s (State.kvDropBank s c a b) := by
  unfold State.kvDropBank
  try dsimp only
  repeat' first
    | with_reducible apply Stays.ite
    | with_reducible apply Stays.each; (intro _ _; try dsimp only)
    | with_reducible apply Stays.fold; (intro _ _; try dsimp only)
    | refine Stays.via (by with_reducible apply State.ptDrop_stays) ?_ (by decide)
    | with_reducible apply Stays.refl
    | dsimp only
    | split
    | with_reducible apply Stays.elim <;> intros
    | exact Stays.mk_of id fun p => by cases p <;> first | exact Or.inr rfl | exact Or.inl (by decide)

theorem State.kvReset_stays (s : State) (c : Nat) (a : Nat) (prov : Bool) (tag : BitVec 32) (nglob : Nat) :
    Stays [.mem, .aon, .kvp] s (State.kvReset s c a prov tag nglob) := by
  unfold State.kvReset
  try dsimp only
  repeat' first
    | with_reducible apply Stays.ite
    | with_reducible apply Stays.each; (intro _ _; try dsimp only)
    | with_reducible apply Stays.fold; (intro _ _; try dsimp only)
    | refine Stays.via (by with_reducible apply State.kvDropBank_stays) ?_ (by decide)
    | refine Stays.via (by with_reducible apply State.modKvSeq_stays) ?_ (by decide)
    | with_reducible apply Stays.refl
    | dsimp only
    | split
    | with_reducible apply Stays.elim <;> intros
    | exact Stays.mk_of id fun p => by cases p <;> first | exact Or.inr rfl | exact Or.inl (by decide)

theorem State.kvMake_stays (s : State) (c : Nat) (a : Nat) (prov : Bool) (k : KvKind) (toks : List (List Byte × List Byte)) :
    Stays [.mem, .aon, .kvp] s (State.kvMake s c a prov k toks) := by
  unfold State.kvMake
  try dsimp only
  repeat' first
    | with_reducible apply Stays.ite
    | with_reducible apply Stays.each; (intro _ _; try dsimp only)
    | with_reducible apply Stays.fold; (intro _ _; try dsimp only)
    | refine Stays.via (by with_reducible apply State.kvPut_stays) ?_ (by decide)
    | refine Stays.via (by with_reducible apply State.kvReset_stays) ?_ (by decide)
    | refine Stays.via (by with_reducible apply State.modKvSeq_stays) ?_ (by decide)
    | with_reducible apply Stays.refl
    | dsimp only
    | split
    | with_reducible apply Stays.elim <;> intros
    | exact Stays.mk_of id fun p => by cases p <;> first | exact Or.inr rfl | exact Or.inl (by decide)

theorem State.kvSettle_stays (s : State) (m : KvMut) (later : List KvMut) :
    Stays [.mem, .aon, .kvp] s (State.kvSettle s m later) := by
  unfold State.kvSettle
  try dsimp only
  repeat' first
    | with_reducible apply Stays.ite
    | with_reducible apply Stays.each; (intro _ _; try dsimp only)
    | with_reducible apply Stays.fold; (intro _ _; try dsimp only)
    | refine Stays.via (by with_reducible apply State.ptDrop_stays) ?_ (by decide)
    | refine Stays.via (by with_reducible apply State.kvDropBank_stays) ?_ (by decide)
    | with_reducible apply Stays.refl
    | dsimp only
    | split
    | with_reducible apply Stays.elim <;> intros
    | exact Stays.mk_of id fun p => by cases p <;> first | exact Or.inr rfl | exact Or.inl (by decide)

theorem State.kvSpoil_stays (s : State) (c : Nat) (a : Nat) (l : Nat) (t : Nat) (bad : List Nat) :
    Stays [.aon] s (State.kvSpoil s c a l t bad) := by
  unfold State.kvSpoil
  try dsimp only
  repeat' first
    | with_reducible apply Stays.ite
    | with_reducible apply Stays.each; (intro _ _; try dsimp only)
    | with_reducible apply Stays.fold; (intro _ _; try dsimp only)
    | refine Stays.via (by with_reducible apply State.modAon_stays) ?_ (by decide)
    | with_reducible apply Stays.refl
    | dsimp only
    | split
    | with_reducible apply Stays.elim <;> intros
    | exact Stays.mk_of id fun p => by cases p <;> first | exact Or.inr rfl | exact Or.inl (by decide)

theorem State.kvAgain_stays (s : State) (x : KvMut × List KvTok) :
    Stays [.mem, .aon, .kvp] s (State.kvAgain s x) := by
  unfold State.kvAgain
  try dsimp only
  repeat' first
    | with_reducible apply Stays.ite
    | with_reducible apply Stays.each; (intro _ _; try dsimp only)
    | with_reducible apply Stays.fold; (intro _ _; try dsimp only)
    | refine Stays.via (by with_reducible apply State.kvMake_stays) ?_ (by decide)
    | refine Stays.via (by with_reducible apply State.kvSpoil_stays) ?_ (by decide)
    | refine Stays.via (by with_reducible apply State.kvSettle_stays) ?_ (by decide)
    | refine Stays.via (by with_reducible apply State.modKvp_stays) ?_ (by decide)
    | with_reducible apply Stays.refl
    | dsimp only
    | split
    | with_reducible apply Stays.elim <;> intros
    | exact Stays.mk_of id fun p => by cases p <;> first | exact Or.inr rfl | exact Or.inl (by decide)

theorem State.kvClearCache_stays (s : State) (c : Nat) :
    Stays [.mem, .aon, .kvp] s (State.kvClearCache s c) := by
  unfold State.kvClearCache
  try dsimp only
  repeat' first
    | with_reducible apply Stays.ite
    | with_reducible apply Stays.each; (intro _ _; try dsimp only)
    | with_reducible apply Stays.fold; (intro _ _; try dsimp only)
    | refine Stays.via (by with_reducible apply State.kvDropBank_stays) ?_ (by decide)
    | refine Stays.via (by with_reducible apply State.modKvp_stays) ?_ (by decide)
    | with_reducible apply Stays.refl
    | dsimp only
    | split
    | with_reducible apply Stays.elim <;> intros
    | exact Stays.mk_of id fun p => by cases p <;> first | exact Or.inr rfl | exact Or.inl (by decide)

theorem State.kvApplyClear_stays (s : State) :
    Stays [.mem, .aon, .kvp] s (State.kvApplyClear s) := by
  unfold State.kvApplyClear
  try dsimp only
  repeat' first
    | with_reducible apply Stays.ite
    | with_reducible apply Stays.each; (intro _ _; try dsimp only)
    | with_reducible apply Stays.fold; (intro _ _; try dsimp only)
    | refine Stays.via (by with_reducible apply State.kvClearCache_stays) ?_ (by decide)
    | refine Stays.via (by with_reducible apply State.modKvp_stays) ?_ (by decide)
    | with_reducible apply Stays.refl
    | dsimp only
    | split
    | with_reducible apply Stays.elim <;> intros
    | exact Stays.mk_of id fun p => by cases p <;> first | exact Or.inr rfl | exact Or.inl (by decide)

theorem State.kvClearAll_stays (s : State) :
    Stays [.mem, .aon, .kvp] s (State.kvClearAll s) := by
  unfold State.kvClearAll
  try dsimp only
  repeat' first
    | with_reducible apply Stays.ite
    | with_reducible apply Stays.each; (intro _ _; try dsimp only)
    | with_reducible apply Stays.fold; (intro _ _; try dsimp only)
    | refine Stays.via (by with_reducible apply State.kvClearCache_stays) ?_ (by decide)
    | refine Stays.via (by with_reducible apply State.modKvp_stays) ?_ (by decide)
    | with_reducible apply Stays.refl
    | dsimp only
    | split
    | with_reducible apply Stays.elim <;> intros
    | exact Stays.mk_of id fun p => by cases p <;> first | exact Or.inr rfl | exact Or.inl (by decide)

theorem State.kvRes_stays (s : State) (n : Nat) (c : List Byte) (v : Int) :
    Stays [.rly] s (State.kvRes s n c v) := by
  unfold State.kvRes
  try dsimp only
  repeat' first
    | with_reducible apply Stays.ite
    | with_reducible apply Stays.each; (intro _ _; try dsimp only)
    | with_reducible apply Stays.fold; (intro _ _; try dsimp only)
    | refine Stays.via (by with_reducible apply State.modLane_stays) ?_ (by decide)
    | with_reducible apply Stays.refl
    | dsimp only
    | split
    | with_reducible apply Stays.elim <;> intros
    | exact Stays.mk_of id fun p => by cases p <;> first | exact Or.inr rfl | exact Or.inl (by decide)

theorem State.kvRefuse_stays (s : State) (n : Nat) (c : List Byte) (v : Int) :
    Stays [.rly, .kvp] s (State.kvRefuse s n c v) := by
  unfold State.kvRefuse
  try dsimp only
  repeat' first
    | with_reducible apply Stays.ite
    | with_reducible apply Stays.each; (intro _ _; try dsimp only)
    | with_reducible apply Stays.fold; (intro _ _; try dsimp only)
    | refine Stays.via (by with_reducible apply State.kvRes_stays) ?_ (by decide)
    | refine Stays.via (by with_reducible apply State.modKvp_stays) ?_ (by decide)
    | with_reducible apply Stays.refl
    | dsimp only
    | split
    | with_reducible apply Stays.elim <;> intros
    | exact Stays.mk_of id fun p => by cases p <;> first | exact Or.inr rfl | exact Or.inl (by decide)

theorem State.kvLose_stays (s : State) (c : Nat) (a : Nat) :
    Stays [.mem, .aon, .kvp] s (State.kvLose s c a) := by
  unfold State.kvLose
  try dsimp only
  repeat' first
    | with_reducible apply Stays.ite
    | with_reducible apply Stays.each; (intro _ _; try dsimp only)
    | with_reducible apply Stays.fold; (intro _ _; try dsimp only)
    | refine Stays.via (by with_reducible apply State.kvDropBank_stays) ?_ (by decide)
    | refine Stays.via (by with_reducible apply State.modKvSeq_stays) ?_ (by decide)
    | refine Stays.via (by with_reducible apply State.modKvp_stays) ?_ (by decide)
    | with_reducible apply Stays.refl
    | dsimp only
    | split
    | with_reducible apply Stays.elim <;> intros
    | exact Stays.mk_of id fun p => by cases p <;> first | exact Or.inr rfl | exact Or.inl (by decide)

theorem State.kvPtCheck_stays (s : State) (c : Nat) (a : Nat) (entries : List Nat) :
    Stays [.mem, .flt, .aon, .kvp] s (State.kvPtCheck s c a entries) := by
  unfold State.kvPtCheck
  try dsimp only
  repeat' first
    | with_reducible apply Stays.ite
    | with_reducible apply Stays.each; (intro _ _; try dsimp only)
    | with_reducible apply Stays.fold; (intro _ _; try dsimp only)
    | refine Stays.via (by with_reducible apply State.raiseU_stays) ?_ (by decide)
    | refine Stays.via (by with_reducible apply State.kvLose_stays) ?_ (by decide)
    | with_reducible apply Stays.refl
    | dsimp only
    | split
    | with_reducible apply Stays.elim <;> intros
    | exact Stays.mk_of id fun p => by cases p <;> first | exact Or.inr rfl | exact Or.inl (by decide)

theorem State.kvAsk_stays (s : State) (op : Nat) (n : Nat) (st : Stream) :
    Stays [.rly] s (State.kvAsk s op n st) := by
  unfold State.kvAsk
  try dsimp only
  repeat' first
    | with_reducible apply Stays.ite
    | with_reducible apply Stays.each; (intro _ _; try dsimp only)
    | with_reducible apply Stays.fold; (intro _ _; try dsimp only)
    | refine Stays.via (by with_reducible apply State.modLane_stays) ?_ (by decide)
    | with_reducible apply Stays.refl
    | dsimp only
    | split
    | with_reducible apply Stays.elim <;> intros
    | exact Stays.mk_of id fun p => by cases p <;> first | exact Or.inr rfl | exact Or.inl (by decide)

theorem State.kvServe_within {l : List Part} {s : State} {n : Nat} {st : Stream} {f : State → Ran} (m : .rly ∈ l)
    (g : Ran.Within l s (f s)) : Ran.Within l s (s.kvServe n st f) := by
  have out : ∀ {t : State} (h : Lane → Lane), Stays l s t → Stays l s (t.modLane n h) := fun h w =>
    w.step (State.modLane_stays _ _ _) fun p hp => by rw [List.mem_singleton.mp hp]; exact m
  unfold State.kvServe
  refine Ran.Within.ite trivial ?_
  split
  · rename_i h; rw [h] at g; exact out _ g
  · rename_i h; rw [h] at g; exact out _ g
  · exact g

theorem State.kvDo_stays {l : List Part} {s : State} {op n : Nat} {change : Bool} {layer : List Byte → Bool}
    {f : List Byte → Nat → Nat → State → Ran} (m : ∀ p ∈ [.mem, .hl, .flt, .aon, .pan, .trk, .rly, .kvp], p ∈ l)
    (g : ∀ c k a t, Ran.Within l t (f c k a t)) : Stays l s (s.kvDo op n change layer f) := by
  have lift : ∀ {a b : State}, Stays [.mem, .hl, .flt, .aon, .pan, .trk, .rly, .kvp] a b →
    Stays l a b := fun h => Stays.step (Stays.refl _ _) h m
  have ref : ∀ t c v, Stays l t (State.kvRefuse t n c v) := fun t c v =>
    lift (Stays.step (Stays.refl _ _) (State.kvRefuse_stays _ _ _ _) (by decide))
  unfold State.kvDo
  refine (Stays.step (Stays.refl l s) (State.kvAsk_stays _ _ _ _) fun p hp => m p (by revert p; decide)).step
    (State.laneDo_stays (l := l) (fun p hp => m p (by revert p; decide)) fun c => ?_) fun _ h => h
  refine State.kvServe_within (m _ (by decide)) ?_
  exact Ran.Within.ite (ref _ _ _) (Ran.Within.ite (ref _ _ _) (Ran.Within.ite trivial (g _ _ _ _)))

theorem State.kvFreeBeyond_stays (s : State) (c : Nat) (a : Nat) :
    Stays [.mem, .aon, .kvp] s (State.kvFreeBeyond s c a) := by
  unfold State.kvFreeBeyond
  try dsimp only
  repeat' first
    | with_reducible apply Stays.ite
    | with_reducible apply Stays.each; (intro _ _; try dsimp only)
    | with_reducible apply Stays.fold; (intro _ _; try dsimp only)
    | refine Stays.via (by with_reducible apply State.ptDrop_stays) ?_ (by decide)
    | with_reducible apply Stays.refl
    | dsimp only
    | split
    | with_reducible apply Stays.elim <;> intros
    | exact Stays.mk_of id fun p => by cases p <;> first | exact Or.inr rfl | exact Or.inl (by decide)

theorem State.kvMutate_stays (s : State) (c : Nat) (a : Nat) (e : Epoch) (k : KvKind) (toks : List (List Byte × List Byte)) :
    Stays [.mem, .aon, .kvp] s (State.kvMutate s c a e k toks) := by
  unfold State.kvMutate
  try dsimp only
  repeat' first
    | with_reducible apply Stays.ite
    | with_reducible apply Stays.each; (intro _ _; try dsimp only)
    | with_reducible apply Stays.fold; (intro _ _; try dsimp only)
    | refine Stays.via (by with_reducible apply State.kvMake_stays) ?_ (by decide)
    | refine Stays.via (by with_reducible apply State.kvSettle_stays) ?_ (by decide)
    | refine Stays.via (by with_reducible apply State.modKvp_stays) ?_ (by decide)
    | with_reducible apply Stays.refl
    | dsimp only
    | split
    | with_reducible apply Stays.elim <;> intros
    | exact Stays.mk_of id fun p => by cases p <;> first | exact Or.inr rfl | exact Or.inl (by decide)

theorem State.kvRebuild_stays (s : State) (c : Nat) (a : Nat) :
    Stays [.mem, .flt, .aon, .kvp] s (State.kvRebuild s c a) := by
  unfold State.kvRebuild
  try dsimp only
  repeat' first
    | with_reducible apply Stays.ite
    | with_reducible apply Stays.each; (intro _ _; try dsimp only)
    | with_reducible apply Stays.fold; (intro _ _; try dsimp only)
    | refine Stays.via (by with_reducible apply State.raiseU_stays) ?_ (by decide)
    | refine Stays.via (by with_reducible apply State.kvLose_stays) ?_ (by decide)
    | refine Stays.via (by with_reducible apply State.modKvp_stays) ?_ (by decide)
    | refine Stays.via (by with_reducible apply State.kvDropBank_stays) ?_ (by decide)
    | refine Stays.via (by with_reducible apply State.modKvSeq_stays) ?_ (by decide)
    | refine Stays.via (by with_reducible apply State.kvFreeBeyond_stays) ?_ (by decide)
    | refine Stays.via (by with_reducible apply State.kvAgain_stays) ?_ (by decide)
    | with_reducible apply Stays.refl
    | dsimp only
    | split
    | with_reducible apply Stays.elim <;> intros
    | exact Stays.mk_of id fun p => by cases p <;> first | exact Or.inr rfl | exact Or.inl (by decide)

theorem State.kvClean_stays (s : State) :
    Stays [.kvp] s (State.kvClean s) := by
  unfold State.kvClean
  try dsimp only
  repeat' first
    | with_reducible apply Stays.ite
    | with_reducible apply Stays.each; (intro _ _; try dsimp only)
    | with_reducible apply Stays.fold; (intro _ _; try dsimp only)
    | refine Stays.via (by with_reducible apply State.modKvp_stays) ?_ (by decide)
    | with_reducible apply Stays.refl
    | dsimp only
    | split
    | with_reducible apply Stays.elim <;> intros
    | exact Stays.mk_of id fun p => by cases p <;> first | exact Or.inr rfl | exact Or.inl (by decide)

theorem State.kvRebuildNow_stays (s : State) (c : Nat) (a : Nat) :
    Stays [.mem, .flt, .aon, .kvp] s (State.kvRebuildNow s c a) := by
  unfold State.kvRebuildNow
  try dsimp only
  repeat' first
    | with_reducible apply Stays.ite
    | with_reducible apply Stays.each; (intro _ _; try dsimp only)
    | with_reducible apply Stays.fold; (intro _ _; try dsimp only)
    | refine Stays.via (by with_reducible apply State.kvRebuild_stays) ?_ (by decide)
    | refine Stays.via (by with_reducible apply State.modKvp_stays) ?_ (by decide)
    | refine Stays.via (by with_reducible apply State.kvClean_stays) ?_ (by decide)
    | with_reducible apply Stays.refl
    | dsimp only
    | split
    | with_reducible apply Stays.elim <;> intros
    | exact Stays.mk_of id fun p => by cases p <;> first | exact Or.inr rfl | exact Or.inl (by decide)

theorem State.kvRecall_stays (s : State) (c : Nat) (e : Epoch) :
    Stays [.mem, .flt, .aon, .kvp] s (State.kvRecall s c e) := by
  unfold State.kvRecall
  try dsimp only
  repeat' first
    | with_reducible apply Stays.ite
    | with_reducible apply Stays.each; (intro _ _; try dsimp only)
    | with_reducible apply Stays.fold; (intro _ _; try dsimp only)
    | refine Stays.via (by with_reducible apply State.modKvp_stays) ?_ (by decide)
    | refine Stays.via (by with_reducible apply State.kvRebuildNow_stays) ?_ (by decide)
    | with_reducible apply Stays.refl
    | dsimp only
    | split
    | with_reducible apply Stays.elim <;> intros
    | exact Stays.mk_of id fun p => by cases p <;> first | exact Or.inr rfl | exact Or.inl (by decide)

theorem State.kvSealGo_stays (c : Nat) (f : Epoch) (l : List KvMut) (s : State) :
    Stays [.mem, .aon, .kvp] s (State.kvSealGo c f l s) := by
  induction l generalizing s with
  | nil => exact Stays.refl _ _
  | cons m l ih =>
    unfold State.kvSealGo
    try dsimp only
    repeat' first
      | with_reducible apply Stays.ite
      | refine Stays.via (ih _) ?_ (by decide)
      | refine Stays.via (by with_reducible apply State.kvSettle_stays) ?_ (by decide)
      | with_reducible apply Stays.refl
      | dsimp only
      | split
      | exact Stays.mk_of id fun p => by cases p <;> first | exact Or.inr rfl | exact Or.inl (by decide)

theorem State.kvSeal_stays (s : State) (c : Nat) (f : Epoch) :
    Stays [.mem, .aon, .kvp] s (State.kvSeal s c f) := by
  unfold State.kvSeal
  try dsimp only
  repeat' first
    | with_reducible apply Stays.ite
    | with_reducible apply Stays.each; (intro _ _; try dsimp only)
    | with_reducible apply Stays.fold; (intro _ _; try dsimp only)
    | refine Stays.via (by with_reducible apply State.kvSealGo_stays) ?_ (by decide)
    | refine Stays.via (by with_reducible apply State.modKvp_stays) ?_ (by decide)
    | refine Stays.via (by with_reducible apply State.kvClean_stays) ?_ (by decide)
    | with_reducible apply Stays.refl
    | dsimp only
    | split
    | with_reducible apply Stays.elim <;> intros
    | exact Stays.mk_of id fun p => by cases p <;> first | exact Or.inr rfl | exact Or.inl (by decide)

theorem State.kvUpdate_stays (s : State) (rcl : Bool) (e : Epoch) :
    Stays [.mem, .flt, .aon, .kvp] s (State.kvUpdate s rcl e) := by
  unfold State.kvUpdate
  try dsimp only
  repeat' first
    | with_reducible apply Stays.ite
    | with_reducible apply Stays.each; (intro _ _; try dsimp only)
    | with_reducible apply Stays.fold; (intro _ _; try dsimp only)
    | refine Stays.via (by with_reducible apply State.kvRecall_stays) ?_ (by decide)
    | refine Stays.via (by with_reducible apply State.kvSeal_stays) ?_ (by decide)
    | with_reducible apply Stays.refl
    | dsimp only
    | split
    | with_reducible apply Stays.elim <;> intros
    | exact Stays.mk_of id fun p => by cases p <;> first | exact Or.inr rfl | exact Or.inl (by decide)

theorem State.kvTold_stays (s : State) (rcl : Bool) (e : Epoch) :
    Stays [.mem, .flt, .aon, .kvp] s (State.kvTold s rcl e) := by
  unfold State.kvTold
  try dsimp only
  repeat' first
    | with_reducible apply Stays.ite
    | with_reducible apply Stays.each; (intro _ _; try dsimp only)
    | with_reducible apply Stays.fold; (intro _ _; try dsimp only)
    | refine Stays.via (by with_reducible apply State.kvUpdate_stays) ?_ (by decide)
    | with_reducible apply Stays.refl
    | dsimp only
    | split
    | with_reducible apply Stays.elim <;> intros
    | exact Stays.mk_of id fun p => by cases p <;> first | exact Or.inr rfl | exact Or.inl (by decide)

theorem State.attPrep_stays (s : State) (k : AttCmd) (e : Option (Nat × Nat × Nat)) (o : Nat → Operand) (whole : Bool) (p : TileAt) :
    Stays [.mem, .flt, .aon, .kvp] s (State.attPrep s k e o whole p) := by
  unfold State.attPrep
  try dsimp only
  repeat' first
    | with_reducible apply Stays.ite
    | with_reducible apply Stays.each; (intro _ _; try dsimp only)
    | with_reducible apply Stays.fold; (intro _ _; try dsimp only)
    | refine Stays.via (by with_reducible apply State.kvPtCheck_stays) ?_ (by decide)
    | refine Stays.via (by with_reducible apply State.raiseU_stays) ?_ (by decide)
    | refine Stays.via (by with_reducible apply State.modKvp_stays) ?_ (by decide)
    | with_reducible apply Stays.refl
    | dsimp only
    | split
    | with_reducible apply Stays.elim <;> intros
    | exact Stays.mk_of id fun p => by cases p <;> first | exact Or.inr rfl | exact Or.inl (by decide)

end Sys2Proof.Machine
end

