-- ==== Sys2Proof/Laws/FrameRelay.lean ====
section
/-! SUPPORT. What each operation of Machine/Relay.lean may change. -/

-- One theorem at a time: a thread a theorem would be too many. Proofs of one form name alternatives that some goals do not need.
set_option Elab.async false
set_option linter.all false

namespace Sys2Proof.Machine

open Sys2Proof

theorem State.allA_stays (s : State) (x : Nat) (v : Nat) :
    Stays [.rly] s (State.allA s x v) := by
  unfold State.allA
  try dsimp only
  repeat' first
    | with_reducible apply Stays.ite
    | with_reducible apply Stays.each; (intro _ _; try dsimp only)
    | with_reducible apply Stays.fold; (intro _ _; try dsimp only)
    | refine Stays.via (by with_reducible apply State.modLane_stays) ?_ (by decide)
    | with_reducible apply Stays.refl
    | dsimp only
    | split
    | with_reducible apply Stays.elim <;> intros
    | exact Stays.mk_of id fun p => by cases p <;> first | exact Or.inr rfl | exact Or.inl (by decide)

theorem State.allC_stays (s : State) (x : Nat) (v : Int) :
    Stays [.rly] s (State.allC s x v) := by
  unfold State.allC
  try dsimp only
  repeat' first
    | with_reducible apply Stays.ite
    | with_reducible apply Stays.each; (intro _ _; try dsimp only)
    | with_reducible apply Stays.fold; (intro _ _; try dsimp only)
    | refine Stays.via (by with_reducible apply State.modLane_stays) ?_ (by decide)
    | with_reducible apply Stays.refl
    | dsimp only
    | split
    | with_reducible apply Stays.elim <;> intros
    | exact Stays.mk_of id fun p => by cases p <;> first | exact Or.inr rfl | exact Or.inl (by decide)

theorem State.closeBand_stays (s : State) :
    Stays [.pan, .rly] s (State.closeBand s) := by
  unfold State.closeBand
  try dsimp only
  repeat' first
    | with_reducible apply Stays.ite
    | with_reducible apply Stays.each; (intro _ _; try dsimp only)
    | with_reducible apply Stays.fold; (intro _ _; try dsimp only)
    | refine Stays.via (by with_reducible apply State.modRly_stays) ?_ (by decide)
    | refine Stays.via (by with_reducible apply State.bandCredit_stays) ?_ (by decide)
    | with_reducible apply Stays.refl
    | dsimp only
    | split
    | with_reducible apply Stays.elim <;> intros
    | exact Stays.mk_of id fun p => by cases p <;> first | exact Or.inr rfl | exact Or.inl (by decide)

theorem State.doSwitch_stays (s : State) (x : Exchange) :
    Stays [.mem, .out, .hl, .flt, .aon, .rly, .act] s (State.doSwitch s x) := by
  unfold State.doSwitch
  try dsimp only
  repeat' first
    | with_reducible apply Stays.ite
    | with_reducible apply Stays.each; (intro _ _; try dsimp only)
    | with_reducible apply Stays.fold; (intro _ _; try dsimp only)
    | refine Stays.via (by with_reducible apply State.modRly_stays) ?_ (by decide)
    | refine Stays.via (by with_reducible apply State.actCancel_stays) ?_ (by decide)
    | refine Stays.via (by with_reducible apply State.complete_stays) ?_ (by decide)
    | refine Stays.via (by with_reducible apply State.relevel_stays) ?_ (by decide)
    | with_reducible apply Stays.refl
    | dsimp only
    | split
    | with_reducible apply Stays.elim <;> intros
    | exact Stays.mk_of id fun p => by cases p <;> first | exact Or.inr rfl | exact Or.inl (by decide)

theorem State.drainBands_stays (reason n : Nat) (s : State) : Stays [.hl, .pan, .rly] s (State.drainBands reason n s) := by
  induction n generalizing s with
  | zero => exact Stays.refl _ _
  | succ n ih =>
    unfold State.drainBands
    split
    · refine Stays.via (ih _) ?_ (by decide)
      refine Stays.via (State.modRly_stays _ _) ?_ (by decide)
      refine Stays.via (State.postAbandon_stays _ _ _ _ _) ?_ (by decide)
      exact Stays.step (Stays.refl _ _) (State.bandCredit_stays _ _) (by decide)
    · exact Stays.refl _ _

theorem State.fixLanes_stays (s : State) :
    Stays [.rly] s (State.fixLanes s) := by
  unfold State.fixLanes
  try dsimp only
  repeat' first
    | with_reducible apply Stays.ite
    | with_reducible apply Stays.each; (intro _ _; try dsimp only)
    | with_reducible apply Stays.fold; (intro _ _; try dsimp only)
    | refine Stays.via (by with_reducible apply State.modRly_stays) ?_ (by decide)
    | with_reducible apply Stays.refl
    | dsimp only
    | split
    | with_reducible apply Stays.elim <;> intros
    | exact Stays.mk_of id fun p => by cases p <;> first | exact Or.inr rfl | exact Or.inl (by decide)

theorem State.noteHigh_stays (s : State) (f : Nat) (k : BitVec 32) :
    Stays [.rly] s (State.noteHigh s f k) := by
  unfold State.noteHigh
  try dsimp only
  repeat' first
    | with_reducible apply Stays.ite
    | with_reducible apply Stays.each; (intro _ _; try dsimp only)
    | with_reducible apply Stays.fold; (intro _ _; try dsimp only)
    | refine Stays.via (by with_reducible apply State.modRly_stays) ?_ (by decide)
    | with_reducible apply Stays.refl
    | dsimp only
    | split
    | with_reducible apply Stays.elim <;> intros
    | exact Stays.mk_of id fun p => by cases p <;> first | exact Or.inr rfl | exact Or.inl (by decide)

theorem State.pendPrune_stays (s : State) :
    Stays [.rly] s (State.pendPrune s) := by
  unfold State.pendPrune
  try dsimp only
  repeat' first
    | with_reducible apply Stays.ite
    | with_reducible apply Stays.each; (intro _ _; try dsimp only)
    | with_reducible apply Stays.fold; (intro _ _; try dsimp only)
    | refine Stays.via (by with_reducible apply State.modRly_stays) ?_ (by decide)
    | with_reducible apply Stays.refl
    | dsimp only
    | split
    | with_reducible apply Stays.elim <;> intros
    | exact Stays.mk_of id fun p => by cases p <;> first | exact Or.inr rfl | exact Or.inl (by decide)

theorem State.notePending_stays (s : State) (f : Nat) (k : BitVec 32) (e : Epoch) :
    Stays [.rly] s (State.notePending s f k e) := by
  unfold State.notePending
  try dsimp only
  repeat' first
    | with_reducible apply Stays.ite
    | with_reducible apply Stays.each; (intro _ _; try dsimp only)
    | with_reducible apply Stays.fold; (intro _ _; try dsimp only)
    | refine Stays.via (by with_reducible apply State.modRly_stays) ?_ (by decide)
    | refine Stays.via (by with_reducible apply State.pendPrune_stays) ?_ (by decide)
    | with_reducible apply Stays.refl
    | dsimp only
    | split
    | with_reducible apply Stays.elim <;> intros
    | exact Stays.mk_of id fun p => by cases p <;> first | exact Or.inr rfl | exact Or.inl (by decide)

theorem State.openBand_stays (s : State) (reg : Nat) (f : Nat) (k : BitVec 32) (e : Epoch) (off : Nat) :
    Stays [.rly] s (State.openBand s reg f k e off) := by
  unfold State.openBand
  try dsimp only
  repeat' first
    | with_reducible apply Stays.ite
    | with_reducible apply Stays.each; (intro _ _; try dsimp only)
    | with_reducible apply Stays.fold; (intro _ _; try dsimp only)
    | refine Stays.via (by with_reducible apply State.fixLanes_stays) ?_ (by decide)
    | refine Stays.via (by with_reducible apply State.modRly_stays) ?_ (by decide)
    | refine Stays.via (by with_reducible apply State.allA_stays) ?_ (by decide)
    | refine Stays.via (by with_reducible apply State.notePending_stays) ?_ (by decide)
    | refine Stays.via (by with_reducible apply State.noteHigh_stays) ?_ (by decide)
    | with_reducible apply Stays.refl
    | dsimp only
    | split
    | with_reducible apply Stays.elim <;> intros
    | exact Stays.mk_of id fun p => by cases p <;> first | exact Or.inr rfl | exact Or.inl (by decide)

theorem State.trkNotice_stays (s : State) (rcl : Bool) (n : Notice) :
    Stays [.trk] s (State.trkNotice s rcl n) := by
  unfold State.trkNotice
  try dsimp only
  repeat' first
    | with_reducible apply Stays.ite
    | with_reducible apply Stays.each; (intro _ _; try dsimp only)
    | with_reducible apply Stays.fold; (intro _ _; try dsimp only)
    | refine Stays.via (by with_reducible apply State.modTrk_stays) ?_ (by decide)
    | with_reducible apply Stays.refl
    | dsimp only
    | split
    | with_reducible apply Stays.elim <;> intros
    | exact Stays.mk_of id fun p => by cases p <;> first | exact Or.inr rfl | exact Or.inl (by decide)

theorem State.passNotice_stays (s : State) (rcl : Bool) (e : Epoch) (t : DT64) :
    Stays [.hl, .trk, .rly, .slv, .act] s (State.passNotice s rcl e t) := by
  unfold State.passNotice
  try dsimp only
  repeat' first
    | with_reducible apply Stays.ite
    | with_reducible apply Stays.each; (intro _ _; try dsimp only)
    | with_reducible apply Stays.fold; (intro _ _; try dsimp only)
    | refine Stays.via (by with_reducible apply State.modRly_stays) ?_ (by decide)
    | refine Stays.via (by with_reducible apply State.trkNotice_stays) ?_ (by decide)
    | refine Stays.via (by with_reducible apply State.modSlv_stays) ?_ (by decide)
    | refine Stays.via (by with_reducible apply State.modAct_stays) ?_ (by decide)
    | refine Stays.via (by with_reducible apply State.report_stays) ?_ (by decide)
    | with_reducible apply Stays.refl
    | dsimp only
    | split
    | with_reducible apply Stays.elim <;> intros
    | exact Stays.mk_of id fun p => by cases p <;> first | exact Or.inr rfl | exact Or.inl (by decide)

theorem State.track_stays (s : State) (rcl : Bool) (e : Epoch) :
    Stays [.mem, .flt, .aon, .rly, .kvp] s (State.track s rcl e) := by
  unfold State.track
  try dsimp only
  repeat' first
    | with_reducible apply Stays.ite
    | with_reducible apply Stays.each; (intro _ _; try dsimp only)
    | with_reducible apply Stays.fold; (intro _ _; try dsimp only)
    | refine Stays.via (by with_reducible apply State.modRly_stays) ?_ (by decide)
    | refine Stays.via (by with_reducible apply State.pendPrune_stays) ?_ (by decide)
    | refine Stays.via (by with_reducible apply State.kvTold_stays) ?_ (by decide)
    | with_reducible apply Stays.refl
    | dsimp only
    | split
    | with_reducible apply Stays.elim <;> intros
    | exact Stays.mk_of id fun p => by cases p <;> first | exact Or.inr rfl | exact Or.inl (by decide)

theorem State.dropViews_stays (s : State) (e : Epoch) :
    Stays [.trk, .slv, .act] s (State.dropViews s e) := by
  unfold State.dropViews
  try dsimp only
  repeat' first
    | with_reducible apply Stays.ite
    | with_reducible apply Stays.each; (intro _ _; try dsimp only)
    | with_reducible apply Stays.fold; (intro _ _; try dsimp only)
    | refine Stays.via (by with_reducible apply State.modTrk_stays) ?_ (by decide)
    | refine Stays.via (by with_reducible apply State.modSlv_stays) ?_ (by decide)
    | refine Stays.via (by with_reducible apply State.modAct_stays) ?_ (by decide)
    | with_reducible apply Stays.refl
    | dsimp only
    | split
    | with_reducible apply Stays.elim <;> intros
    | exact Stays.mk_of id fun p => by cases p <;> first | exact Or.inr rfl | exact Or.inl (by decide)

theorem State.badToken_stays (s : State) (word : Nat) :
    Stays [.flt] s (State.badToken s word) := by
  unfold State.badToken
  try dsimp only
  repeat' first
    | with_reducible apply Stays.ite
    | with_reducible apply Stays.each; (intro _ _; try dsimp only)
    | with_reducible apply Stays.fold; (intro _ _; try dsimp only)
    | refine Stays.via (by with_reducible apply State.raiseU_stays) ?_ (by decide)
    | with_reducible apply Stays.refl
    | dsimp only
    | split
    | with_reducible apply Stays.elim <;> intros
    | exact Stays.mk_of id fun p => by cases p <;> first | exact Or.inr rfl | exact Or.inl (by decide)

theorem State.placeToken_stays (s : State) (t : BandTok) :
    Stays [.mem, .flt, .aon, .trk, .rly, .kvp, .slv, .act] s (State.placeToken s t) := by
  unfold State.placeToken
  try dsimp only
  repeat' first
    | with_reducible apply Stays.ite
    | with_reducible apply Stays.each; (intro _ _; try dsimp only)
    | with_reducible apply Stays.fold; (intro _ _; try dsimp only)
    | refine Stays.via (by with_reducible apply State.modRly_stays) ?_ (by decide)
    | refine Stays.via (by with_reducible apply State.dropViews_stays) ?_ (by decide)
    | refine Stays.via (by with_reducible apply State.badToken_stays) ?_ (by decide)
    | refine Stays.via (by with_reducible apply State.track_stays) ?_ (by decide)
    | with_reducible apply Stays.refl
    | dsimp only
    | split
    | with_reducible apply Stays.elim <;> intros
    | exact Stays.mk_of id fun p => by cases p <;> first | exact Or.inr rfl | exact Or.inl (by decide)

theorem State.skipVoid_stays (n : Nat) (s : State) : Stays [.pan, .rly] s (State.skipVoid n s) := by
  induction n generalizing s with
  | zero => exact Stays.refl _ _
  | succ n ih =>
    unfold State.skipVoid
    split
    · split
      · refine Stays.via (ih _) ?_ (by decide)
        refine Stays.via (State.notePending_stays _ _ _ _) ?_ (by decide)
        refine Stays.via (State.bandCredit_stays _ _) ?_ (by decide)
        exact Stays.step (Stays.refl _ _) (State.modRly_stays _ _) (by decide)
      · exact Stays.refl _ _
    · exact Stays.refl _ _

theorem State.slvHeatIn_stays (s : State) (addr : Nat) (baton : Option Nat) (host : Option (Nat × BitVec 32)) (e : Epoch) :
    Stays [.slv] s (State.slvHeatIn s addr baton host e) := by
  unfold State.slvHeatIn
  try dsimp only
  repeat' first
    | with_reducible apply Stays.ite
    | with_reducible apply Stays.each; (intro _ _; try dsimp only)
    | with_reducible apply Stays.fold; (intro _ _; try dsimp only)
    | refine Stays.via (by with_reducible apply State.modSlv_stays) ?_ (by decide)
    | with_reducible apply Stays.refl
    | dsimp only
    | split
    | with_reducible apply Stays.elim <;> intros
    | exact Stays.mk_of id fun p => by cases p <;> first | exact Or.inr rfl | exact Or.inl (by decide)

theorem State.switchFor_stays (s : State) (f : Nat) (k : BitVec 32) :
    Stays [.mem, .out, .hl, .flt, .aon, .rly, .act] s (State.switchFor s f k) := by
  unfold State.switchFor
  try dsimp only
  repeat' first
    | with_reducible apply Stays.ite
    | with_reducible apply Stays.each; (intro _ _; try dsimp only)
    | with_reducible apply Stays.fold; (intro _ _; try dsimp only)
    | refine Stays.via (by with_reducible apply State.doSwitch_stays) ?_ (by decide)
    | with_reducible apply Stays.refl
    | dsimp only
    | split
    | with_reducible apply Stays.elim <;> intros
    | exact Stays.mk_of id fun p => by cases p <;> first | exact Or.inr rfl | exact Or.inl (by decide)

theorem State.switchNow_stays (s : State) (x : Exchange) :
    Stays [.mem, .out, .hl, .flt, .aon, .rly, .act] s (State.switchNow s x) := by
  unfold State.switchNow
  try dsimp only
  repeat' first
    | with_reducible apply Stays.ite
    | with_reducible apply Stays.each; (intro _ _; try dsimp only)
    | with_reducible apply Stays.fold; (intro _ _; try dsimp only)
    | refine Stays.via (by with_reducible apply State.modRly_stays) ?_ (by decide)
    | refine Stays.via (by with_reducible apply State.actCancel_stays) ?_ (by decide)
    | refine Stays.via (by with_reducible apply State.restartStreams_stays) ?_ (by decide)
    | refine Stays.via (by with_reducible apply State.complete_stays) ?_ (by decide)
    | refine Stays.via (by with_reducible apply State.relevel_stays) ?_ (by decide)
    | with_reducible apply Stays.refl
    | dsimp only
    | split
    | with_reducible apply Stays.elim <;> intros
    | exact Stays.mk_of id fun p => by cases p <;> first | exact Or.inr rfl | exact Or.inl (by decide)

theorem State.trkHand_stays (s : State) (h : DetHand) :
    Stays [.trk] s (State.trkHand s h) := by
  unfold State.trkHand
  try dsimp only
  repeat' first
    | with_reducible apply Stays.ite
    | with_reducible apply Stays.each; (intro _ _; try dsimp only)
    | with_reducible apply Stays.fold; (intro _ _; try dsimp only)
    | refine Stays.via (by with_reducible apply State.modTrk_stays) ?_ (by decide)
    | with_reducible apply Stays.refl
    | dsimp only
    | split
    | with_reducible apply Stays.elim <;> intros
    | exact Stays.mk_of id fun p => by cases p <;> first | exact Or.inr rfl | exact Or.inl (by decide)

theorem State.fenceOff_stays (s : State) (f : Nat) :
    Stays [.rly] s (State.fenceOff s f) := by
  unfold State.fenceOff
  try dsimp only
  repeat' first
    | with_reducible apply Stays.ite
    | with_reducible apply Stays.each; (intro _ _; try dsimp only)
    | with_reducible apply Stays.fold; (intro _ _; try dsimp only)
    | refine Stays.via (by with_reducible apply State.modRly_stays) ?_ (by decide)
    | refine Stays.via (by with_reducible apply State.pendPrune_stays) ?_ (by decide)
    | with_reducible apply Stays.refl
    | dsimp only
    | split
    | with_reducible apply Stays.elim <;> intros
    | exact Stays.mk_of id fun p => by cases p <;> first | exact Or.inr rfl | exact Or.inl (by decide)

theorem State.switchIdle_stays (s : State) :
    Stays [.mem, .out, .hl, .flt, .aon, .rly, .act] s (State.switchIdle s) := by
  unfold State.switchIdle
  try dsimp only
  repeat' first
    | with_reducible apply Stays.ite
    | with_reducible apply Stays.each; (intro _ _; try dsimp only)
    | with_reducible apply Stays.fold; (intro _ _; try dsimp only)
    | refine Stays.via (by with_reducible apply State.switchNow_stays) ?_ (by decide)
    | with_reducible apply Stays.refl
    | dsimp only
    | split
    | with_reducible apply Stays.elim <;> intros
    | exact Stays.mk_of id fun p => by cases p <;> first | exact Or.inr rfl | exact Or.inl (by decide)

end Sys2Proof.Machine
end

