-- ==== Sys2Proof/Laws/FramePanPlace.lean ====
section
/-! SUPPORT. What each operation of Machine/PanPlace.lean may change. -/

-- One theorem at a time: a thread a theorem would be too many. Proofs of one form name alternatives that some goals do not need.
set_option Elab.async false
set_option linter.all false

namespace Sys2Proof.Machine

open Sys2Proof

theorem State.modPf_stays (s : State) (f : Nat) (g : PanFrame → PanFrame) :
    Stays [.pan] s (State.modPf s f g) := by
  unfold State.modPf
  try dsimp only
  repeat' first
    | with_reducible apply Stays.ite
    | with_reducible apply Stays.each; (intro _ _; try dsimp only)
    | with_reducible apply Stays.fold; (intro _ _; try dsimp only)
    | refine Stays.via (by with_reducible apply State.modPan_stays) ?_ (by decide)
    | with_reducible apply Stays.refl
    | dsimp only
    | split
    | with_reducible apply Stays.elim <;> intros
    | exact Stays.mk_of id fun p => by cases p <;> first | exact Or.inr rfl | exact Or.inl (by decide)

theorem State.changeOver_stays (s : State) (f : Nat) (k : BitVec 32) :
    Stays [.pan] s (State.changeOver s f k) := by
  unfold State.changeOver
  try dsimp only
  repeat' first
    | with_reducible apply Stays.ite
    | with_reducible apply Stays.each; (intro _ _; try dsimp only)
    | with_reducible apply Stays.fold; (intro _ _; try dsimp only)
    | refine Stays.via (by with_reducible apply State.modPf_stays) ?_ (by decide)
    | with_reducible apply Stays.refl
    | dsimp only
    | split
    | with_reducible apply Stays.elim <;> intros
    | exact Stays.mk_of id fun p => by cases p <;> first | exact Or.inr rfl | exact Or.inl (by decide)

theorem State.modPs_stays (s : State) (n : Nat) (g : PanStream → PanStream) :
    Stays [.pan] s (State.modPs s n g) := by
  unfold State.modPs
  try dsimp only
  repeat' first
    | with_reducible apply Stays.ite
    | with_reducible apply Stays.each; (intro _ _; try dsimp only)
    | with_reducible apply Stays.fold; (intro _ _; try dsimp only)
    | refine Stays.via (by with_reducible apply State.modPan_stays) ?_ (by decide)
    | with_reducible apply Stays.refl
    | dsimp only
    | split
    | with_reducible apply Stays.elim <;> intros
    | exact Stays.mk_of id fun p => by cases p <;> first | exact Or.inr rfl | exact Or.inl (by decide)

theorem State.panBadPt_stays (s : State) (n : Nat) (k : Nat) :
    Stays [.pan] s (State.panBadPt s n k) := by
  unfold State.panBadPt
  try dsimp only
  repeat' first
    | with_reducible apply Stays.ite
    | with_reducible apply Stays.each; (intro _ _; try dsimp only)
    | with_reducible apply Stays.fold; (intro _ _; try dsimp only)
    | refine Stays.via (by with_reducible apply State.modPs_stays) ?_ (by decide)
    | with_reducible apply Stays.refl
    | dsimp only
    | split
    | with_reducible apply Stays.elim <;> intros
    | exact Stays.mk_of id fun p => by cases p <;> first | exact Or.inr rfl | exact Or.inl (by decide)

theorem State.panLate_stays (s : State) (n : Nat) :
    Stays [.pan] s (State.panLate s n) := by
  unfold State.panLate
  try dsimp only
  repeat' first
    | with_reducible apply Stays.ite
    | with_reducible apply Stays.each; (intro _ _; try dsimp only)
    | with_reducible apply Stays.fold; (intro _ _; try dsimp only)
    | refine Stays.via (by with_reducible apply State.modPs_stays) ?_ (by decide)
    | with_reducible apply Stays.refl
    | dsimp only
    | split
    | with_reducible apply Stays.elim <;> intros
    | exact Stays.mk_of id fun p => by cases p <;> first | exact Or.inr rfl | exact Or.inl (by decide)

theorem State.panSweep_stays (s : State) :
    Stays [.pan] s (State.panSweep s) := by
  unfold State.panSweep
  try dsimp only
  repeat' first
    | with_reducible apply Stays.ite
    | with_reducible apply Stays.each; (intro _ _; try dsimp only)
    | with_reducible apply Stays.fold; (intro _ _; try dsimp only)
    | refine Stays.via (by with_reducible apply State.modPan_stays) ?_ (by decide)
    | with_reducible apply Stays.refl
    | dsimp only
    | split
    | with_reducible apply Stays.elim <;> intros
    | exact Stays.mk_of id fun p => by cases p <;> first | exact Or.inr rfl | exact Or.inl (by decide)

theorem State.storePut_stays {s : State} {b : List Byte} {x : Nat × State} (h : s.storePut b = some x) : Stays [.mem, .aon,
  .pan] s x.2 := by
  unfold State.storePut at h
  simp only [Option.map_eq_some_iff] at h
  obtain ⟨o, _, rfl⟩ := h
  exact Stays.step (Stays.step (Stays.refl _ _) (State.modPan_stays _ _) (by decide)) (State.writeMem_stays _ _ _) (by decide)

theorem State.writePlaces_stays {e : Epoch} {r : Bool} {l : List Sample} : ∀ {s : State} {x : List Sample × State},
    s.writePlaces e r l = some x → Stays [.mem, .aon, .pan] s x.2 := by
  induction l with
  | nil => intro s x h; cases h; exact Stays.refl _ _
  | cons y t ih =>
    intro s x h
    unfold State.writePlaces at h
    split at h
    · simp only [Option.map_eq_some_iff] at h
      obtain ⟨z, hz, rfl⟩ := h
      exact ih (x := z) hz
    · dsimp only at h
      split at h
      · cases h
      · rename_i o s1 h1
        simp only [Option.map_eq_some_iff] at h
        obtain ⟨z, hz, rfl⟩ := h
        exact Stays.step (State.storePut_stays h1) (ih (x := z) hz) (fun _ h => h)

theorem State.writeRelease_stays {s : State} {h : RelHead} {m : List Sample} {x : List Sample × State}
    (e : s.writeRelease h m = some x) : Stays [.mem, .aon, .pan] s x.2 := by
  unfold State.writeRelease at e
  dsimp only at e
  split at e
  · cases e
  · rename_i l1 s1 h1
    have b := State.writePlaces_stays h1
    split at e
    · cases e
    · rename_i o s2 h2
      have c : Stays [.mem, .aon, .pan] s s2 := Stays.step b (State.storePut_stays h2) (by decide)
      cases e
      dsimp only
      refine Stays.via (State.modPan_stays _ _) ?_ (by decide)
      exact Stays.step c (State.modPf_stays _ _ _) (by decide)

theorem State.beginBands_stays (f : Nat) : ∀ (l : List (BitVec 32)) (s : State), Stays [.pan] s (s.beginBands f l)
  | [], s => Stays.refl _ s
  | k :: l, s => by
    unfold State.beginBands
    exact Stays.ite (State.beginBands_stays f l s)
      (((State.changeOver_stays s f k).step (State.modPf_stays _ _ _) fun _ h => h).step (State.beginBands_stays f l _) fun _ h => h)

end Sys2Proof.Machine
end

