-- ==== Sys2Proof/Laws/FramePan.lean ====
section
/-! SUPPORT. What each operation of Machine/Pan.lean may change. -/

-- One theorem at a time: a thread a theorem would be too many. Proofs of one form name alternatives that some goals do not need.
set_option Elab.async false
set_option linter.all false

namespace Sys2Proof.Machine

open Sys2Proof

theorem State.panMarks_stays (s : State) (f : Nat) (n : Nat) :
    Stays [.pan] s (State.panMarks s f n) := by
  induction n generalizing s with
  | zero => exact Stays.refl _ _
  | succ n ih =>
    unfold State.panMarks
    try dsimp only
    repeat' first
      | with_reducible apply Stays.ite
      | refine Stays.via (ih _) ?_ (by decide)
      | refine Stays.via (by with_reducible apply State.modPf_stays) ?_ (by decide)
      | with_reducible apply Stays.refl
      | dsimp only
      | split
      | exact Stays.mk_of id fun p => by cases p <;> first | exact Or.inr rfl | exact Or.inl (by decide)

theorem State.panMark_stays (s : State) (f : Nat) :
    Stays [.pan] s (State.panMark s f) := by
  unfold State.panMark
  try dsimp only
  repeat' first
    | with_reducible apply Stays.ite
    | with_reducible apply Stays.each; (intro _ _; try dsimp only)
    | with_reducible apply Stays.fold; (intro _ _; try dsimp only)
    | refine Stays.via (by with_reducible apply State.panMarks_stays) ?_ (by decide)
    | with_reducible apply Stays.refl
    | dsimp only
    | split
    | with_reducible apply Stays.elim <;> intros
    | exact Stays.mk_of id fun p => by cases p <;> first | exact Or.inr rfl | exact Or.inl (by decide)

theorem State.releaseBand_stays {s : State} {f : Nat} {k : BitVec 32} {e : Epoch} {a g : Nat} {m : Bool} {t : State}
    (h : s.releaseBand f k e a g m = some t) : Stays [.mem, .aon, .pan] s t := by
  unfold State.releaseBand at h
  simp only [Option.map_eq_some_iff] at h
  obtain ⟨x, hx, rfl⟩ := h
  refine Stays.via (State.panSweep_stays _) ?_ (by decide)
  refine Stays.via (State.panMark_stays _ _) ?_ (by decide)
  refine Stays.via (State.modPf_stays _ _ _) ?_ (by decide)
  refine Stays.via (State.writeRelease_stays hx) ?_ (by decide)
  exact Stays.step (Stays.refl _ _) (State.changeOver_stays _ _ _) (by decide)

theorem State.drainOne_stays {s : State} {f : Nat} {t : State} (h : s.drainOne f = some t) : Stays [.mem, .aon, .pan] s t := by
  unfold State.drainOne at h
  split at h
  · split at h
    · cases h
      exact Stays.step (Stays.refl _ _) (State.modPf_stays _ _ _) (by decide)
    · exact State.releaseBand_stays h
  · cases h

theorem State.gapOn_stays (s : State) (n : Nat) (x : Sample) :
    Stays [.pan] s (State.gapOn s n x) := by
  unfold State.gapOn
  try dsimp only
  repeat' first
    | with_reducible apply Stays.ite
    | with_reducible apply Stays.each; (intro _ _; try dsimp only)
    | with_reducible apply Stays.fold; (intro _ _; try dsimp only)
    | refine Stays.via (by with_reducible apply State.modPs_stays) ?_ (by decide)
    | with_reducible apply Stays.refl
    | dsimp only
    | split
    | with_reducible apply Stays.elim <;> intros
    | exact Stays.mk_of id fun p => by cases p <;> first | exact Or.inr rfl | exact Or.inl (by decide)

theorem State.panPlace_stays (s : State) (n : Nat) :
    Stays [.pan] s (State.panPlace s n) := by
  unfold State.panPlace
  try dsimp only
  repeat' first
    | with_reducible apply Stays.ite
    | with_reducible apply Stays.each; (intro _ _; try dsimp only)
    | with_reducible apply Stays.fold; (intro _ _; try dsimp only)
    | refine Stays.via (by with_reducible apply State.modPs_stays) ?_ (by decide)
    | refine Stays.via (by with_reducible apply State.panBadPt_stays) ?_ (by decide)
    | refine Stays.via (by with_reducible apply State.gapOn_stays) ?_ (by decide)
    | refine Stays.via (by with_reducible apply State.panSweep_stays) ?_ (by decide)
    | refine Stays.via (by with_reducible apply State.panLate_stays) ?_ (by decide)
    | refine Stays.via (by with_reducible apply State.modPf_stays) ?_ (by decide)
    | refine Stays.via (by with_reducible apply State.beginBands_stays) ?_ (by decide)
    | refine Stays.via (by with_reducible apply State.panMark_stays) ?_ (by decide)
    | with_reducible apply Stays.refl
    | dsimp only
    | split
    | with_reducible apply Stays.elim <;> intros
    | exact Stays.mk_of id fun p => by cases p <;> first | exact Or.inr rfl | exact Or.inl (by decide)

theorem State.placeAll_stays (s : State) (n k : Nat) : Stays [.pan] s (s.placeAll n k) := by
  induction k generalizing s with
  | zero => exact Stays.refl _ _
  | succ k ih =>
    unfold State.placeAll
    dsimp only
    split
    · exact Stays.via (ih _) (State.panPlace_stays _ _) (by decide)
    · exact Stays.refl _ _

theorem State.panNotice_stays (s : State) (rcl : Bool) (e : Epoch) :
    Stays [.hl, .pan] s (State.panNotice s rcl e) := by
  unfold State.panNotice
  try dsimp only
  repeat' first
    | with_reducible apply Stays.ite
    | with_reducible apply Stays.each; (intro _ _; try dsimp only)
    | with_reducible apply Stays.fold; (intro _ _; try dsimp only)
    | refine Stays.via (by with_reducible apply State.modPan_stays) ?_ (by decide)
    | refine Stays.via (by with_reducible apply State.report_stays) ?_ (by decide)
    | with_reducible apply Stays.refl
    | dsimp only
    | split
    | with_reducible apply Stays.elim <;> intros
    | exact Stays.mk_of id fun p => by cases p <;> first | exact Or.inr rfl | exact Or.inl (by decide)

theorem State.recallMark_stays (s : State) (f : Nat) (e : Epoch) (again : Bool) (mabsent : Bool) :
    Stays [.pan] s (State.recallMark s f e again mabsent) := by
  unfold State.recallMark
  try dsimp only
  repeat' first
    | with_reducible apply Stays.ite
    | with_reducible apply Stays.each; (intro _ _; try dsimp only)
    | with_reducible apply Stays.fold; (intro _ _; try dsimp only)
    | refine Stays.via (by with_reducible apply State.modPf_stays) ?_ (by decide)
    | with_reducible apply Stays.refl
    | dsimp only
    | split
    | with_reducible apply Stays.elim <;> intros
    | exact Stays.mk_of id fun p => by cases p <;> first | exact Or.inr rfl | exact Or.inl (by decide)

theorem State.panRecall_stays (s : State) (f : Nat) (e : Epoch) (again : Bool) (mabsent : Bool) :
    Stays [.hl, .pan] s (State.panRecall s f e again mabsent) := by
  unfold State.panRecall
  try dsimp only
  repeat' first
    | with_reducible apply Stays.ite
    | with_reducible apply Stays.each; (intro _ _; try dsimp only)
    | with_reducible apply Stays.fold; (intro _ _; try dsimp only)
    | refine Stays.via (by with_reducible apply State.recallMark_stays) ?_ (by decide)
    | refine Stays.via (by with_reducible apply State.panNotice_stays) ?_ (by decide)
    | refine Stays.via (by with_reducible apply State.panSweep_stays) ?_ (by decide)
    | with_reducible apply Stays.refl
    | dsimp only
    | split
    | with_reducible apply Stays.elim <;> intros
    | exact Stays.mk_of id fun p => by cases p <;> first | exact Or.inr rfl | exact Or.inl (by decide)

theorem State.refreshAll_stays (s : State) (f : Nat) (want : Sample → Bool) :
    Stays [.pan] s (State.refreshAll s f want) := by
  unfold State.refreshAll
  try dsimp only
  repeat' first
    | with_reducible apply Stays.ite
    | with_reducible apply Stays.each; (intro _ _; try dsimp only)
    | with_reducible apply Stays.fold; (intro _ _; try dsimp only)
    | refine Stays.via (by with_reducible apply State.modPf_stays) ?_ (by decide)
    | refine Stays.via (by with_reducible apply State.panLate_stays) ?_ (by decide)
    | refine Stays.via (by with_reducible apply State.beginBands_stays) ?_ (by decide)
    | refine Stays.via (by with_reducible apply State.modPs_stays) ?_ (by decide)
    | with_reducible apply Stays.refl
    | dsimp only
    | split
    | with_reducible apply Stays.elim <;> intros
    | exact Stays.mk_of id fun p => by cases p <;> first | exact Or.inr rfl | exact Or.inl (by decide)

theorem State.reRelease_stays {s : State} {f : Nat} {t : State} (h : s.reRelease f = some t) : Stays [.mem, .aon, .pan] s t := by
  unfold State.reRelease at h
  split at h
  · cases h
  · simp only [Option.bind_eq_some_iff, Option.map_eq_some_iff] at h
    obtain ⟨x, _, e, _, y, hy, rfl⟩ := h
    refine Stays.via (State.panSweep_stays _) ?_ (by decide)
    refine Stays.each (fun a t => Stays.step (Stays.refl _ _) (State.panLate_stays _ _) (by decide)) ?_
    exact Stays.via (State.modPf_stays _ _ _) (State.writeRelease_stays hy) (by decide)

theorem State.panDrain_stays (s : State) (f n : Nat) : Stays [.mem, .aon, .pan] s (s.panDrain f n) := by
  induction n generalizing s with
  | zero => exact Stays.refl _ _
  | succ n ih =>
    unfold State.panDrain
    split
    · exact Stays.elim (Stays.refl _ _) fun t h => Stays.via (ih t) (State.reRelease_stays h) (by decide)
    · exact Stays.elim (Stays.refl _ _) fun t h => Stays.via (ih t) (State.drainOne_stays h) (by decide)

theorem State.freshenAll_stays (s : State) (f : Nat) (want : Sample → Bool) :
    Stays [.pan] s (State.freshenAll s f want) := by
  unfold State.freshenAll
  try dsimp only
  repeat' first
    | with_reducible apply Stays.ite
    | with_reducible apply Stays.each; (intro _ _; try dsimp only)
    | with_reducible apply Stays.fold; (intro _ _; try dsimp only)
    | refine Stays.via (by with_reducible apply State.modPf_stays) ?_ (by decide)
    | with_reducible apply Stays.refl
    | dsimp only
    | split
    | with_reducible apply Stays.elim <;> intros
    | exact Stays.mk_of id fun p => by cases p <;> first | exact Or.inr rfl | exact Or.inl (by decide)

theorem State.dropWaiting_stays (s : State) (n : Nat) (go : Sample → Bool) :
    Stays [.pan] s (State.dropWaiting s n go) := by
  unfold State.dropWaiting
  try dsimp only
  repeat' first
    | with_reducible apply Stays.ite
    | with_reducible apply Stays.each; (intro _ _; try dsimp only)
    | with_reducible apply Stays.fold; (intro _ _; try dsimp only)
    | refine Stays.via (by with_reducible apply State.panLate_stays) ?_ (by decide)
    | refine Stays.via (by with_reducible apply State.modPs_stays) ?_ (by decide)
    | with_reducible apply Stays.refl
    | dsimp only
    | split
    | with_reducible apply Stays.elim <;> intros
    | exact Stays.mk_of id fun p => by cases p <;> first | exact Or.inr rfl | exact Or.inl (by decide)

theorem State.panAbsent_stays (s : State) (f : Nat) :
    Stays [.mem, .hl, .aon, .pan] s (State.panAbsent s f) := by
  unfold State.panAbsent
  try dsimp only
  repeat' first
    | with_reducible apply Stays.ite
    | with_reducible apply Stays.each; (intro _ _; try dsimp only)
    | with_reducible apply Stays.fold; (intro _ _; try dsimp only)
    | refine Stays.via (by with_reducible apply State.modPf_stays) ?_ (by decide)
    | refine Stays.via (by with_reducible apply State.placeAll_stays) ?_ (by decide)
    | refine Stays.via (by with_reducible apply State.panRecall_stays) ?_ (by decide)
    | refine Stays.via (by with_reducible apply State.freshenAll_stays) ?_ (by decide)
    | refine Stays.via (by with_reducible apply State.refreshAll_stays) ?_ (by decide)
    | refine Stays.via (by with_reducible apply State.panLate_stays) ?_ (by decide)
    | refine Stays.via (by with_reducible apply State.dropWaiting_stays) ?_ (by decide)
    | refine Stays.via (by with_reducible apply State.panSweep_stays) ?_ (by decide)
    | refine Stays.via (by with_reducible apply State.panDrain_stays) ?_ (by decide)
    | with_reducible apply Stays.refl
    | dsimp only
    | split
    | with_reducible apply Stays.elim <;> intros
    | exact Stays.mk_of id fun p => by cases p <;> first | exact Or.inr rfl | exact Or.inl (by decide)

theorem State.panFrameOff_stays (s : State) (f : Nat) :
    Stays [.hl, .pan] s (State.panFrameOff s f) := by
  unfold State.panFrameOff
  try dsimp only
  repeat' first
    | with_reducible apply Stays.ite
    | with_reducible apply Stays.each; (intro _ _; try dsimp only)
    | with_reducible apply Stays.fold; (intro _ _; try dsimp only)
    | refine Stays.via (by with_reducible apply State.panRecall_stays) ?_ (by decide)
    | refine Stays.via (by with_reducible apply State.panLate_stays) ?_ (by decide)
    | refine Stays.via (by with_reducible apply State.modPs_stays) ?_ (by decide)
    | refine Stays.via (by with_reducible apply State.modPf_stays) ?_ (by decide)
    | refine Stays.via (by with_reducible apply State.panSweep_stays) ?_ (by decide)
    | with_reducible apply Stays.refl
    | dsimp only
    | split
    | with_reducible apply Stays.elim <;> intros
    | exact Stays.mk_of id fun p => by cases p <;> first | exact Or.inr rfl | exact Or.inl (by decide)

theorem State.panFrameOn_stays (s : State) (f : Nat) :
    Stays [.pan] s (State.panFrameOn s f) := by
  unfold State.panFrameOn
  try dsimp only
  repeat' first
    | with_reducible apply Stays.ite
    | with_reducible apply Stays.each; (intro _ _; try dsimp only)
    | with_reducible apply Stays.fold; (intro _ _; try dsimp only)
    | refine Stays.via (by with_reducible apply State.modPf_stays) ?_ (by decide)
    | with_reducible apply Stays.refl
    | dsimp only
    | split
    | with_reducible apply Stays.elim <;> intros
    | exact Stays.mk_of id fun p => by cases p <;> first | exact Or.inr rfl | exact Or.inl (by decide)

theorem State.panLose_stays (s : State) (hit : Sample → Bool) :
    Stays [.pan] s (State.panLose s hit) := by
  unfold State.panLose
  try dsimp only
  repeat' first
    | with_reducible apply Stays.ite
    | with_reducible apply Stays.each; (intro _ _; try dsimp only)
    | with_reducible apply Stays.fold; (intro _ _; try dsimp only)
    | refine Stays.via (by with_reducible apply State.modPf_stays) ?_ (by decide)
    | with_reducible apply Stays.refl
    | dsimp only
    | split
    | with_reducible apply Stays.elim <;> intros
    | exact Stays.mk_of id fun p => by cases p <;> first | exact Or.inr rfl | exact Or.inl (by decide)

theorem State.panPresent_stays (s : State) (f : Nat) :
    Stays [.pan] s (State.panPresent s f) := by
  unfold State.panPresent
  try dsimp only
  repeat' first
    | with_reducible apply Stays.ite
    | with_reducible apply Stays.each; (intro _ _; try dsimp only)
    | with_reducible apply Stays.fold; (intro _ _; try dsimp only)
    | refine Stays.via (by with_reducible apply State.modPf_stays) ?_ (by decide)
    | with_reducible apply Stays.refl
    | dsimp only
    | split
    | with_reducible apply Stays.elim <;> intros
    | exact Stays.mk_of id fun p => by cases p <;> first | exact Or.inr rfl | exact Or.inl (by decide)

theorem State.panStreamOff_stays (s : State) (n : Nat) :
    Stays [.pan] s (State.panStreamOff s n) := by
  unfold State.panStreamOff
  try dsimp only
  repeat' first
    | with_reducible apply Stays.ite
    | with_reducible apply Stays.each; (intro _ _; try dsimp only)
    | with_reducible apply Stays.fold; (intro _ _; try dsimp only)
    | refine Stays.via (by with_reducible apply State.modPs_stays) ?_ (by decide)
    | refine Stays.via (by with_reducible apply State.panSweep_stays) ?_ (by decide)
    | with_reducible apply Stays.refl
    | dsimp only
    | split
    | with_reducible apply Stays.elim <;> intros
    | exact Stays.mk_of id fun p => by cases p <;> first | exact Or.inr rfl | exact Or.inl (by decide)

theorem State.panStreamOn_stays (s : State) (n : Nat) :
    Stays [.pan] s (State.panStreamOn s n) := by
  unfold State.panStreamOn
  try dsimp only
  repeat' first
    | with_reducible apply Stays.ite
    | with_reducible apply Stays.each; (intro _ _; try dsimp only)
    | with_reducible apply Stays.fold; (intro _ _; try dsimp only)
    | refine Stays.via (by with_reducible apply State.modPs_stays) ?_ (by decide)
    | with_reducible apply Stays.refl
    | dsimp only
    | split
    | with_reducible apply Stays.elim <;> intros
    | exact Stays.mk_of id fun p => by cases p <;> first | exact Or.inr rfl | exact Or.inl (by decide)

theorem State.panTake_stays {s : State} {n f : Nat} {b : List Byte} {t : State} (h : s.panTake n f b = some t) :
    Stays [.mem, .aon, .pan] s t := by
  have bad : Stays [.mem, .aon, .pan] s (s.panBadPt n 1) := Stays.step (Stays.refl _ _) (State.panBadPt_stays _ _ _) (by decide)
  have late : Stays [.mem, .aon, .pan] s (s.panLate n) := Stays.step (Stays.refl _ _) (State.panLate_stays _ _) (by decide)
  unfold State.panTake at h
  dsimp only at h
  rcases ite_cases h with h | h
  · cases h; exact bad
  · rcases ite_cases h with h | h
    · cases h; exact late
    · simp only [Option.map_eq_some_iff] at h
      obtain ⟨x, hx, rfl⟩ := h
      have b := State.storePut_stays hx
      split
      · refine Stays.via (State.modPf_stays _ _ _) ?_ (by decide)
        refine Stays.via (State.modPs_stays _ _ _) ?_ (by decide)
        exact Stays.step b (State.modPan_stays _ _) (by decide)
      · refine Stays.via (State.modPs_stays _ _ _) ?_ (by decide)
        refine Stays.via (State.modPs_stays _ _ _) ?_ (by decide)
        exact Stays.step b (State.modPan_stays _ _) (by decide)

theorem State.panRead_stays (s : State) (n : Nat) : Stays [.mem, .hl, .flt, .aon, .ing, .pan] s (s.panRead n) := by
  unfold State.panRead
  dsimp only
  split
  · exact Stays.refl _ _
  · split
    · exact Stays.refl _ _
    · split
      · exact Stays.refl _ _
      · rename_i what s1 h
        have b : Stays [.mem, .hl, .flt, .aon, .ing, .pan] s s1 :=
          Stays.step (Stays.refl _ _) (State.slotTake_stays h) (by decide)
        split
        · exact Stays.ite (b.step (State.raiseU_stays _ _ _ _ _) (by decide)) b
        · exact Stays.ite (b.step (State.modPs_stays _ _ _) (by decide)) b
        · refine Stays.ite ?_ b
          cases e : s1.panTake n (s.panStreamCfg_FRAME n) _ with
          | none => exact Stays.refl _ _
          | some t => exact b.step (State.panTake_stays e) (by decide)

theorem State.readAll_stays (s : State) (k : Nat) (n : Nat) :
    Stays [.mem, .hl, .flt, .aon, .ing, .pan] s (State.readAll s k n) := by
  induction n generalizing s with
  | zero => exact Stays.refl _ _
  | succ n ih =>
    unfold State.readAll
    try dsimp only
    repeat' first
      | with_reducible apply Stays.ite
      | refine Stays.via (ih _) ?_ (by decide)
      | refine Stays.via (by with_reducible apply State.panRead_stays) ?_ (by decide)
      | with_reducible apply Stays.refl
      | dsimp only
      | split
      | exact Stays.mk_of id fun p => by cases p <;> first | exact Or.inr rfl | exact Or.inl (by decide)

theorem State.takeIn_stays (s : State) (n : Nat) :
    Stays [.mem, .hl, .flt, .aon, .ing, .pan] s (State.takeIn s n) := by
  unfold State.takeIn
  try dsimp only
  repeat' first
    | with_reducible apply Stays.ite
    | with_reducible apply Stays.each; (intro _ _; try dsimp only)
    | with_reducible apply Stays.fold; (intro _ _; try dsimp only)
    | refine Stays.via (by with_reducible apply State.readAll_stays) ?_ (by decide)
    | refine Stays.via (by with_reducible apply State.placeAll_stays) ?_ (by decide)
    | with_reducible apply Stays.refl
    | dsimp only
    | split
    | with_reducible apply Stays.elim <;> intros
    | exact Stays.mk_of id fun p => by cases p <;> first | exact Or.inr rfl | exact Or.inl (by decide)

theorem State.forfeitOne_stays (s : State) (f : Nat) (n : Nat) :
    Stays [.pan] s (State.forfeitOne s f n) := by
  unfold State.forfeitOne
  try dsimp only
  repeat' first
    | with_reducible apply Stays.ite
    | with_reducible apply Stays.each; (intro _ _; try dsimp only)
    | with_reducible apply Stays.fold; (intro _ _; try dsimp only)
    | refine Stays.via (by with_reducible apply State.modPf_stays) ?_ (by decide)
    | refine Stays.via (by with_reducible apply State.modPs_stays) ?_ (by decide)
    | with_reducible apply Stays.refl
    | dsimp only
    | split
    | with_reducible apply Stays.elim <;> intros
    | exact Stays.mk_of id fun p => by cases p <;> first | exact Or.inr rfl | exact Or.inl (by decide)

theorem State.tryForfeit_stays (s : State) (f : Nat) (n : Nat) :
    Stays [.mem, .hl, .flt, .aon, .ing, .pan] s (State.tryForfeit s f n) := by
  unfold State.tryForfeit
  try dsimp only
  repeat' first
    | with_reducible apply Stays.ite
    | with_reducible apply Stays.each; (intro _ _; try dsimp only)
    | with_reducible apply Stays.fold; (intro _ _; try dsimp only)
    | refine Stays.via (by with_reducible apply State.takeIn_stays) ?_ (by decide)
    | refine Stays.via (by with_reducible apply State.forfeitOne_stays) ?_ (by decide)
    | with_reducible apply Stays.refl
    | dsimp only
    | split
    | with_reducible apply Stays.elim <;> intros
    | exact Stays.mk_of id fun p => by cases p <;> first | exact Or.inr rfl | exact Or.inl (by decide)

theorem State.panSpoil_stays (s : State) (hit : Nat → Bool) :
    Stays [.pan, .rly] s (State.panSpoil s hit) := by
  unfold State.panSpoil
  try dsimp only
  repeat' first
    | with_reducible apply Stays.ite
    | with_reducible apply Stays.each; (intro _ _; try dsimp only)
    | with_reducible apply Stays.fold; (intro _ _; try dsimp only)
    | refine Stays.via (by with_reducible apply State.modPan_stays) ?_ (by decide)
    | refine Stays.via (by with_reducible apply State.modRly_stays) ?_ (by decide)
    | with_reducible apply Stays.refl
    | dsimp only
    | split
    | with_reducible apply Stays.elim <;> intros
    | exact Stays.mk_of id fun p => by cases p <;> first | exact Or.inr rfl | exact Or.inl (by decide)

theorem State.releaseNext_stays (s : State) (f : Nat) : Stays [.mem, .aon, .pan] s (s.releaseNext f) := by
  unfold State.releaseNext
  dsimp only
  split
  · exact Stays.refl _ _
  · split
    · exact Stays.refl _ _
    · have b : Stays [.mem, .aon, .pan] s (s.refreshAll f fun _ => true) :=
        Stays.step (Stays.refl _ _) (State.refreshAll_stays _ _ _) (by decide)
      split
      · exact b
      · rename_i k _ _ _ e _
        cases h : (s.refreshAll f fun _ => true).releaseBand f k e
          (maskOf ((s.frameStreams f).filter fun n => (s.slot n).absent)) (maskOf ((s.frameStreams f).filter fun n => bit (s.pf f).forfeit n)) false with
        | none => exact b
        | some t => exact b.step (State.releaseBand_stays h) (by decide)

theorem State.tryRelease_stays (s : State) (f : Nat) : Stays [.mem, .hl, .flt, .aon, .ing, .pan] s (s.tryRelease f) := by
  unfold State.tryRelease
  split
  · exact Stays.refl _ _
  · dsimp only
    refine Stays.via (State.releaseNext_stays _ _) ?_ (by decide)
    refine Stays.each (fun n t => State.tryForfeit_stays t f n) ?_
    exact Stays.step (Stays.refl _ _) (State.panMark_stays _ _) (by decide)

theorem State.bandRelease_stays (s : State) (f : Nat) :
    Stays [.regs, .holdLow, .latchHi, .mem, .freeCtr, .out, .hl, .flt, .aon, .tk, .ing, .mot, .pan, .trk, .rly, .kvp, .slv,
      .act] s (State.bandRelease s f) := by
  unfold State.bandRelease
  have one : Stays [.mem, .aon, .pan] s ((s.drainOne f).getD s) := by
    cases h : s.drainOne f with
    | none => exact Stays.refl _ _
    | some t => exact State.drainOne_stays h
  repeat' first
    | with_reducible apply Stays.ite
    | refine Stays.via (by with_reducible apply State.drain_stays) ?_ (by decide)
    | refine Stays.via (by with_reducible apply State.tryRelease_stays) ?_ (by decide)
    | with_reducible apply Stays.refl
    | exact Stays.via one (Stays.refl _ _) (by decide)

theorem State.placeAgain_stays (s : State) (f : Nat) (x : Sample) :
    Stays [.pan] s (State.placeAgain s f x) := by
  unfold State.placeAgain
  try dsimp only
  repeat' first
    | with_reducible apply Stays.ite
    | with_reducible apply Stays.each; (intro _ _; try dsimp only)
    | with_reducible apply Stays.fold; (intro _ _; try dsimp only)
    | refine Stays.via (by with_reducible apply State.modPf_stays) ?_ (by decide)
    | refine Stays.via (by with_reducible apply State.panLate_stays) ?_ (by decide)
    | refine Stays.via (by with_reducible apply State.panSweep_stays) ?_ (by decide)
    | refine Stays.via (by with_reducible apply State.beginBands_stays) ?_ (by decide)
    | refine Stays.via (by with_reducible apply State.modPs_stays) ?_ (by decide)
    | refine Stays.via (by with_reducible apply State.panBadPt_stays) ?_ (by decide)
    | with_reducible apply Stays.refl
    | dsimp only
    | split
    | with_reducible apply Stays.elim <;> intros
    | exact Stays.mk_of id fun p => by cases p <;> first | exact Or.inr rfl | exact Or.inl (by decide)

theorem State.swapFrame_stays (s : State) (f : Nat) :
    Stays [.pan] s (State.swapFrame s f) := by
  unfold State.swapFrame
  try dsimp only
  repeat' first
    | with_reducible apply Stays.ite
    | with_reducible apply Stays.each; (intro _ _; try dsimp only)
    | with_reducible apply Stays.fold; (intro _ _; try dsimp only)
    | refine Stays.via (by with_reducible apply State.placeAgain_stays) ?_ (by decide)
    | refine Stays.via (by with_reducible apply State.modPf_stays) ?_ (by decide)
    | with_reducible apply Stays.refl
    | dsimp only
    | split
    | with_reducible apply Stays.elim <;> intros
    | exact Stays.mk_of id fun p => by cases p <;> first | exact Or.inr rfl | exact Or.inl (by decide)

end Sys2Proof.Machine
end

