-- ==== Sys2Proof/Laws/FrameMotion.lean ====
section
/-! SUPPORT. What each operation of Machine/Motion.lean may change. -/

-- One theorem at a time: a thread a theorem would be too many. Proofs of one form name alternatives that some goals do not need.
set_option Elab.async false
set_option linter.all false

namespace Sys2Proof.Machine

open Sys2Proof

theorem State.frameState_stays (s : State) (f : Nat) (state : Nat) (cause : Nat) (t : DT64) :
    Stays [.hl] s (State.frameState s f state cause t) := by
  unfold State.frameState
  try dsimp only
  repeat' first
    | with_reducible apply Stays.ite
    | with_reducible apply Stays.each; (intro _ _; try dsimp only)
    | with_reducible apply Stays.fold; (intro _ _; try dsimp only)
    | refine Stays.via (by with_reducible apply State.report_stays) ?_ (by decide)
    | with_reducible apply Stays.refl
    | dsimp only
    | split
    | with_reducible apply Stays.elim <;> intros
    | exact Stays.mk_of id fun p => by cases p <;> first | exact Or.inr rfl | exact Or.inl (by decide)

theorem State.genStart_stays (s : State) (f : Nat) :
    Stays [.act] s (State.genStart s f) := by
  unfold State.genStart
  try dsimp only
  repeat' first
    | with_reducible apply Stays.ite
    | with_reducible apply Stays.each; (intro _ _; try dsimp only)
    | with_reducible apply Stays.fold; (intro _ _; try dsimp only)
    | refine Stays.via (by with_reducible apply State.modOut_stays) ?_ (by decide)
    | with_reducible apply Stays.refl
    | dsimp only
    | split
    | with_reducible apply Stays.elim <;> intros
    | exact Stays.mk_of id fun p => by cases p <;> first | exact Or.inr rfl | exact Or.inl (by decide)

theorem State.motAbsent_stays (s : State) (f : Nat) (cause : Nat) :
    Stays [.mem, .hl, .flt, .aon, .tk, .ing, .mot, .pan, .act] s (State.motAbsent s f cause) := by
  unfold State.motAbsent
  try dsimp only
  repeat' first
    | with_reducible apply Stays.ite
    | with_reducible apply Stays.each; (intro _ _; try dsimp only)
    | with_reducible apply Stays.fold; (intro _ _; try dsimp only)
    | refine Stays.via (by with_reducible apply State.edgesDue_stays) ?_ (by decide)
    | refine Stays.via (by with_reducible apply State.modMotion_stays) ?_ (by decide)
    | refine Stays.via (by with_reducible apply State.frameState_stays) ?_ (by decide)
    | refine Stays.via (by with_reducible apply State.panAbsent_stays) ?_ (by decide)
    | refine Stays.via (by with_reducible apply State.actAbsent_stays) ?_ (by decide)
    | refine Stays.via (by with_reducible apply State.gate_stays) ?_ (by decide)
    | with_reducible apply Stays.refl
    | dsimp only
    | split
    | with_reducible apply Stays.elim <;> intros
    | exact Stays.mk_of id fun p => by cases p <;> first | exact Or.inr rfl | exact Or.inl (by decide)

theorem State.motTake_stays (s : State) (slot : Nat) (r : Rec) :
    Stays [.mot] s (State.motTake s slot r) := by
  unfold State.motTake
  try dsimp only
  repeat' first
    | with_reducible apply Stays.ite
    | with_reducible apply Stays.each; (intro _ _; try dsimp only)
    | with_reducible apply Stays.fold; (intro _ _; try dsimp only)
    | refine Stays.via (by with_reducible apply State.modMotion_stays) ?_ (by decide)
    | with_reducible apply Stays.refl
    | dsimp only
    | split
    | with_reducible apply Stays.elim <;> intros
    | exact Stays.mk_of id fun p => by cases p <;> first | exact Or.inr rfl | exact Or.inl (by decide)

theorem State.motDrainSlot_stays (s : State) (f n : Nat) : Stays [.hl, .ing, .mot] s (s.motDrainSlot f n) := by
  induction n generalizing s with
  | zero => exact Stays.refl _ _
  | succ n ih =>
    unfold State.motDrainSlot
    split
    · exact Stays.refl _ _
    · rename_i h
      have b := Stays.step (l := [.hl, .ing, .mot]) (Stays.refl _ _) (State.slotTake_stays h) (by decide)
      refine Stays.via (ih _) ?_ (by decide)
      split
      · exact b.step (State.motTake_stays _ _ _) (by decide)
      · exact b

theorem State.motDrain_stays (s : State) :
    Stays [.hl, .ing, .mot] s (State.motDrain s) := by
  unfold State.motDrain
  try dsimp only
  repeat' first
    | with_reducible apply Stays.ite
    | with_reducible apply Stays.each; (intro _ _; try dsimp only)
    | with_reducible apply Stays.fold; (intro _ _; try dsimp only)
    | refine Stays.via (by with_reducible apply State.motDrainSlot_stays) ?_ (by decide)
    | with_reducible apply Stays.refl
    | dsimp only
    | split
    | with_reducible apply Stays.elim <;> intros
    | exact Stays.mk_of id fun p => by cases p <;> first | exact Or.inr rfl | exact Or.inl (by decide)

theorem State.motOff_stays (s : State) (f : Nat) :
    Stays [.mem, .hl, .flt, .aon, .tk, .ing, .mot, .pan, .act] s (State.motOff s f) := by
  unfold State.motOff
  try dsimp only
  repeat' first
    | with_reducible apply Stays.ite
    | with_reducible apply Stays.each; (intro _ _; try dsimp only)
    | with_reducible apply Stays.fold; (intro _ _; try dsimp only)
    | refine Stays.via (by with_reducible apply State.frameState_stays) ?_ (by decide)
    | refine Stays.via (by with_reducible apply State.motAbsent_stays) ?_ (by decide)
    | refine Stays.via (by with_reducible apply State.modMotion_stays) ?_ (by decide)
    | with_reducible apply Stays.refl
    | dsimp only
    | split
    | with_reducible apply Stays.elim <;> intros
    | exact Stays.mk_of id fun p => by cases p <;> first | exact Or.inr rfl | exact Or.inl (by decide)

theorem State.motOn_stays (s : State) (f : Nat) :
    Stays [.hl, .tk, .ing, .mot, .pan, .act] s (State.motOn s f) := by
  unfold State.motOn
  try dsimp only
  repeat' first
    | with_reducible apply Stays.ite
    | with_reducible apply Stays.each; (intro _ _; try dsimp only)
    | with_reducible apply Stays.fold; (intro _ _; try dsimp only)
    | refine Stays.via (by with_reducible apply State.modMotion_stays) ?_ (by decide)
    | refine Stays.via (by with_reducible apply State.modIng_stays) ?_ (by decide)
    | refine Stays.via (by with_reducible apply State.panPresent_stays) ?_ (by decide)
    | refine Stays.via (by with_reducible apply State.frameState_stays) ?_ (by decide)
    | refine Stays.via (by with_reducible apply State.actPresent_stays) ?_ (by decide)
    | refine Stays.via (by with_reducible apply State.gate_stays) ?_ (by decide)
    | with_reducible apply Stays.refl
    | dsimp only
    | split
    | with_reducible apply Stays.elim <;> intros
    | exact Stays.mk_of id fun p => by cases p <;> first | exact Or.inr rfl | exact Or.inl (by decide)

theorem State.tick_stays (s : State) (f : Nat) (t : DT64) :
    Stays [.hl, .mot] s (State.tick s f t) := by
  unfold State.tick
  try dsimp only
  repeat' first
    | with_reducible apply Stays.ite
    | with_reducible apply Stays.each; (intro _ _; try dsimp only)
    | with_reducible apply Stays.fold; (intro _ _; try dsimp only)
    | refine Stays.via (by with_reducible apply State.modMotion_stays) ?_ (by decide)
    | refine Stays.via (by with_reducible apply State.frameState_stays) ?_ (by decide)
    | with_reducible apply Stays.refl
    | dsimp only
    | split
    | with_reducible apply Stays.elim <;> intros
    | exact Stays.mk_of id fun p => by cases p <;> first | exact Or.inr rfl | exact Or.inl (by decide)

theorem State.motStep_stays (s : State) (f : Nat) (shift : Int) :
    Stays [.mot] s (State.motStep s f shift) := by
  unfold State.motStep
  try dsimp only
  repeat' first
    | with_reducible apply Stays.ite
    | with_reducible apply Stays.each; (intro _ _; try dsimp only)
    | with_reducible apply Stays.fold; (intro _ _; try dsimp only)
    | refine Stays.via (by with_reducible apply State.modMotion_stays) ?_ (by decide)
    | with_reducible apply Stays.refl
    | dsimp only
    | split
    | with_reducible apply Stays.elim <;> intros
    | exact Stays.mk_of id fun p => by cases p <;> first | exact Or.inr rfl | exact Or.inl (by decide)

theorem State.fusionTick_stays (s : State) (f : Nat) :
    Stays [.hl, .tk, .ing, .mot, .pan, .act] s (State.fusionTick s f) := by
  unfold State.fusionTick
  try dsimp only
  repeat' first
    | with_reducible apply Stays.ite
    | with_reducible apply Stays.each; (intro _ _; try dsimp only)
    | with_reducible apply Stays.fold; (intro _ _; try dsimp only)
    | refine Stays.via (by with_reducible apply State.motDrain_stays) ?_ (by decide)
    | refine Stays.via (by with_reducible apply State.panMark_stays) ?_ (by decide)
    | refine Stays.via (by with_reducible apply State.tick_stays) ?_ (by decide)
    | refine Stays.via (by with_reducible apply State.modMotion_stays) ?_ (by decide)
    | refine Stays.via (by with_reducible apply State.frameState_stays) ?_ (by decide)
    | refine Stays.via (by with_reducible apply State.panPresent_stays) ?_ (by decide)
    | refine Stays.via (by with_reducible apply State.actPresent_stays) ?_ (by decide)
    | refine Stays.via (by with_reducible apply State.gate_stays) ?_ (by decide)
    | refine Stays.via (by with_reducible apply State.genStart_stays) ?_ (by decide)
    | with_reducible apply Stays.refl
    | dsimp only
    | split
    | with_reducible apply Stays.elim <;> intros
    | exact Stays.mk_of id fun p => by cases p <;> first | exact Or.inr rfl | exact Or.inl (by decide)

theorem State.ticksDue_stays (f : Nat) :
    ∀ (n : Nat) (s : State), Stays [.hl, .tk, .ing, .mot, .pan, .act] s (s.ticksDue f n)
  | 0, s => Stays.refl _ s
  | n + 1, s => by
    unfold State.ticksDue
    exact Stays.ite (Stays.refl _ s)
      ((Stays.step (Stays.refl _ s) (State.fusionTick_stays s f) (by decide)).step (State.ticksDue_stays f n _) fun _ h => h)

theorem State.ticked_stays (s : State) (f : Nat) :
    Stays [.hl, .tk, .ing, .mot, .pan, .act] s (State.ticked s f) := by
  unfold State.ticked
  try dsimp only
  repeat' first
    | with_reducible apply Stays.ite
    | with_reducible apply Stays.each; (intro _ _; try dsimp only)
    | with_reducible apply Stays.fold; (intro _ _; try dsimp only)
    | refine Stays.via (by with_reducible apply State.ticksDue_stays) ?_ (by decide)
    | with_reducible apply Stays.refl
    | dsimp only
    | split
    | with_reducible apply Stays.elim <;> intros
    | exact Stays.mk_of id fun p => by cases p <;> first | exact Or.inr rfl | exact Or.inl (by decide)

end Sys2Proof.Machine
end

