-- ==== Sys2Proof/Laws/FrameTrack.lean ====
section
/-! SUPPORT. What each operation of Machine/Track.lean may change. -/

-- One theorem at a time: a thread a theorem would be too many. Proofs of one form name alternatives that some goals do not need.
set_option Elab.async false
set_option linter.all false

namespace Sys2Proof.Machine

open Sys2Proof

theorem State.modCls_stays (s : State) (c : Nat) (f : TrkClass → TrkClass) :
    Stays [.trk] s (State.modCls s c f) := by
  unfold State.modCls
  try dsimp only
  repeat' first
    | with_reducible apply Stays.ite
    | with_reducible apply Stays.each; (intro _ _; try dsimp only)
    | with_reducible apply Stays.fold; (intro _ _; try dsimp only)
    | refine Stays.via (by with_reducible apply State.modTrk_stays) ?_ (by decide)
    | with_reducible apply Stays.refl
    | dsimp only
    | split
    | with_reducible apply Stays.elim <;> intros
    | exact Stays.mk_of id fun p => by cases p <;> first | exact Or.inr rfl | exact Or.inl (by decide)

theorem State.trkIssue_stays (s : State) (r : Rec) :
    Stays [.trk] s (State.trkIssue s r) := by
  unfold State.trkIssue
  try dsimp only
  repeat' first
    | with_reducible apply Stays.ite
    | with_reducible apply Stays.each; (intro _ _; try dsimp only)
    | with_reducible apply Stays.fold; (intro _ _; try dsimp only)
    | refine Stays.via (by with_reducible apply State.modTrk_stays) ?_ (by decide)
    | with_reducible apply Stays.refl
    | dsimp only
    | split
    | with_reducible apply Stays.elim <;> intros
    | exact Stays.mk_of id fun p => by cases p <;> first | exact Or.inr rfl | exact Or.inl (by decide)

theorem State.batchRun_stays (s : State) (h : DetHand) (b : List Byte) (replay : Bool) :
    Stays [.freeCtr, .trk] s (State.batchRun s h b replay) := by
  unfold State.batchRun
  try dsimp only
  repeat' first
    | with_reducible apply Stays.ite
    | with_reducible apply Stays.each; (intro _ _; try dsimp only)
    | with_reducible apply Stays.fold; (intro _ _; try dsimp only)
    | refine Stays.via (by with_reducible apply State.takeFree_stays) ?_ (by decide)
    | refine Stays.via (by with_reducible apply State.modTrk_stays) ?_ (by decide)
    | refine Stays.via (by with_reducible apply State.modCls_stays) ?_ (by decide)
    | refine Stays.via (by with_reducible apply State.trkIssue_stays) ?_ (by decide)
    | with_reducible apply Stays.refl
    | dsimp only
    | split
    | with_reducible apply Stays.elim <;> intros
    | exact Stays.mk_of id fun p => by cases p <;> first | exact Or.inr rfl | exact Or.inl (by decide)

theorem State.batchRefuse_stays (s : State) (h : DetHand) (b : List Byte) (reason : Nat) (replay : Bool) :
    Stays [.trk] s (State.batchRefuse s h b reason replay) := by
  unfold State.batchRefuse
  try dsimp only
  repeat' first
    | with_reducible apply Stays.ite
    | with_reducible apply Stays.each; (intro _ _; try dsimp only)
    | with_reducible apply Stays.fold; (intro _ _; try dsimp only)
    | refine Stays.via (by with_reducible apply State.modCls_stays) ?_ (by decide)
    | refine Stays.via (by with_reducible apply State.trkIssue_stays) ?_ (by decide)
    | with_reducible apply Stays.refl
    | dsimp only
    | split
    | with_reducible apply Stays.elim <;> intros
    | exact Stays.mk_of id fun p => by cases p <;> first | exact Or.inr rfl | exact Or.inl (by decide)

theorem State.batch_stays (s : State) (h : DetHand) (replay : Bool) :
    Stays [.freeCtr, .flt, .trk] s (State.batch s h replay) := by
  unfold State.batch
  try dsimp only
  repeat' first
    | with_reducible apply Stays.ite
    | with_reducible apply Stays.each; (intro _ _; try dsimp only)
    | with_reducible apply Stays.fold; (intro _ _; try dsimp only)
    | refine Stays.via (by with_reducible apply State.modTrk_stays) ?_ (by decide)
    | refine Stays.via (by with_reducible apply State.batchRun_stays) ?_ (by decide)
    | refine Stays.via (by with_reducible apply State.batchRefuse_stays) ?_ (by decide)
    | refine Stays.via (by with_reducible apply State.raiseU_stays) ?_ (by decide)
    | refine Stays.via (by with_reducible apply State.takeFree_stays) ?_ (by decide)
    | with_reducible apply Stays.refl
    | dsimp only
    | split
    | with_reducible apply Stays.elim <;> intros
    | exact Stays.mk_of id fun p => by cases p <;> first | exact Or.inr rfl | exact Or.inl (by decide)

theorem State.batonReturn_stays (s : State) (h : DetHand) :
    Stays [.trk] s (State.batonReturn s h) := by
  unfold State.batonReturn
  try dsimp only
  repeat' first
    | with_reducible apply Stays.ite
    | with_reducible apply Stays.each; (intro _ _; try dsimp only)
    | with_reducible apply Stays.fold; (intro _ _; try dsimp only)
    | refine Stays.via (by with_reducible apply State.trkIssue_stays) ?_ (by decide)
    | with_reducible apply Stays.refl
    | dsimp only
    | split
    | with_reducible apply Stays.elim <;> intros
    | exact Stays.mk_of id fun p => by cases p <;> first | exact Or.inr rfl | exact Or.inl (by decide)

theorem State.clsAnnounce_stays (s : State) (c : Nat) :
    Stays [.freeCtr, .trk] s (State.clsAnnounce s c) := by
  unfold State.clsAnnounce
  try dsimp only
  repeat' first
    | with_reducible apply Stays.ite
    | with_reducible apply Stays.each; (intro _ _; try dsimp only)
    | with_reducible apply Stays.fold; (intro _ _; try dsimp only)
    | refine Stays.via (by with_reducible apply State.takeFree_stays) ?_ (by decide)
    | refine Stays.via (by with_reducible apply State.trkIssue_stays) ?_ (by decide)
    | with_reducible apply Stays.refl
    | dsimp only
    | split
    | with_reducible apply Stays.elim <;> intros
    | exact Stays.mk_of id fun p => by cases p <;> first | exact Or.inr rfl | exact Or.inl (by decide)

theorem State.clsClear_stays (s : State) (c : Nat) :
    Stays [.trk] s (State.clsClear s c) := by
  unfold State.clsClear
  try dsimp only
  repeat' first
    | with_reducible apply Stays.ite
    | with_reducible apply Stays.each; (intro _ _; try dsimp only)
    | with_reducible apply Stays.fold; (intro _ _; try dsimp only)
    | refine Stays.via (by with_reducible apply State.batonReturn_stays) ?_ (by decide)
    | refine Stays.via (by with_reducible apply State.modTrk_stays) ?_ (by decide)
    | refine Stays.via (by with_reducible apply State.modCls_stays) ?_ (by decide)
    | with_reducible apply Stays.refl
    | dsimp only
    | split
    | with_reducible apply Stays.elim <;> intros
    | exact Stays.mk_of id fun p => by cases p <;> first | exact Or.inr rfl | exact Or.inl (by decide)

theorem State.undoSeg_stays (s : State) (c : Nat) (g : Segment) :
    Stays [.trk] s (State.undoSeg s c g) := by
  unfold State.undoSeg
  try dsimp only
  repeat' first
    | with_reducible apply Stays.ite
    | with_reducible apply Stays.each; (intro _ _; try dsimp only)
    | with_reducible apply Stays.fold; (intro _ _; try dsimp only)
    | refine Stays.via (by with_reducible apply State.modTrk_stays) ?_ (by decide)
    | refine Stays.via (by with_reducible apply State.modCls_stays) ?_ (by decide)
    | with_reducible apply Stays.refl
    | dsimp only
    | split
    | with_reducible apply Stays.elim <;> intros
    | exact Stays.mk_of id fun p => by cases p <;> first | exact Or.inr rfl | exact Or.inl (by decide)

theorem State.recallCls_stays (s : State) (c : Nat) (e : Epoch) : Stays [.freeCtr, .flt, .trk] s (s.recallCls c e).2 := by
  unfold State.recallCls
  dsimp only
  split
  · exact Stays.via (State.clsAnnounce_stays _ _) (Stays.step (Stays.refl _ _) (State.clsClear_stays _ _) (by decide)) (by decide)
  · split
    · exact Stays.refl _ _
    · split
      · refine Stays.via (State.clsAnnounce_stays _ _) ?_ (by decide)
        refine Stays.via (State.clsClear_stays _ _) ?_ (by decide)
        exact Stays.step (Stays.refl _ _) (State.raiseU_stays _ _ _ _ _) (by decide)
      · refine Stays.via (State.modCls_stays _ _ _) ?_ (by decide)
        exact Stays.each (fun g t => Stays.step (Stays.refl _ _) (State.undoSeg_stays _ _ _) (by decide)) (Stays.refl _ _)

theorem State.trkBadNotice_stays (s : State) (rcl : Bool) (e : Epoch) :
    Stays [.flt] s (State.trkBadNotice s rcl e) := by
  unfold State.trkBadNotice
  try dsimp only
  repeat' first
    | with_reducible apply Stays.ite
    | with_reducible apply Stays.each; (intro _ _; try dsimp only)
    | with_reducible apply Stays.fold; (intro _ _; try dsimp only)
    | refine Stays.via (by with_reducible apply State.raiseU_stays) ?_ (by decide)
    | with_reducible apply Stays.refl
    | dsimp only
    | split
    | with_reducible apply Stays.elim <;> intros
    | exact Stays.mk_of id fun p => by cases p <;> first | exact Or.inr rfl | exact Or.inl (by decide)

theorem State.trkPass_stays (s : State) (rcl : Bool) (e : Epoch) (t : DT64) :
    Stays [.trk] s (State.trkPass s rcl e t) := by
  unfold State.trkPass
  try dsimp only
  repeat' first
    | with_reducible apply Stays.ite
    | with_reducible apply Stays.each; (intro _ _; try dsimp only)
    | with_reducible apply Stays.fold; (intro _ _; try dsimp only)
    | refine Stays.via (by with_reducible apply State.modTrk_stays) ?_ (by decide)
    | with_reducible apply Stays.refl
    | dsimp only
    | split
    | with_reducible apply Stays.elim <;> intros
    | exact Stays.mk_of id fun p => by cases p <;> first | exact Or.inr rfl | exact Or.inl (by decide)

theorem State.recallFold_stays (e : Epoch) (l : List Nat) : ∀ x : List DetHand × State,
    Stays [.freeCtr, .flt, .trk] x.2
      (l.foldl (fun acc c => (acc.1 ++ (acc.2.recallCls c e).1, (acc.2.recallCls c e).2)) x).2 := by
  induction l with
  | nil => exact fun x => Stays.refl _ _
  | cons c l ih =>
    intro x
    have b := ih (x.1 ++ (x.2.recallCls c e).1, (x.2.recallCls c e).2)
    exact Stays.step (State.recallCls_stays x.2 c e) b fun _ h => h

theorem State.trkRecall_stays (s : State) (n : Notice) : Stays [.freeCtr, .flt, .trk] s (s.trkRecall n) := by
  unfold State.trkRecall
  dsimp only
  refine Stays.each (fun h t => Stays.step (Stays.refl _ _) (State.batch_stays _ _ _) (by decide)) ?_
  refine Stays.via (State.trkPass_stays _ _ _ _) ?_ (by decide)
  have b := State.recallFold_stays n.epoch ((upTo 16).filter fun c => decide (s.trkClassCfg_FRAME c = epFrame n.epoch))
    ([], s.modTrk fun k => { k with view := viewNotice k.view true n.epoch n.named })
  refine Stays.step ?_ b fun _ h => h
  dsimp only
  exact Stays.step (Stays.refl _ _) (State.modTrk_stays _ _) (by decide)

theorem State.trkSeal_stays (s : State) (n : Notice) :
    Stays [.trk] s (State.trkSeal s n) := by
  unfold State.trkSeal
  try dsimp only
  repeat' first
    | with_reducible apply Stays.ite
    | with_reducible apply Stays.each; (intro _ _; try dsimp only)
    | with_reducible apply Stays.fold; (intro _ _; try dsimp only)
    | refine Stays.via (by with_reducible apply State.modTrk_stays) ?_ (by decide)
    | refine Stays.via (by with_reducible apply State.modCls_stays) ?_ (by decide)
    | refine Stays.via (by with_reducible apply State.batonReturn_stays) ?_ (by decide)
    | refine Stays.via (by with_reducible apply State.trkPass_stays) ?_ (by decide)
    | with_reducible apply Stays.refl
    | dsimp only
    | split
    | with_reducible apply Stays.elim <;> intros
    | exact Stays.mk_of id fun p => by cases p <;> first | exact Or.inr rfl | exact Or.inl (by decide)

theorem State.trkApply_stays (s : State) (rcl : Bool) (x : Option Notice) :
    Stays [.freeCtr, .flt, .trk] s (State.trkApply s rcl x) := by
  unfold State.trkApply
  try dsimp only
  repeat' first
    | with_reducible apply Stays.ite
    | with_reducible apply Stays.each; (intro _ _; try dsimp only)
    | with_reducible apply Stays.fold; (intro _ _; try dsimp only)
    | refine Stays.via (by with_reducible apply State.trkBadNotice_stays) ?_ (by decide)
    | refine Stays.via (by with_reducible apply State.trkRecall_stays) ?_ (by decide)
    | refine Stays.via (by with_reducible apply State.trkSeal_stays) ?_ (by decide)
    | with_reducible apply Stays.refl
    | dsimp only
    | split
    | with_reducible apply Stays.elim <;> intros
    | exact Stays.mk_of id fun p => by cases p <;> first | exact Or.inr rfl | exact Or.inl (by decide)

theorem State.trkNotices_stays (s : State) (p : TrkPlace) :
    Stays [.freeCtr, .flt, .trk] s (State.trkNotices s p) := by
  unfold State.trkNotices
  try dsimp only
  repeat' first
    | with_reducible apply Stays.ite
    | with_reducible apply Stays.each; (intro _ _; try dsimp only)
    | with_reducible apply Stays.fold; (intro _ _; try dsimp only)
    | refine Stays.via (by with_reducible apply State.trkApply_stays) ?_ (by decide)
    | with_reducible apply Stays.refl
    | dsimp only
    | split
    | with_reducible apply Stays.elim <;> intros
    | exact Stays.mk_of id fun p => by cases p <;> first | exact Or.inr rfl | exact Or.inl (by decide)

end Sys2Proof.Machine
end

