-- ==== Sys2Proof/Laws/FramePrograms.lean ====
section
/-! SUPPORT. What each operation of Machine/Programs.lean may change. -/

-- One theorem at a time: a thread a theorem would be too many. Proofs of one form name alternatives that some goals do not need.
set_option Elab.async false
set_option linter.all false

namespace Sys2Proof.Machine

open Sys2Proof

theorem State.modProg_stays (s : State) (f : Prog → Prog) :
    Stays [.rly] s (State.modProg s f) := by
  unfold State.modProg
  try dsimp only
  repeat' first
    | with_reducible apply Stays.ite
    | with_reducible apply Stays.each; (intro _ _; try dsimp only)
    | with_reducible apply Stays.fold; (intro _ _; try dsimp only)
    | refine Stays.via (by with_reducible apply State.modRly_stays) ?_ (by decide)
    | with_reducible apply Stays.refl
    | dsimp only
    | split
    | with_reducible apply Stays.elim <;> intros
    | exact Stays.mk_of id fun p => by cases p <;> first | exact Or.inr rfl | exact Or.inl (by decide)

theorem State.abortExchange_stays (s : State) :
    Stays [.mem, .hl, .aon, .rly] s (State.abortExchange s) := by
  unfold State.abortExchange
  try dsimp only
  repeat' first
    | with_reducible apply Stays.ite
    | with_reducible apply Stays.each; (intro _ _; try dsimp only)
    | with_reducible apply Stays.fold; (intro _ _; try dsimp only)
    | refine Stays.via (by with_reducible apply State.modProg_stays) ?_ (by decide)
    | refine Stays.via (by with_reducible apply State.complete_stays) ?_ (by decide)
    | with_reducible apply Stays.refl
    | dsimp only
    | split
    | with_reducible apply Stays.elim <;> intros
    | exact Stays.mk_of id fun p => by cases p <;> first | exact Or.inr rfl | exact Or.inl (by decide)

theorem State.changeProgram_stays (s : State) (slot : Nat) :
    Stays [.trk, .rly] s (State.changeProgram s slot) := by
  unfold State.changeProgram
  try dsimp only
  repeat' first
    | with_reducible apply Stays.ite
    | with_reducible apply Stays.each; (intro _ _; try dsimp only)
    | with_reducible apply Stays.fold; (intro _ _; try dsimp only)
    | refine Stays.via (by with_reducible apply State.dropBatons_stays) ?_ (by decide)
    | refine Stays.via (by with_reducible apply State.modProg_stays) ?_ (by decide)
    | refine Stays.via (by with_reducible apply State.restartStreams_stays) ?_ (by decide)
    | with_reducible apply Stays.refl
    | dsimp only
    | split
    | with_reducible apply Stays.elim <;> intros
    | exact Stays.mk_of id fun p => by cases p <;> first | exact Or.inr rfl | exact Or.inl (by decide)

theorem State.stopping_stays (s : State) :
    Stays [.rly] s (State.stopping s) := by
  unfold State.stopping
  try dsimp only
  repeat' first
    | with_reducible apply Stays.ite
    | with_reducible apply Stays.each; (intro _ _; try dsimp only)
    | with_reducible apply Stays.fold; (intro _ _; try dsimp only)
    | refine Stays.via (by with_reducible apply State.modProg_stays) ?_ (by decide)
    | with_reducible apply Stays.refl
    | dsimp only
    | split
    | with_reducible apply Stays.elim <;> intros
    | exact Stays.mk_of id fun p => by cases p <;> first | exact Or.inr rfl | exact Or.inl (by decide)

theorem State.halt_stays (s : State) :
    Stays [.rly] s (State.halt s) := by
  unfold State.halt
  try dsimp only
  repeat' first
    | with_reducible apply Stays.ite
    | with_reducible apply Stays.each; (intro _ _; try dsimp only)
    | with_reducible apply Stays.fold; (intro _ _; try dsimp only)
    | refine Stays.via (by with_reducible apply State.stopping_stays) ?_ (by decide)
    | refine Stays.via (by with_reducible apply State.modProg_stays) ?_ (by decide)
    | with_reducible apply Stays.refl
    | dsimp only
    | split
    | with_reducible apply Stays.elim <;> intros
    | exact Stays.mk_of id fun p => by cases p <;> first | exact Or.inr rfl | exact Or.inl (by decide)

theorem State.waitsOn_stays (s : State) :
    Stays [.rly] s (State.waitsOn s) := by
  unfold State.waitsOn
  try dsimp only
  repeat' first
    | with_reducible apply Stays.ite
    | with_reducible apply Stays.each; (intro _ _; try dsimp only)
    | with_reducible apply Stays.fold; (intro _ _; try dsimp only)
    | refine Stays.via (by with_reducible apply State.modRly_stays) ?_ (by decide)
    | with_reducible apply Stays.refl
    | dsimp only
    | split
    | with_reducible apply Stays.elim <;> intros
    | exact Stays.mk_of id fun p => by cases p <;> first | exact Or.inr rfl | exact Or.inl (by decide)

theorem State.resume_stays (s : State) :
    Stays [.rly] s (State.resume s) := by
  unfold State.resume
  try dsimp only
  repeat' first
    | with_reducible apply Stays.ite
    | with_reducible apply Stays.each; (intro _ _; try dsimp only)
    | with_reducible apply Stays.fold; (intro _ _; try dsimp only)
    | refine Stays.via (by with_reducible apply State.waitsOn_stays) ?_ (by decide)
    | refine Stays.via (by with_reducible apply State.modProg_stays) ?_ (by decide)
    | with_reducible apply Stays.refl
    | dsimp only
    | split
    | with_reducible apply Stays.elim <;> intros
    | exact Stays.mk_of id fun p => by cases p <;> first | exact Or.inr rfl | exact Or.inl (by decide)

theorem State.stepStream_stays (s : State) (st : Stream) :
    Stays [.rly] s (State.stepStream s st) := by
  unfold State.stepStream
  try dsimp only
  repeat' first
    | with_reducible apply Stays.ite
    | with_reducible apply Stays.each; (intro _ _; try dsimp only)
    | with_reducible apply Stays.fold; (intro _ _; try dsimp only)
    | refine Stays.via (by with_reducible apply State.modProg_stays) ?_ (by decide)
    | with_reducible apply Stays.refl
    | dsimp only
    | split
    | with_reducible apply Stays.elim <;> intros
    | exact Stays.mk_of id fun p => by cases p <;> first | exact Or.inr rfl | exact Or.inl (by decide)

theorem State.dbgCmd_stays (s : State) (v : Word) :
    Stays [.rly] s (State.dbgCmd s v) := by
  unfold State.dbgCmd
  try dsimp only
  repeat' first
    | with_reducible apply Stays.ite
    | with_reducible apply Stays.each; (intro _ _; try dsimp only)
    | with_reducible apply Stays.fold; (intro _ _; try dsimp only)
    | refine Stays.via (by with_reducible apply State.halt_stays) ?_ (by decide)
    | refine Stays.via (by with_reducible apply State.resume_stays) ?_ (by decide)
    | refine Stays.via (by with_reducible apply State.stepStream_stays) ?_ (by decide)
    | with_reducible apply Stays.refl
    | dsimp only
    | split
    | with_reducible apply Stays.elim <;> intros
    | exact Stays.mk_of id fun p => by cases p <;> first | exact Or.inr rfl | exact Or.inl (by decide)

theorem State.laneSelfTest_stays (s : State) (mask failing : Nat) : Stays [.mem, .flt, .rly] s (s.laneSelfTest mask failing) := by
  unfold State.laneSelfTest
  refine Stays.each (fun n t => ?_) (Stays.refl _ _)
  split
  · exact Stays.step (Stays.refl _ _) (State.raiseU_stays _ _ _ _ _) (by decide)
  · exact Stays.mk_of (fun w => filter_wf _ w) fun p => by cases p <;> first | exact Or.inr rfl | exact Or.inl (by decide)

theorem State.loadEnds_stays (s : State) (x : Load) (sched : Bool) (img : List Byte) (v : Option (Nat × Nat)) :
    Stays [.mem, .hl, .aon, .rly] s (State.loadEnds s x sched img v) := by
  unfold State.loadEnds
  try dsimp only
  repeat' first
    | with_reducible apply Stays.ite
    | with_reducible apply Stays.each; (intro _ _; try dsimp only)
    | with_reducible apply Stays.fold; (intro _ _; try dsimp only)
    | refine Stays.via (by with_reducible apply State.modProg_stays) ?_ (by decide)
    | refine Stays.via (by with_reducible apply State.jobValid_stays) ?_ (by decide)
    | refine Stays.via (by with_reducible apply State.complete_stays) ?_ (by decide)
    | with_reducible apply Stays.refl
    | dsimp only
    | split
    | with_reducible apply Stays.elim <;> intros
    | exact Stays.mk_of id fun p => by cases p <;> first | exact Or.inr rfl | exact Or.inl (by decide)

theorem State.retire_stays (s : State) :
    Stays [.rly] s (State.retire s) := by
  unfold State.retire
  try dsimp only
  repeat' first
    | with_reducible apply Stays.ite
    | with_reducible apply Stays.each; (intro _ _; try dsimp only)
    | with_reducible apply Stays.fold; (intro _ _; try dsimp only)
    | refine Stays.via (by with_reducible apply State.modProg_stays) ?_ (by decide)
    | with_reducible apply Stays.refl
    | dsimp only
    | split
    | with_reducible apply Stays.elim <;> intros
    | exact Stays.mk_of id fun p => by cases p <;> first | exact Or.inr rfl | exact Or.inl (by decide)

end Sys2Proof.Machine
end

