-- ==== Sys2Proof/Laws/FrameSolver.lean ====
section
/-! SUPPORT. What each operation of Machine/Solver.lean may change. -/

-- One theorem at a time: a thread a theorem would be too many. Proofs of one form name alternatives that some goals do not need.
set_option Elab.async false
set_option linter.all false

namespace Sys2Proof.Machine

open Sys2Proof

theorem State.slvPass_stays (s : State) (x : Bool × Notice) :
    Stays [.hl, .slv] s (State.slvPass s x) := by
  unfold State.slvPass
  try dsimp only
  repeat' first
    | with_reducible apply Stays.ite
    | with_reducible apply Stays.each; (intro _ _; try dsimp only)
    | with_reducible apply Stays.fold; (intro _ _; try dsimp only)
    | refine Stays.via (by with_reducible apply State.modSlv_stays) ?_ (by decide)
    | refine Stays.via (by with_reducible apply State.posted_stays) ?_ (by decide)
    | refine Stays.via (by with_reducible apply State.report_stays) ?_ (by decide)
    | with_reducible apply Stays.refl
    | dsimp only
    | split
    | with_reducible apply Stays.elim <;> intros
    | exact Stays.mk_of id fun p => by cases p <;> first | exact Or.inr rfl | exact Or.inl (by decide)

theorem State.slvNotify_stays (s : State) :
    Stays [.hl, .slv] s (State.slvNotify s) := by
  unfold State.slvNotify
  try dsimp only
  repeat' first
    | with_reducible apply Stays.ite
    | with_reducible apply Stays.each; (intro _ _; try dsimp only)
    | with_reducible apply Stays.fold; (intro _ _; try dsimp only)
    | refine Stays.via (by with_reducible apply State.slvPass_stays) ?_ (by decide)
    | with_reducible apply Stays.refl
    | dsimp only
    | split
    | with_reducible apply Stays.elim <;> intros
    | exact Stays.mk_of id fun p => by cases p <;> first | exact Or.inr rfl | exact Or.inl (by decide)

theorem State.heatEnd_stays (s : State) (h : Heat) (hcode : Nat) (reason : Nat) :
    Stays [.mem, .hl, .aon, .trk, .rly, .slv] s (State.heatEnd s h hcode reason) := by
  unfold State.heatEnd
  try dsimp only
  repeat' first
    | with_reducible apply Stays.ite
    | with_reducible apply Stays.each; (intro _ _; try dsimp only)
    | with_reducible apply Stays.fold; (intro _ _; try dsimp only)
    | refine Stays.via (by with_reducible apply State.writeMem_stays) ?_ (by decide)
    | refine Stays.via (by with_reducible apply State.report_stays) ?_ (by decide)
    | refine Stays.via (by with_reducible apply State.modSlv_stays) ?_ (by decide)
    | refine Stays.via (by with_reducible apply State.posted_stays) ?_ (by decide)
    | refine Stays.via (by with_reducible apply State.slvNotify_stays) ?_ (by decide)
    | refine Stays.via (by with_reducible apply State.returnBaton_stays) ?_ (by decide)
    | refine Stays.via (by with_reducible apply State.complete_stays) ?_ (by decide)
    | with_reducible apply Stays.refl
    | dsimp only
    | split
    | with_reducible apply Stays.elim <;> intros
    | exact Stays.mk_of id fun p => by cases p <;> first | exact Or.inr rfl | exact Or.inl (by decide)

theorem State.heatCheck_stays (s : State) (no : Nat) :
    Stays [.mem, .hl, .aon, .trk, .rly, .slv] s (State.heatCheck s no) := by
  unfold State.heatCheck
  try dsimp only
  repeat' first
    | with_reducible apply Stays.ite
    | with_reducible apply Stays.each; (intro _ _; try dsimp only)
    | with_reducible apply Stays.fold; (intro _ _; try dsimp only)
    | refine Stays.via (by with_reducible apply State.heatEnd_stays) ?_ (by decide)
    | with_reducible apply Stays.refl
    | dsimp only
    | split
    | with_reducible apply Stays.elim <;> intros
    | exact Stays.mk_of id fun p => by cases p <;> first | exact Or.inr rfl | exact Or.inl (by decide)

theorem State.heatJob_stays (s : State) (no : Nat) : Stays [.mem, .hl, .aon] s (s.heatJob no) := by
  unfold State.heatJob
  split
  · exact Stays.elim (Stays.refl _ _) fun j _ => Stays.step (Stays.refl _ _) (State.jobValid_stays _ _ _ _) (by decide)
  · exact Stays.refl _ _

theorem State.modHeat_stays (s : State) (no : Nat) (f : Heat → Heat) :
    Stays [.slv] s (State.modHeat s no f) := by
  unfold State.modHeat
  try dsimp only
  repeat' first
    | with_reducible apply Stays.ite
    | with_reducible apply Stays.each; (intro _ _; try dsimp only)
    | with_reducible apply Stays.fold; (intro _ _; try dsimp only)
    | refine Stays.via (by with_reducible apply State.modSlv_stays) ?_ (by decide)
    | with_reducible apply Stays.refl
    | dsimp only
    | split
    | with_reducible apply Stays.elim <;> intros
    | exact Stays.mk_of id fun p => by cases p <;> first | exact Or.inr rfl | exact Or.inl (by decide)

theorem State.putResult_stays (s : State) (no : Nat) (p : Nat) (code : Nat) (pflags : Nat) (b : List Byte) :
    Stays [.mem, .aon, .slv] s (State.putResult s no p code pflags b) := by
  unfold State.putResult
  try dsimp only
  repeat' first
    | with_reducible apply Stays.ite
    | with_reducible apply Stays.each; (intro _ _; try dsimp only)
    | with_reducible apply Stays.fold; (intro _ _; try dsimp only)
    | refine Stays.via (by with_reducible apply State.writeMem_stays) ?_ (by decide)
    | refine Stays.via (by with_reducible apply State.modHeat_stays) ?_ (by decide)
    | refine Stays.via (by with_reducible apply State.modSlv_stays) ?_ (by decide)
    | with_reducible apply Stays.refl
    | dsimp only
    | split
    | with_reducible apply Stays.elim <;> intros
    | exact Stays.mk_of id fun p => by cases p <;> first | exact Or.inr rfl | exact Or.inl (by decide)

theorem State.killProblems_stays (s : State) (no : Nat) (code : Nat) (l : List Nat) :
    Stays [.mem, .hl, .aon, .trk, .rly, .slv] s (State.killProblems s no code l) := by
  unfold State.killProblems
  try dsimp only
  repeat' first
    | with_reducible apply Stays.ite
    | with_reducible apply Stays.each; (intro _ _; try dsimp only)
    | with_reducible apply Stays.fold; (intro _ _; try dsimp only)
    | refine Stays.via (by with_reducible apply State.putResult_stays) ?_ (by decide)
    | refine Stays.via (by with_reducible apply State.modHeat_stays) ?_ (by decide)
    | refine Stays.via (by with_reducible apply State.heatJob_stays) ?_ (by decide)
    | refine Stays.via (by with_reducible apply State.heatCheck_stays) ?_ (by decide)
    | with_reducible apply Stays.refl
    | dsimp only
    | split
    | with_reducible apply Stays.elim <;> intros
    | exact Stays.mk_of id fun p => by cases p <;> first | exact Or.inr rfl | exact Or.inl (by decide)

theorem State.killRest_stays (s : State) (no : Nat) (code : Nat) :
    Stays [.mem, .hl, .aon, .trk, .rly, .slv] s (State.killRest s no code) := by
  unfold State.killRest
  try dsimp only
  repeat' first
    | with_reducible apply Stays.ite
    | with_reducible apply Stays.each; (intro _ _; try dsimp only)
    | with_reducible apply Stays.fold; (intro _ _; try dsimp only)
    | refine Stays.via (by with_reducible apply State.killProblems_stays) ?_ (by decide)
    | with_reducible apply Stays.refl
    | dsimp only
    | split
    | with_reducible apply Stays.elim <;> intros
    | exact Stays.mk_of id fun p => by cases p <;> first | exact Or.inr rfl | exact Or.inl (by decide)

theorem State.slvSafe_stays (s : State) (reason : Nat) :
    Stays [.mem, .hl, .aon, .slv] s (State.slvSafe s reason) := by
  unfold State.slvSafe
  try dsimp only
  repeat' first
    | with_reducible apply Stays.ite
    | with_reducible apply Stays.each; (intro _ _; try dsimp only)
    | with_reducible apply Stays.fold; (intro _ _; try dsimp only)
    | refine Stays.via (by with_reducible apply State.complete_stays) ?_ (by decide)
    | refine Stays.via (by with_reducible apply State.modSlv_stays) ?_ (by decide)
    | refine Stays.via (by with_reducible apply State.slvNotify_stays) ?_ (by decide)
    | with_reducible apply Stays.refl
    | dsimp only
    | split
    | with_reducible apply Stays.elim <;> intros
    | exact Stays.mk_of id fun p => by cases p <;> first | exact Or.inr rfl | exact Or.inl (by decide)

theorem State.slvSee_stays (s : State) (rcl : Bool) (n : Notice) :
    Stays [.hl, .slv] s (State.slvSee s rcl n) := by
  unfold State.slvSee
  try dsimp only
  repeat' first
    | with_reducible apply Stays.ite
    | with_reducible apply Stays.each; (intro _ _; try dsimp only)
    | with_reducible apply Stays.fold; (intro _ _; try dsimp only)
    | refine Stays.via (by with_reducible apply State.modSlv_stays) ?_ (by decide)
    | refine Stays.via (by with_reducible apply State.slvNotify_stays) ?_ (by decide)
    | with_reducible apply Stays.refl
    | dsimp only
    | split
    | with_reducible apply Stays.elim <;> intros
    | exact Stays.mk_of id fun p => by cases p <;> first | exact Or.inr rfl | exact Or.inl (by decide)

theorem State.unitSelfTest_stays (s : State) (mask : Nat) (failing : Nat) :
    Stays [.flt, .slv] s (State.unitSelfTest s mask failing) := by
  unfold State.unitSelfTest
  try dsimp only
  repeat' first
    | with_reducible apply Stays.ite
    | with_reducible apply Stays.each; (intro _ _; try dsimp only)
    | with_reducible apply Stays.fold; (intro _ _; try dsimp only)
    | refine Stays.via (by with_reducible apply State.raiseU_stays) ?_ (by decide)
    | refine Stays.via (by with_reducible apply State.modSlv_stays) ?_ (by decide)
    | with_reducible apply Stays.refl
    | dsimp only
    | split
    | with_reducible apply Stays.elim <;> intros
    | exact Stays.mk_of id fun p => by cases p <;> first | exact Or.inr rfl | exact Or.inl (by decide)

theorem State.killAll_stays (s : State) (no : Nat) :
    Stays [.mem, .hl, .aon, .trk, .rly, .slv] s (State.killAll s no) := by
  unfold State.killAll
  try dsimp only
  repeat' first
    | with_reducible apply Stays.ite
    | with_reducible apply Stays.each; (intro _ _; try dsimp only)
    | with_reducible apply Stays.fold; (intro _ _; try dsimp only)
    | refine Stays.via (by with_reducible apply State.killProblems_stays) ?_ (by decide)
    | with_reducible apply Stays.refl
    | dsimp only
    | split
    | with_reducible apply Stays.elim <;> intros
    | exact Stays.mk_of id fun p => by cases p <;> first | exact Or.inr rfl | exact Or.inl (by decide)

theorem State.slvTake_stays (s : State) (x : Bool × Notice) :
    Stays [.mem, .hl, .flt, .aon, .trk, .rly, .slv] s (State.slvTake s x) := by
  unfold State.slvTake
  try dsimp only
  repeat' first
    | with_reducible apply Stays.ite
    | with_reducible apply Stays.each; (intro _ _; try dsimp only)
    | with_reducible apply Stays.fold; (intro _ _; try dsimp only)
    | refine Stays.via (by with_reducible apply State.raiseU_stays) ?_ (by decide)
    | refine Stays.via (by with_reducible apply State.slvSee_stays) ?_ (by decide)
    | refine Stays.via (by with_reducible apply State.killRest_stays) ?_ (by decide)
    | with_reducible apply Stays.refl
    | dsimp only
    | split
    | with_reducible apply Stays.elim <;> intros
    | exact Stays.mk_of id fun p => by cases p <;> first | exact Or.inr rfl | exact Or.inl (by decide)

theorem State.slvNow_stays (s : State) :
    Stays [.mem, .hl, .flt, .aon, .trk, .rly, .slv] s (State.slvNow s) := by
  unfold State.slvNow
  try dsimp only
  repeat' first
    | with_reducible apply Stays.ite
    | with_reducible apply Stays.each; (intro _ _; try dsimp only)
    | with_reducible apply Stays.fold; (intro _ _; try dsimp only)
    | refine Stays.via (by with_reducible apply State.slvTake_stays) ?_ (by decide)
    | refine Stays.via (by with_reducible apply State.modSlv_stays) ?_ (by decide)
    | with_reducible apply Stays.refl
    | dsimp only
    | split
    | with_reducible apply Stays.elim <;> intros
    | exact Stays.mk_of id fun p => by cases p <;> first | exact Or.inr rfl | exact Or.inl (by decide)

theorem State.slvUnitMem_stays (s0 : State) (unit : Nat) (ue : Bool) :
    Stays [.mem, .freeCtr, .hl, .flt, .aon, .trk, .rly, .slv] s0 (State.slvUnitMem s0 unit ue) := by
  unfold State.slvUnitMem
  try dsimp only
  repeat' first
    | with_reducible apply Stays.ite
    | with_reducible apply Stays.each; (intro _ _; try dsimp only)
    | with_reducible apply Stays.fold; (intro _ _; try dsimp only)
    | refine Stays.via (by with_reducible apply State.slvNow_stays) ?_ (by decide)
    | refine Stays.via (by with_reducible apply State.takeFree_stays) ?_ (by decide)
    | refine Stays.via (by with_reducible apply State.raiseU_stays) ?_ (by decide)
    | refine Stays.via (by with_reducible apply State.modSlv_stays) ?_ (by decide)
    | refine Stays.via (by with_reducible apply State.killProblems_stays) ?_ (by decide)
    | with_reducible apply Stays.refl
    | dsimp only
    | split
    | with_reducible apply Stays.elim <;> intros
    | exact Stays.mk_of id fun p => by cases p <;> first | exact Or.inr rfl | exact Or.inl (by decide)

end Sys2Proof.Machine
end

