-- ==== Sys2Proof/Laws/FrameTime.lean ====
section
/-! SUPPORT. What each operation of Machine/Time.lean may change. -/

-- One theorem at a time: a thread a theorem would be too many. Proofs of one form name alternatives that some goals do not need.
set_option Elab.async false
set_option linter.all false

namespace Sys2Proof.Machine

open Sys2Proof

theorem State.addDelay_stays (s : State) (raw : Int) :
    Stays [.tk] s (State.addDelay s raw) := by
  unfold State.addDelay
  try dsimp only
  repeat' first
    | with_reducible apply Stays.ite
    | with_reducible apply Stays.each; (intro _ _; try dsimp only)
    | with_reducible apply Stays.fold; (intro _ _; try dsimp only)
    | refine Stays.via (by with_reducible apply State.modTk_stays) ?_ (by decide)
    | with_reducible apply Stays.refl
    | dsimp only
    | split
    | with_reducible apply Stays.elim <;> intros
    | exact Stays.mk_of id fun p => by cases p <;> first | exact Or.inr rfl | exact Or.inl (by decide)

theorem State.tkEvent_stays (s : State) (i : Nat) :
    Stays [.tk] s (State.tkEvent s i) := by
  unfold State.tkEvent
  try dsimp only
  repeat' first
    | with_reducible apply Stays.ite
    | with_reducible apply Stays.each; (intro _ _; try dsimp only)
    | with_reducible apply Stays.fold; (intro _ _; try dsimp only)
    | refine Stays.via (by with_reducible apply State.modTk_stays) ?_ (by decide)
    | with_reducible apply Stays.refl
    | dsimp only
    | split
    | with_reducible apply Stays.elim <;> intros
    | exact Stays.mk_of id fun p => by cases p <;> first | exact Or.inr rfl | exact Or.inl (by decide)

theorem State.capSlot_stays (s : State) (slot : Nat) :
    Stays [.ing, .mot, .pan] s (State.capSlot s slot) := by
  unfold State.capSlot
  try dsimp only
  repeat' first
    | with_reducible apply Stays.ite
    | with_reducible apply Stays.each; (intro _ _; try dsimp only)
    | with_reducible apply Stays.fold; (intro _ _; try dsimp only)
    | refine Stays.via (by with_reducible apply State.slotBack_stays) ?_ (by decide)
    | refine Stays.via (by with_reducible apply State.modSlot_stays) ?_ (by decide)
    | with_reducible apply Stays.refl
    | dsimp only
    | split
    | with_reducible apply Stays.elim <;> intros
    | exact Stays.mk_of id fun p => by cases p <;> first | exact Or.inr rfl | exact Or.inl (by decide)

theorem State.capRec_stays (s : State) (n : Nat) (r : Rec) :
    Stays [.hl, .ing] s (State.capRec s n r) := by
  unfold State.capRec
  try dsimp only
  repeat' first
    | with_reducible apply Stays.ite
    | with_reducible apply Stays.each; (intro _ _; try dsimp only)
    | with_reducible apply Stays.fold; (intro _ _; try dsimp only)
    | refine Stays.via (by with_reducible apply State.recIn_stays) ?_ (by decide)
    | with_reducible apply Stays.refl
    | dsimp only
    | split
    | with_reducible apply Stays.elim <;> intros
    | exact Stays.mk_of id fun p => by cases p <;> first | exact Or.inr rfl | exact Or.inl (by decide)

theorem State.capState_stays (s : State) (n : Nat) (state : Nat) (t : DT64) (tunc : Bool) :
    Stays [.hl, .ing] s (State.capState s n state t tunc) := by
  unfold State.capState
  try dsimp only
  repeat' first
    | with_reducible apply Stays.ite
    | with_reducible apply Stays.each; (intro _ _; try dsimp only)
    | with_reducible apply Stays.fold; (intro _ _; try dsimp only)
    | refine Stays.via (by with_reducible apply State.capRec_stays) ?_ (by decide)
    | with_reducible apply Stays.refl
    | dsimp only
    | split
    | with_reducible apply Stays.elim <;> intros
    | exact Stays.mk_of id fun p => by cases p <;> first | exact Or.inr rfl | exact Or.inl (by decide)

theorem State.capAbsent_stays (s : State) (n : Nat) :
    Stays [.hl, .tk, .ing, .mot, .pan] s (State.capAbsent s n) := by
  unfold State.capAbsent
  try dsimp only
  repeat' first
    | with_reducible apply Stays.ite
    | with_reducible apply Stays.each; (intro _ _; try dsimp only)
    | with_reducible apply Stays.fold; (intro _ _; try dsimp only)
    | refine Stays.via (by with_reducible apply State.modCap_stays) ?_ (by decide)
    | refine Stays.via (by with_reducible apply State.tkEvent_stays) ?_ (by decide)
    | refine Stays.via (by with_reducible apply State.capState_stays) ?_ (by decide)
    | refine Stays.via (by with_reducible apply State.capSlot_stays) ?_ (by decide)
    | with_reducible apply Stays.refl
    | dsimp only
    | split
    | with_reducible apply Stays.elim <;> intros
    | exact Stays.mk_of id fun p => by cases p <;> first | exact Or.inr rfl | exact Or.inl (by decide)

theorem State.capOff_stays (s : State) (n : Nat) :
    Stays [.hl, .tk, .ing, .mot, .pan] s (State.capOff s n) := by
  unfold State.capOff
  try dsimp only
  repeat' first
    | with_reducible apply Stays.ite
    | with_reducible apply Stays.each; (intro _ _; try dsimp only)
    | with_reducible apply Stays.fold; (intro _ _; try dsimp only)
    | refine Stays.via (by with_reducible apply State.modCap_stays) ?_ (by decide)
    | refine Stays.via (by with_reducible apply State.capAbsent_stays) ?_ (by decide)
    | refine Stays.via (by with_reducible apply State.modIng_stays) ?_ (by decide)
    | refine Stays.via (by with_reducible apply State.modSlot_stays) ?_ (by decide)
    | refine Stays.via (by with_reducible apply State.capSlot_stays) ?_ (by decide)
    | with_reducible apply Stays.refl
    | dsimp only
    | split
    | with_reducible apply Stays.elim <;> intros
    | exact Stays.mk_of id fun p => by cases p <;> first | exact Or.inr rfl | exact Or.inl (by decide)

theorem State.capOn_stays (s : State) (n : Nat) :
    Stays [.hl, .tk, .ing, .mot, .pan] s (State.capOn s n) := by
  unfold State.capOn
  try dsimp only
  repeat' first
    | with_reducible apply Stays.ite
    | with_reducible apply Stays.each; (intro _ _; try dsimp only)
    | with_reducible apply Stays.fold; (intro _ _; try dsimp only)
    | refine Stays.via (by with_reducible apply State.attach_stays) ?_ (by decide)
    | refine Stays.via (by with_reducible apply State.modCap_stays) ?_ (by decide)
    | refine Stays.via (by with_reducible apply State.capSlot_stays) ?_ (by decide)
    | with_reducible apply Stays.refl
    | dsimp only
    | split
    | with_reducible apply Stays.elim <;> intros
    | exact Stays.mk_of id fun p => by cases p <;> first | exact Or.inr rfl | exact Or.inl (by decide)

theorem State.capTell_stays (s : State) (n : Nat) (t : DT64) :
    Stays [.ing, .act] s (State.capTell s n t) := by
  unfold State.capTell
  try dsimp only
  repeat' first
    | with_reducible apply Stays.ite
    | with_reducible apply Stays.each; (intro _ _; try dsimp only)
    | with_reducible apply Stays.fold; (intro _ _; try dsimp only)
    | refine Stays.via (by with_reducible apply State.modIng_stays) ?_ (by decide)
    | refine Stays.via (by with_reducible apply State.modOut_stays) ?_ (by decide)
    | with_reducible apply Stays.refl
    | dsimp only
    | split
    | with_reducible apply Stays.elim <;> intros
    | exact Stays.mk_of id fun p => by cases p <;> first | exact Or.inr rfl | exact Or.inl (by decide)

theorem State.timeRec_stays (s : State) (type : Nat) (tunc : Bool) (body : List Byte) :
    Stays [.hl] s (State.timeRec s type tunc body) := by
  unfold State.timeRec
  try dsimp only
  repeat' first
    | with_reducible apply Stays.ite
    | with_reducible apply Stays.each; (intro _ _; try dsimp only)
    | with_reducible apply Stays.fold; (intro _ _; try dsimp only)
    | refine Stays.via (by with_reducible apply State.report_stays) ?_ (by decide)
    | with_reducible apply Stays.refl
    | dsimp only
    | split
    | with_reducible apply Stays.elim <;> intros
    | exact Stays.mk_of id fun p => by cases p <;> first | exact Or.inr rfl | exact Or.inl (by decide)

theorem State.choose_stays (s : State) :
    Stays [.hl, .tk] s (State.choose s) := by
  unfold State.choose
  try dsimp only
  repeat' first
    | with_reducible apply Stays.ite
    | with_reducible apply Stays.each; (intro _ _; try dsimp only)
    | with_reducible apply Stays.fold; (intro _ _; try dsimp only)
    | refine Stays.via (by with_reducible apply State.modTk_stays) ?_ (by decide)
    | refine Stays.via (by with_reducible apply State.tkEvent_stays) ?_ (by decide)
    | refine Stays.via (by with_reducible apply State.timeRec_stays) ?_ (by decide)
    | with_reducible apply Stays.refl
    | dsimp only
    | split
    | with_reducible apply Stays.elim <;> intros
    | exact Stays.mk_of id fun p => by cases p <;> first | exact Or.inr rfl | exact Or.inl (by decide)

theorem State.rebase_stays (s : State) (shift : Int) (adj : Int) :
    Stays [.tk] s (State.rebase s shift adj) := by
  unfold State.rebase
  try dsimp only
  repeat' first
    | with_reducible apply Stays.ite
    | with_reducible apply Stays.each; (intro _ _; try dsimp only)
    | with_reducible apply Stays.fold; (intro _ _; try dsimp only)
    | refine Stays.via (by with_reducible apply State.modTk_stays) ?_ (by decide)
    | with_reducible apply Stays.refl
    | dsimp only
    | split
    | with_reducible apply Stays.elim <;> intros
    | exact Stays.mk_of id fun p => by cases p <;> first | exact Or.inr rfl | exact Or.inl (by decide)

theorem State.tkGo_stays (s : State) (new : TkState) (reason : Nat) :
    Stays [.hl, .tk] s (State.tkGo s new reason) := by
  unfold State.tkGo
  try dsimp only
  repeat' first
    | with_reducible apply Stays.ite
    | with_reducible apply Stays.each; (intro _ _; try dsimp only)
    | with_reducible apply Stays.fold; (intro _ _; try dsimp only)
    | refine Stays.via (by with_reducible apply State.rebase_stays) ?_ (by decide)
    | refine Stays.via (by with_reducible apply State.modTk_stays) ?_ (by decide)
    | refine Stays.via (by with_reducible apply State.tkEvent_stays) ?_ (by decide)
    | refine Stays.via (by with_reducible apply State.timeRec_stays) ?_ (by decide)
    | with_reducible apply Stays.refl
    | dsimp only
    | split
    | with_reducible apply Stays.elim <;> intros
    | exact Stays.mk_of id fun p => by cases p <;> first | exact Or.inr rfl | exact Or.inl (by decide)

theorem State.falseStart_stays (s : State) (off : Int) :
    Stays [.hl, .tk] s (State.falseStart s off) := by
  unfold State.falseStart
  try dsimp only
  repeat' first
    | with_reducible apply Stays.ite
    | with_reducible apply Stays.each; (intro _ _; try dsimp only)
    | with_reducible apply Stays.fold; (intro _ _; try dsimp only)
    | refine Stays.via (by with_reducible apply State.tkEvent_stays) ?_ (by decide)
    | refine Stays.via (by with_reducible apply State.modTk_stays) ?_ (by decide)
    | refine Stays.via (by with_reducible apply State.timeRec_stays) ?_ (by decide)
    | refine Stays.via (by with_reducible apply State.tkGo_stays) ?_ (by decide)
    | with_reducible apply Stays.refl
    | dsimp only
    | split
    | with_reducible apply Stays.elim <;> intros
    | exact Stays.mk_of id fun p => by cases p <;> first | exact Or.inr rfl | exact Or.inl (by decide)

theorem State.modPdelay_stays (s : State) (p : Nat) (f : Pdelay → Pdelay) :
    Stays [.tk] s (State.modPdelay s p f) := by
  unfold State.modPdelay
  try dsimp only
  repeat' first
    | with_reducible apply Stays.ite
    | with_reducible apply Stays.each; (intro _ _; try dsimp only)
    | with_reducible apply Stays.fold; (intro _ _; try dsimp only)
    | refine Stays.via (by with_reducible apply State.modTk_stays) ?_ (by decide)
    | with_reducible apply Stays.refl
    | dsimp only
    | split
    | with_reducible apply Stays.elim <;> intros
    | exact Stays.mk_of id fun p => by cases p <;> first | exact Or.inr rfl | exact Or.inl (by decide)

theorem State.noParent_stays (s : State) :
    Stays [.tk] s (State.noParent s) := by
  unfold State.noParent
  try dsimp only
  repeat' first
    | with_reducible apply Stays.ite
    | with_reducible apply Stays.each; (intro _ _; try dsimp only)
    | with_reducible apply Stays.fold; (intro _ _; try dsimp only)
    | refine Stays.via (by with_reducible apply State.modTk_stays) ?_ (by decide)
    | with_reducible apply Stays.refl
    | dsimp only
    | split
    | with_reducible apply Stays.elim <;> intros
    | exact Stays.mk_of id fun p => by cases p <;> first | exact Or.inr rfl | exact Or.inl (by decide)

theorem State.pace_stays (s : State) (off : Int) :
    Stays [.tk] s (State.pace s off) := by
  unfold State.pace
  try dsimp only
  repeat' first
    | with_reducible apply Stays.ite
    | with_reducible apply Stays.each; (intro _ _; try dsimp only)
    | with_reducible apply Stays.fold; (intro _ _; try dsimp only)
    | refine Stays.via (by with_reducible apply State.rebase_stays) ?_ (by decide)
    | refine Stays.via (by with_reducible apply State.modTk_stays) ?_ (by decide)
    | with_reducible apply Stays.refl
    | dsimp only
    | split
    | with_reducible apply Stays.elim <;> intros
    | exact Stays.mk_of id fun p => by cases p <;> first | exact Or.inr rfl | exact Or.inl (by decide)

theorem State.peerMeasured_stays (s : State) (port : Nat) (raw : Int) (x : Option (Int × Int)) :
    Stays [.tk] s (State.peerMeasured s port raw x) := by
  unfold State.peerMeasured
  try dsimp only
  repeat' first
    | with_reducible apply Stays.ite
    | with_reducible apply Stays.each; (intro _ _; try dsimp only)
    | with_reducible apply Stays.fold; (intro _ _; try dsimp only)
    | refine Stays.via (by with_reducible apply State.modPdelay_stays) ?_ (by decide)
    | refine Stays.via (by with_reducible apply State.addDelay_stays) ?_ (by decide)
    | with_reducible apply Stays.refl
    | dsimp only
    | split
    | with_reducible apply Stays.elim <;> intros
    | exact Stays.mk_of id fun p => by cases p <;> first | exact Or.inr rfl | exact Or.inl (by decide)

theorem State.ptpLeave_stays (s : State) (p : Nat) (m : PtpMsg) :
    Stays [.out, .tk] s (State.ptpLeave s p m) := by
  unfold State.ptpLeave
  try dsimp only
  repeat' first
    | with_reducible apply Stays.ite
    | with_reducible apply Stays.each; (intro _ _; try dsimp only)
    | with_reducible apply Stays.fold; (intro _ _; try dsimp only)
    | refine Stays.via (by with_reducible apply State.send_stays) ?_ (by decide)
    | refine Stays.via (by with_reducible apply State.modTk_stays) ?_ (by decide)
    | refine Stays.via (by with_reducible apply State.modPdelay_stays) ?_ (by decide)
    | with_reducible apply Stays.refl
    | dsimp only
    | split
    | with_reducible apply Stays.elim <;> intros
    | exact Stays.mk_of id fun p => by cases p <;> first | exact Or.inr rfl | exact Or.inl (by decide)

theorem State.tcSend_stays (s : State) (p : Nat) (m : PtpMsg) :
    Stays [.out, .tk] s (State.tcSend s p m) := by
  unfold State.tcSend
  try dsimp only
  repeat' first
    | with_reducible apply Stays.ite
    | with_reducible apply Stays.each; (intro _ _; try dsimp only)
    | with_reducible apply Stays.fold; (intro _ _; try dsimp only)
    | refine Stays.via (by with_reducible apply State.send_stays) ?_ (by decide)
    | refine Stays.via (by with_reducible apply State.modTk_stays) ?_ (by decide)
    | with_reducible apply Stays.refl
    | dsimp only
    | split
    | with_reducible apply Stays.elim <;> intros
    | exact Stays.mk_of id fun p => by cases p <;> first | exact Or.inr rfl | exact Or.inl (by decide)

theorem State.fwdLeave_stays (s : State) (p : Nat) (m : PtpMsg) (f : Fwd) :
    Stays [.out, .tk] s (State.fwdLeave s p m f) := by
  unfold State.fwdLeave
  try dsimp only
  repeat' first
    | with_reducible apply Stays.ite
    | with_reducible apply Stays.each; (intro _ _; try dsimp only)
    | with_reducible apply Stays.fold; (intro _ _; try dsimp only)
    | refine Stays.via (by with_reducible apply State.ptpLeave_stays) ?_ (by decide)
    | refine Stays.via (by with_reducible apply State.tcSend_stays) ?_ (by decide)
    | refine Stays.via (by with_reducible apply State.modTk_stays) ?_ (by decide)
    | with_reducible apply Stays.refl
    | dsimp only
    | split
    | with_reducible apply Stays.elim <;> intros
    | exact Stays.mk_of id fun p => by cases p <;> first | exact Or.inr rfl | exact Or.inl (by decide)

theorem State.ptpSend_stays (s : State) (p : Nat) (m : PtpMsg) (f : Fwd) :
    Stays [.out, .hl, .tk] s (State.ptpSend s p m f) := by
  unfold State.ptpSend
  try dsimp only
  repeat' first
    | with_reducible apply Stays.ite
    | with_reducible apply Stays.each; (intro _ _; try dsimp only)
    | with_reducible apply Stays.fold; (intro _ _; try dsimp only)
    | refine Stays.via (by with_reducible apply State.modPort_stays) ?_ (by decide)
    | refine Stays.via (by with_reducible apply State.fwdLeave_stays) ?_ (by decide)
    | with_reducible apply Stays.refl
    | dsimp only
    | split
    | with_reducible apply Stays.elim <;> intros
    | exact Stays.mk_of id fun p => by cases p <;> first | exact Or.inr rfl | exact Or.inl (by decide)

theorem State.runOn_stays (s : State) (yes : Bool) :
    Stays [.tk] s (State.runOn s yes) := by
  unfold State.runOn
  try dsimp only
  repeat' first
    | with_reducible apply Stays.ite
    | with_reducible apply Stays.each; (intro _ _; try dsimp only)
    | with_reducible apply Stays.fold; (intro _ _; try dsimp only)
    | refine Stays.via (by with_reducible apply State.modTk_stays) ?_ (by decide)
    | with_reducible apply Stays.refl
    | dsimp only
    | split
    | with_reducible apply Stays.elim <;> intros
    | exact Stays.mk_of id fun p => by cases p <;> first | exact Or.inr rfl | exact Or.inl (by decide)

theorem State.tkStep_stays (s : State) (shift : Int) :
    Stays [.hl, .tk, .ing, .mot, .act] s (State.tkStep s shift) := by
  unfold State.tkStep
  try dsimp only
  repeat' first
    | with_reducible apply Stays.ite
    | with_reducible apply Stays.each; (intro _ _; try dsimp only)
    | with_reducible apply Stays.fold; (intro _ _; try dsimp only)
    | refine Stays.via (by with_reducible apply State.rebase_stays) ?_ (by decide)
    | refine Stays.via (by with_reducible apply State.tkEvent_stays) ?_ (by decide)
    | refine Stays.via (by with_reducible apply State.modIng_stays) ?_ (by decide)
    | refine Stays.via (by with_reducible apply State.modTk_stays) ?_ (by decide)
    | refine Stays.via (by with_reducible apply State.motStep_stays) ?_ (by decide)
    | refine Stays.via (by with_reducible apply State.motDrain_stays) ?_ (by decide)
    | refine Stays.via (by with_reducible apply State.timeRec_stays) ?_ (by decide)
    | refine Stays.via (by with_reducible apply State.actStep_stays) ?_ (by decide)
    | with_reducible apply Stays.refl
    | dsimp only
    | split
    | with_reducible apply Stays.elim <;> intros
    | exact Stays.mk_of id fun p => by cases p <;> first | exact Or.inr rfl | exact Or.inl (by decide)

theorem State.stepBy_stays (s : State) (off : Int) :
    Stays [.hl, .tk, .ing, .mot, .act] s (State.stepBy s off) := by
  unfold State.stepBy
  try dsimp only
  repeat' first
    | with_reducible apply Stays.ite
    | with_reducible apply Stays.each; (intro _ _; try dsimp only)
    | with_reducible apply Stays.fold; (intro _ _; try dsimp only)
    | refine Stays.via (by with_reducible apply State.tkStep_stays) ?_ (by decide)
    | refine Stays.via (by with_reducible apply State.modTk_stays) ?_ (by decide)
    | with_reducible apply Stays.refl
    | dsimp only
    | split
    | with_reducible apply Stays.elim <;> intros
    | exact Stays.mk_of id fun p => by cases p <;> first | exact Or.inr rfl | exact Or.inl (by decide)

theorem State.stepOver_stays (s : State) :
    Stays [.tk] s (State.stepOver s) := by
  unfold State.stepOver
  try dsimp only
  repeat' first
    | with_reducible apply Stays.ite
    | with_reducible apply Stays.each; (intro _ _; try dsimp only)
    | with_reducible apply Stays.fold; (intro _ _; try dsimp only)
    | refine Stays.via (by with_reducible apply State.modTk_stays) ?_ (by decide)
    | with_reducible apply Stays.refl
    | dsimp only
    | split
    | with_reducible apply Stays.elim <;> intros
    | exact Stays.mk_of id fun p => by cases p <;> first | exact Or.inr rfl | exact Or.inl (by decide)

theorem State.tkOffset_stays (s : State) (off : Int) :
    Stays [.hl, .tk, .ing, .mot, .act] s (State.tkOffset s off) := by
  unfold State.tkOffset
  try dsimp only
  repeat' first
    | with_reducible apply Stays.ite
    | with_reducible apply Stays.each; (intro _ _; try dsimp only)
    | with_reducible apply Stays.fold; (intro _ _; try dsimp only)
    | refine Stays.via (by with_reducible apply State.modTk_stays) ?_ (by decide)
    | refine Stays.via (by with_reducible apply State.stepBy_stays) ?_ (by decide)
    | refine Stays.via (by with_reducible apply State.tkGo_stays) ?_ (by decide)
    | refine Stays.via (by with_reducible apply State.falseStart_stays) ?_ (by decide)
    | refine Stays.via (by with_reducible apply State.pace_stays) ?_ (by decide)
    | refine Stays.via (by with_reducible apply State.runOn_stays) ?_ (by decide)
    | refine Stays.via (by with_reducible apply State.stepOver_stays) ?_ (by decide)
    | with_reducible apply Stays.refl
    | dsimp only
    | split
    | with_reducible apply Stays.elim <;> intros
    | exact Stays.mk_of id fun p => by cases p <;> first | exact Or.inr rfl | exact Or.inl (by decide)

theorem State.syncKnown_stays (s : State) (port : Nat) (diff : Int) :
    Stays [.hl, .tk, .ing, .mot, .act] s (State.syncKnown s port diff) := by
  unfold State.syncKnown
  try dsimp only
  repeat' first
    | with_reducible apply Stays.ite
    | with_reducible apply Stays.each; (intro _ _; try dsimp only)
    | with_reducible apply Stays.fold; (intro _ _; try dsimp only)
    | refine Stays.via (by with_reducible apply State.modTk_stays) ?_ (by decide)
    | refine Stays.via (by with_reducible apply State.tkOffset_stays) ?_ (by decide)
    | with_reducible apply Stays.refl
    | dsimp only
    | split
    | with_reducible apply Stays.elim <;> intros
    | exact Stays.mk_of id fun p => by cases p <;> first | exact Or.inr rfl | exact Or.inl (by decide)

theorem State.tkAccept_stays (s : State) :
    Stays [.tk] s (State.tkAccept s) := by
  unfold State.tkAccept
  try dsimp only
  repeat' first
    | with_reducible apply Stays.ite
    | with_reducible apply Stays.each; (intro _ _; try dsimp only)
    | with_reducible apply Stays.fold; (intro _ _; try dsimp only)
    | refine Stays.via (by with_reducible apply State.modTk_stays) ?_ (by decide)
    | with_reducible apply Stays.refl
    | dsimp only
    | split
    | with_reducible apply Stays.elim <;> intros
    | exact Stays.mk_of id fun p => by cases p <;> first | exact Or.inr rfl | exact Or.inl (by decide)

theorem State.tkEraWrite_stays (s : State) (era : Nat) :
    Stays [.tk] s (State.tkEraWrite s era) := by
  unfold State.tkEraWrite
  try dsimp only
  repeat' first
    | with_reducible apply Stays.ite
    | with_reducible apply Stays.each; (intro _ _; try dsimp only)
    | with_reducible apply Stays.fold; (intro _ _; try dsimp only)
    | refine Stays.via (by with_reducible apply State.rebase_stays) ?_ (by decide)
    | with_reducible apply Stays.refl
    | dsimp only
    | split
    | with_reducible apply Stays.elim <;> intros
    | exact Stays.mk_of id fun p => by cases p <;> first | exact Or.inr rfl | exact Or.inl (by decide)

theorem State.tkLinkDrop_stays (s : State) (p : Nat) :
    Stays [.hl, .tk] s (State.tkLinkDrop s p) := by
  unfold State.tkLinkDrop
  try dsimp only
  repeat' first
    | with_reducible apply Stays.ite
    | with_reducible apply Stays.each; (intro _ _; try dsimp only)
    | with_reducible apply Stays.fold; (intro _ _; try dsimp only)
    | refine Stays.via (by with_reducible apply State.modTk_stays) ?_ (by decide)
    | refine Stays.via (by with_reducible apply State.choose_stays) ?_ (by decide)
    | refine Stays.via (by with_reducible apply State.noParent_stays) ?_ (by decide)
    | refine Stays.via (by with_reducible apply State.tkGo_stays) ?_ (by decide)
    | with_reducible apply Stays.refl
    | dsimp only
    | split
    | with_reducible apply Stays.elim <;> intros
    | exact Stays.mk_of id fun p => by cases p <;> first | exact Or.inr rfl | exact Or.inl (by decide)

theorem State.tkRestart_stays (s : State) :
    Stays [.hl, .tk] s (State.tkRestart s) := by
  unfold State.tkRestart
  try dsimp only
  repeat' first
    | with_reducible apply Stays.ite
    | with_reducible apply Stays.each; (intro _ _; try dsimp only)
    | with_reducible apply Stays.fold; (intro _ _; try dsimp only)
    | refine Stays.via (by with_reducible apply State.stepOver_stays) ?_ (by decide)
    | refine Stays.via (by with_reducible apply State.tkGo_stays) ?_ (by decide)
    | refine Stays.via (by with_reducible apply State.modTk_stays) ?_ (by decide)
    | with_reducible apply Stays.refl
    | dsimp only
    | split
    | with_reducible apply Stays.elim <;> intros
    | exact Stays.mk_of id fun p => by cases p <;> first | exact Or.inr rfl | exact Or.inl (by decide)

theorem State.tkSetTime_stays (s : State) (v : DT64) :
    Stays [.hl, .tk, .ing, .mot, .act] s (State.tkSetTime s v) := by
  unfold State.tkSetTime
  try dsimp only
  repeat' first
    | with_reducible apply Stays.ite
    | with_reducible apply Stays.each; (intro _ _; try dsimp only)
    | with_reducible apply Stays.fold; (intro _ _; try dsimp only)
    | refine Stays.via (by with_reducible apply State.tkStep_stays) ?_ (by decide)
    | refine Stays.via (by with_reducible apply State.modTk_stays) ?_ (by decide)
    | with_reducible apply Stays.refl
    | dsimp only
    | split
    | with_reducible apply Stays.elim <;> intros
    | exact Stays.mk_of id fun p => by cases p <;> first | exact Or.inr rfl | exact Or.inl (by decide)

theorem State.tkSourceWrite_stays (s : State) (old : Nat) (new : Nat) :
    Stays [.hl, .tk] s (State.tkSourceWrite s old new) := by
  unfold State.tkSourceWrite
  try dsimp only
  repeat' first
    | with_reducible apply Stays.ite
    | with_reducible apply Stays.each; (intro _ _; try dsimp only)
    | with_reducible apply Stays.fold; (intro _ _; try dsimp only)
    | refine Stays.via (by with_reducible apply State.stepOver_stays) ?_ (by decide)
    | refine Stays.via (by with_reducible apply State.modTk_stays) ?_ (by decide)
    | refine Stays.via (by with_reducible apply State.tkGo_stays) ?_ (by decide)
    | with_reducible apply Stays.refl
    | dsimp only
    | split
    | with_reducible apply Stays.elim <;> intros
    | exact Stays.mk_of id fun p => by cases p <;> first | exact Or.inr rfl | exact Or.inl (by decide)

theorem State.capStallWrite_stays (s : State) (old : State) (n : Nat) :
    Stays [.tk, .ing, .mot, .pan] s (State.capStallWrite s old n) := by
  unfold State.capStallWrite
  try dsimp only
  repeat' first
    | with_reducible apply Stays.ite
    | with_reducible apply Stays.each; (intro _ _; try dsimp only)
    | with_reducible apply Stays.fold; (intro _ _; try dsimp only)
    | refine Stays.via (by with_reducible apply State.modCap_stays) ?_ (by decide)
    | refine Stays.via (by with_reducible apply State.capSlot_stays) ?_ (by decide)
    | with_reducible apply Stays.refl
    | dsimp only
    | split
    | with_reducible apply Stays.elim <;> intros
    | exact Stays.mk_of id fun p => by cases p <;> first | exact Or.inr rfl | exact Or.inl (by decide)

end Sys2Proof.Machine
end

