-- ==== Sys2Proof/Laws/FrameRegRead.lean ====
section
/-! SUPPORT. What each operation of Machine/RegRead.lean may change. -/

-- One theorem at a time: a thread a theorem would be too many. Proofs of one form name alternatives that some goals do not need.
set_option Elab.async false
set_option linter.all false

namespace Sys2Proof.Machine

open Sys2Proof

theorem State.hostRead_stays (s : State) (off : Nat) : Stays [.latchHi] s (s.hostRead off).2 := by
  unfold State.hostRead
  split
  · exact Stays.mk_of id fun p => by cases p <;> first | exact Or.inr rfl | exact Or.inl (by decide)
  · split
    · split
      · exact Stays.mk_of id fun p => by cases p <;> first | exact Or.inr rfl | exact Or.inl (by decide)
      · exact Stays.refl _ _
    · exact Stays.refl _ _

end Sys2Proof.Machine
end

