-- ==== Sys2Proof/Laws/FramePorts.lean ====
section
/-! SUPPORT. What each operation of Machine/Ports.lean may change. -/

-- One theorem at a time: a thread a theorem would be too many. Proofs of one form name alternatives that some goals do not need.
set_option Elab.async false
set_option linter.all false

namespace Sys2Proof.Machine

open Sys2Proof

theorem State.sessFrame_stays (s : State) (i : Nat) (kind : Nat) (seq : BitVec 32) (retx : Bool) (payload : List Byte) :
    Stays [.out, .hl] s (State.sessFrame s i kind seq retx payload) := by
  unfold State.sessFrame
  try dsimp only
  repeat' first
    | with_reducible apply Stays.ite
    | with_reducible apply Stays.each; (intro _ _; try dsimp only)
    | with_reducible apply Stays.fold; (intro _ _; try dsimp only)
    | refine Stays.via (by with_reducible apply State.hlFrame_stays) ?_ (by decide)
    | with_reducible apply Stays.refl
    | dsimp only
    | split
    | with_reducible apply Stays.elim <;> intros
    | exact Stays.mk_of id fun p => by cases p <;> first | exact Or.inr rfl | exact Or.inl (by decide)

theorem State.reqSend_stays (s : State) (i : Nat) (q : DevReq) (retx : Bool) :
    Stays [.out, .hl] s (State.reqSend s i q retx) := by
  unfold State.reqSend
  try dsimp only
  repeat' first
    | with_reducible apply Stays.ite
    | with_reducible apply Stays.each; (intro _ _; try dsimp only)
    | with_reducible apply Stays.fold; (intro _ _; try dsimp only)
    | refine Stays.via (by with_reducible apply State.sessFrame_stays) ?_ (by decide)
    | with_reducible apply Stays.refl
    | dsimp only
    | split
    | with_reducible apply Stays.elim <;> intros
    | exact Stays.mk_of id fun p => by cases p <;> first | exact Or.inr rfl | exact Or.inl (by decide)

theorem State.pumpGo_stays (i n : Nat) (s : State) : Stays [.out, .hl] s (State.pumpGo i n s) := by
  induction n generalizing s with
  | zero => exact Stays.refl _ _
  | succ n ih =>
    unfold State.pumpGo
    dsimp only
    split
    · exact Stays.refl _ _
    · split
      · exact Stays.refl _ _
      · refine Stays.via (ih _) ?_ (by decide)
        refine Stays.via (State.reqSend_stays _ _ _ _) ?_ (by decide)
        exact Stays.step (Stays.refl _ _) (State.modSess_stays _ _ _) (by decide)

theorem State.pump_stays (s : State) (i : Nat) : Stays [.out, .hl] s (s.pump i) := State.pumpGo_stays i 32 s

theorem State.ask_stays (s : State) (r : Nat) (kind : ReqKind) (haddr : Nat) (len : Nat) (data : List Byte) :
    Stays [.out, .hl] s (State.ask s r kind haddr len data) := by
  unfold State.ask
  try dsimp only
  repeat' first
    | with_reducible apply Stays.ite
    | with_reducible apply Stays.each; (intro _ _; try dsimp only)
    | with_reducible apply Stays.fold; (intro _ _; try dsimp only)
    | refine Stays.via (by with_reducible apply State.modSess_stays) ?_ (by decide)
    | refine Stays.via (by with_reducible apply State.pump_stays) ?_ (by decide)
    | with_reducible apply Stays.refl
    | dsimp only
    | split
    | with_reducible apply Stays.elim <;> intros
    | exact Stays.mk_of id fun p => by cases p <;> first | exact Or.inr rfl | exact Or.inl (by decide)

theorem State.declare_stays (s : State) :
    Stays [.out, .hl, .aon] s (State.declare s) := by
  unfold State.declare
  try dsimp only
  repeat' first
    | with_reducible apply Stays.ite
    | with_reducible apply Stays.each; (intro _ _; try dsimp only)
    | with_reducible apply Stays.fold; (intro _ _; try dsimp only)
    | refine Stays.via (by with_reducible apply State.modAon_stays) ?_ (by decide)
    | refine Stays.via (by with_reducible apply State.relevel_stays) ?_ (by decide)
    | with_reducible apply Stays.refl
    | dsimp only
    | split
    | with_reducible apply Stays.elim <;> intros
    | exact Stays.mk_of id fun p => by cases p <;> first | exact Or.inr rfl | exact Or.inl (by decide)

theorem State.timersOn_stays (s : State) (p : Nat) :
    Stays [.hl] s (State.timersOn s p) := by
  unfold State.timersOn
  try dsimp only
  repeat' first
    | with_reducible apply Stays.ite
    | with_reducible apply Stays.each; (intro _ _; try dsimp only)
    | with_reducible apply Stays.fold; (intro _ _; try dsimp only)
    | refine Stays.via (by with_reducible apply State.modSess_stays) ?_ (by decide)
    | with_reducible apply Stays.refl
    | dsimp only
    | split
    | with_reducible apply Stays.elim <;> intros
    | exact Stays.mk_of id fun p => by cases p <;> first | exact Or.inr rfl | exact Or.inl (by decide)

theorem State.portDown_stays (s : State) (p : Nat) :
    Stays [.hl, .tk] s (State.portDown s p) := by
  unfold State.portDown
  try dsimp only
  repeat' first
    | with_reducible apply Stays.ite
    | with_reducible apply Stays.each; (intro _ _; try dsimp only)
    | with_reducible apply Stays.fold; (intro _ _; try dsimp only)
    | refine Stays.via (by with_reducible apply State.timersOn_stays) ?_ (by decide)
    | refine Stays.via (by with_reducible apply State.modPort_stays) ?_ (by decide)
    | refine Stays.via (by with_reducible apply State.tkLinkDrop_stays) ?_ (by decide)
    | with_reducible apply Stays.refl
    | dsimp only
    | split
    | with_reducible apply Stays.elim <;> intros
    | exact Stays.mk_of id fun p => by cases p <;> first | exact Or.inr rfl | exact Or.inl (by decide)

theorem State.portFlush_stays (s : State) (p : Nat) (l : List HeldOut) :
    Stays [.out, .tk] s (State.portFlush s p l) := by
  unfold State.portFlush
  try dsimp only
  repeat' first
    | with_reducible apply Stays.ite
    | with_reducible apply Stays.each; (intro _ _; try dsimp only)
    | with_reducible apply Stays.fold; (intro _ _; try dsimp only)
    | refine Stays.via (by with_reducible apply State.fwdLeave_stays) ?_ (by decide)
    | refine Stays.via (by with_reducible apply State.send_stays) ?_ (by decide)
    | with_reducible apply Stays.refl
    | dsimp only
    | split
    | with_reducible apply Stays.elim <;> intros
    | exact Stays.mk_of id fun p => by cases p <;> first | exact Or.inr rfl | exact Or.inl (by decide)

theorem State.timersOff_stays (s : State) (p : Nat) :
    Stays [.hl] s (State.timersOff s p) := by
  unfold State.timersOff
  try dsimp only
  repeat' first
    | with_reducible apply Stays.ite
    | with_reducible apply Stays.each; (intro _ _; try dsimp only)
    | with_reducible apply Stays.fold; (intro _ _; try dsimp only)
    | refine Stays.via (by with_reducible apply State.modSess_stays) ?_ (by decide)
    | with_reducible apply Stays.refl
    | dsimp only
    | split
    | with_reducible apply Stays.elim <;> intros
    | exact Stays.mk_of id fun p => by cases p <;> first | exact Or.inr rfl | exact Or.inl (by decide)

theorem State.portSettle_stays (s : State) (p : Nat) (rate : Nat) :
    Stays [.hl, .tk] s (State.portSettle s p rate) := by
  unfold State.portSettle
  try dsimp only
  repeat' first
    | with_reducible apply Stays.ite
    | with_reducible apply Stays.each; (intro _ _; try dsimp only)
    | with_reducible apply Stays.fold; (intro _ _; try dsimp only)
    | refine Stays.via (by with_reducible apply State.timersOn_stays) ?_ (by decide)
    | refine Stays.via (by with_reducible apply State.timersOff_stays) ?_ (by decide)
    | refine Stays.via (by with_reducible apply State.modPort_stays) ?_ (by decide)
    | refine Stays.via (by with_reducible apply State.tkLinkDrop_stays) ?_ (by decide)
    | with_reducible apply Stays.refl
    | dsimp only
    | split
    | with_reducible apply Stays.elim <;> intros
    | exact Stays.mk_of id fun p => by cases p <;> first | exact Or.inr rfl | exact Or.inl (by decide)

theorem State.portStart_stays (s : State) (p : Nat) :
    Stays [.hl, .tk] s (State.portStart s p) := by
  unfold State.portStart
  try dsimp only
  repeat' first
    | with_reducible apply Stays.ite
    | with_reducible apply Stays.each; (intro _ _; try dsimp only)
    | with_reducible apply Stays.fold; (intro _ _; try dsimp only)
    | refine Stays.via (by with_reducible apply State.portSettle_stays) ?_ (by decide)
    | with_reducible apply Stays.refl
    | dsimp only
    | split
    | with_reducible apply Stays.elim <;> intros
    | exact Stays.mk_of id fun p => by cases p <;> first | exact Or.inr rfl | exact Or.inl (by decide)

theorem State.portsFollow_stays (s : State) (old : State) :
    Stays [.hl, .tk] s (State.portsFollow s old) := by
  unfold State.portsFollow
  try dsimp only
  repeat' first
    | with_reducible apply Stays.ite
    | with_reducible apply Stays.each; (intro _ _; try dsimp only)
    | with_reducible apply Stays.fold; (intro _ _; try dsimp only)
    | refine Stays.via (by with_reducible apply State.portStart_stays) ?_ (by decide)
    | refine Stays.via (by with_reducible apply State.portDown_stays) ?_ (by decide)
    | with_reducible apply Stays.refl
    | dsimp only
    | split
    | with_reducible apply Stays.elim <;> intros
    | exact Stays.mk_of id fun p => by cases p <;> first | exact Or.inr rfl | exact Or.inl (by decide)

theorem State.ringCut_stays (s : State) (r : Nat) :
    Stays [.hl] s (State.ringCut s r) := by
  unfold State.ringCut
  try dsimp only
  repeat' first
    | with_reducible apply Stays.ite
    | with_reducible apply Stays.each; (intro _ _; try dsimp only)
    | with_reducible apply Stays.fold; (intro _ _; try dsimp only)
    | refine Stays.via (by with_reducible apply State.modSess_stays) ?_ (by decide)
    | with_reducible apply Stays.refl
    | dsimp only
    | split
    | with_reducible apply Stays.elim <;> intros
    | exact Stays.mk_of id fun p => by cases p <;> first | exact Or.inr rfl | exact Or.inl (by decide)

theorem State.ringDrop_stays (s : State) (r : Nat) :
    Stays [.hl] s (State.ringDrop s r) := by
  unfold State.ringDrop
  try dsimp only
  repeat' first
    | with_reducible apply Stays.ite
    | with_reducible apply Stays.each; (intro _ _; try dsimp only)
    | with_reducible apply Stays.fold; (intro _ _; try dsimp only)
    | refine Stays.via (by with_reducible apply State.modHl_stays) ?_ (by decide)
    | refine Stays.via (by with_reducible apply State.dropPost_stays) ?_ (by decide)
    | with_reducible apply Stays.refl
    | dsimp only
    | split
    | with_reducible apply Stays.elim <;> intros
    | exact Stays.mk_of id fun p => by cases p <;> first | exact Or.inr rfl | exact Or.inl (by decide)

theorem State.ringOff_stays (s : State) (r : Nat) :
    Stays [.hl] s (State.ringOff s r) := by
  unfold State.ringOff
  try dsimp only
  repeat' first
    | with_reducible apply Stays.ite
    | with_reducible apply Stays.each; (intro _ _; try dsimp only)
    | with_reducible apply Stays.fold; (intro _ _; try dsimp only)
    | refine Stays.via (by with_reducible apply State.ringCut_stays) ?_ (by decide)
    | refine Stays.via (by with_reducible apply State.ringDrop_stays) ?_ (by decide)
    | refine Stays.via (by with_reducible apply State.modRing_stays) ?_ (by decide)
    | with_reducible apply Stays.refl
    | dsimp only
    | split
    | with_reducible apply Stays.elim <;> intros
    | exact Stays.mk_of id fun p => by cases p <;> first | exact Or.inr rfl | exact Or.inl (by decide)

theorem State.ringOn_stays (s : State) (r : Nat) :
    Stays [.hl] s (State.ringOn s r) := by
  unfold State.ringOn
  try dsimp only
  repeat' first
    | with_reducible apply Stays.ite
    | with_reducible apply Stays.each; (intro _ _; try dsimp only)
    | with_reducible apply Stays.fold; (intro _ _; try dsimp only)
    | refine Stays.via (by with_reducible apply State.modRing_stays) ?_ (by decide)
    | with_reducible apply Stays.refl
    | dsimp only
    | split
    | with_reducible apply Stays.elim <;> intros
    | exact Stays.mk_of id fun p => by cases p <;> first | exact Or.inr rfl | exact Or.inl (by decide)

theorem State.ringStop_stays (s : State) (r : Nat) :
    Stays [.hl] s (State.ringStop s r) := by
  unfold State.ringStop
  try dsimp only
  repeat' first
    | with_reducible apply Stays.ite
    | with_reducible apply Stays.each; (intro _ _; try dsimp only)
    | with_reducible apply Stays.fold; (intro _ _; try dsimp only)
    | refine Stays.via (by with_reducible apply State.ringCut_stays) ?_ (by decide)
    | refine Stays.via (by with_reducible apply State.ringDrop_stays) ?_ (by decide)
    | refine Stays.via (by with_reducible apply State.modRing_stays) ?_ (by decide)
    | with_reducible apply Stays.refl
    | dsimp only
    | split
    | with_reducible apply Stays.elim <;> intros
    | exact Stays.mk_of id fun p => by cases p <;> first | exact Or.inr rfl | exact Or.inl (by decide)

theorem State.sessLost_stays (s : State) (i : Nat) :
    Stays [.hl] s (State.sessLost s i) := by
  unfold State.sessLost
  try dsimp only
  repeat' first
    | with_reducible apply Stays.ite
    | with_reducible apply Stays.each; (intro _ _; try dsimp only)
    | with_reducible apply Stays.fold; (intro _ _; try dsimp only)
    | refine Stays.via (by with_reducible apply State.modSess_stays) ?_ (by decide)
    | refine Stays.via (by with_reducible apply State.modHl_stays) ?_ (by decide)
    | with_reducible apply Stays.refl
    | dsimp only
    | split
    | with_reducible apply Stays.elim <;> intros
    | exact Stays.mk_of id fun p => by cases p <;> first | exact Or.inr rfl | exact Or.inl (by decide)

end Sys2Proof.Machine
end

