-- ==== Sys2Proof/Laws/FrameResetTake.lean ====
section
/-! SUPPORT. What each operation of Machine/ResetTake.lean may change. -/

-- One theorem at a time: a thread a theorem would be too many. Proofs of one form name alternatives that some goals do not need.
set_option Elab.async false
set_option linter.all false

namespace Sys2Proof.Machine

open Sys2Proof

theorem State.takeReset_stays (s : State) (c : Cause) :
    Stays [.regs, .holdLow, .latchHi, .mem, .hl, .flt, .aon, .tk, .ing, .mot, .pan, .trk, .rly, .kvp, .slv,
      .act] s (State.takeReset s c) := by
  unfold State.takeReset
  repeat' split
  all_goals first | exact Stays.refl _ _ | exact Stays.step (Stays.refl _ _) (State.modAon_stays _ _) (by decide) | exact Stays.mk_of (fun _ => rfl) fun p => by cases p <;> first | exact Or.inr rfl | exact Or.inl (by decide)

end Sys2Proof.Machine
end

