-- ==== Sys2Proof/Laws/FrameRegWrite.lean ====
section
/-! SUPPORT. What each operation of Machine/RegWrite.lean may change. -/

-- One theorem at a time: a thread a theorem would be too many. Proofs of one form name alternatives that some goals do not need.
set_option Elab.async false
set_option linter.all false

namespace Sys2Proof.Machine

open Sys2Proof

theorem State.onEdge_stays {l : List Part} {s t : State} {was is : Bool} {rise fall : State → State} (b : Stays l s t)
    (hr : Stays l s (rise t)) (hf : Stays l s (fall t)) : Stays l s (t.onEdge was is rise fall) := by
  unfold State.onEdge
  split
  · exact hr
  · split
    · exact hf
    · exact b

theorem State.relayOff_stays (s : State) : Stays [.pan, .trk, .rly] s s.relayOff := by
  unfold State.relayOff
  dsimp only
  refine Stays.via (State.restartStreams_stays _ _) ?_ (by decide)
  refine Stays.via (State.modRly_stays _ _) ?_ (by decide)
  refine Stays.via (State.dropBatons_stays _ _) ?_ (by decide)
  exact Stays.elim (Stays.refl _ _) fun c _ => Stays.step (Stays.refl _ _) (State.bandCredit_stays _ _) (by decide)

theorem State.failing_stays (s : State) (told : Option Nat) (named : Nat) : Stays [.freeCtr] s (s.failing told named).2 := by
  unfold State.failing
  split
  · exact Stays.refl _ _
  · split
    · exact Stays.refl _ _
    · exact State.takeFree_stays _ _

theorem State.engineWrite_stays (s : State) (old : State) (r : Reg) (i : Nat) (v : Nat) (told : Option Nat) :
    Stays [.mem, .freeCtr, .out, .hl, .flt, .aon, .tk, .ing, .mot, .pan, .trk, .rly, .slv,
      .act] s (State.engineWrite s old r i v told) := by
  unfold State.engineWrite
  try dsimp only
  repeat' first
    | with_reducible apply Stays.ite
    | with_reducible apply Stays.each; (intro _ _; try dsimp only)
    | with_reducible apply Stays.fold; (intro _ _; try dsimp only)
    | (with_reducible apply State.onEdge_stays <;> first | decide | (intros; try dsimp only))
    | refine Stays.via (by with_reducible apply State.motOn_stays) ?_ (by decide)
    | refine Stays.via (by with_reducible apply State.motOff_stays) ?_ (by decide)
    | refine Stays.via (by with_reducible apply State.panFrameOn_stays) ?_ (by decide)
    | refine Stays.via (by with_reducible apply State.panFrameOff_stays) ?_ (by decide)
    | refine Stays.via (by with_reducible apply State.fenceOff_stays) ?_ (by decide)
    | refine Stays.via (by with_reducible apply State.panStreamOn_stays) ?_ (by decide)
    | refine Stays.via (by with_reducible apply State.panStreamOff_stays) ?_ (by decide)
    | refine Stays.via (by with_reducible apply State.relayOff_stays) ?_ (by decide)
    | refine Stays.via (by with_reducible apply State.switchIdle_stays) ?_ (by decide)
    | refine Stays.via (by with_reducible apply State.failing_stays) ?_ (by decide)
    | refine Stays.via (by with_reducible apply State.laneSelfTest_stays) ?_ (by decide)
    | refine Stays.via (by with_reducible apply State.abortExchange_stays) ?_ (by decide)
    | refine Stays.via (by with_reducible apply State.dbgCmd_stays) ?_ (by decide)
    | refine Stays.via (by with_reducible apply State.unitSelfTest_stays) ?_ (by decide)
    | refine Stays.via (by with_reducible apply State.unitOn_stays) ?_ (by decide)
    | refine Stays.via (by with_reducible apply State.unitOff_stays) ?_ (by decide)
    | refine Stays.via (by with_reducible apply State.actResume_stays) ?_ (by decide)
    | refine Stays.via (by with_reducible apply State.actRelease_stays) ?_ (by decide)
    | refine Stays.via (by with_reducible apply State.lineHold_stays) ?_ (by decide)
    | refine Stays.via (by with_reducible apply State.outputOn_stays) ?_ (by decide)
    | refine Stays.via (by with_reducible apply State.clearOutput_stays) ?_ (by decide)
    | with_reducible apply Stays.refl
    | dsimp only
    | split
    | with_reducible apply Stays.elim <;> intros
    | exact Stays.mk_of id fun p => by cases p <;> first | exact Or.inr rfl | exact Or.inl (by decide)

theorem State.settleWrite_stays (s : State) (old : State) :
    Stays [.regs, .holdLow, .latchHi, .mem, .hl, .flt, .aon, .tk, .ing, .mot, .pan, .trk, .rly, .kvp, .slv,
      .act] s (State.settleWrite s old) := by
  unfold State.settleWrite
  try dsimp only
  repeat' first
    | with_reducible apply Stays.ite
    | with_reducible apply Stays.each; (intro _ _; try dsimp only)
    | with_reducible apply Stays.fold; (intro _ _; try dsimp only)
    | refine Stays.via (by with_reducible apply State.portsFollow_stays) ?_ (by decide)
    | refine Stays.via (by with_reducible apply State.takeReset_stays) ?_ (by decide)
    | with_reducible apply Stays.refl
    | dsimp only
    | split
    | with_reducible apply Stays.elim <;> intros
    | exact Stays.mk_of id fun p => by cases p <;> first | exact Or.inr rfl | exact Or.inl (by decide)

theorem State.linkWrite_stays (s : State) (old : State) (r : Reg) (i : Nat) (v : Nat) :
    Stays [.hl, .flt, .aon] s (State.linkWrite s old r i v) := by
  unfold State.linkWrite
  try dsimp only
  repeat' first
    | with_reducible apply Stays.ite
    | with_reducible apply Stays.each; (intro _ _; try dsimp only)
    | with_reducible apply Stays.fold; (intro _ _; try dsimp only)
    | (with_reducible apply State.onEdge_stays <;> first | decide | (intros; try dsimp only))
    | refine Stays.via (by with_reducible apply State.ringOn_stays) ?_ (by decide)
    | refine Stays.via (by with_reducible apply State.ringOff_stays) ?_ (by decide)
    | refine Stays.via (by with_reducible apply State.raise_stays) ?_ (by decide)
    | refine Stays.via (by with_reducible apply State.modAon_stays) ?_ (by decide)
    | with_reducible apply Stays.refl
    | dsimp only
    | split
    | with_reducible apply Stays.elim <;> intros
    | exact Stays.mk_of id fun p => by cases p <;> first | exact Or.inr rfl | exact Or.inl (by decide)

theorem State.tkWrite_stays (s : State) (old : State) (r : Reg) (i : Nat) (v : Nat) :
    Stays [.hl, .tk, .ing, .mot, .pan, .act] s (State.tkWrite s old r i v) := by
  unfold State.tkWrite
  try dsimp only
  repeat' first
    | with_reducible apply Stays.ite
    | with_reducible apply Stays.each; (intro _ _; try dsimp only)
    | with_reducible apply Stays.fold; (intro _ _; try dsimp only)
    | (with_reducible apply State.onEdge_stays <;> first | decide | (intros; try dsimp only))
    | refine Stays.via (by with_reducible apply State.tkSourceWrite_stays) ?_ (by decide)
    | refine Stays.via (by with_reducible apply State.choose_stays) ?_ (by decide)
    | refine Stays.via (by with_reducible apply State.noParent_stays) ?_ (by decide)
    | refine Stays.via (by with_reducible apply State.modTk_stays) ?_ (by decide)
    | refine Stays.via (by with_reducible apply State.tkAccept_stays) ?_ (by decide)
    | refine Stays.via (by with_reducible apply State.tkSetTime_stays) ?_ (by decide)
    | refine Stays.via (by with_reducible apply State.tkEraWrite_stays) ?_ (by decide)
    | refine Stays.via (by with_reducible apply State.capOn_stays) ?_ (by decide)
    | refine Stays.via (by with_reducible apply State.capOff_stays) ?_ (by decide)
    | refine Stays.via (by with_reducible apply State.capSlot_stays) ?_ (by decide)
    | refine Stays.via (by with_reducible apply State.capStallWrite_stays) ?_ (by decide)
    | with_reducible apply Stays.refl
    | dsimp only
    | split
    | with_reducible apply Stays.elim <;> intros
    | exact Stays.mk_of id fun p => by cases p <;> first | exact Or.inr rfl | exact Or.inl (by decide)

theorem State.sensorWrite_stays (s : State) (old : State) (r : Reg) (i : Nat) (j : Nat) (v : Nat) :
    Stays [.mem, .freeCtr, .out, .hl, .aon, .ing] s (State.sensorWrite s old r i j v) := by
  unfold State.sensorWrite
  try dsimp only
  repeat' first
    | with_reducible apply Stays.ite
    | with_reducible apply Stays.each; (intro _ _; try dsimp only)
    | with_reducible apply Stays.fold; (intro _ _; try dsimp only)
    | (with_reducible apply State.onEdge_stays <;> first | decide | (intros; try dsimp only))
    | refine Stays.via (by with_reducible apply State.sspRegroup_stays) ?_ (by decide)
    | refine Stays.via (by with_reducible apply State.quadSettle_stays) ?_ (by decide)
    | refine Stays.via (by with_reducible apply State.pocxpEnable_stays) ?_ (by decide)
    | refine Stays.via (by with_reducible apply State.trigWrite_stays) ?_ (by decide)
    | refine Stays.via (by with_reducible apply State.senOn_stays) ?_ (by decide)
    | refine Stays.via (by with_reducible apply State.senOff_stays) ?_ (by decide)
    | refine Stays.via (by with_reducible apply State.streamOn_stays) ?_ (by decide)
    | refine Stays.via (by with_reducible apply State.streamOff_stays) ?_ (by decide)
    | refine Stays.via (by with_reducible apply State.encOn_stays) ?_ (by decide)
    | refine Stays.via (by with_reducible apply State.encOff_stays) ?_ (by decide)
    | refine Stays.via (by with_reducible apply State.encStallWrite_stays) ?_ (by decide)
    | refine Stays.via (by with_reducible apply State.spiOn_stays) ?_ (by decide)
    | refine Stays.via (by with_reducible apply State.spiOff_stays) ?_ (by decide)
    | refine Stays.via (by with_reducible apply State.modSpi_stays) ?_ (by decide)
    | refine Stays.via (by with_reducible apply State.i2cOn_stays) ?_ (by decide)
    | refine Stays.via (by with_reducible apply State.i2cOff_stays) ?_ (by decide)
    | refine Stays.via (by with_reducible apply State.i2cReenable_stays) ?_ (by decide)
    | refine Stays.via (by with_reducible apply State.slotOn_stays) ?_ (by decide)
    | refine Stays.via (by with_reducible apply State.slotOff_stays) ?_ (by decide)
    | refine Stays.via (by with_reducible apply State.modSlot_stays) ?_ (by decide)
    | refine Stays.via (by with_reducible apply State.quadRetry_stays) ?_ (by decide)
    | with_reducible apply Stays.refl
    | dsimp only
    | split
    | with_reducible apply Stays.elim <;> intros
    | exact Stays.mk_of id fun p => by cases p <;> first | exact Or.inr rfl | exact Or.inl (by decide)

theorem State.regEffect_stays (s : State) (old : State) (p : RegAt) (v : Nat) (told : Option Nat) :
    Stays [.mem, .freeCtr, .out, .hl, .flt, .aon, .tk, .ing, .mot, .pan, .trk, .rly, .slv, .act] s (State.regEffect s old p v told) := by
  unfold State.regEffect
  try dsimp only
  repeat' first
    | with_reducible apply Stays.ite
    | with_reducible apply Stays.each; (intro _ _; try dsimp only)
    | with_reducible apply Stays.fold; (intro _ _; try dsimp only)
    | refine Stays.via (by with_reducible apply State.linkWrite_stays) ?_ (by decide)
    | refine Stays.via (by with_reducible apply State.tkWrite_stays) ?_ (by decide)
    | refine Stays.via (by with_reducible apply State.sensorWrite_stays) ?_ (by decide)
    | refine Stays.via (by with_reducible apply State.engineWrite_stays) ?_ (by decide)
    | with_reducible apply Stays.refl
    | dsimp only
    | split
    | with_reducible apply Stays.elim <;> intros
    | exact Stays.mk_of id fun p => by cases p <;> first | exact Or.inr rfl | exact Or.inl (by decide)

theorem State.setWord_stays (s : State) (off : Nat) (v : Word) :
    Stays [.regs] s (State.setWord s off v) := by
  unfold State.setWord
  repeat' split
  all_goals first | exact Stays.refl _ _ | exact Stays.mk_of id fun p => by cases p <;> first | exact Or.inr rfl | exact Or.inl (by decide)

theorem State.setRegFull_stays (s : State) (r : Reg) (i : Nat) (j : Nat) (v : Nat) :
    Stays [.regs] s (State.setRegFull s r i j v) := by
  unfold State.setRegFull
  try dsimp only
  repeat' first
    | with_reducible apply Stays.ite
    | with_reducible apply Stays.each; (intro _ _; try dsimp only)
    | with_reducible apply Stays.fold; (intro _ _; try dsimp only)
    | refine Stays.via (by with_reducible apply State.setWord_stays) ?_ (by decide)
    | with_reducible apply Stays.refl
    | dsimp only
    | split
    | with_reducible apply Stays.elim <;> intros
    | exact Stays.mk_of id fun p => by cases p <;> first | exact Or.inr rfl | exact Or.inl (by decide)

theorem State.refix_stays (s : State) (r : Reg) (i : Nat) (j : Nat) (old : Nat) :
    Stays [.regs] s (State.refix s r i j old) := by
  unfold State.refix
  try dsimp only
  repeat' first
    | with_reducible apply Stays.ite
    | with_reducible apply Stays.each; (intro _ _; try dsimp only)
    | with_reducible apply Stays.fold; (intro _ _; try dsimp only)
    | refine Stays.via (by with_reducible apply State.setRegFull_stays) ?_ (by decide)
    | with_reducible apply Stays.refl
    | dsimp only
    | split
    | with_reducible apply Stays.elim <;> intros
    | exact Stays.mk_of id fun p => by cases p <;> first | exact Or.inr rfl | exact Or.inl (by decide)

theorem State.storeReg_stays (s : State) (r : Reg) (i : Nat) (j : Nat) (v : Nat) :
    Stays [.regs] s (State.storeReg s r i j v) := by
  unfold State.storeReg
  try dsimp only
  repeat' first
    | with_reducible apply Stays.ite
    | with_reducible apply Stays.each; (intro _ _; try dsimp only)
    | with_reducible apply Stays.fold; (intro _ _; try dsimp only)
    | refine Stays.via (by with_reducible apply State.setRegFull_stays) ?_ (by decide)
    | refine Stays.via (by with_reducible apply State.refix_stays) ?_ (by decide)
    | with_reducible apply Stays.refl
    | dsimp only
    | split
    | with_reducible apply Stays.elim <;> intros
    | exact Stays.mk_of id fun p => by cases p <;> first | exact Or.inr rfl | exact Or.inl (by decide)

theorem State.writeRegWith_stays (s : State) (told : Option Nat) (off : Nat) (v : Word) :
    Stays [.regs, .holdLow, .mem, .freeCtr, .out, .hl, .flt, .aon, .tk, .ing, .mot, .pan, .trk, .rly, .slv,
      .act] s (State.writeRegWith s told off v) := by
  unfold State.writeRegWith
  try dsimp only
  repeat' first
    | with_reducible apply Stays.ite
    | with_reducible apply Stays.each; (intro _ _; try dsimp only)
    | with_reducible apply Stays.fold; (intro _ _; try dsimp only)
    | refine Stays.via (by with_reducible apply State.storeReg_stays) ?_ (by decide)
    | refine Stays.via (by with_reducible apply State.regEffect_stays) ?_ (by decide)
    | refine Stays.via (by with_reducible apply State.relevel_stays) ?_ (by decide)
    | with_reducible apply Stays.refl
    | dsimp only
    | split
    | with_reducible apply Stays.elim <;> intros
    | exact Stays.mk_of id fun p => by cases p <;> first | exact Or.inr rfl | exact Or.inl (by decide)

theorem State.hostWrite_stays (s : State) (told : Option Nat) (off : Nat) (v : Word) :
    Stays [.regs, .holdLow, .latchHi, .mem, .freeCtr, .out, .hl, .flt, .aon, .tk, .ing, .mot, .pan, .trk, .rly, .kvp, .slv,
      .act] s (State.hostWrite s told off v) := by
  unfold State.hostWrite
  try dsimp only
  repeat' first
    | with_reducible apply Stays.ite
    | with_reducible apply Stays.each; (intro _ _; try dsimp only)
    | with_reducible apply Stays.fold; (intro _ _; try dsimp only)
    | refine Stays.via (by with_reducible apply State.writeRegWith_stays) ?_ (by decide)
    | refine Stays.via (by with_reducible apply State.settleWrite_stays) ?_ (by decide)
    | with_reducible apply Stays.refl
    | dsimp only
    | split
    | with_reducible apply Stays.elim <;> intros
    | exact Stays.mk_of id fun p => by cases p <;> first | exact Or.inr rfl | exact Or.inl (by decide)

theorem State.writeReg_stays (s : State) (off : Nat) (v : Word) :
    Stays [.regs, .holdLow, .mem, .freeCtr, .out, .hl, .flt, .aon, .tk, .ing, .mot, .pan, .trk, .rly, .slv,
      .act] s (State.writeReg s off v) := by
  unfold State.writeReg
  try dsimp only
  repeat' first
    | with_reducible apply Stays.ite
    | with_reducible apply Stays.each; (intro _ _; try dsimp only)
    | with_reducible apply Stays.fold; (intro _ _; try dsimp only)
    | refine Stays.via (by with_reducible apply State.writeRegWith_stays) ?_ (by decide)
    | with_reducible apply Stays.refl
    | dsimp only
    | split
    | with_reducible apply Stays.elim <;> intros
    | exact Stays.mk_of id fun p => by cases p <;> first | exact Or.inr rfl | exact Or.inl (by decide)

end Sys2Proof.Machine
end

