-- ==== Sys2Proof/Laws/FrameSafe.lean ====
section
/-! SUPPORT. What each operation of Machine/Safe.lean may change. -/

-- One theorem at a time: a thread a theorem would be too many. Proofs of one form name alternatives that some goals do not need.
set_option Elab.async false
set_option linter.all false

namespace Sys2Proof.Machine

open Sys2Proof

theorem State.safeRecall_stays (s : State) (f : Nat) :
    Stays [.mem, .freeCtr, .hl, .flt, .aon, .pan, .trk, .rly, .kvp, .slv, .act] s (State.safeRecall s f) := by
  unfold State.safeRecall
  try dsimp only
  repeat' first
    | with_reducible apply Stays.ite
    | with_reducible apply Stays.each; (intro _ _; try dsimp only)
    | with_reducible apply Stays.fold; (intro _ _; try dsimp only)
    | refine Stays.via (by with_reducible apply State.recallMark_stays) ?_ (by decide)
    | refine Stays.via (by with_reducible apply State.report_stays) ?_ (by decide)
    | refine Stays.via (by with_reducible apply State.track_stays) ?_ (by decide)
    | refine Stays.via (by with_reducible apply State.modRly_stays) ?_ (by decide)
    | refine Stays.via (by with_reducible apply State.modTrk_stays) ?_ (by decide)
    | refine Stays.via (by with_reducible apply State.recallCls_stays) ?_ (by decide)
    | refine Stays.via (by with_reducible apply State.trkPass_stays) ?_ (by decide)
    | refine Stays.via (by with_reducible apply State.slvSee_stays) ?_ (by decide)
    | refine Stays.via (by with_reducible apply State.modAct_stays) ?_ (by decide)
    | with_reducible apply Stays.refl
    | dsimp only
    | split
    | with_reducible apply Stays.elim <;> intros
    | exact Stays.mk_of id fun p => by cases p <;> first | exact Or.inr rfl | exact Or.inl (by decide)

theorem State.relaySafe_stays (s : State) :
    Stays [.trk, .rly] s (State.relaySafe s) := by
  unfold State.relaySafe
  try dsimp only
  repeat' first
    | with_reducible apply Stays.ite
    | with_reducible apply Stays.each; (intro _ _; try dsimp only)
    | with_reducible apply Stays.fold; (intro _ _; try dsimp only)
    | refine Stays.via (by with_reducible apply State.outCredit_stays) ?_ (by decide)
    | refine Stays.via (by with_reducible apply State.freeBaton_stays) ?_ (by decide)
    | refine Stays.via (by with_reducible apply State.modRly_stays) ?_ (by decide)
    | refine Stays.via (by with_reducible apply State.retire_stays) ?_ (by decide)
    | refine Stays.via (by with_reducible apply State.modProg_stays) ?_ (by decide)
    | refine Stays.via (by with_reducible apply State.restartStreams_stays) ?_ (by decide)
    | with_reducible apply Stays.refl
    | dsimp only
    | split
    | with_reducible apply Stays.elim <;> intros
    | exact Stays.mk_of id fun p => by cases p <;> first | exact Or.inr rfl | exact Or.inl (by decide)

theorem State.trkSafe_stays (s : State) :
    Stays [.trk] s (State.trkSafe s) := by
  unfold State.trkSafe
  try dsimp only
  repeat' first
    | with_reducible apply Stays.ite
    | with_reducible apply Stays.each; (intro _ _; try dsimp only)
    | with_reducible apply Stays.fold; (intro _ _; try dsimp only)
    | refine Stays.via (by with_reducible apply State.modTrk_stays) ?_ (by decide)
    | with_reducible apply Stays.refl
    | dsimp only
    | split
    | with_reducible apply Stays.elim <;> intros
    | exact Stays.mk_of id fun p => by cases p <;> first | exact Or.inr rfl | exact Or.inl (by decide)

theorem State.panSafe_stays (s : State) :
    Stays [.pan] s (State.panSafe s) := by
  unfold State.panSafe
  try dsimp only
  repeat' first
    | with_reducible apply Stays.ite
    | with_reducible apply Stays.each; (intro _ _; try dsimp only)
    | with_reducible apply Stays.fold; (intro _ _; try dsimp only)
    | refine Stays.via (by with_reducible apply State.modPan_stays) ?_ (by decide)
    | refine Stays.via (by with_reducible apply State.panSweep_stays) ?_ (by decide)
    | with_reducible apply Stays.refl
    | dsimp only
    | split
    | with_reducible apply Stays.elim <;> intros
    | exact Stays.mk_of id fun p => by cases p <;> first | exact Or.inr rfl | exact Or.inl (by decide)

theorem State.takeSafe_stays (s : State) (code : Nat) :
    Stays [.mem, .freeCtr, .hl, .flt, .aon, .pan, .trk, .rly, .kvp, .slv, .act] s (State.takeSafe s code) := by
  unfold State.takeSafe
  try dsimp only
  repeat' first
    | with_reducible apply Stays.ite
    | with_reducible apply Stays.each; (intro _ _; try dsimp only)
    | with_reducible apply Stays.fold; (intro _ _; try dsimp only)
    | refine Stays.via (by with_reducible apply State.safeRecall_stays) ?_ (by decide)
    | refine Stays.via (by with_reducible apply State.panSafe_stays) ?_ (by decide)
    | refine Stays.via (by with_reducible apply State.trkSafe_stays) ?_ (by decide)
    | refine Stays.via (by with_reducible apply State.relaySafe_stays) ?_ (by decide)
    | refine Stays.via (by with_reducible apply State.slvSafe_stays) ?_ (by decide)
    | refine Stays.via (by with_reducible apply State.actSafe_stays) ?_ (by decide)
    | with_reducible apply Stays.refl
    | dsimp only
    | split
    | with_reducible apply Stays.elim <;> intros
    | exact Stays.mk_of id fun p => by cases p <;> first | exact Or.inr rfl | exact Or.inl (by decide)

theorem State.fltRecord_stays (s : State) (type : Nat) (time : DT64) (body : List Byte) :
    Stays [.hl] s (State.fltRecord s type time body) := by
  unfold State.fltRecord
  try dsimp only
  repeat' first
    | with_reducible apply Stays.ite
    | with_reducible apply Stays.each; (intro _ _; try dsimp only)
    | with_reducible apply Stays.fold; (intro _ _; try dsimp only)
    | refine Stays.via (by with_reducible apply State.report_stays) ?_ (by decide)
    | with_reducible apply Stays.refl
    | dsimp only
    | split
    | with_reducible apply Stays.elim <;> intros
    | exact Stays.mk_of id fun p => by cases p <;> first | exact Or.inr rfl | exact Or.inl (by decide)

theorem State.safeRecord_stays (s : State) (entry : Bool) (time : DT64) :
    Stays [.hl] s (State.safeRecord s entry time) := by
  unfold State.safeRecord
  try dsimp only
  repeat' first
    | with_reducible apply Stays.ite
    | with_reducible apply Stays.each; (intro _ _; try dsimp only)
    | with_reducible apply Stays.fold; (intro _ _; try dsimp only)
    | refine Stays.via (by with_reducible apply State.fltRecord_stays) ?_ (by decide)
    | with_reducible apply Stays.refl
    | dsimp only
    | split
    | with_reducible apply Stays.elim <;> intros
    | exact Stays.mk_of id fun p => by cases p <;> first | exact Or.inr rfl | exact Or.inl (by decide)

theorem State.enterSafe_stays (s : State) (code : Nat) (serial : BitVec 32) (sticky : Bool) (time : DT64) :
    Stays [.mem, .freeCtr, .hl, .flt, .aon, .pan, .trk, .rly, .kvp, .slv, .act] s (State.enterSafe s code serial sticky time) := by
  unfold State.enterSafe
  try dsimp only
  repeat' first
    | with_reducible apply Stays.ite
    | with_reducible apply Stays.each; (intro _ _; try dsimp only)
    | with_reducible apply Stays.fold; (intro _ _; try dsimp only)
    | refine Stays.via (by with_reducible apply State.modFlt_stays) ?_ (by decide)
    | refine Stays.via (by with_reducible apply State.safeRecord_stays) ?_ (by decide)
    | refine Stays.via (by with_reducible apply State.takeSafe_stays) ?_ (by decide)
    | with_reducible apply Stays.refl
    | dsimp only
    | split
    | with_reducible apply Stays.elim <;> intros
    | exact Stays.mk_of id fun p => by cases p <;> first | exact Or.inr rfl | exact Or.inl (by decide)

theorem State.hlFatal_stays (s : State) :
    Stays [.regs, .hl] s (State.hlFatal s) := by
  unfold State.hlFatal
  try dsimp only
  repeat' first
    | with_reducible apply Stays.ite
    | with_reducible apply Stays.each; (intro _ _; try dsimp only)
    | with_reducible apply Stays.fold; (intro _ _; try dsimp only)
    | refine Stays.via (by with_reducible apply State.sessLost_stays) ?_ (by decide)
    | refine Stays.via (by with_reducible apply State.setRegFull_stays) ?_ (by decide)
    | refine Stays.via (by with_reducible apply State.ringOff_stays) ?_ (by decide)
    | with_reducible apply Stays.refl
    | dsimp only
    | split
    | with_reducible apply Stays.elim <;> intros
    | exact Stays.mk_of id fun p => by cases p <;> first | exact Or.inr rfl | exact Or.inl (by decide)

theorem State.motFatal_stays (s : State) :
    Stays [.mot] s (State.motFatal s) := by
  unfold State.motFatal
  try dsimp only
  repeat' first
    | with_reducible apply Stays.ite
    | with_reducible apply Stays.each; (intro _ _; try dsimp only)
    | with_reducible apply Stays.fold; (intro _ _; try dsimp only)
    | refine Stays.via (by with_reducible apply State.modMotion_stays) ?_ (by decide)
    | with_reducible apply Stays.refl
    | dsimp only
    | split
    | with_reducible apply Stays.elim <;> intros
    | exact Stays.mk_of id fun p => by cases p <;> first | exact Or.inr rfl | exact Or.inl (by decide)

theorem State.tkFatal_stays (s : State) :
    Stays [.regs, .hl, .tk] s (State.tkFatal s) := by
  unfold State.tkFatal
  try dsimp only
  repeat' first
    | with_reducible apply Stays.ite
    | with_reducible apply Stays.each; (intro _ _; try dsimp only)
    | with_reducible apply Stays.fold; (intro _ _; try dsimp only)
    | refine Stays.via (by with_reducible apply State.setRegFull_stays) ?_ (by decide)
    | refine Stays.via (by with_reducible apply State.tkRestart_stays) ?_ (by decide)
    | with_reducible apply Stays.refl
    | dsimp only
    | split
    | with_reducible apply Stays.elim <;> intros
    | exact Stays.mk_of id fun p => by cases p <;> first | exact Or.inr rfl | exact Or.inl (by decide)

theorem State.unitFatal_stays (s : State) (range : Nat) :
    Stays [.regs, .mem, .freeCtr, .hl, .aon, .tk, .mot, .trk, .rly, .kvp, .slv] s (State.unitFatal s range) := by
  unfold State.unitFatal
  try dsimp only
  repeat' first
    | with_reducible apply Stays.ite
    | with_reducible apply Stays.each; (intro _ _; try dsimp only)
    | with_reducible apply Stays.fold; (intro _ _; try dsimp only)
    | refine Stays.via (by with_reducible apply State.tkFatal_stays) ?_ (by decide)
    | refine Stays.via (by with_reducible apply State.motFatal_stays) ?_ (by decide)
    | refine Stays.via (by with_reducible apply State.clsClear_stays) ?_ (by decide)
    | refine Stays.via (by with_reducible apply State.clsAnnounce_stays) ?_ (by decide)
    | refine Stays.via (by with_reducible apply State.modRly_stays) ?_ (by decide)
    | refine Stays.via (by with_reducible apply State.kvClearAll_stays) ?_ (by decide)
    | refine Stays.via (by with_reducible apply State.modSlv_stays) ?_ (by decide)
    | refine Stays.via (by with_reducible apply State.hlFatal_stays) ?_ (by decide)
    | with_reducible apply Stays.refl
    | dsimp only
    | split
    | with_reducible apply Stays.elim <;> intros
    | exact Stays.mk_of id fun p => by cases p <;> first | exact Or.inr rfl | exact Or.inl (by decide)

theorem State.ownFatal_stays (s : State) (code : Nat) (arg : Nat) :
    Stays [.regs, .mem, .freeCtr, .out, .hl, .flt, .aon, .tk, .mot, .trk, .rly, .kvp, .slv] s (State.ownFatal s code arg) := by
  unfold State.ownFatal
  try dsimp only
  repeat' first
    | with_reducible apply Stays.ite
    | with_reducible apply Stays.each; (intro _ _; try dsimp only)
    | with_reducible apply Stays.fold; (intro _ _; try dsimp only)
    | refine Stays.via (by with_reducible apply State.modRly_stays) ?_ (by decide)
    | refine Stays.via (by with_reducible apply State.modFlt_stays) ?_ (by decide)
    | refine Stays.via (by with_reducible apply State.unitFatal_stays) ?_ (by decide)
    | refine Stays.via (by with_reducible apply State.relevel_stays) ?_ (by decide)
    | with_reducible apply Stays.refl
    | dsimp only
    | split
    | with_reducible apply Stays.elim <;> intros
    | exact Stays.mk_of id fun p => by cases p <;> first | exact Or.inr rfl | exact Or.inl (by decide)

theorem State.islandReset_stays (s : State) (source : Nat) :
    Stays [.regs, .mem, .freeCtr, .hl, .aon, .tk, .mot, .pan, .trk, .rly, .kvp, .slv, .act] s (State.islandReset s source) := by
  unfold State.islandReset
  try dsimp only
  repeat' first
    | with_reducible apply Stays.ite
    | with_reducible apply Stays.each; (intro _ _; try dsimp only)
    | with_reducible apply Stays.fold; (intro _ _; try dsimp only)
    | refine Stays.via (by with_reducible apply State.panSafe_stays) ?_ (by decide)
    | refine Stays.via (by with_reducible apply State.modAct_stays) ?_ (by decide)
    | refine Stays.via (by with_reducible apply State.unitFatal_stays) ?_ (by decide)
    | with_reducible apply Stays.refl
    | dsimp only
    | split
    | with_reducible apply Stays.elim <;> intros
    | exact Stays.mk_of id fun p => by cases p <;> first | exact Or.inr rfl | exact Or.inl (by decide)

theorem State.islandsReset_stays (s : State) :
    Stays [.regs, .mem, .freeCtr, .hl, .flt, .aon, .tk, .mot, .pan, .trk, .rly, .kvp, .slv, .act] s (State.islandsReset s) := by
  unfold State.islandsReset
  try dsimp only
  repeat' first
    | with_reducible apply Stays.ite
    | with_reducible apply Stays.each; (intro _ _; try dsimp only)
    | with_reducible apply Stays.fold; (intro _ _; try dsimp only)
    | refine Stays.via (by with_reducible apply State.islandReset_stays) ?_ (by decide)
    | refine Stays.via (by with_reducible apply State.modFlt_stays) ?_ (by decide)
    | with_reducible apply Stays.refl
    | dsimp only
    | split
    | with_reducible apply Stays.elim <;> intros
    | exact Stays.mk_of id fun p => by cases p <;> first | exact Or.inr rfl | exact Or.inl (by decide)

end Sys2Proof.Machine
end

