-- ==== Sys2Proof/Laws/FrameFaults.lean ====
section
/-! SUPPORT. What each operation of Machine/Faults.lean may change. -/

-- One theorem at a time: a thread a theorem would be too many. Proofs of one form name alternatives that some goals do not need.
set_option Elab.async false
set_option linter.all false

namespace Sys2Proof.Machine

open Sys2Proof

theorem State.classifyOne_stays (s : State) (m : Msg) :
    Stays [.regs, .mem, .freeCtr, .out, .hl, .flt, .aon, .tk, .mot, .pan, .trk, .rly, .kvp, .slv, .act] s (State.classifyOne s m) := by
  unfold State.classifyOne
  try dsimp only
  repeat' first
    | with_reducible apply Stays.ite
    | with_reducible apply Stays.each; (intro _ _; try dsimp only)
    | with_reducible apply Stays.fold; (intro _ _; try dsimp only)
    | refine Stays.via (by with_reducible apply State.modFlt_stays) ?_ (by decide)
    | refine Stays.via (by with_reducible apply State.fltRecord_stays) ?_ (by decide)
    | refine Stays.via (by with_reducible apply State.enterSafe_stays) ?_ (by decide)
    | refine Stays.via (by with_reducible apply State.ownFatal_stays) ?_ (by decide)
    | with_reducible apply Stays.refl
    | dsimp only
    | split
    | with_reducible apply Stays.elim <;> intros
    | exact Stays.mk_of id fun p => by cases p <;> first | exact Or.inr rfl | exact Or.inl (by decide)

theorem State.classify_stays (s : State) (m : Msg) :
    Stays [.regs, .mem, .freeCtr, .out, .hl, .flt, .aon, .tk, .mot, .pan, .trk, .rly, .kvp, .slv, .act] s (State.classify s m) := by
  unfold State.classify
  try dsimp only
  repeat' first
    | with_reducible apply Stays.ite
    | with_reducible apply Stays.each; (intro _ _; try dsimp only)
    | with_reducible apply Stays.fold; (intro _ _; try dsimp only)
    | refine Stays.via (by with_reducible apply State.ownFatal_stays) ?_ (by decide)
    | refine Stays.via (by with_reducible apply State.classifyOne_stays) ?_ (by decide)
    | with_reducible apply Stays.refl
    | dsimp only
    | split
    | with_reducible apply Stays.elim <;> intros
    | exact Stays.mk_of id fun p => by cases p <;> first | exact Or.inr rfl | exact Or.inl (by decide)

theorem State.dropMsg_stays (s : State) (m : Msg) :
    Stays [.flt] s (State.dropMsg s m) := by
  unfold State.dropMsg
  try dsimp only
  repeat' first
    | with_reducible apply Stays.ite
    | with_reducible apply Stays.each; (intro _ _; try dsimp only)
    | with_reducible apply Stays.fold; (intro _ _; try dsimp only)
    | refine Stays.via (by with_reducible apply State.modFlt_stays) ?_ (by decide)
    | with_reducible apply Stays.refl
    | dsimp only
    | split
    | with_reducible apply Stays.elim <;> intros
    | exact Stays.mk_of id fun p => by cases p <;> first | exact Or.inr rfl | exact Or.inl (by decide)

theorem State.takeMsg_stays (s : State) (m : Msg) :
    Stays [.regs, .mem, .freeCtr, .out, .hl, .flt, .aon, .tk, .mot, .pan, .trk, .rly, .kvp, .slv, .act] s (State.takeMsg s m) := by
  unfold State.takeMsg
  try dsimp only
  repeat' first
    | with_reducible apply Stays.ite
    | with_reducible apply Stays.each; (intro _ _; try dsimp only)
    | with_reducible apply Stays.fold; (intro _ _; try dsimp only)
    | refine Stays.via (by with_reducible apply State.dropMsg_stays) ?_ (by decide)
    | refine Stays.via (by with_reducible apply State.classify_stays) ?_ (by decide)
    | refine Stays.via (by with_reducible apply State.modFlt_stays) ?_ (by decide)
    | with_reducible apply Stays.refl
    | dsimp only
    | split
    | with_reducible apply Stays.elim <;> intros
    | exact Stays.mk_of id fun p => by cases p <;> first | exact Or.inr rfl | exact Or.inl (by decide)

theorem State.classifyAll_stays (n : Nat) (s : State) :
    Stays [.regs, .mem, .freeCtr, .out, .hl, .flt, .aon, .tk, .mot, .pan, .trk, .rly, .kvp, .slv, .act] s (State.classifyAll n s) := by
  induction n generalizing s with
  | zero => exact Stays.refl _ _
  | succ n ih =>
    unfold State.classifyAll
    try dsimp only
    repeat' first
      | with_reducible apply Stays.ite
      | refine Stays.via (ih _) ?_ (by decide)
      | refine Stays.via (by with_reducible apply State.takeMsg_stays) ?_ (by decide)
      | with_reducible apply Stays.refl
      | dsimp only
      | split
      | exact Stays.mk_of id fun p => by cases p <;> first | exact Or.inr rfl | exact Or.inl (by decide)

theorem State.classified_stays (s : State) :
    Stays [.regs, .mem, .freeCtr, .out, .hl, .flt, .aon, .tk, .mot, .pan, .trk, .rly, .kvp, .slv, .act] s (State.classified s) := by
  unfold State.classified
  try dsimp only
  repeat' first
    | with_reducible apply Stays.ite
    | with_reducible apply Stays.each; (intro _ _; try dsimp only)
    | with_reducible apply Stays.fold; (intro _ _; try dsimp only)
    | refine Stays.via (by with_reducible apply State.classifyAll_stays) ?_ (by decide)
    | with_reducible apply Stays.refl
    | dsimp only
    | split
    | with_reducible apply Stays.elim <;> intros
    | exact Stays.mk_of id fun p => by cases p <;> first | exact Or.inr rfl | exact Or.inl (by decide)

theorem State.dramEcc_stays (s1 : State) (addr : Nat) (ue : Bool) :
    Stays [.mem, .flt, .aon] s1 (State.dramEcc s1 addr ue) := by
  unfold State.dramEcc
  try dsimp only
  repeat' first
    | with_reducible apply Stays.ite
    | with_reducible apply Stays.each; (intro _ _; try dsimp only)
    | with_reducible apply Stays.fold; (intro _ _; try dsimp only)
    | refine Stays.via (by with_reducible apply State.modAon_stays) ?_ (by decide)
    | refine Stays.via (by with_reducible apply State.raise_stays) ?_ (by decide)
    | refine Stays.via (by with_reducible apply State.writeMem_stays) ?_ (by decide)
    | with_reducible apply Stays.refl
    | dsimp only
    | split
    | with_reducible apply Stays.elim <;> intros
    | exact Stays.mk_of id fun p => by cases p <;> first | exact Or.inr rfl | exact Or.inl (by decide)

theorem State.kvEcc_stays (s0 : State) (a : Nat) (ue : Bool) :
    Stays [.mem, .freeCtr, .flt, .aon, .kvp] s0 (State.kvEcc s0 a ue) := by
  unfold State.kvEcc
  try dsimp only
  repeat' first
    | with_reducible apply Stays.ite
    | with_reducible apply Stays.each; (intro _ _; try dsimp only)
    | with_reducible apply Stays.fold; (intro _ _; try dsimp only)
    | refine Stays.via (by with_reducible apply State.takeFree_stays) ?_ (by decide)
    | refine Stays.via (by with_reducible apply State.raiseU_stays) ?_ (by decide)
    | refine Stays.via (by with_reducible apply State.kvLose_stays) ?_ (by decide)
    | with_reducible apply Stays.refl
    | dsimp only
    | split
    | with_reducible apply Stays.elim <;> intros
    | exact Stays.mk_of id fun p => by cases p <;> first | exact Or.inr rfl | exact Or.inl (by decide)

theorem State.hlEcc_stays {l : List Part} {s : State} {i : Nat} {ue : Bool} {f : State → State} (m : ∀ p ∈ [.freeCtr, .flt], p ∈ l)
    (g : ∀ t, Stays l t (f t)) : Stays l s (s.hlEcc i ue f) := by
  have b : ∀ c : Nat, Stays [.freeCtr, .flt] s ((s.takeFree 113).2.raiseU c 112 i (s.takeFree 113).1) := fun c =>
    Stays.step (Stays.step (Stays.refl _ _) (State.takeFree_stays _ _) (by decide)) (State.raiseU_stays _ _ _ _ _) (by decide)
  unfold State.hlEcc
  dsimp only
  split
  · exact Stays.step (Stays.step (Stays.refl _ _) (b _) m) (g _) fun _ h => h
  · exact Stays.step (Stays.refl _ _) (b _) m

theorem State.postLost_stays (s : State) (i : Nat) (k : Nat) :
    Stays [.hl] s (State.postLost s i k) := by
  unfold State.postLost
  try dsimp only
  repeat' first
    | with_reducible apply Stays.ite
    | with_reducible apply Stays.each; (intro _ _; try dsimp only)
    | with_reducible apply Stays.fold; (intro _ _; try dsimp only)
    | refine Stays.via (by with_reducible apply State.modHl_stays) ?_ (by decide)
    | refine Stays.via (by with_reducible apply State.dropPost_stays) ?_ (by decide)
    | with_reducible apply Stays.refl
    | dsimp only
    | split
    | with_reducible apply Stays.elim <;> intros
    | exact Stays.mk_of id fun p => by cases p <;> first | exact Or.inr rfl | exact Or.inl (by decide)

end Sys2Proof.Machine
end

