-- ==== Sys2Proof/Laws/FrameRings.lean ====
section
/-! SUPPORT. What each operation of Machine/Rings.lean may change. -/

-- One theorem at a time: a thread a theorem would be too many. Proofs of one form name alternatives that some goals do not need.
set_option Elab.async false
set_option linter.all false

namespace Sys2Proof.Machine

open Sys2Proof

theorem State.fetchDescs_stays (s : State) (r : Nat) :
    Stays [.out, .hl] s (State.fetchDescs s r) := by
  unfold State.fetchDescs
  try dsimp only
  repeat' first
    | with_reducible apply Stays.ite
    | with_reducible apply Stays.each; (intro _ _; try dsimp only)
    | with_reducible apply Stays.fold; (intro _ _; try dsimp only)
    | refine Stays.via (by with_reducible apply State.modRing_stays) ?_ (by decide)
    | refine Stays.via (by with_reducible apply State.ask_stays) ?_ (by decide)
    | with_reducible apply Stays.refl
    | dsimp only
    | split
    | with_reducible apply Stays.elim <;> intros
    | exact Stays.mk_of id fun p => by cases p <;> first | exact Or.inr rfl | exact Or.inl (by decide)

theorem State.firstJsw_stays (s : State) (o : Op) : Stays [.mem, .aon] s (s.firstJsw o) := by
  unfold State.firstJsw
  split
  · exact State.writeMem_stays _ _ _
  · exact Stays.refl _ _

theorem State.postIndex_stays (s : State) (r : Nat) :
    Stays [.out, .hl] s (State.postIndex s r) := by
  unfold State.postIndex
  try dsimp only
  repeat' first
    | with_reducible apply Stays.ite
    | with_reducible apply Stays.each; (intro _ _; try dsimp only)
    | with_reducible apply Stays.fold; (intro _ _; try dsimp only)
    | refine Stays.via (by with_reducible apply State.modRing_stays) ?_ (by decide)
    | refine Stays.via (by with_reducible apply State.ask_stays) ?_ (by decide)
    | with_reducible apply Stays.refl
    | dsimp only
    | split
    | with_reducible apply Stays.elim <;> intros
    | exact Stays.mk_of id fun p => by cases p <;> first | exact Or.inr rfl | exact Or.inl (by decide)

theorem State.gotDescs_stays (s : State) (r : Nat) (idx : BitVec 32) (n : Nat) (data : List Byte) :
    Stays [.out, .hl] s (State.gotDescs s r idx n data) := by
  unfold State.gotDescs
  try dsimp only
  repeat' first
    | with_reducible apply Stays.ite
    | with_reducible apply Stays.each; (intro _ _; try dsimp only)
    | with_reducible apply Stays.fold; (intro _ _; try dsimp only)
    | refine Stays.via (by with_reducible apply State.modRing_stays) ?_ (by decide)
    | refine Stays.via (by with_reducible apply State.postIndex_stays) ?_ (by decide)
    | refine Stays.via (by with_reducible apply State.fetchDescs_stays) ?_ (by decide)
    | with_reducible apply Stays.refl
    | dsimp only
    | split
    | with_reducible apply Stays.elim <;> intros
    | exact Stays.mk_of id fun p => by cases p <;> first | exact Or.inr rfl | exact Or.inl (by decide)

theorem State.injectRefuse_stays (s : State) (o : Op) (reason : Nat) :
    Stays [.mem, .hl, .aon] s (State.injectRefuse s o reason) := by
  unfold State.injectRefuse
  try dsimp only
  repeat' first
    | with_reducible apply Stays.ite
    | with_reducible apply Stays.each; (intro _ _; try dsimp only)
    | with_reducible apply Stays.fold; (intro _ _; try dsimp only)
    | refine Stays.via (by with_reducible apply State.modSess_stays) ?_ (by decide)
    | refine Stays.via (by with_reducible apply State.complete_stays) ?_ (by decide)
    | with_reducible apply Stays.refl
    | dsimp only
    | split
    | with_reducible apply Stays.elim <;> intros
    | exact Stays.mk_of id fun p => by cases p <;> first | exact Or.inr rfl | exact Or.inl (by decide)

theorem State.posted_stays (s : State) (i : Nat) (id : Nat) :
    Stays [.hl] s (State.posted s i id) := by
  unfold State.posted
  try dsimp only
  repeat' first
    | with_reducible apply Stays.ite
    | with_reducible apply Stays.each; (intro _ _; try dsimp only)
    | with_reducible apply Stays.fold; (intro _ _; try dsimp only)
    | refine Stays.via (by with_reducible apply State.modHl_stays) ?_ (by decide)
    | with_reducible apply Stays.refl
    | dsimp only
    | split
    | with_reducible apply Stays.elim <;> intros
    | exact Stays.mk_of id fun p => by cases p <;> first | exact Or.inr rfl | exact Or.inl (by decide)

theorem State.takeDoorbell_stays (s : State) (r : Nat) (v : Nat) :
    Stays [.out, .hl] s (State.takeDoorbell s r v) := by
  unfold State.takeDoorbell
  try dsimp only
  repeat' first
    | with_reducible apply Stays.ite
    | with_reducible apply Stays.each; (intro _ _; try dsimp only)
    | with_reducible apply Stays.fold; (intro _ _; try dsimp only)
    | refine Stays.via (by with_reducible apply State.modRing_stays) ?_ (by decide)
    | refine Stays.via (by with_reducible apply State.fetchDescs_stays) ?_ (by decide)
    | with_reducible apply Stays.refl
    | dsimp only
    | split
    | with_reducible apply Stays.elim <;> intros
    | exact Stays.mk_of id fun p => by cases p <;> first | exact Or.inr rfl | exact Or.inl (by decide)

theorem State.dispatchHead_stays (s : State) (r : Nat) :
    Stays [.mem, .out, .hl, .aon] s (State.dispatchHead s r) := by
  unfold State.dispatchHead
  try dsimp only
  repeat' first
    | with_reducible apply Stays.ite
    | with_reducible apply Stays.each; (intro _ _; try dsimp only)
    | with_reducible apply Stays.fold; (intro _ _; try dsimp only)
    | refine Stays.via (by with_reducible apply State.modRing_stays) ?_ (by decide)
    | refine Stays.via (by with_reducible apply State.firstJsw_stays) ?_ (by decide)
    | refine Stays.via (by with_reducible apply State.modHl_stays) ?_ (by decide)
    | refine Stays.via (by with_reducible apply State.fetchDescs_stays) ?_ (by decide)
    | with_reducible apply Stays.refl
    | dsimp only
    | split
    | with_reducible apply Stays.elim <;> intros
    | exact Stays.mk_of id fun p => by cases p <;> first | exact Or.inr rfl | exact Or.inl (by decide)

end Sys2Proof.Machine
end

