-- ==== Sys2Proof/Laws/FrameHostLink.lean ====
section
/-! SUPPORT. What each operation of Machine/HostLink.lean may change. -/

-- One theorem at a time: a thread a theorem would be too many. Proofs of one form name alternatives that some goals do not need.
set_option Elab.async false
set_option linter.all false

namespace Sys2Proof.Machine

open Sys2Proof

theorem State.answered_stays (s : State) (i : Nat) (q : DevReq) :
    Stays [.hl] s (State.answered s i q) := by
  unfold State.answered
  try dsimp only
  repeat' first
    | with_reducible apply Stays.ite
    | with_reducible apply Stays.each; (intro _ _; try dsimp only)
    | with_reducible apply Stays.fold; (intro _ _; try dsimp only)
    | refine Stays.via (by with_reducible apply State.modSess_stays) ?_ (by decide)
    | with_reducible apply Stays.refl
    | dsimp only
    | split
    | with_reducible apply Stays.elim <;> intros
    | exact Stays.mk_of id fun p => by cases p <;> first | exact Or.inr rfl | exact Or.inl (by decide)

theorem State.countBad_stays (s : State) :
    Stays [.hl] s (State.countBad s) := by
  unfold State.countBad
  try dsimp only
  repeat' first
    | with_reducible apply Stays.ite
    | with_reducible apply Stays.each; (intro _ _; try dsimp only)
    | with_reducible apply Stays.fold; (intro _ _; try dsimp only)
    | refine Stays.via (by with_reducible apply State.modHl_stays) ?_ (by decide)
    | with_reducible apply Stays.refl
    | dsimp only
    | split
    | with_reducible apply Stays.elim <;> intros
    | exact Stays.mk_of id fun p => by cases p <;> first | exact Or.inr rfl | exact Or.inl (by decide)

theorem State.arrive_stays {l : List Part} {s : State} {dt p : Nat} {peer : Peer} {f : Frame} {kind : Nat} {k : State → State}
    (h : .now ∈ l) (j : .hl ∈ l) (g : ∀ t, Stays l t (k t)) : Stays l s (s.arrive dt p peer f kind k) := by
  have m : ∀ p ∈ [Part.now], p ∈ l := by simpa using h
  have mh : ∀ p ∈ [Part.hl], p ∈ l := by simpa using j
  have b : Stays l s (s.pass dt) := Stays.step (Stays.refl _ _) (State.pass_stays _ _) m
  unfold State.arrive
  dsimp only
  split
  · exact b
  · split
    · exact Stays.step b (State.countBad_stays _) mh
    · split
      · exact b
      · exact Stays.step b (g _) fun _ h => h

theorem State.challenge_stays (s : State) (p : Nat) (peer : Peer) (i oflags : Nat) (nh : List Byte) (hisn : BitVec 32) :
    Stays [.freeCtr, .out, .hl] s (s.challenge p peer i oflags nh hisn) := by
  unfold State.challenge
  dsimp only
  refine Stays.via (State.hlFrame_stays _ _ _ _) ?_ (by decide)
  refine Stays.via (State.modSess_stays _ _ _) ?_ (by decide)
  exact Stays.mk_of id fun p => by cases p <;> first | exact Or.inr rfl | exact Or.inl (by decide)

theorem State.countNoSession_stays (s : State) :
    Stays [.hl] s (State.countNoSession s) := by
  unfold State.countNoSession
  try dsimp only
  repeat' first
    | with_reducible apply Stays.ite
    | with_reducible apply Stays.each; (intro _ _; try dsimp only)
    | with_reducible apply Stays.fold; (intro _ _; try dsimp only)
    | refine Stays.via (by with_reducible apply State.modHl_stays) ?_ (by decide)
    | with_reducible apply Stays.refl
    | dsimp only
    | split
    | with_reducible apply Stays.elim <;> intros
    | exact Stays.mk_of id fun p => by cases p <;> first | exact Or.inr rfl | exact Or.inl (by decide)

theorem State.inSession_from {l : List Part} {s : State} {f : Frame} {k : Nat → State → State} (h : .hl ∈ l)
    (g : ∀ i t, Stays l s t → Stays l s (k i t)) : Stays l s (s.inSession f k) := by
  have m : ∀ p ∈ [Part.hl], p ∈ l := by simpa using h
  unfold State.inSession
  dsimp only
  split
  · exact Stays.step (Stays.refl _ _) (State.countNoSession_stays _) m
  · exact g _ _ (Stays.step (Stays.refl _ _) (State.modSess_stays _ _ _) m)

theorem State.inSession_stays {l : List Part} {s : State} {f : Frame} {k : Nat → State → State} (h : .hl ∈ l)
    (g : ∀ i t, Stays l t (k i t)) : Stays l s (s.inSession f k) :=
  State.inSession_from h fun _ _ b => b.step (g _ _) fun _ h => h

theorem State.readUe_stays (s : State) (a n : Nat) : Stays [.flt, .aon] s (s.readUe a n) := by
  unfold State.readUe
  refine Stays.each (fun u t => ?_) (Stays.refl _ _)
  dsimp only
  refine Stays.via (State.raiseU_stays _ _ _ _ _) ?_ (by decide)
  exact Stays.step (Stays.refl _ _) (State.modAon_stays _ _) (by decide)

theorem State.readWords_stays (n off : Nat) (s : State) : Stays [.latchHi] s (State.readWords n off s).2 := by
  induction n generalizing off s with
  | zero => exact Stays.refl _ _
  | succ n ih => exact Stays.step (State.hostRead_stays s off) (ih _ _) fun _ h => h

theorem State.regPairs_stays (n : Nat) (b : List Byte) (s : State) : Stays [.regs, .holdLow, .mem, .freeCtr, .out, .hl, .flt,
  .aon, .tk, .ing, .mot, .pan, .trk, .rly, .slv, .act] s (State.regPairs n b s).s := by
  induction n generalizing b s with
  | zero => exact Stays.refl _ _
  | succ n ih =>
    unfold State.regPairs
    dsimp only
    split
    · exact Stays.refl _ _
    · split
      · exact Stays.refl _ _
      · exact Stays.step (State.writeReg_stays _ _ _) (ih _ _) fun _ h => h

theorem State.answerConfig_stays (s : State) (i : Nat) (f : Frame) : Stays [.regs, .holdLow, .mem, .freeCtr, .out, .hl, .flt,
  .aon, .tk, .ing, .mot, .pan, .trk, .rly, .slv, .act] s (s.answerConfig i f).s := by
  unfold State.answerConfig
  dsimp only
  split
  · split
    · exact Stays.refl _ _
    · exact Stays.step (Stays.refl _ _) (State.regPairs_stays _ _ _) (by decide)
  · split
    · exact Stays.refl _ _
    · split
      · exact Stays.refl _ _
      · dsimp only
        exact Stays.step (Stays.refl _ _) (State.modSess_stays _ _ _) (by decide)
  · split
    · exact Stays.refl _ _
    · dsimp only
      exact Stays.step (Stays.refl _ _) (State.modAon_stays _ _) (by decide)
  · split <;> exact Stays.refl _ _
  · exact Stays.refl _ _

theorem State.answerRead_stays (s : State) (i : Nat) (b : List Byte) : Stays [.latchHi, .flt, .aon] s (s.answerRead i b).s := by
  unfold State.answerRead
  dsimp only
  split
  · exact Stays.refl _ _
  · split
    · split
      · exact Stays.refl _ _
      · exact Stays.step (Stays.refl _ _) (State.readWords_stays _ _ _) (by decide)
    · exact Stays.step (Stays.refl _ _) (State.readUe_stays _ _ _) (by decide)

theorem State.answerWrite_stays (s : State) (i : Nat) (b : List Byte) : Stays [.mem, .aon] s (s.answerWrite i b).s := by
  unfold State.answerWrite
  dsimp only
  split
  · exact Stays.refl _ _
  · split
    · exact Stays.refl _ _
    · exact Stays.step (Stays.refl _ _) (State.writeMem_stays _ _ _) (by decide)

theorem State.answer_stays (s : State) (i : Nat) (f : Frame) : Stays [.regs, .holdLow, .latchHi, .mem, .freeCtr, .out, .hl, .flt,
  .aon, .tk, .ing, .mot, .pan, .trk, .rly, .slv, .act] s (s.answer i f).s := by
  unfold State.answer
  split
  · exact Stays.refl _ _
  · split
    · exact Stays.step (Stays.refl _ _) (State.answerWrite_stays _ _ _) (by decide)
    · exact Stays.step (Stays.refl _ _) (State.answerRead_stays _ _ _) (by decide)
    · exact Stays.step (Stays.refl _ _) (State.answerConfig_stays _ _ _) (by decide)
    · exact Stays.refl _ _

theorem State.runRequest_stays (s : State) (i : Nat) (f : Frame) :
    Stays [.regs, .holdLow, .latchHi, .mem, .freeCtr, .out, .hl, .flt, .aon, .tk, .ing, .mot, .pan, .trk, .rly, .kvp, .slv,
      .act] s (State.runRequest s i f) := by
  unfold State.runRequest
  try dsimp only
  repeat' first
    | with_reducible apply Stays.ite
    | with_reducible apply Stays.each; (intro _ _; try dsimp only)
    | with_reducible apply Stays.fold; (intro _ _; try dsimp only)
    | refine Stays.via (by with_reducible apply State.answer_stays) ?_ (by decide)
    | refine Stays.via (by with_reducible apply State.modSess_stays) ?_ (by decide)
    | refine Stays.via (by with_reducible apply State.hlOut_stays) ?_ (by decide)
    | refine Stays.via (by with_reducible apply State.sessLost_stays) ?_ (by decide)
    | refine Stays.via (by with_reducible apply State.settleWrite_stays) ?_ (by decide)
    | with_reducible apply Stays.refl
    | dsimp only
    | split
    | with_reducible apply Stays.elim <;> intros
    | exact Stays.mk_of id fun p => by cases p <;> first | exact Or.inr rfl | exact Or.inl (by decide)

theorem State.drain_stays (i n : Nat) (s : State) : Stays [.regs, .holdLow, .latchHi, .mem, .freeCtr, .out, .hl, .flt, .aon, .tk,
  .ing, .mot, .pan, .trk, .rly, .kvp, .slv, .act] s (State.drain i n s) := by
  induction n generalizing s with
  | zero => exact Stays.refl _ _
  | succ n ih =>
    unfold State.drain
    dsimp only
    split
    · exact Stays.refl _ _
    · split
      · exact Stays.refl _ _
      · refine Stays.via (ih _) ?_ (by decide)
        refine Stays.via (State.runRequest_stays _ _ _) ?_ (by decide)
        exact Stays.step (Stays.refl _ _) (State.modSess_stays _ _ _) (by decide)

theorem State.heard_stays (s : State) (i : Nat) (p : Nat) (peer : Peer) :
    Stays [.hl] s (State.heard s i p peer) := by
  unfold State.heard
  try dsimp only
  repeat' first
    | with_reducible apply Stays.ite
    | with_reducible apply Stays.each; (intro _ _; try dsimp only)
    | with_reducible apply Stays.fold; (intro _ _; try dsimp only)
    | refine Stays.via (by with_reducible apply State.modSess_stays) ?_ (by decide)
    | with_reducible apply Stays.refl
    | dsimp only
    | split
    | with_reducible apply Stays.elim <;> intros
    | exact Stays.mk_of id fun p => by cases p <;> first | exact Or.inr rfl | exact Or.inl (by decide)

theorem State.duplicate_stays (s : State) (i : Nat) (f : Frame) :
    Stays [.regs, .holdLow, .latchHi, .mem, .freeCtr, .out, .hl, .flt, .aon, .tk, .ing, .mot, .pan, .trk, .rly, .slv,
      .act] s (State.duplicate s i f) := by
  unfold State.duplicate
  try dsimp only
  repeat' first
    | with_reducible apply Stays.ite
    | with_reducible apply Stays.each; (intro _ _; try dsimp only)
    | with_reducible apply Stays.fold; (intro _ _; try dsimp only)
    | refine Stays.via (by with_reducible apply State.modSess_stays) ?_ (by decide)
    | refine Stays.via (by with_reducible apply State.sessFrame_stays) ?_ (by decide)
    | refine Stays.via (by with_reducible apply State.answer_stays) ?_ (by decide)
    | with_reducible apply Stays.refl
    | dsimp only
    | split
    | with_reducible apply Stays.elim <;> intros
    | exact Stays.mk_of id fun p => by cases p <;> first | exact Or.inr rfl | exact Or.inl (by decide)

theorem State.hostRequest_stays (s : State) (i : Nat) (p : Nat) (peer : Peer) (f : Frame) :
    Stays [.regs, .holdLow, .latchHi, .mem, .freeCtr, .out, .hl, .flt, .aon, .tk, .ing, .mot, .pan, .trk, .rly, .kvp, .slv,
      .act] s (State.hostRequest s i p peer f) := by
  unfold State.hostRequest
  try dsimp only
  repeat' first
    | with_reducible apply Stays.ite
    | with_reducible apply Stays.each; (intro _ _; try dsimp only)
    | with_reducible apply Stays.fold; (intro _ _; try dsimp only)
    | refine Stays.via (by with_reducible apply State.drain_stays) ?_ (by decide)
    | refine Stays.via (by with_reducible apply State.heard_stays) ?_ (by decide)
    | refine Stays.via (by with_reducible apply State.runRequest_stays) ?_ (by decide)
    | refine Stays.via (by with_reducible apply State.modSess_stays) ?_ (by decide)
    | refine Stays.via (by with_reducible apply State.duplicate_stays) ?_ (by decide)
    | with_reducible apply Stays.refl
    | dsimp only
    | split
    | with_reducible apply Stays.elim <;> intros
    | exact Stays.mk_of id fun p => by cases p <;> first | exact Or.inr rfl | exact Or.inl (by decide)

theorem State.countAuth_stays (s : State) :
    Stays [.hl] s (State.countAuth s) := by
  unfold State.countAuth
  try dsimp only
  repeat' first
    | with_reducible apply Stays.ite
    | with_reducible apply Stays.each; (intro _ _; try dsimp only)
    | with_reducible apply Stays.fold; (intro _ _; try dsimp only)
    | refine Stays.via (by with_reducible apply State.modHl_stays) ?_ (by decide)
    | with_reducible apply Stays.refl
    | dsimp only
    | split
    | with_reducible apply Stays.elim <;> intros
    | exact Stays.mk_of id fun p => by cases p <;> first | exact Or.inr rfl | exact Or.inl (by decide)

theorem State.config_stays (s : State) (dt p : Nat) (peer : Peer) (f : Frame) (ops : Nat → Bool) :
    Stays [.regs, .holdLow, .latchHi, .mem, .freeCtr, .now, .out, .hl, .flt, .aon, .tk, .ing, .mot, .pan, .trk, .rly, .kvp, .slv, .act] s
      (s.config dt p peer f ops) := by
  unfold State.config
  refine State.arrive_stays (by decide) (by decide) fun t => ?_
  split
  · exact Stays.refl _ _
  · unfold State.inSession
    dsimp only
    split
    · exact Stays.step (Stays.refl _ _) (State.countNoSession_stays _) (by decide)
    · split
      · refine Stays.via (State.hostRequest_stays _ _ _ _ _) ?_ (by decide)
        exact Stays.step (Stays.refl _ _) (State.modSess_stays _ _ _) (by decide)
      · exact Stays.step (Stays.refl _ _) (State.countAuth_stays _) (by decide)

theorem State.refuse_stays (s : State) (p : Nat) (peer : Peer) (reason : Nat) (i : Nat) :
    Stays [.out, .hl] s (State.refuse s p peer reason i) := by
  unfold State.refuse
  try dsimp only
  repeat' first
    | with_reducible apply Stays.ite
    | with_reducible apply Stays.each; (intro _ _; try dsimp only)
    | with_reducible apply Stays.fold; (intro _ _; try dsimp only)
    | refine Stays.via (by with_reducible apply State.hlFrame_stays) ?_ (by decide)
    | with_reducible apply Stays.refl
    | dsimp only
    | split
    | with_reducible apply Stays.elim <;> intros
    | exact Stays.mk_of id fun p => by cases p <;> first | exact Or.inr rfl | exact Or.inl (by decide)

theorem State.helloTo_stays (s : State) (p : Nat) (peer : Peer) (f : Frame) :
    Stays [.freeCtr, .out, .hl] s (State.helloTo s p peer f) := by
  unfold State.helloTo
  try dsimp only
  repeat' first
    | with_reducible apply Stays.ite
    | with_reducible apply Stays.each; (intro _ _; try dsimp only)
    | with_reducible apply Stays.fold; (intro _ _; try dsimp only)
    | refine Stays.via (by with_reducible apply State.refuse_stays) ?_ (by decide)
    | refine Stays.via (by with_reducible apply State.challenge_stays) ?_ (by decide)
    | with_reducible apply Stays.refl
    | dsimp only
    | split
    | with_reducible apply Stays.elim <;> intros
    | exact Stays.mk_of id fun p => by cases p <;> first | exact Or.inr rfl | exact Or.inl (by decide)

theorem State.hostNet_stays (s : State) (p : Nat) (r : NetRequest) :
    Stays [.out, .hl] s (State.hostNet s p r) := by
  unfold State.hostNet
  try dsimp only
  repeat' first
    | with_reducible apply Stays.ite
    | with_reducible apply Stays.each; (intro _ _; try dsimp only)
    | with_reducible apply Stays.fold; (intro _ _; try dsimp only)
    | refine Stays.via (by with_reducible apply State.countBad_stays) ?_ (by decide)
    | refine Stays.via (by with_reducible apply State.hlOut_stays) ?_ (by decide)
    | with_reducible apply Stays.refl
    | dsimp only
    | split
    | with_reducible apply Stays.elim <;> intros
    | exact Stays.mk_of id fun p => by cases p <;> first | exact Or.inr rfl | exact Or.inl (by decide)

theorem State.opened_stays (s : State) (p : Nat) (peer : Peer) (i : Nat) (c : Challenge) (k : List Byte) :
    Stays [.out, .hl] s (State.opened s p peer i c k) := by
  unfold State.opened
  try dsimp only
  repeat' first
    | with_reducible apply Stays.ite
    | with_reducible apply Stays.each; (intro _ _; try dsimp only)
    | with_reducible apply Stays.fold; (intro _ _; try dsimp only)
    | refine Stays.via (by with_reducible apply State.sessLost_stays) ?_ (by decide)
    | refine Stays.via (by with_reducible apply State.modSess_stays) ?_ (by decide)
    | refine Stays.via (by with_reducible apply State.hlFrame_stays) ?_ (by decide)
    | refine Stays.via (by with_reducible apply State.fetchDescs_stays) ?_ (by decide)
    | with_reducible apply Stays.refl
    | dsimp only
    | split
    | with_reducible apply Stays.elim <;> intros
    | exact Stays.mk_of id fun p => by cases p <;> first | exact Or.inr rfl | exact Or.inl (by decide)

theorem State.requestIn_stays (s : State) (dt : Nat) (p : Nat) (peer : Peer) (f : Frame) (kind : Nat) :
    Stays [.regs, .holdLow, .latchHi, .mem, .freeCtr, .now, .out, .hl, .flt, .aon, .tk, .ing, .mot, .pan, .trk, .rly, .kvp, .slv,
      .act] s (State.requestIn s dt p peer f kind) := by
  unfold State.requestIn
  try dsimp only
  repeat' first
    | with_reducible apply Stays.ite
    | with_reducible apply Stays.each; (intro _ _; try dsimp only)
    | with_reducible apply Stays.fold; (intro _ _; try dsimp only)
    | (with_reducible apply State.arrive_stays <;> first | decide | (intros; try dsimp only))
    | (with_reducible apply State.inSession_stays <;> first | decide | (intros; try dsimp only))
    | refine Stays.via (by with_reducible apply State.hostRequest_stays) ?_ (by decide)
    | with_reducible apply Stays.refl
    | dsimp only
    | split
    | with_reducible apply Stays.elim <;> intros
    | exact Stays.mk_of id fun p => by cases p <;> first | exact Or.inr rfl | exact Or.inl (by decide)

theorem State.response_stays {l : List Part} {s : State} {p : Nat} {peer : Peer} {f : Frame} {fetches : Bool}
    {k : Nat → DevReq → State → State} (m : ∀ p ∈ [.out, .hl], p ∈ l) (g : ∀ i q t, Stays l t (k i q t)) :
    Stays l s (s.response p peer f fetches k) := by
  have lift : ∀ {a b : State}, Stays [.out, .hl] a b → Stays l a b := fun h => Stays.step (Stays.refl _ _) h m
  unfold State.response
  refine State.inSession_from (m _ (by decide)) fun i t a => ?_
  dsimp only
  split
  · exact a
  · split
    · exact lift (Stays.step (Stays.refl _ _) (State.countBad_stays _) (by decide))
    · refine Stays.step (l := l) (k := l) ?_ (lift (Stays.step (Stays.refl _ _) (State.pump_stays _ _) (by decide))) fun _ h => h
      rename_i q _ _
      have c : Stays l t ((t.heard i p peer).answered i q) := lift <| by
        refine Stays.via (State.answered_stays _ _ _) ?_ (by decide)
        exact Stays.step (Stays.refl _ _) (State.heard_stays _ _ _ _) (by decide)
      have b : Stays l s ((t.heard i p peer).answered i q) := a.step c fun _ h => h
      split
      · exact b
      · split
        · exact Stays.step b (lift (Stays.step (Stays.refl _ _) (State.ringStop_stays _ _) (by decide))) fun _ h => h
        · exact Stays.step b (g _ _ _) fun _ h => h

end Sys2Proof.Machine
end

