-- ==== Sys2Proof/Laws/FrameProfiles.lean ====
section
/-! SUPPORT. What each operation of Machine/Profiles.lean may change. -/

-- One theorem at a time: a thread a theorem would be too many. Proofs of one form name alternatives that some goals do not need.
set_option Elab.async false
set_option linter.all false

namespace Sys2Proof.Machine

open Sys2Proof

theorem State.profDo_stays (s : State) (o : Op) : Stays [.mem, .aon] s (s.profDo o).2.2.2 := by
  have b : ∀ f, Stays [.mem, .aon] s (s.modAon f) := fun f => Stays.step (Stays.refl _ _) (State.modAon_stays _ _) (by decide)
  unfold State.profDo
  dsimp only
  split
  · split
    · exact Stays.refl _ _
    · exact State.writeMem_stays _ _ _
  · split
    · exact Stays.refl _ _
    · dsimp only; exact b _
  · dsimp only; exact b _
  · split
    · dsimp only; exact b _
    · split
      · dsimp only; exact b _
      · exact Stays.refl _ _

theorem State.profStart_stays (s : State) (action : Nat) :
    Stays [.mem, .hl, .aon] s (State.profStart s action) := by
  unfold State.profStart
  try dsimp only
  repeat' first
    | with_reducible apply Stays.ite
    | with_reducible apply Stays.each; (intro _ _; try dsimp only)
    | with_reducible apply Stays.fold; (intro _ _; try dsimp only)
    | refine Stays.via (by with_reducible apply State.jobRun_stays) ?_ (by decide)
    | with_reducible apply Stays.refl
    | dsimp only
    | split
    | with_reducible apply Stays.elim <;> intros
    | exact Stays.mk_of id fun p => by cases p <;> first | exact Or.inr rfl | exact Or.inl (by decide)

end Sys2Proof.Machine
end

