-- ==== Sys2Proof/Laws/FramePower.lean ====
section
/-! SUPPORT. What each operation of Machine/Power.lean may change. -/

-- One theorem at a time: a thread a theorem would be too many. Proofs of one form name alternatives that some goals do not need.
set_option Elab.async false
set_option linter.all false

namespace Sys2Proof.Machine

open Sys2Proof

theorem State.aonEvent_stays {l : List Part} {s : State} {dt : Nat} {f : State → State} (h : .now ∈ l) (g : ∀ t, Stays l t (f t)) :
    Stays l s (s.aonEvent dt f) := by
  have m : ∀ p ∈ [Part.now], p ∈ l := by simpa using h
  have b : Stays l s (s.pass dt) := Stays.step (Stays.refl _ _) (State.pass_stays _ _) m
  unfold State.aonEvent
  dsimp only
  split
  · exact Stays.step b (g _) fun _ h => h
  · exact b

theorem State.coreReset_stays (s : State) (b : Nat) :
    Stays [.regs, .tk, .mot, .pan, .trk, .rly, .kvp, .slv, .act] s (State.coreReset s b) := by
  unfold State.coreReset
  repeat' split
  all_goals first | exact Stays.refl _ _ | exact Stays.mk_of id fun p => by cases p <;> first | exact Or.inr rfl | exact Or.inl (by decide)

theorem State.profDone_stays (s : State) (pstatus : Nat) :
    Stays [.hl, .aon, .tk] s (State.profDone s pstatus) := by
  unfold State.profDone
  try dsimp only
  repeat' first
    | with_reducible apply Stays.ite
    | with_reducible apply Stays.each; (intro _ _; try dsimp only)
    | with_reducible apply Stays.fold; (intro _ _; try dsimp only)
    | refine Stays.via (by with_reducible apply State.portStart_stays) ?_ (by decide)
    | refine Stays.via (by with_reducible apply State.modAon_stays) ?_ (by decide)
    | with_reducible apply Stays.refl
    | dsimp only
    | split
    | with_reducible apply Stays.elim <;> intros
    | exact Stays.mk_of id fun p => by cases p <;> first | exact Or.inr rfl | exact Or.inl (by decide)

theorem State.profEntries_stays (b : List Byte) (n : Nat) (s : State) :
    Stays [.regs, .holdLow, .mem, .freeCtr, .out, .hl, .flt, .aon, .tk, .ing, .mot, .pan, .trk, .rly, .slv,
      .act] s (State.profEntries b n s).2 := by
  induction n generalizing s with
  | zero => exact Stays.refl _ _
  | succ n ih =>
    unfold State.profEntries
    dsimp only
    split
    · dsimp only
      refine Stays.via (State.modAon_stays _ _) ?_ (by decide)
      exact Stays.step (Stays.refl _ _) (State.modAon_stays _ _) (by decide)
    · split
      · refine Stays.via (ih _) ?_ (by decide)
        refine Stays.via (State.modAon_stays _ _) ?_ (by decide)
        exact Stays.step (Stays.refl _ _) (State.modAon_stays _ _) (by decide)
      · refine Stays.via (ih _) ?_ (by decide)
        split
        · refine Stays.via (State.writeReg_stays _ _ _) ?_ (by decide)
          exact Stays.step (Stays.refl _ _) (State.modAon_stays _ _) (by decide)
        · exact Stays.step (Stays.refl _ _) (State.modAon_stays _ _) (by decide)

theorem State.profApply_stays (s : State) : Stays [.regs, .holdLow, .mem, .freeCtr, .out, .hl, .flt, .aon, .tk, .ing, .mot, .pan,
  .trk, .rly, .slv, .act] s s.profApply := by
  unfold State.profApply
  dsimp only
  split
  · exact Stays.step (Stays.refl _ _) (State.profDone_stays _ _) (by decide)
  · split
    · exact Stays.step (Stays.refl _ _) (State.profDone_stays _ _) (by decide)
    · split
      · refine Stays.via (State.profDone_stays _ _) ?_ (by decide)
        exact Stays.step (Stays.refl _ _) (Stays.ofPair ‹_› (State.profEntries_stays _ _ _)) (by decide)
      · exact Stays.step (Stays.refl _ _) (Stays.ofPair ‹_› (State.profEntries_stays _ _ _)) (by decide)

theorem State.supplyReset_stays (s : State) (c : Cause) :
    Stays [.regs, .holdLow, .latchHi, .mem, .hl, .flt, .aon, .tk, .ing, .mot, .pan, .trk, .rly, .kvp, .slv,
      .act] s (State.supplyReset s c) := by
  unfold State.supplyReset
  try dsimp only
  repeat' first
    | with_reducible apply Stays.ite
    | with_reducible apply Stays.each; (intro _ _; try dsimp only)
    | with_reducible apply Stays.fold; (intro _ _; try dsimp only)
    | refine Stays.via (by with_reducible apply State.modAon_stays) ?_ (by decide)
    | refine Stays.via (by with_reducible apply State.takeReset_stays) ?_ (by decide)
    | with_reducible apply Stays.refl
    | dsimp only
    | split
    | with_reducible apply Stays.elim <;> intros
    | exact Stays.mk_of id fun p => by cases p <;> first | exact Or.inr rfl | exact Or.inl (by decide)

theorem State.emptied_stays (s : State) :
    Stays [.hl, .tk, .ing, .pan, .trk, .rly, .kvp, .slv, .act] s (State.emptied s) := by
  unfold State.emptied
  try dsimp only
  repeat' first
    | with_reducible apply Stays.ite
    | with_reducible apply Stays.each; (intro _ _; try dsimp only)
    | with_reducible apply Stays.fold; (intro _ _; try dsimp only)
    | with_reducible apply Stays.refl
    | dsimp only
    | split
    | with_reducible apply Stays.elim <;> intros
    | exact Stays.mk_of id fun p => by cases p <;> first | exact Or.inr rfl | exact Or.inl (by decide)

theorem State.resetInput_stays (s : State) (asserted : Bool) (c : Cause) :
    Stays [.regs, .holdLow, .latchHi, .mem, .hl, .flt, .aon, .tk, .ing, .mot, .pan, .trk, .rly, .kvp, .slv,
      .act] s (State.resetInput s asserted c) := by
  unfold State.resetInput
  try dsimp only
  repeat' first
    | with_reducible apply Stays.ite
    | with_reducible apply Stays.each; (intro _ _; try dsimp only)
    | with_reducible apply Stays.fold; (intro _ _; try dsimp only)
    | refine Stays.via (by with_reducible apply State.takeReset_stays) ?_ (by decide)
    | with_reducible apply Stays.refl
    | dsimp only
    | split
    | with_reducible apply Stays.elim <;> intros
    | exact Stays.mk_of id fun p => by cases p <;> first | exact Or.inr rfl | exact Or.inl (by decide)

end Sys2Proof.Machine
end

