-- ==== Sys2Proof/Laws/Tab.lean ====
section
/-! SUPPORT. Tables: what a read gives after a write, at the key written and at any other. -/

-- One theorem at a time: a thread a theorem would be too many.
set_option Elab.async false

namespace Sys2Proof

variable {α : Type}

@[simp] theorem Tab.get_set_same (d : α) (k : Nat) (v : α) : ∀ t : Tab α, Tab.get d k (Tab.set k v t) = v
  | [] => by simp [Tab.set, Tab.get]
  | (j, x) :: t => by
    unfold Tab.set
    split
    · simp [Tab.get]
    · split
      · simp [Tab.get]
      · rename_i h _
        have : ¬ j = k := fun e => h e.symm
        simp [Tab.get, this, Tab.get_set_same d k v t]

theorem Tab.get_set_other (d : α) {k j : Nat} (v : α) (h : j ≠ k) : ∀ t : Tab α, Tab.get d j (Tab.set k v t) = Tab.get d j t
  | [] => by simp [Tab.set, Tab.get, h.symm]
  | (i, x) :: t => by
    unfold Tab.set
    split
    · rename_i e
      subst e
      simp [Tab.get, h.symm]
    · split
      · simp [Tab.get, h.symm]
      · simp [Tab.get, Tab.get_set_other d v h t]

/-- A read after a write. -/
theorem Tab.get_set (d : α) (j k : Nat) (v : α) (t : Tab α) : Tab.get d j (Tab.set k v t) = if j = k then v else Tab.get d j t := by
  by_cases h : j = k
  · subst h; simp
  · simp [h, Tab.get_set_other d v h t]

@[simp] theorem Tab.get_mod_same (d : α) (k : Nat) (f : α → α) (t : Tab α) : Tab.get d k (Tab.mod d k f t) = f (Tab.get d k t) :=
  Tab.get_set_same d k _ t

theorem Tab.get_mod_other (d : α) {k j : Nat} (f : α → α) (h : j ≠ k) (t : Tab α) : Tab.get d j (Tab.mod d k f t) = Tab.get d j t :=
  Tab.get_set_other d _ h t

/-- A read after an update. -/
theorem Tab.get_mod (d : α) (j k : Nat) (f : α → α) (t : Tab α) :
    Tab.get d j (Tab.mod d k f t) = if j = k then f (Tab.get d k t) else Tab.get d j t :=
  Tab.get_set d j k _ t

theorem Tab.get_erase_same (d : α) (k : Nat) : ∀ t : Tab α, Tab.get d k (Tab.erase k t) = d
  | [] => rfl
  | (j, x) :: t => by
    by_cases h : j = k
    · simpa [Tab.erase, h] using Tab.get_erase_same d k t
    · have := Tab.get_erase_same d k t
      simp only [Tab.erase] at this ⊢
      simpa [h, Tab.get] using this

theorem Tab.get_erase_other (d : α) {k j : Nat} (h : j ≠ k) : ∀ t : Tab α, Tab.get d j (Tab.erase k t) = Tab.get d j t
  | [] => rfl
  | (i, x) :: t => by
    have := Tab.get_erase_other d h t
    simp only [Tab.erase] at this ⊢
    by_cases e : i = k
    · subst e
      simpa [Tab.get, h.symm] using this
    · simp only [ne_eq, decide_not] at this
      simp [e, Tab.get, this]

end Sys2Proof
end

