-- ==== Sys2Proof/Laws/Registers.lean ====
section
/-! SUPPORT. Setup registers: every word of every register has an offset of its own, and what a whole write of a 32-bit register
comes to. -/

-- One theorem at a time: a thread a theorem would be too many.
set_option Elab.async false

namespace Sys2Proof.Machine

open Sys2Proof

/-- Every word of a register lies at its own offset. -/
def Reg.apart (r : Reg) : Bool :=
  (upTo r.info.count1).all fun i => (upTo r.info.count2).all fun j => (upTo (r.info.width / 32)).all fun w =>
    decide (regAt (r.off i j + 4 * w) = some ⟨r, i, j, w⟩)

/-- The registers that have commands of their own. -/
def rowRegs : List Reg :=
  [.tkAcceptStep, .tkCtrl, .tkSetTime, .tkEra, .tkCapCfg, .iocSlotCfg, .sspCtrl, .senCtrl, .senStreamCfg, .mpEncCfg, .mpSpiCfg,
    .sspPocxp, .iocAccI2cCtrl, .mpI2cCtrl, .iocQuadRetry, .motCtrl, .panFrameCfg, .rlyLanes, .slvUnits, .rlyProg, .rlyDbgCmd,
    .actLstop, .actCtrl, .actCfg, .hlRingCfg, .fltCtrl, .aonSwreset]

theorem rowRegs_apart : ∀ r ∈ rowRegs, r.apart = true := by decide +kernel

theorem mem_upTo {n k : Nat} (h : k < n) : k ∈ upTo n := by
  induction n with
  | zero => omega
  | succ n ih =>
    simp only [upTo, List.mem_append, List.mem_singleton]
    by_cases e : k = n
    · exact Or.inr e
    · exact Or.inl (ih (by omega))

/-- The offset of a word of a register belongs to that word. -/
theorem regAt_off {r : Reg} {i j w : Nat} (m : r ∈ rowRegs) (hi : i < r.info.count1) (hj : j < r.info.count2) (hw : w < r.info.width / 32) :
    regAt (r.off i j + 4 * w) = some ⟨r, i, j, w⟩ := by
  have h := rowRegs_apart r m
  simp only [Reg.apart, List.all_eq_true] at h
  exact of_decide_eq_true (h i (mem_upTo hi) j (mem_upTo hj) w (mem_upTo hw))

/-- A whole write of a 32-bit register that takes writes: its value is stored, takes its effect, and the service level follows. -/
theorem State.writeRegWith_of {s : State} {r : Reg} {i j : Nat} (m : r ∈ rowRegs) (o : RegOpen s r i j) (hi : i < r.info.count1)
    (hj : j < r.info.count2) (w : r.info.width = 32) (told : Option Nat) (v : Word) :
    s.writeRegWith told (r.off i j) v = ((s.storeReg r i j v.toNat).regEffect s ⟨r, i, j, 0⟩ v.toNat told).relevel := by
  have a := regAt_off (w := 0) m hi hj (by omega)
  simp only [Nat.mul_zero, Nat.add_zero] at a
  unfold State.writeRegWith
  rw [if_neg (by simp [o.1, o.2]), a]
  simp [w, upTo]

/-- The same write by a command that names the register. -/
theorem State.writeOf_of {s : State} {r : Reg} {i j : Nat} (m : r ∈ rowRegs) (o : RegOpen s r i j) (hi : i < r.info.count1) (hj : j < r.info.count2)
    (w : r.info.width = 32) (told : Option Nat) (v : Word) :
    s.writeOf told r i j v =
      (((s.storeReg r i j v.toNat).regEffect s ⟨r, i, j, 0⟩ v.toNat told).relevel).settleWrite s := by
  unfold State.writeOf State.hostWrite
  rw [if_pos ⟨hi, hj⟩, State.writeRegWith_of m o hi hj w]

end Sys2Proof.Machine
end

