-- ==== Sys2Proof/Tests/Slice0.lean ====
section
/-! SUPPORT. Tests: ill-formed commands that the well-formedness check refuses; results that the spec works out; and for each clause of
each obligation that has hypotheses a state and operands that meet them together, theorem `met_<Name>` for `Obligations.<Name>`. -/

namespace Sys2Proof.Tests

-- One theorem at a time: each `decide +kernel` waits for the kernel's checks of what stands before it, and a thread a waiting theorem
-- would be too many.
set_option Elab.async false

open Sys2Proof.Machine

/-- A setup register's word set, of a state that a test builds. -/
def wr (r : Reg) (i j v : Nat) (s : State) : State := { s with regs := Tab.set (r.off i j) (BitVec.ofNat 32 v) s.regs }

/-- The state after reset, which the tests build on. -/
def z : State := State.reset

/-- A PTP message of a kind with every member 0. -/
def ptp (k : PtpKind) : PtpMsg :=
  ⟨k, 0, 0, 0, 0, 0, false, 0, ⟨0, 0⟩, 0, 0, 0, 0, ⟨0, 0, 0, 0, 0, 0, 0, 0, false, 0⟩⟩

/-- A clock that is not the device's own. -/
theorem other_clock : ownClock + 1 ≠ ownClock := by
  generalize ownClock = x
  intro h
  have h2 : x + 1 - x = x - x := by rw [h]
  rw [BitVec.add_comm, BitVec.add_sub_cancel, BitVec.sub_self] at h2
  exact absurd h2 (by decide)

/-- A grandmaster that announces every second. -/
def gm : PtpGm := ⟨128, 248, 254, 0, 128, 9, 0, 37, true, 1000⟩

/-- Both host ports up, PTP selected, and a parent on port 0 with two delays measured. -/
def tz : State :=
  wr .tkCtrl 0 0 1 { z with hl := { ports := [(0, { up := true }), (1, { up := true })] }
                            tk := { rx := some 0, parent := some ⟨gm, 7, 1, 0, 0⟩, nDelay := 2 } }

/-- A message of the parent of `tz`. -/
def pm (k : PtpKind) : PtpMsg := { ptp k with clock := 7, portNo := 1 }

/-- The Timekeeper of a test's state changed. -/
def tkOf (s : State) (f : Tk → Tk) : State := { s with tk := f s.tk }

/-- A camera record being assembled: one row of four 8-bit pixels. -/
def img : ImgStage := ⟨0, 4, 1, 1, 0, 8, false, 0, [], 0, false, false, false, true, 0, false⟩

/-- A camera on port `n` that feeds slot 5: its quad runs, its link is up, and the slot is its own. -/
def cz (n : Nat) : State :=
  (((wr .sspCtrl n 0 0x05000001 (wr .iocSlotCfg 5 0 0x3210011 z)).modQuad (n / 4) fun q => { q with running := true }).modSsp n
    fun p => { p with up := true }).modSlot 5 fun x => { x with srcs := [camSrc n] }

/-- A descriptor of an OP, with TARGET, the eight bytes of its argument, and inline data. -/
def desc (code target : Nat) (arg inl : List Byte) : List Byte :=
  by1 code ++ zeros 1 ++ by2 target ++ zeros 4 ++ sub arg 0 8 ++ sub inl 0 48

/-- An operation of ring 0 with a descriptor. -/
def op (d : List Byte) (taken : Bool) : Op := ⟨0, 0, 0, d, none, 0, 0, 0, 0, 0, 0, taken, 0, false⟩

/-- A state with one operation, whose ring 0 has the completion ring 32, which is enabled. -/
def withOp (o : Op) (s : State) : State :=
  (wr .hlRingCfg 0 0 0x2000 (wr .hlRingCfg 32 0 0x80040000 s)).modHl fun h => { h with ops := [o] }

/-- A sensor Ethernet port 0 that is up, with stream 1 live into slot 6 and UDP port 99. -/
def ez : State :=
  (((wr .senCtrl 0 0 1 (wr .senAddr4 0 0 0x0100000A (wr .senStreamCfg 0 1 0x601 (wr .senStreamPorts 0 1 99
    (wr .iocSlotCfg 6 0 0x3210011 z))))).modQuad 4 fun q => { q with running := true }).modSen 0 fun p => { p with up := true }).modSlot 6
      fun x => { x with srcs := [senSrc 0 1] }

/-- A datagram for stream 1 of `ez`. -/
def dg (d : SenData) : Datagram := ⟨0xFFFF0A000001, 5, 99, 7, true, d⟩

/-- Encoder channel 2 and inertial channel 3 enabled, into slots 7 and 8. -/
def mz : State :=
  ((wr .mpEncCfg 2 0 0x07000011 (wr .mpSpiCfg 3 0 0x88000000 (wr .iocSlotCfg 7 0 0x3210011 (wr .iocSlotCfg 8 0 0x3210011 z)))).modSlot 7
    fun x => { x with srcs := [encSrc 2] }).modSlot 8 fun x => { x with srcs := [spiSrc 3] }

/-- The next state of each command in turn. -/
def go (l : List (State → Host.Outcome State Fault Refusal)) (s : State) : State :=
  l.foldl (fun s c => match c s with
    | .next t => t
    | _ => s) s

/-- Frame 1 at rest with one tick, band formation of stream 6 in it, and a transform entry 40 that maps a pixel to (0, −2000). -/
def pz : State :=
  { wr .panCtrl 0 0 1 (wr .panFrameCfg 1 0 0x80101 (wr .panFrameBandLen 1 0 12800 (wr .panStreamCfg 6 0 0x81010028
      (wr .panStreamMesh 6 0 0x400040 (wr .iocSlotCfg 6 0 0x3210011 (wr .motCtrl 1 0 1
        (z.writeMem (panBase + 5120) ([0, 0, 0, 0, 640, 0, 0, -2000, 0, 0, 0, 1].flatMap by4i ++ zeros 22 ++ [0x80])))))))) with
    mot := [(1, { enabled := true, ticks := [⟨0, 0, 0, 0⟩], tconf := some 0, first := false })] }

/-- A line of four 8-bit pixels, as an IMAGE record of slot 6. -/
def lineRec : Rec := mkRec 1 6 2 0 0 (zeros 6 ++ by2 1 ++ zeros 2 ++ by2 4 ++ [1, 1, 0, 0] ++ zeros 4)

/-- `pz` with the line in the slot. -/
def pr : State := pz.recIn 6 lineRec

/-- A sample of slot 6 with one row at time 0, placed at 0 on predicted motion. -/
def smp : Sample :=
  { id := 3, slot := 6, raw := 0, source := lineRec, gap := false, unplaced := false, rows := [(0, 0)], first := 0, pos := [(0, 0)],
    pred := true }

/-- `pz` with the line read and waiting to be placed, and band 0 next. -/
def pw : State := (go [execPanSampleRead 6] pr).modPf 1 fun p => { p with next := some 0 }

/-- The sample that waits in `pw`, projected, and then placed. -/
def w0 : Sample := (pw.ps 6).waiting.headD smp
def w1 : Sample := (pw.project 0 w0).getD smp
def w2 : Sample := (pw.placed 1 w1).getD smp

/-- A release of band 0 of frame 1. -/
def rel (e : Epoch) (k : Settle) (l : List Sample) : Release := ⟨1, 0, e, k, true, 0, l, 0, 0, 0, 0, 0, 0, false, false, false, false⟩

/-- `pz` with band 0 released. -/
def prel (r : Release) : State := pz.modPf 1 fun p => { p with releases := [r], outst := [r.epoch], lastSeq := 1, next := some 1 }

/-- A batch of one detection for class 0, in DRAM, and the class and the output area enabled. -/
def kz : State :=
  wr .trkCtrl 0 0 1 (wr .trkClassCfg 0 0 0x90080000 (wr .trkOutSize 0 0 1 (wr .trkOutBase 0 0 0x100000
    (z.writeMem 0x1000 ([0x20, 0, 0, 0, 0, 0x20, 8, 0] ++ zeros 14 ++ by2 1 ++ zeros 40)))))

/-- An intake of one place, in a state. -/
def place (p : TrkPlace) (s : State) : State := s.modTrk fun k => { k with intake := [p] }

/-- The hand-off of that batch. -/
def hand : DetHand := ⟨0x1000, 5, 0x2000, 0⟩

/-- A command or descriptor of 32 bytes from its fields: the offset and the bytes of each. -/
def cm (o : Nat) (l : List (Nat × List Byte)) : List Byte := l.foldl (fun b x => patch b x.1 x.2) (patch (zeros 32) 0 (by1 o))

/-- A program image of an access stream, an execute stream and tensor descriptors. -/
def prog (a e d : List (List Byte)) : List Byte :=
  patch (zeros 64) 16 (by4 a.length ++ by4 e.length ++ by2 d.length) ++ (a ++ e ++ d).flatten

/-- The Relay enabled with Lanes 0 and 15, and a program that runs. -/
def lz (a e d : List (List Byte)) : State :=
  (wr .rlyCtrl 0 0 1 (wr .rlyLanes 0 0 0x8001 z)).modRly fun r =>
    { r with prog := { r.prog with slots := [(0, prog a e d)], standby := 0 } }

/-- A program whose access stream is one command; the second of Lanes 0 and 15 runs it. -/
def la (c : List Byte) : State := lz [c] [] []

/-- A program whose execute stream is one command. -/
def le (c : List Byte) : State := lz [] [c] []

/-- What a run of rows came to. -/
def ranTo : Ran → State
  | .done u => u
  | _ => z

/-- A LOAD or STORE of two rows of eight bytes. -/
def rows (o : Nat) : List Byte :=
  cm o [(8, [0, 0]), (10, by2 8), (12, by4 0x100), (16, by2 2), (20, by4 16), (24, by4 8), (28, by4 0x2000)]

/-- A tensor descriptor of one INT32 element in the scratchpad, and one of an outbound queue. -/
def one (base : Nat) : List Byte := cm 0 [(0, by4 base), (6, [7]), (8, by2 1 ++ by2 1 ++ by2 1 ++ by2 1)]
def oneQ : List Byte := cm 0 [(4, [1, 2, 7]), (8, by2 1 ++ by2 1 ++ by2 1 ++ by2 1)]

/-- A record in DRAM of an OUTPUT type, of two units. -/
def rec60 (s : State) : State := s.writeMem 0x2000 ([0x60, 0, 0, 0, 0, 0, 2, 0] ++ zeros 8)

/-- Attention with one layer of 32-element FP16 vectors in cache 0, four sequences, and a page for the first. -/
def az (s : State) : State :=
  let u := wr .kvpCtrl 0 0 1 (wr .kvpCacheCfg 0 0 0x80000100 (wr .kvpCacheSeqs 0 0 4 (wr .kvpCacheNpages 0 0 16 s)))
  u.writeMem (u.ptAddr 0 0 0 0 0) (by4 0x80000000)

/-- An image with its header's MAGIC, VERSION, KIND, TOTAL and CRC. -/
def signed (kind : Nat) (i : List Byte) : List Byte :=
  let j := patch (patch i 32 (by4 2048)) 0 (by4 0x4B525541 ++ by1 1 ++ by1 kind ++ zeros 2 ++ by4 i.length)
  patch j 12 (by4 (imgCrc j))

/-- A program image that the verifier accepts: BAND_OPEN, and NOP on the execute stream. -/
def goodProg : List Byte := signed 1 (prog [cm 0x20 [(4, by2 1)]] [cm 0x2F [(1, [1, 0, 0, 1])]] [])

/-- A schedule: LDLT of two unknowns, loaded whole, with its certificate. -/
def sched : List Byte :=
  [2, 1, 1, 15, 16, 16, 16, 16] ++ by4 256 ++ by4 4096 ++ by4 16 ++ by2 0 ++ by2 2 ++ by4 1057 ++ by4 1 ++ by4 24 ++ zeros 28 ++
    cm 1 [(1, [255])] |>.take 80 |> fun x => x ++ (cm 2 [(1, [255]), (4, by4 12)]).take 16 ++ by8 1000 ++
      (upTo 11).flatMap (fun _ => by8 0x7FFFFFFF) ++ by8 0x7FFFFFFFFFFFFFFF ++ zeros 24

/-- A heat record of two problems for that schedule in slot 5. -/
def heatBytes : List Byte :=
  [0x50, 0, 0, 0, 0, 0x20, 10, 0] ++ by8 0 ++ by2 5 ++ by2 2 ++ zeros 4 ++ by4 900 ++ zeros 4 ++ by8 0x9000 ++ by8 0xA000 ++
    by8 0xB000 ++ zeros 24

/-- The Solver enabled with that schedule and the record in DRAM. -/
def vz : State :=
  ((wr .slvCtrl 0 0 1 z).writeMem 0x8000 heatBytes).modSlv fun v => { v with scheds := [(5, sched)] }

/-- The heat of baton 3 as handed over, and as it runs. -/
def ht : Heat := { no := 0, addr := 0x8000, baton := some 3, host := none, head := [], epoch := 0x2000, flags := 0 }
def hr : Heat := { ht with head := heatBytes.take 64, nprob := 2, entries := zeros 16, order := 2 }

/-- The Actuation Unit in RUN with output 5 enabled, and output 15 with a generator on frame 1. -/
def xz : State :=
  (wr .actCtrl 0 0 1 (wr .actCfg 5 0 0x80000010 (wr .actCfg 15 0 0x80000000 (wr .actExpPitch 15 0 100 (wr .actExp 15 0 0x41000000
    (wr .motCtrl 1 0 1 z)))))).modAct fun a => { a with state := .run }

/-- A request for output 5 at 5 s, FIRE, and the VERDICT record that bears it. -/
def reqB (out : Nat) : List Byte := by1 out ++ [2, 7, 0] ++ zeros 4 ++ by8 0x500000000
def vrec (out : Nat) : List Byte := [0x60, 0, 0, 0, 0, 0x20, 6, 0] ++ zeros 12 ++ by1 1 ++ zeros 11 ++ reqB out

/-- A record waits in the intake. -/
def xin (d : List Byte) (s : State) : State := s.modAct fun a => { a with intake := [⟨d, some 0, false, false⟩] }

/-- An entry of output 5 for 5 s, ARMED to FIRE. -/
def en : Entry :=
  { no := 0, out := 5, position := false, trig := 0x500000000, key := 7, width := 1000, origin := .verdict,
    bind := some ⟨true, 0x2000, 0, 0, none, .settled, false⟩, nbind := 1, state := .armed }

/-- The schedule of `xz` holds an entry. -/
def xe (e : Entry) : State := xz.modAct fun a => { a with entries := [e], entryNo := 1 }


/-- A host, and an Imcel frame of it for session 2, TOKEN 7, SEQ 10. -/
def pe : Peer := ⟨true, 5, 41730⟩
def fr (kind : Nat) (l : List Byte) : Frame := mkFrame kind 2 7 10 false l

/-- A CONFIG frame with its tag under the key of session 2. -/
def cf (body : List Byte) : Frame :=
  { fr 0x12 (body ++ zeros 16) with payload := body ++ hmac16 (zeros 32) (frameHeader (fr 0x12 (body ++ zeros 16)) ++ body) }

/-- Session 2 as it is open, and a challenge. -/
def ss : Session := { isOpen := true, key := zeros 32, token := 7, next := 10, peer := pe }
def ch : Challenge := ⟨zeros 16, zeros 16, 0, 5, 9, 0, 0⟩

/-- SL1 with host port 0 up and session 2 open, and a known link key. -/
def hz : State :=
  { z with hl := { ports := [(0, { up := true })], sessions := [(2, ss)] }
           aon := { phase := .done, sl1 := true, zeroed := true, linkKey := some (zeros 32) } }

/-- An OPEN that answers `ch` for session index 3. -/
def opn (pf : List Byte) : Frame := mkFrame 0x03 0xFF 0 0 false (zeros 32 ++ by1 3 ++ zeros 11 ++ pf)

/-- A FETCH outstanding of ring 4. -/
def dr (k : ReqKind) (len : Nat) : DevReq := ⟨k, 4, 0x1000, len, [], 10, 0, 200, 0, false⟩

/-- `hz` with ring 4 enabled and bound to session 2, and a device request outstanding. -/
def rz (q : DevReq) : State := (wr .hlRingCfg 4 0 0x82040000 hz).modSess 2 fun x => { x with outst := [q] }

/-- A profile of the entries given, each an offset and a value. -/
def profB (l : List (Nat × Nat)) : List Byte :=
  let e := l.flatMap fun x => by4 x.1 ++ by4 x.2
  let b := [0x48, 0x4A, 0x50, 0x46, 1, 0, 0, 0] ++ by4 l.length ++ zeros 4 ++ e
  patch b 12 (by4 (crc32 b))

/-- A PROFILE descriptor: ACTION, slot, address and length. -/
def pd (k n a len : Nat) : List Byte := desc 0x48 0 (zeros 8) (by1 k ++ by1 n ++ zeros 6 ++ by8 a ++ by4 len)

/-- `op` with a Job Status Word that runs. -/
def opJ (d : List Byte) : Op := { op d true with jsw := some 0x3000, jstate := 1 }

/-- The profile is being applied from slot 4. -/
def fz (i : Nat) (w : Option Nat) (b : List Byte) : State :=
  z.modAon fun a => { a with phase := .profile, boot := some 4, slots := [(4, b)], profIdx := i, profWait := w }

/-- A message of class U that waits. -/
def msg (code : Nat) : Msg := ⟨code, 0x5D, 0xFF, 3, false, 0, 0⟩
def fm (m : Msg) (s : State) : State := s.modFlt fun f => { f with bufs := [(m.source, [m])] }

/-- `hz` with the Timekeeper set and the Actuation Unit enabled: level SL2. -/
def goodLevel : State := wr .actCtrl 0 0 1 { hz with tk := { isSet := true } }

/-! ### Ill-formed commands -/

/-- An offset that is no word's is refused. -/
theorem test_refused_offsets :
    (∀ x, (Instr.setupRegisterWrite 6 x).wf = false) ∧ (Instr.lowHalfRead 6).wf = false ∧
      (∀ x, (Instr.lowHalfWrite 6 x).wf = false) ∧ (∀ x, (Instr.highHalfWrite 6 x).wf = false) := by
  and_intros <;> intros <;> rfl

/-- A number that is not below 2 is refused. -/
theorem test_refused_bound_2 :
    (∀ x y, (Instr.syncReceive x 2 y).wf = false) ∧ (∀ x y, (Instr.followUpReceive x 2 y).wf = false) ∧
      (∀ x y, (Instr.delayRespReceive x 2 y).wf = false) ∧ (Instr.pdelayReqSend 2).wf = false ∧
      (∀ x y, (Instr.pdelayReqReceive x 2 y).wf = false) ∧ (∀ x y, (Instr.pdelayRespReceive x 2 y).wf = false) ∧
      (∀ x y, (Instr.announceReceive x 2 y).wf = false) ∧ (∀ x y u, (Instr.tcForward x 2 y u).wf = false) ∧
      (∀ x y, (Instr.tcFollowerForward x 2 y).wf = false) ∧ (∀ x y u, (Instr.asRelaySync x 2 y u).wf = false) ∧
      (Instr.breakHit 2).wf = false ∧ (∀ x y u, (Instr.hello x 2 y u).wf = false) ∧
      (∀ x y u, (Instr.openSession x 2 y u).wf = false) ∧ (∀ x y u, (Instr.write x 2 y u).wf = false) ∧
      (∀ x y u, (Instr.read x 2 y u).wf = false) ∧ (∀ x y u, (Instr.regwrite x 2 y u).wf = false) ∧
      (∀ x y u, (Instr.window x 2 y u).wf = false) ∧ (∀ x y u, (Instr.keyset x 2 y u).wf = false) ∧
      (∀ x y u, (Instr.close x 2 y u).wf = false) ∧ (∀ x y u, (Instr.ping x 2 y u).wf = false) ∧
      (∀ x y u, (Instr.nudge x 2 y u).wf = false) ∧ (∀ x y u, (Instr.probe x 2 y u).wf = false) ∧
      (∀ x y u, (Instr.fdata x 2 y u).wf = false) ∧ (∀ x y u, (Instr.pack x 2 y u).wf = false) ∧
      (∀ x, (Instr.statusBeacon 2 x).wf = false) ∧ (∀ x, (Instr.hlPortLock x 2).wf = false) ∧ (Instr.hlSettleLimit 2).wf = false ∧
      (Instr.hlPortRetry 2).wf = false ∧ (Instr.hlSpeedSearch 2).wf = false ∧ (∀ x, (Instr.hlLinkDown x 2).wf = false) ∧
      (∀ x, (Instr.hlSignalRegained x 2).wf = false) ∧ (∀ x, (Instr.arpNdEchoRequest x 2 ⟨false, .arp, 0, 0, [], {}⟩).wf = false) ∧
      (∀ x, (Instr.arpNdEchoRequest x 4 ⟨true, .arp, 0, 0, [], {}⟩).wf = false) := by
  and_intros <;> intros <;> rfl

/-- A number that is not below 32 is refused. -/
theorem test_refused_bound_32 :
    (∀ x y, (Instr.capEdge x 32 y).wf = false) ∧ (Instr.capFilterValidate 32).wf = false ∧ (Instr.capStall 32).wf = false ∧
      (∀ x, (Instr.capDisable 32 x).wf = false) ∧ (Instr.expectCreate 32).wf = false ∧ (Instr.fullDriveEnd 32).wf = false ∧
      (Instr.holdEnd 32).wf = false ∧ (∀ x, (Instr.actOutputDisable 32 x).wf = false) ∧
      (∀ x, (Instr.actOvercurrent x 32).wf = false) ∧ (∀ x, (Instr.actReadback x 32).wf = false) ∧
      (Instr.actSchedUeHoldEnd 32).wf = false := by
  and_intros <;> intros <;> rfl

/-- A number that is not below 48 is refused. -/
theorem test_refused_bound_48 :
    (∀ x y, (Instr.wordArrive 48 x y).wf = false) ∧ (∀ x, (Instr.slotEnableWrite 48 x).wf = false) ∧
      (Instr.slotStall 48).wf = false ∧ (Instr.panSampleRead 48).wf = false ∧ (Instr.samplePlace 48).wf = false ∧
      (Instr.sampleReplace 48).wf = false ∧ (Instr.streamForfeit 0 48).wf = false := by
  and_intros <;> intros <;> rfl

/-- A number that is not below 16 is refused. -/
theorem test_refused_bound_16_1 :
    (∀ x, (Instr.sspEnableWrite 16 x).wf = false) ∧ (∀ x y u, (Instr.cxpLinkUp x ⟨16, y, u⟩).wf = false) ∧
      (∀ x, (Instr.cxpLinkDown x 16).wf = false) ∧ (∀ x y, (Instr.cxpStreamPacket x 16 y).wf = false) ∧
      (∀ x y, (Instr.cxpEventPacket x 16 y).wf = false) ∧ (∀ x y, (Instr.cxpAckReceive x 16 y).wf = false) ∧
      (Instr.cxpXactTimeout 16).wf = false ∧ (Instr.triggerDue 16).wf = false ∧ (Instr.triggerLaunch 16).wf = false ∧
      (Instr.heldTriggerLate 16).wf = false ∧ (∀ x, (Instr.pocxpEnableWrite 16 x).wf = false) ∧
      (∀ x, (Instr.pocxpTrip x 16).wf = false) ∧ (Instr.load 16).wf = false ∧ (Instr.store 16).wf = false ∧
      (Instr.push 16).wf = false ∧ (Instr.pop 16).wf = false ∧ (Instr.lda 16).wf = false ∧ (Instr.seta 16).wf = false ∧
      (Instr.adda 16).wf = false ∧ (∀ x, (Instr.setc 16 x).wf = false) ∧ (∀ x, (Instr.addc 16 x).wf = false) ∧
      (∀ x, (Instr.cmp 16 x).wf = false) ∧ (Instr.rscalar 16).wf = false ∧ (Instr.emit 16).wf = false ∧
      (∀ x, (Instr.nop 16 x).wf = false) ∧ (∀ x, (Instr.laneFail x 16).wf = false) ∧ (∀ x y, (Instr.laneSpUe x 16 ⟨0, y⟩).wf = false) ∧
      (Instr.matmul 16).wf = false ∧ (Instr.conv2d 16).wf = false ∧ (Instr.warp 16).wf = false ∧ (Instr.meshi 16).wf = false ∧
      (Instr.reduce 16).wf = false ∧ (Instr.eltwise 16).wf = false ∧ (Instr.hist 16).wf = false ∧ (Instr.gather 16).wf = false ∧
      (Instr.scatter 16).wf = false ∧ (Instr.convert 16).wf = false ∧ (Instr.norm 16).wf = false ∧ (Instr.attend 16).wf = false ∧
      (Instr.kvAppend 16).wf = false := by
  and_intros <;> intros <;> rfl

/-- A number that is not below 16 is refused. -/
theorem test_refused_bound_16_2 :
    (Instr.kvReset 16).wf = false ∧ (Instr.kvTrim 16).wf = false ∧ (Instr.kvLen 16).wf = false ∧
      (Instr.problemDeal 16).wf = false ∧ (Instr.problemDone 16).wf = false ∧ (∀ x, (Instr.slvUnitFail x 16).wf = false) ∧
      (∀ x y u v, (Instr.fatalLine x y u 16 v).wf = false) ∧ (∀ x, (Instr.dramTrainingDone x 16).wf = false) ∧
      (∀ x y, (Instr.pocxpDetectionDone x 16 y).wf = false) := by
  and_intros <;> intros <;> rfl

/-- A number that is not below 4 is refused. -/
theorem test_refused_bound_4 :
    (∀ x, (Instr.senEnableWrite 4 x).wf = false) ∧ (∀ x, (Instr.senStreamEnableWrite 4 0 x).wf = false) ∧
      (∀ x, (Instr.senStreamEnableWrite 0 4 x).wf = false) ∧ (∀ x y, (Instr.senDatagram x 4 y).wf = false) ∧
      (Instr.profileCloseTimeout 4 0).wf = false ∧ (Instr.profileCloseTimeout 0 4).wf = false ∧
      (∀ x, (Instr.senLinkDown x 4).wf = false) ∧ (∀ x y, (Instr.senLinkUp x 4 y).wf = false) ∧
      (∀ x, (Instr.dramLinkFail x 4).wf = false) := by
  and_intros <;> intros <;> rfl

/-- A number that is not below 8 is refused. -/
theorem test_refused_bound_8 :
    (∀ x, (Instr.encEnableWrite 8 x).wf = false) ∧ (∀ x, (Instr.spiEnableWrite 8 x).wf = false) ∧
      (∀ x y, (Instr.encEdge x 8 0 y).wf = false) ∧ (Instr.encFilterValidate 8 0).wf = false ∧
      (Instr.encBatchClose 8).wf = false ∧ (∀ x, (Instr.encLineFault x 8 0).wf = false) ∧
      (∀ x, (Instr.encLineFaultClear x 8 0).wf = false) ∧ (Instr.encStallTimeout 8).wf = false ∧
      (∀ x, (Instr.spiDataReady x 8).wf = false) ∧ (Instr.spiTimer 8).wf = false ∧ (∀ x y, (Instr.spiXactDone x 8 y).wf = false) ∧
      (Instr.spiStallTimeout 8).wf = false ∧ (Instr.fusionTick 8).wf = false ∧ (Instr.motionReport 8).wf = false ∧
      (∀ x, (Instr.motFrameEnable 8 x).wf = false) ∧ (∀ x, (Instr.motFrameDisable 8 x).wf = false) ∧
      (Instr.frameAbsent 8).wf = false ∧ (Instr.streamForfeit 8 0).wf = false ∧ (Instr.bandRelease 8).wf = false ∧
      (Instr.epochDecide 8).wf = false ∧ (Instr.sealIssue 8).wf = false ∧ (Instr.reRelease 8).wf = false ∧
      (∀ x, (Instr.panFrameEnable 8 x).wf = false) ∧ (∀ x, (Instr.panFrameDisable 8 x).wf = false) ∧
      (Instr.challengeTimeout 8).wf = false ∧ (Instr.deviceRetxTimeout 8).wf = false ∧ (Instr.keepaliveExpire 8).wf = false := by
  and_intros <;> intros <;> rfl

/-- A number that is not below 3 is refused. -/
theorem test_refused_bound_3 :
    (∀ x y, (Instr.encEdge x 0 3 y).wf = false) ∧ (Instr.encFilterValidate 0 3).wf = false ∧
      (∀ x, (Instr.encLineFault x 0 3).wf = false) ∧ (∀ x, (Instr.encLineFaultClear x 0 3).wf = false) := by
  and_intros <;> intros <;> rfl

/-- A CoaXPress rate code above CXP-12 is refused. -/
theorem test_refused_rate : ∀ x y, (Instr.cxpLinkUp x ⟨0, 7, y⟩).wf = false := by
  intros
  rfl

/-- A number that is not below 9 is refused. -/
theorem test_refused_bound_9 :
    (∀ x y, (Instr.i2cXferDone x 9 y).wf = false) ∧ (∀ x y, (Instr.i2cStretchTimeout x 9 y).wf = false) ∧
      (∀ x, (Instr.i2cSclHeldIdle x 9).wf = false) ∧ (∀ x, (Instr.i2cReenable 9 x).wf = false) := by
  and_intros <;> intros <;> rfl

/-- A number that is not below 5 is refused. -/
theorem test_refused_bound_5 :
    (∀ x, (Instr.quadLock x 5).wf = false) ∧ (Instr.quadSettleLimit 5).wf = false := by
  and_intros <;> intros <;> rfl

/-- A number that is not below 0x600000 is refused. -/
theorem test_refused_bound_0x600000 :
    (∀ x y, (Instr.panSramUe x ⟨0x600000, y⟩).wf = false) := by
  intros
  rfl

/-- A number that is not below 4096 is refused. -/
theorem test_refused_bound_4096 :
    (∀ x y, (Instr.trkSramUe x ⟨4096, y⟩).wf = false) := by
  intros
  rfl

/-- A number that is not below 0x200000 is refused. -/
theorem test_refused_bound_0x200000 :
    (∀ x y, (Instr.laneSpUe x 0 ⟨0x200000, y⟩).wf = false) := by
  intros
  rfl

/-- A number that is not below 65536 is refused. -/
theorem test_refused_bound_65536 :
    (∀ x, (Instr.laneRejoin x 65536).wf = false) ∧ (∀ x, (Instr.unitRejoin x 65536).wf = false) ∧
      (∀ x, (Instr.zeroingDone x 65536 0 0).wf = false) ∧ (∀ x, (Instr.zeroingDone x 0 65536 0).wf = false) ∧
      (∀ x, (Instr.zeroingDone x 0 0 65536).wf = false) := by
  and_intros <;> intros <;> rfl

/-- A number that is not below 64 is refused. -/
theorem test_refused_bound_64 :
    (∀ x y, (Instr.slvSchedUe x ⟨64, y⟩).wf = false) ∧ (Instr.doorbellPoll 64).wf = false ∧ (Instr.descriptorDispatch 64).wf = false ∧
      (Instr.recordPost 64).wf = false ∧ (∀ x, (Instr.jswUpdate 64 x).wf = false) ∧
      (∀ x, (Instr.ringEnableWrite 64 x).wf = false) := by
  and_intros <;> intros <;> rfl

/-- An error outside the memories of the device is refused. -/
theorem test_refused_ecc :
    (∀ x y, (Instr.dramError x (.dram 0x800000000) y).wf = false) ∧ (∀ x y, (Instr.dramError x (.kvSeq 4096) y).wf = false) ∧
      (∀ x y, (Instr.dramError x (.slvUnit 16) y).wf = false) ∧ (∀ x y u, (Instr.dramError x (.hlHold 8 u) y).wf = false) ∧
      (∀ x y, (Instr.dramError x (.hlHold 0 16) y).wf = false) ∧ (∀ x y u, (Instr.dramError x (.hlPost 8 u) y).wf = false) := by
  and_intros <;> intros <;> rfl

/-! ### Results that the spec works out -/

/-- 01_line.md, worked case, step 6: the header of LANE.5's verdict. -/
theorem test_record_header :
    (recBytes ⟨0x60, 0x65, 42, 0x81, 0x4075, 0x6802964040000000, zeros 48⟩).take 16 =
      [0x60, 0x65, 0x2A, 0x81, 0x75, 0x40, 8, 0, 0, 0, 0, 0x40, 0x40, 0x96, 2, 0x68] := by decide +kernel

/-- 04_motion_pan.md, worked case, step 6: the notice of the RECALL of 0x24B0. -/
theorem test_recall_notice :
    recBytes (noticeRec true 0x24B0 0x68E7780080000000) =
      [0x1F, 0x58, 0, 0, 0xB0, 0x24, 2, 0, 0, 0, 0, 0x80, 0, 0x78, 0xE7, 0x68] := by decide +kernel

/-- 00_scope.md, worked case, steps 1 to 3: setup space begins at 0x18_0000_0000, and LANE.11 lies 0xB000 into the block 0xA_0000. -/
theorem test_setup_space : setupBase = 0x1800000000 ∧ Reg.off .laneStat 11 0 / 0x1000 = 0xAB := by decide +kernel

/-- 11_actuation.md, worked case, step 1: the generator's next positions. -/
theorem test_generator : nextPitch 41599999 0 3200000 = 41600000 ∧ nextPitch 41600000 0 3200000 = 44800000 := by decide +kernel

/-- 14_faults.md, worked case, steps 1 to 3: C stays C, then is raised to U, then to F by two levels. -/
theorem test_escalation : escalate 0 0 0 = (0, 0) ∧ escalate 0 1 0 = (1, 1) ∧ escalate 0 1 1 = (2, 2) := by decide +kernel

/-- 13_rings.md, worked case, step 6: the completion of a host heat of 200 problems. -/
theorem test_completion :
    completionBytes { op (by4 0x23 |>.take 1 |>.append ([1, 0, 0] ++ by4 0xA17 ++ zeros 56)) true with
      ring := 4, didx := 130, jsw := some 0x270000000 } 0 0 (by4 200 ++ zeros 4) =
      [0x23, 0, 2, 4, 0x17, 0x0A, 0, 0, 0x82, 0, 0, 0, 0, 0, 0, 0, 0xC8, 0, 0, 0, 0, 0, 0, 0] ++ zeros 8 := by decide +kernel

/-- 07_aurik_ops.md, worked case: row 0 of A and of B, and the state in which the first element of D is computed into DQ.2. -/
def rowA : List Byte := by2 0x6C00 ++ (upTo 31).flatMap (fun _ => by2 0x3C00) ++ by2 0xEC00 ++ zeros 62
def rowB : List Byte := by2 0x6C00 ++ (upTo 31).flatMap (fun _ => by2 0x3800) ++ by2 0x6C00 ++ (upTo 31).flatMap (fun _ => by2 0x3C00)
def mmul : State :=
  let row := fun base => cm 0 [(0, by4 base), (6, [10]), (8, by2 64 ++ by2 1 ++ by2 1 ++ by2 1), (16, by4 128)]
  ((lz [] [cm 0x40 [(1, [1, 0x10, 2]), (8, [3, 1, 2, 0, 4, 4])]]
    [row 0, row 0, row 0x1000, cm 0 [(4, [1, 2, 10]), (8, by2 1 ++ by2 1 ++ by2 1 ++ by2 1)]]).writeMem spBase rowA).writeMem
      (spBase + 0x1000) rowB

/-- Steps 2 to 5: the dot product of 64 FP16 elements in two blocks is 16.0, where the real sum is 15.5. -/
theorem test_matmul_blocks : ((((go [execMatmul 0] mmul).lane 0).tiles 2).map fun t => t.data.take 2) = [[0x00, 0x4C]] := by decide +kernel

/-- The digest of "abc" (FIPS 180-4), which 12_imcel.md R440 builds on. -/
theorem test_sha256 :
    (sha256 [0x61, 0x62, 0x63]).take 8 = [0xBA, 0x78, 0x16, 0xBF, 0x8F, 0x01, 0xCF, 0xEA] := by decide +kernel

/-- The check value of CRC-32 over "123456789" (10_programs.md). -/
theorem test_crc32 : crc32 [0x31, 0x32, 0x33, 0x34, 0x35, 0x36, 0x37, 0x38, 0x39] = 0xCBF43926 := by decide +kernel

/-! ### Hypotheses that are met -/

set_option maxRecDepth 100000

/-- The hypotheses of `Obligations.HalvesGoTogether` are met, those of each clause. -/
theorem met_HalvesGoTogether :
    (∃ (s : State) (off : Nat), isLow off = true ∧ off % 4 = 0 ∧ s.aon.phase ≠ .held) ∧
    (∃ (s : State) (off : Nat), isHigh off = true ∧ (∀ x ∈ s.latchHi, x.1 ≠ off - 4)) ∧
    (∃ (s : State) (off : Nat), isLow off = true ∧ off % 4 = 0 ∧ s.aon.phase ≠ .held ∧ s.inResetBlock off = false) ∧
    (∃ (s : State) (off : Nat) (r : Reg) (i : Nat) (j : Nat), regAt off = some ⟨r, i, j, 1⟩ ∧ r.info.width = 64 ∧ off % 4 = 0 ∧
        s.aon.phase ≠ .held ∧ s.inResetBlock off = false) :=
  ⟨⟨z, Reg.off .motOrigin 0 0, by decide +kernel⟩,
    ⟨z, Reg.off .motOrigin 0 0 + 4, by decide +kernel⟩,
    ⟨z, Reg.off .motOrigin 0 0, by decide +kernel⟩,
    ⟨z, Reg.off .motOrigin 0 0 + 4, .motOrigin, 0, 0, by decide +kernel⟩⟩

/-- The hypotheses of `Obligations.FieldsComeIntoRange` are met, those of each clause. -/
theorem met_FieldsComeIntoRange :
    (∃ (s : State) (off : Nat) (r : Reg) (i : Nat) (j : Nat) (f : Field), regAt off = some ⟨r, i, j, 0⟩ ∧ off % 4 = 0 ∧
        r.info.width = 32 ∧ RegOpen s r i j ∧ r ≠ .aonSwreset ∧ r ≠ .tkEra ∧ f ∈ r.info.fields ∧ f.acc = .rw ∧ f.range ≠ .dep) ∧
    (∃ (s : State) (off : Nat) (r : Reg) (i : Nat) (j : Nat) (f : Field), regAt off = some ⟨r, i, j, 0⟩ ∧ off % 4 = 0 ∧
        r.info.width = 32 ∧ RegOpen s r i j ∧ r ≠ .aonSwreset ∧ r ≠ .tkEra ∧ f ∈ r.info.fields ∧ f.acc ≠ .rw) ∧
    (∃ (s : State), RegOpen s .tkLockCfg 0 0) ∧
    (∃ (s : State), RegOpen s .tkFsLimit 0 0) ∧
    (∃ (s : State) (n : Nat), n < 16 ∧ RegOpen s .sspPocxp n 0) ∧
    (∃ (s : State) (n : Nat), n < 48 ∧ RegOpen s .iocSlotCfg n 0 ∧ s.iocSlotCfg_EN n = false ∧
      let o := others 48 n fun k => if s.iocSlotCfg_EN k then s.iocSlotCfg_DEPTH k else 0
      o ≤ 512) ∧
    (∃ (s : State) (k : Nat), RegOpen s .tkEvents 0 0 ∧ k < 7) ∧
    (∃ (off : Nat), off % 4 ≠ 0) ∧
    (∃ (off : Nat), regAt off = none) :=
  ⟨⟨z, Reg.off .tkFsLimit 0 0, .tkFsLimit, 0, 0, ⟨29, 0, .rw, 50000, .span 1000 1000000000, false⟩,
      by simp only [RegOpen]; decide +kernel⟩,
    ⟨z, Reg.off .tkEvents 0 0, .tkEvents, 0, 0, (Reg.tkEvents.info.fields.getD 0 ⟨0, 0, .w1c, 0, .any, false⟩),
      by simp only [RegOpen]; decide +kernel⟩,
    ⟨hz, by simp only [RegOpen]; decide +kernel⟩,
    ⟨hz, by simp only [RegOpen]; decide +kernel⟩,
    ⟨hz, 15, by simp only [RegOpen]; decide +kernel⟩,
    ⟨wr .iocSlotCfg 3 0 0x3210011 hz, 47, by simp only [RegOpen]; decide +kernel⟩,
    ⟨hz, 6, by simp only [RegOpen]; decide +kernel⟩,
    ⟨0x10002, by decide +kernel⟩,
    ⟨0xFFFFFC, by decide +kernel⟩⟩

/-- The hypotheses of `Obligations.TimeMessagesMeasure` are met, those of each clause. -/
theorem met_TimeMessagesMeasure :
    (∃ (s : State) (dt : Nat) (port : Nat) (m : PtpMsg), m.kind = .sync ∧ m.twoStep = true ∧ (s.pass dt).fromParent port m = true) ∧
    (∃ (s : State) (dt : Nat) (port : Nat) (m : PtpMsg), m.kind = .sync ∧ m.twoStep = false ∧ (s.pass dt).fromParent port m = true
        ∧ 2 ≤ s.tk.nDelay) ∧
    (∃ (s : State) (dt : Nat) (port : Nat) (m : PtpMsg) (x : PendSync), m.kind = .followUp ∧ (s.pass dt).fromParent port m = true
        ∧ 2 ≤ s.tk.nDelay ∧ s.tk.pendSync = some x ∧ x.matched port m = true) ∧
    (∃ (s : State) (dt : Nat) (port : Nat) (m : PtpMsg) (t3 : Int) (diff : Int), m.kind = .delayResp ∧ (s.pass dt).fromParent port
        m = true ∧ m.seq = s.tk.reqSeq ∧ m.reqClock = ownClock ∧ m.reqPort = BitVec.ofNat 16 (port + 1) ∧ s.tk.reqT3 = some t3 ∧
        s.tk.syncDiff = some diff) ∧
    (∃ (s : State) (dt : Nat) (port : Nat) (m : PtpMsg) (t1 : Int), m.kind = .pdelayResp ∧ m.twoStep = false ∧ (s.pass
        dt).portHears port = true ∧ s.tkTakes m = true ∧ s.peerDelay = true ∧ m.seq = (s.pdelay port).seq ∧ m.reqClock = ownClock
        ∧ m.reqPort = BitVec.ofNat 16 (port + 1) ∧ (s.pdelay port).t1 = some t1 ∧ s.rxPort = some port) :=
  ⟨⟨tz, 0, 0, { pm .sync with twoStep := true }, by decide +kernel⟩,
    ⟨tz, 0, 0, pm .sync, by decide +kernel⟩,
    ⟨tkOf tz fun k => { k with pendSync := some ⟨0, 0, 7, 1, 0, 0⟩ }, 0, 0, pm .followUp, ⟨0, 0, 7, 1, 0, 0⟩, by decide +kernel⟩,
    ⟨tkOf tz fun k => { k with reqT3 := some 5, syncDiff := some 9 }, 0, 0,
      { pm .delayResp with reqClock := ownClock, reqPort := 1 }, 5, 9,
      ⟨by decide +kernel, by decide +kernel, by decide +kernel,
      Eq.refl ownClock, by decide +kernel⟩⟩,
    ⟨wr .tkCtrl 0 0 0x81 (tkOf tz fun k => { k with pdelay := [(0, { t1 := some 3 })] }), 0, 0,
      { pm .pdelayResp with reqClock := ownClock, reqPort := 1 }, 3,
      ⟨by decide +kernel, by decide +kernel, by decide +kernel,
      by decide +kernel, by decide +kernel, by decide +kernel, Eq.refl ownClock, by decide +kernel, by decide +kernel,
      by decide +kernel⟩⟩⟩

/-- The hypotheses of `Obligations.TimeRequestsLeave` are met, those of each clause. -/
theorem met_TimeRequestsLeave :
    (∃ (s : State) (p : Nat), s.rxPort = some p ∧ s.tkCtrl_SOURCE ≠ 0 ∧ s.tkCtrl_DELAY_MECH = false ∧ s.tk.syncDiff ≠ none ∧
        (s.port p).settling = false ∧ (s.port p).up = true) ∧
    (∃ (s : State) (port : Nat), port < 2 ∧ s.peerDelay = true ∧ (s.port port).settling = false ∧ (s.port port).up = true) ∧
    (∃ (s : State) (port : Nat) (m : PtpMsg), m.kind = .pdelayReq ∧ s.portHears port = true ∧ s.tkTakes m = true ∧ s.peerDelay =
        true ∧ s.tkCtrl_TC_MODE = false ∧ s.tkCtrl_SOURCE = 1) :=
  ⟨⟨tkOf tz fun k => { k with syncDiff := some 9 }, 0, by decide +kernel⟩,
    ⟨wr .tkCtrl 0 0 0x81 tz, 1, by decide +kernel⟩,
    ⟨wr .tkCtrl 0 0 0x81 tz, 0, ptp .pdelayReq, by decide +kernel⟩⟩

/-- The hypotheses of `Obligations.TransparentClock` are met, those of each clause. -/
theorem met_TransparentClock :
    (∃ (s : State) (port : Nat) (m : PtpMsg), s.tcOn = true ∧ s.portHears port = true ∧ s.tkCtrl_DELAY_MECH = false ∧
        s.tkCtrl_TC_MODE = false ∧ (m.kind = .sync ∨ m.kind = .delayReq ∨ m.kind = .pdelayReq ∨ m.kind = .pdelayResp) ∧ (s.port (1
        - port)).settling = false ∧ (s.port (1 - port)).up = true) ∧
    (∃ (s : State) (port : Nat) (m : PtpMsg), s.tcOn = true ∧ s.portHears port = true ∧ s.tkCtrl_DELAY_MECH = false ∧
        s.tkCtrl_TC_MODE = true ∧ m.kind = .sync ∧ m.twoStep = true ∧ s.tk.tcHeld.length < 32 ∧ (s.port (1 - port)).settling =
        false ∧ (s.port (1 - port)).up = true) ∧
    (∃ (s : State) (port : Nat) (m : PtpMsg) (h : TcHeld) (rest : List TcHeld), s.tcOn = true ∧ s.portHears port = true ∧
        s.tkCtrl_DELAY_MECH = false ∧ m.kind = .followUp ∧ s.tk.tcHeld = h :: rest ∧ h.follower = .followUp ∧ h.seq = m.seq ∧
        h.clock = m.clock ∧ h.portNo = m.portNo ∧ h.domain = m.domain ∧ (s.port (1 - port)).settling = false ∧ (s.port (1 -
        port)).up = true) ∧
    (∃ (s : State) (h : TcHeld) (rest : List TcHeld), s.tk.tcHeld = h :: rest) ∧
    (∃ (s : State) (port : Nat) (m : PtpMsg) (z : PendSync), s.tkCtrl_SOURCE = 2 ∧ s.tkCtrl_TC_EN = true ∧ m.kind = .followUp ∧
        s.fromParent port m = true ∧ s.tk.relaySync = some z ∧ z.matched port m = true ∧ (s.port (1 - port)).settling = false ∧
        (s.port (1 - port)).up = true) :=
  ⟨⟨wr .tkCtrl 0 0 0x21 tz, 0, { ptp .sync with clock := ownClock + 1 }, by decide +kernel⟩,
    ⟨wr .tkCtrl 0 0 0x61 tz, 0, { ptp .sync with twoStep := true, clock := ownClock + 1 }, by decide +kernel⟩,
    ⟨wr .tkCtrl 0 0 0x21 (tkOf tz fun k => { k with tcHeld := [⟨0, ownClock + 1, 0, 0, .followUp, 77, 0⟩] }), 0,
      { ptp .followUp with clock := ownClock + 1 }, ⟨0, ownClock + 1, 0, 0, .followUp, 77, 0⟩, [],
      ⟨by decide +kernel,
      by decide +kernel, by decide +kernel, by decide +kernel, rfl, by decide +kernel, by decide +kernel, rfl, by decide +kernel,
      by decide +kernel, by decide +kernel, by decide +kernel⟩⟩,
    ⟨tkOf tz fun k => { k with tcHeld := [⟨0, 0, 0, 0, .followUp, 77, 0⟩] }, ⟨0, 0, 0, 0, .followUp, 77, 0⟩, [],
      by decide +kernel⟩,
    ⟨wr .tkCtrl 0 0 0x22 (tkOf tz fun k => { k with relaySync := some ⟨0, 0, 7, 1, 5, 0⟩ }), 0, pm .followUp, ⟨0, 0, 7, 1, 5, 0⟩,
      by decide +kernel⟩⟩

/-- The hypotheses of `Obligations.TimekeeperChanges` are met, those of each clause. -/
theorem met_TimekeeperChanges :
    (∃ (s : State), s.tk.state = .acquire ∨ s.tk.state = .locked) ∧
    (∃ (s : State) (p : Nat), s.rxPort = some p ∧ s.tk.state = .acquire ∨ s.tk.state = .locked ∧ s.tkCtrl_RX_PORT ≠ 2) ∧
    (∃ (s : State) (v : Word), RegOpen s .tkAcceptStep 0 0 ∧ bit v.toNat 0 = true) ∧
    (∃ (s : State) (v : Word), RegOpen s .tkCtrl 0 0 ∧ s.tkCtrl_SOURCE = 0 ∧ (s.storeReg .tkCtrl 0 0 v.toNat).tkCtrl_SOURCE ≠ 0 ∧
        s.tk.rx = none) ∧
    (∃ (s : State) (v : Word), RegOpen s .tkCtrl 0 0 ∧ (s.storeReg .tkCtrl 0 0 v.toNat).tkCtrl_SOURCE = 0) ∧
    (∃ (s : State), RegOpen s .tkSetTime 0 0 ∧ s.tkCtrl_SOURCE = 0 ∧ s.tk.baseAt ≤ s.now) ∧
    (∃ (s : State), RegOpen s .tkEra 0 0 ∧ s.tkCtrl_SOURCE = 0 ∧ s.tk.baseAt ≤ s.now) ∧
    (∃ (s : State), s.tk.baseAt ≤ s.now ∧ devDen ≤ devRate s.tk.adj ∧ devRate s.tk.adj < 2 * devDen) :=
  ⟨⟨tkOf tz fun k => { k with state := .locked }, by decide +kernel⟩,
    ⟨tkOf tz fun k => { k with state := .locked }, 0, by decide +kernel⟩,
    ⟨tkOf tz fun k => { k with stepPend := true }, 1, by simp only [RegOpen]; decide +kernel⟩,
    ⟨z, 1, by simp only [RegOpen]; decide +kernel⟩,
    ⟨tz, 0, by simp only [RegOpen]; decide +kernel⟩,
    ⟨z, by simp only [RegOpen]; decide +kernel⟩,
    ⟨z, by simp only [RegOpen]; decide +kernel⟩,
    ⟨tz, by decide +kernel⟩⟩

/-- The hypotheses of `Obligations.TimekeeperRaises` are met, those of each clause. -/
theorem met_TimekeeperRaises :
    (∃ (s : State), HasRoom s 0x5E) ∧
    (∃ (s : State), HasRoom s 0x5E ∧ s.tk.state = .holdover ∨ s.tk.state = .refused ∧ s.tk.uncRaised = false) ∧
    (∃ (s : State) (dt : Nat) (port : Nat) (m : PtpMsg), m.kind = .sync ∧ m.twoStep = false ∧ (s.pass dt).fromParent port m = true
        ∧ 2 ≤ s.tk.nDelay ∧ s.tk.state = .locked ∧
      let off := (s.pass dt).ingressU port - stampU m.stamp - m.correction - s.tk.meanDelay - s.asymU port
      let lim := s.railU
      let integ := clampI (-lim) lim (s.tk.integ + off * s.tkPacerGain_KI / 65536)
      (off.natAbs : Int) ≤ s.tkFsLimit_LIMIT_NS * 65536 ∧ s.atRail (clampI (-lim) lim (off * s.tkPacerGain_KP / 4096 + integ)) =
        true ∧ s.tk.railRun = 63) ∧
    (∃ (s : State), HasRoom s 0x5E ∧ s.tk.railDue = true) :=
  ⟨⟨z, by simp only [HasRoom]; decide +kernel⟩,
    ⟨tkOf tz fun k => { k with state := .holdover }, by simp only [HasRoom]; decide +kernel⟩,
    ⟨tkOf tz fun k => { k with state := .locked, integ := 13107200000, railRun := 63 }, 0, 0, pm .sync,
      by dsimp only; decide +kernel⟩,
    ⟨tkOf tz fun k => { k with railDue := true }, by simp only [HasRoom]; decide +kernel⟩⟩

/-- The hypotheses of `Obligations.FalseStartRefuses` are met. -/
theorem met_FalseStartRefuses :
    ∃ (s : State) (dt : Nat) (port : Nat) (m : PtpMsg), m.kind = .sync ∧ m.twoStep = false ∧ (s.pass dt).fromParent port m = true
        ∧ 2 ≤ s.tk.nDelay ∧ s.tk.isSet = true ∧ (s.tk.state = .acquire ∨ s.tk.state = .locked ∨ s.tk.state = .holdover) ∧
        (s.tkFsLimit_LIMIT_NS : Int) * 65536 < ((s.pass dt).ingressU port - stampU m.stamp - m.correction - s.tk.meanDelay -
        s.asymU port).natAbs :=
  ⟨tkOf tz fun k => { k with isSet := true, state := .locked }, 0, 0, { pm .sync with stamp := ⟨10, 0⟩ }, by decide +kernel⟩

/-- The hypotheses of `Obligations.ParentsChosen` are met, those of each clause. -/
theorem met_ParentsChosen :
    (∃ (s : State) (dt : Nat) (port : Nat) (m : PtpMsg) (x : Foreign), m.kind = .announce ∧ s.portHears port = true ∧ s.tkTakes m
        = true ∧ s.rxEnabled port = true ∧ s.tk.parent = none ∧
      let u := (s.pass dt).modTk fun k => { k with
          foreign := k.foreign.filter (fun x => !decide (x.clock = m.clock ∧ x.portNo = m.portNo ∧ x.port = port)) ++
            [⟨m.gm, m.clock, m.portNo, port, s.now + dt, (s.tk.foreign.find? fun x => decide (x.clock = m.clock ∧ x.portNo = m.portNo ∧ x.port = port)).map fun x => x.last⟩]
            }
      u.bestForeign = some x) ∧
    (∃ (s : State) (p : Parent) (x : Foreign), s.tk.parent = some p ∧ s.tk.foreign = [x] ∧ x.clock = p.clock ∧ x.portNo = p.portNo
        ∧ x.port = p.port ∧ (s.tk.state = .acquire ∨ s.tk.state = .locked)) :=
  ⟨⟨wr .tkCtrl 0 0 1 { z with
        now := 4000000000, hl := { ports := [(0, { up := true })] }, tk := { foreign := [⟨gm, 7, 1, 0, 2000000000, none⟩] } },
      2000000000, 0, { pm .announce with gm := gm }, ⟨gm, 7, 1, 0, 6000000000, some 2000000000⟩, by dsimp only; decide +kernel⟩,
    ⟨tkOf tz fun k => { k with state := .locked, foreign := [⟨gm, 7, 1, 0, 5, some 4⟩] }, ⟨gm, 7, 1, 0, 0⟩, ⟨gm, 7, 1, 0, 5, some
      4⟩, by decide +kernel⟩⟩

/-- The hypotheses of `Obligations.CaptureInputs` are met, those of each clause. -/
theorem met_CaptureInputs :
    (∃ (s : State) (dt : Nat) (n : Nat) (level : Bool), n < 32 ∧ s.tkCapCfg_EN n = true ∧ (s.cap n).cands = [] ∧ (s.cap n).pin ≠
        level ∧ s.islandUp 0 = true ∧ (∀ x, (s.cap n).snap = some x → x.at_ ≠ s.now + dt) ∧ (s.pass dt).capHeld n [] < 16 ∧ (∀ x,
        (s.cap n).edgeAt = some x → x + 16 ≤ s.now + dt)) ∧
    (∃ (s : State) (n : Nat) (x : CapCand) (rest : List CapCand), (s.cap n).cands = x :: rest ∧ (s.cap n).absent = false ∧
        s.tkCapCfg_EN n = true ∧ s.capSelects n x.level = true ∧ x.lost = false ∧ x.blind = false ∧ s.ing.refused.contains (capSrc
        n) = false) ∧
    (∃ (s : State) (n : Nat), n < 32 ∧ s.tkCapCfg_EN n = true ∧ s.tkCapStall_EN n = true ∧ s.tkCapStall_GATE_EN n = false ∧ (s.cap
        n).absent = false) ∧
    (∃ (s : State) (n : Nat) (v : Word), n < 32 ∧ RegOpen s .tkCapCfg n 0 ∧ bit v.toNat 0 = false ∧ s.tkCapCfg_EN n = true ∧
        (s.storeReg .tkCapCfg n 0 v.toNat).tkCapCfg_EN n = false ∧ (s.storeReg .tkCapCfg n 0 v.toNat).tkCapStall_EN n = true ∧
        (s.cap n).absent = false) :=
  ⟨⟨wr .tkCapCfg 3 0 7 z, 9, 3, true,
      ⟨by decide +kernel, by decide +kernel, by decide +kernel, by decide +kernel, by decide +kernel, (fun x h => by
      cases (h : (none : Option CapSnap) = some x)), by decide +kernel, fun x h => by cases (h : (none : Option Nat) = some x)⟩⟩,
    ⟨wr .tkCapCfg 31 0 7 (tkOf z fun k => { k with caps := [(31, { cands := [⟨5, true, 1000, false, false, false⟩] })] }), 31, ⟨5,
      true, 1000, false, false, false⟩, [], by decide +kernel⟩,
    ⟨wr .tkCapCfg 0 0 7 (wr .tkCapStall 0 0 0x10032 z), 0, by decide +kernel⟩,
    ⟨wr .tkCapCfg 0 0 7 (wr .tkCapStall 0 0 0x10032 z), 0, 6, by simp only [RegOpen]; decide +kernel⟩⟩

/-- The hypotheses of `Obligations.SlotsTakeWords` are met, those of each clause. -/
theorem met_SlotsTakeWords :
    (∃ (s : State) (n : Nat), n < 48 ∧ s.iocSlotCfg_EN n = true ∧ (s.slot n).gapOpen = false ∧ (s.slot n).fifo.length + 2 ≤
        s.slotDepth n) ∧
    (∃ (s : State) (n : Nat), n < 48 ∧ s.iocSlotCfg_EN n = true ∧ (s.slot n).gapOpen = false ∧ s.slotDepth n < (s.slot
        n).fifo.length + 2) ∧
    (∃ (s : State) (n : Nat) (m : Bool) (d : BitVec 64) (k : Entry65) (l : List Entry65), n < 48 ∧ s.iocSlotCfg_EN n = true ∧
        (s.slot n).gapOpen = true ∧ (s.slot n).fifo = l ++ [k] ∧ Entry65.startsUnit ⟨m, d⟩ = false) ∧
    (∃ (s : State) (n : Nat) (m : Bool) (d : BitVec 64), n < 48 ∧ s.iocSlotCfg_EN n = true ∧ (s.slot n).gapOpen = true ∧
        Entry65.startsUnit ⟨m, d⟩ = true ∧ (s.slot n).fifo.length + 2 ≤ s.slotDepth n) ∧
    (∃ (s : State) (n : Nat), n < 48 ∧ s.iocSlotCfg_EN n = false) ∧
    (∃ (s : State) (n : Nat) (v : Word), n < 48 ∧ RegOpen s .iocSlotCfg n 0 ∧ (s.storeReg .iocSlotCfg n 0 v.toNat).iocSlotCfg_EN n
        = !s.iocSlotCfg_EN n) ∧
    (∃ (s : State) (n : Nat) (v : Word), n < 48 ∧ RegOpen s .iocSlotCfg n 0 ∧ (s.storeReg .iocSlotCfg n 0 v.toNat).iocSlotCfg_EN n
        = !s.iocSlotCfg_EN n) ∧
    (∃ (s : State) (n : Nat), s.iocSlotCfg_EN n = true ∧ s.iocSlotCfg_STALL_EN n = true ∧ (s.slot n).absent = false ∧ (∃ x ∈
        (s.slot n).srcs, x.kind = 1 ∨ x.kind = 3)) :=
  ⟨⟨wr .iocSlotCfg 47 0 0x3210011 z, 47, by decide +kernel⟩,
    ⟨(wr .iocSlotCfg 0 0 0x3210011 z).modSlot 0 fun x => { x with fifo := List.replicate 511 ⟨false, 0⟩ }, 0, by decide +kernel⟩,
    ⟨(wr .iocSlotCfg 0 0 0x3210011 z).modSlot 0 fun x => { x with fifo := [markerWord 1 1 0], gapOpen := true }, 0, false, 5,
      markerWord 1 1 0, [], by decide +kernel⟩,
    ⟨(wr .iocSlotCfg 0 0 0x3210011 z).modSlot 0 fun x => { x with fifo := [markerWord 1 1 0], gapOpen := true }, 0, true, 5,
      by decide +kernel⟩,
    ⟨z, 47, by decide +kernel⟩,
    ⟨z, 0, 0x11, by simp only [RegOpen]; decide +kernel⟩,
    ⟨(wr .iocSlotCfg 0 0 0x3210011 z).modSlot 0 fun x => { x with fifo := [⟨true, 5⟩] }, 0, 0x3210010,
      by simp only [RegOpen]; decide +kernel⟩,
    ⟨cz 0, 5, by decide +kernel⟩⟩

/-- The hypotheses of `Obligations.SourcesAttach` are met, those of each clause. -/
theorem met_SourcesAttach :
    (∃ (s : State) (n : Nat) (v : Word), n < 16 ∧ RegOpen s .sspCtrl n 0 ∧
      let u := s.storeReg .sspCtrl n 0 v.toNat
      s.sspLive n = false ∧ u.sspLive n = true ∧ (∀ k, k < 16 → k ≠ n → s.sspLive k = u.sspLive k) ∧ (s.slot (u.sspCtrl_SLOT
        n)).srcs = [] ∧ (s.quad (n / 4)).running = false ∧ (s.quad (n / 4)).fault = false) ∧
    (∃ (s : State) (n : Nat) (v : Word), n < 16 ∧ RegOpen s .sspCtrl n 0 ∧
      let u := s.storeReg .sspCtrl n 0 v.toNat
      s.sspLive n = true ∧ u.sspLive n = false ∧ (∀ k, k < 16 → k ≠ n → s.sspLive k = u.sspLive k)) ∧
    (∃ (s : State) (p : Nat) (v : Word) (q : Nat), p < 4 ∧ RegOpen s .senCtrl p 0 ∧ s.senCtrl_EN p = false ∧
      let u := s.storeReg .senCtrl p 0 v.toNat
      u.senCtrl_EN p = true ∧ u.senLive p = [q] ∧ (s.slot (s.senStreamCfg_SLOT p q)).srcs = [] ∧ (s.quad 4).running = false ∧
        (s.quad 4).fault = false) ∧
    (∃ (s : State) (p : Nat) (v : Word), p < 4 ∧ RegOpen s .senCtrl p 0 ∧ s.senCtrl_EN p = true ∧ (s.storeReg .senCtrl p 0
        v.toNat).senCtrl_EN p = false) ∧
    (∃ (s : State) (p : Nat) (q : Nat) (v : Word), p < 4 ∧ q < 4 ∧ RegOpen s .senStreamCfg p q ∧ s.senCtrl_EN p = true ∧
        s.senStreamCfg_EN p q = false ∧
      let u := s.storeReg .senStreamCfg p q v.toNat
      u.senStreamCfg_EN p q = true ∧ (s.slot (u.senStreamCfg_SLOT p q)).srcs = []) ∧
    (∃ (s : State) (n : Nat) (v : Word), n < 8 ∧ RegOpen s .mpEncCfg n 0 ∧ s.mpEncCfg_EN n = false ∧
      let u := s.storeReg .mpEncCfg n 0 v.toNat
      u.mpEncCfg_EN n = true ∧ (s.slot (u.mpEncCfg_SLOT n)).srcs = []) ∧
    (∃ (s : State) (n : Nat) (v : Word), n < 8 ∧ RegOpen s .mpEncCfg n 0 ∧ s.mpEncCfg_EN n = true ∧ (s.storeReg .mpEncCfg n 0
        v.toNat).mpEncCfg_EN n = false) ∧
    (∃ (s : State) (n : Nat) (v : Word), n < 8 ∧ RegOpen s .mpSpiCfg n 0 ∧ s.mpSpiCfg_EN n = false ∧
      let u := s.storeReg .mpSpiCfg n 0 v.toNat
      u.mpSpiCfg_EN n = true ∧ (s.slot (u.mpSpiCfg_SLOT n)).srcs = []) ∧
    (∃ (s : State) (n : Nat) (v : Word), n < 8 ∧ RegOpen s .mpSpiCfg n 0 ∧ s.mpSpiCfg_EN n = true ∧ (s.storeReg .mpSpiCfg n 0
        v.toNat).mpSpiCfg_EN n = false) :=
  ⟨⟨z, 15, 0x05000001, by simp only [RegOpen]; decide +kernel⟩,
    ⟨cz 15, 15, 0x05000000, by simp only [RegOpen]; decide +kernel⟩,
    ⟨wr .senStreamCfg 3 2 0x601 z, 3, 1, 2, by simp only [RegOpen]; decide +kernel⟩,
    ⟨ez, 0, 0, by simp only [RegOpen]; decide +kernel⟩,
    ⟨wr .senCtrl 3 0 1 z, 3, 3, 0x601, by simp only [RegOpen]; decide +kernel⟩,
    ⟨z, 7, 0x07000011, by simp only [RegOpen]; decide +kernel⟩,
    ⟨mz, 2, 0x07000010, by simp only [RegOpen]; decide +kernel⟩,
    ⟨z, 7, 0x88000000, by simp only [RegOpen]; decide +kernel⟩,
    ⟨mz, 3, 0x08000000, by simp only [RegOpen]; decide +kernel⟩⟩

/-- The hypotheses of `Obligations.CameraLinks` are met, those of each clause. -/
theorem met_CameraLinks :
    (∃ (s : State) (n : Nat), let m := s.sspMaster n
      s.sspLive m = true ∧ (s.ssp n).link = false ∧ (s.ssp m).up = false ∧ (∀ k ∈ s.groupPorts m, k ≠ n → (s.ssp k).link = true) ∧
        (s.quad (n / 4)).running = true ∧ (s.quad (n / 4)).settling = false ∧ (s.quad (n / 4)).fault = false) ∧
    (∃ (s : State) (n : Nat), s.sspLive (s.sspMaster n) = true ∧ (s.ssp n).link = false ∧ (∃ k ∈ s.groupPorts (s.sspMaster n), k ≠
        n ∧ (s.ssp k).link = false)) ∧
    (∃ (s : State) (n : Nat), let m := s.sspMaster n
      (s.ssp n).link = true ∧ (s.ssp m).up = true ∧ s.camHolds m = true ∧ (s.quad (m / 4)).fault = false) ∧
    (∃ (s : State) (n : Nat) (p : CxpPacket), s.sspLive n = true ∧ (s.ssp n).up = true ∧ p.crcOk = false) ∧
    (∃ (s : State) (n : Nat) (p : CxpPacket) (d : List Byte) (x : ImgStage) (y : ImgStage) (r : Rec), s.sspLive n = true ∧ (s.ssp
        n).up = true ∧ p.crcOk = true ∧ p.streamId = s.sspCtrl_STREAM_ID n ∧ (s.ssp n).lost = 0 ∧ (s.ssp n).tag = none ∧ p.items =
        [.pixels d] ∧ (s.ssp n).stage = some x ∧ x.broken = false ∧ x.row < x.height ∧ s.camHolds n = true ∧ (s.slot
        (s.sspCtrl_SLOT n)).absent = false ∧ ImgStage.give (s.sspCtrl_SLOT n) (s.sspCtrl_KIND n) false (x.height + 1)
        { x with data := x.data ++ d } = ([r], y)) ∧
    (∃ (s : State) (n : Nat) (data : List Byte), s.sspLive n = true ∧ (s.ssp n).up = true ∧ data.length ≤ 1024 ∧ s.camHolds n =
        true ∧ (s.slot (s.sspCtrl_SLOT n)).absent = false) ∧
    (∃ (s : State) (n : Nat) (data : List Byte), s.sspLive n = true ∧ (s.ssp n).up = true ∧ 1024 < data.length) ∧
    (∃ (s : State) (n : Nat) (v : Word), n < 16 ∧ RegOpen s .sspPocxp n 0 ∧ s.sspPocxp_EN n = false ∧ s.aon.powerGood = true ∧
        (s.storeReg .sspPocxp n 0 v.toNat).sspPocxp_EN n = true) ∧
    (∃ (s : State) (n : Nat) (v : Word), n < 16 ∧ RegOpen s .sspPocxp n 0 ∧ s.sspPocxp_EN n = true ∧ (s.storeReg .sspPocxp n 0
        v.toNat).sspPocxp_EN n = false) ∧
    (∃ (s : State) (n : Nat), (s.ssp n).detecting = true) ∧
    (∃ (s : State) (n : Nat), (s.ssp n).pocxpOn = true) :=
  ⟨⟨(cz 0).modSsp 0 fun p => { p with up := false }, 0, by dsimp only; decide +kernel⟩,
    ⟨wr .sspCtrl 12 0 0x05001001 z, 13, by decide +kernel⟩,
    ⟨(cz 15).modSsp 15 fun p => { p with link := true }, 15, by dsimp only; decide +kernel⟩,
    ⟨cz 0, 0, ⟨0, 0, false, []⟩, by decide +kernel⟩,
    ⟨(cz 0).modSsp 0 fun p => { p with stage := some img }, 0, ⟨0, 0, true, [.pixels (zeros 4)]⟩, zeros 4, img, (ImgStage.give 5
      false false 2 { img with data := zeros 4 }).2, (ImgStage.give 5 false false 2 { img with data := zeros 4 }).1.headD (mkRec 0
      0 0 0 0 []), by decide +kernel⟩,
    ⟨cz 0, 0, zeros 1024, by decide +kernel⟩,
    ⟨cz 0, 0, zeros 1025, by decide +kernel⟩,
    ⟨z, 15, 0x11, by simp only [RegOpen]; decide +kernel⟩,
    ⟨(wr .sspPocxp 0 0 1 z).modSsp 0 fun p => { p with pocxpOn := true }, 0, 0, by simp only [RegOpen]; decide +kernel⟩,
    ⟨(wr .sspPocxp 0 0 1 z).modSsp 0 fun p => { p with detecting := true }, 0, by decide +kernel⟩,
    ⟨(wr .sspPocxp 0 0 1 z).modSsp 0 fun p => { p with pocxpOn := true }, 0, by decide +kernel⟩⟩

/-- The hypotheses of `Obligations.QuadsSettle` are met, those of each clause. -/
theorem met_QuadsSettle :
    (∃ (s : State) (q : Nat), (s.quad q).settling = true) ∧
    (∃ (s : State) (q : Nat), (s.quad q).settling = true) ∧
    (∃ (s : State) (v : Word) (q : Nat), RegOpen s .iocQuadRetry 0 0 ∧ q < 5 ∧ bit v.toNat q = true ∧ (s.quad q).fault = true) :=
  ⟨⟨z.modQuad 4 fun q => { q with settling := true, held := [.cxpTrigger 3 0] }, 4, by decide +kernel⟩,
    ⟨z.modQuad 0 fun q => { q with settling := true, held := [.cxpTrigger 3 0] }, 0, by decide +kernel⟩,
    ⟨z.modQuad 4 fun q => { q with fault := true }, 0x10, 4, by simp only [RegOpen]; decide +kernel⟩⟩

/-- The hypotheses of `Obligations.PortTransactions` are met, those of each clause. -/
theorem met_PortTransactions :
    (∃ (s : State) (o : Op), startable s.hl.ops [] (fun o => decide (o.xactPort < 16) && !bit (u8 o.desc 14) 0) = some o ∧ bit (u8
        o.desc 14) 0 = false ∧ s.sspLive o.xactPort = true ∧ (s.ssp o.xactPort).up = true ∧ (s.quad (o.xactPort / 4)).settling =
        false) ∧
    (∃ (s : State) (o : Op), startable s.hl.ops [] (fun o => decide (o.xactPort < 16) && bit (u8 o.desc 14) 0) = some o ∧ bit (u8
        o.desc 14) 0 = true ∧ s.sspLive o.xactPort = true ∧ (s.ssp o.xactPort).up = true ∧ (s.quad (o.xactPort / 4)).settling =
        false) ∧
    (∃ (s : State) (n : Nat) (o : Op) (x : Nat × Nat), s.xactOf n = some o ∧ s.hl.ops.find? (Op.is o.ring o.didx) = some o ∧
        (s.ssp n).xactAt = some x) ∧
    (∃ (s : State) (n : Nat) (o : Op) (x : Nat × Nat), s.xactOf n = some o ∧ s.hl.ops.find? (Op.is o.ring o.didx) = some o ∧
        (s.ssp n).xactAt = some x) ∧
    (∃ (s : State) (n : Nat) (o : Op) (a : Nat) (b : Nat), s.xactOf n = some o ∧ (s.ssp n).xactAt = some (a, b)) ∧
    (∃ (s : State) (n : Nat) (o : Op) (a : Nat) (b : Nat), s.xactOf n = some o ∧ s.hl.ops.find? (Op.is o.ring o.didx) = some o ∧
        (s.ssp n).xactAt = some (a, b)) ∧
    (∃ (s : State) (o : Op), startable s.hl.ops [] (fun o => decide (16 ≤ o.xactPort)) = some o ∧ s.i2cEn (o.xactPort - 16) = true
        ∧ o.busHeld = false ∧ (s.i2c (o.xactPort - 16)).held = false ∧ (s.i2c (o.xactPort - 16)).stuck = none) ∧
    (∃ (s : State) (o : Op), startable s.hl.ops [] (fun o => decide (16 ≤ o.xactPort)) = some o ∧ s.hl.ops.find? (Op.is o.ring
        o.didx) = some o ∧ s.i2cEn (o.xactPort - 16) = true ∧ (s.i2c (o.xactPort - 16)).stuck = none ∧ o.busHeld = true ∨ (s.i2c
        (o.xactPort - 16)).held = true) ∧
    (∃ (s : State) (n : Nat) (o : Op), (s.i2c n).busy = true ∧ s.xactOf (16 + n) = some o ∧ s.hl.ops.find? (Op.is o.ring o.didx) =
        some o) ∧
    (∃ (s : State) (n : Nat) (o : Op), (s.i2c n).busy = true ∧ s.xactOf (16 + n) = some o ∧ s.hl.ops.find? (Op.is o.ring o.didx) =
        some o) ∧
    (∃ (s : State) (n : Nat) (low : Nat) (o : Op), (s.i2c n).busy = true ∧ s.xactOf (16 + n) = some o ∧ s.hl.ops.find? (Op.is
        o.ring o.didx) = some o ∧ low ≤ 9) ∧
    (∃ (s : State) (n : Nat) (low : Nat) (o : Op), (s.i2c n).busy = true ∧ s.xactOf (16 + n) = some o ∧ s.hl.ops.find? (Op.is
        o.ring o.didx) = some o ∧ low ≤ 9) ∧
    (∃ (s : State) (n : Nat), s.i2cEn n = true ∧ (s.i2c n).busy = false ∧ (s.i2c n).held = false ∧ (s.i2c n).stuck = none) ∧
    (∃ (s : State) (n : Nat) (v : Word), n < 8 ∧ RegOpen s .mpI2cCtrl n 0 ∧ bit v.toNat 0 = true ∧ s.mpI2cCfg_EN n = true ∧ (s.i2c
        n).busy = false ∧ s.i2cClearing n = false) :=
  ⟨⟨withOp (op (desc 1 0 (by4 0x1234 ++ by2 4) (by4 7)) false) (cz 0), op (desc 1 0 (by4 0x1234 ++ by2 4) (by4 7)) false,
      by decide +kernel⟩,
    ⟨withOp (op (desc 1 0 (by4 0x1234 ++ by2 4 ++ by1 1) []) false) (cz 0), op (desc 1 0 (by4 0x1234 ++ by2 4 ++ by1 1) []) false,
      by decide +kernel⟩,
    ⟨(withOp (op (desc 1 0 (by4 0x1234 ++ by2 4) (by4 7)) true) (cz 0)).modSsp 0 fun p => { p with xactAt := some (0, 9) }, 0, op
      (desc 1 0 (by4 0x1234 ++ by2 4) (by4 7)) true, (0, 9), by decide +kernel⟩,
    ⟨(withOp (op (desc 1 0 (by4 0x1234 ++ by2 4) (by4 7)) true) (cz 0)).modSsp 0 fun p => { p with xactAt := some (0, 9) }, 0, op
      (desc 1 0 (by4 0x1234 ++ by2 4) (by4 7)) true, (0, 9), by decide +kernel⟩,
    ⟨(withOp (op (desc 1 0 (by4 0x1234 ++ by2 4) (by4 7)) true) (cz 0)).modSsp 0 fun p => { p with xactAt := some (0, 9) }, 0, op
      (desc 1 0 (by4 0x1234 ++ by2 4) (by4 7)) true, 0, 9, by decide +kernel⟩,
    ⟨(withOp (op (desc 1 0 (by4 0x1234 ++ by2 4) (by4 7)) true) (cz 0)).modSsp 0 fun p => { p with xactAt := some (0, 9) }, 0, op
      (desc 1 0 (by4 0x1234 ++ by2 4) (by4 7)) true, 0, 9, by decide +kernel⟩,
    ⟨withOp (op (desc 1 23 (by1 0x50 ++ by1 2 ++ by1 4) (by2 7)) false) (wr .mpI2cCfg 7 0 1 z), op (desc 1 23 (by1 0x50 ++ by1 2
      ++ by1 4) (by2 7)) false, by decide +kernel⟩,
    ⟨withOp (op (desc 1 24 (by1 0x50 ++ by1 2 ++ by1 4) (by2 7)) false) ((wr .iocAccI2cCfg 0 0 1 z).modI2c 8 fun c =>
      { c with held := true }), op (desc 1 24 (by1 0x50 ++ by1 2 ++ by1 4) (by2 7)) false, by decide +kernel⟩,
    ⟨withOp (op (desc 1 16 (by1 0x50 ++ by1 2 ++ by1 4) (by2 7)) true) ((wr .mpI2cCfg 0 0 1 z).modI2c 0 fun c =>
      { c with busy := true }), 0, op (desc 1 16 (by1 0x50 ++ by1 2 ++ by1 4) (by2 7)) true, by decide +kernel⟩,
    ⟨withOp (op (desc 1 16 (by1 0x50 ++ by1 2 ++ by1 4) (by2 7)) true) ((wr .mpI2cCfg 0 0 1 z).modI2c 0 fun c =>
      { c with busy := true }), 0, op (desc 1 16 (by1 0x50 ++ by1 2 ++ by1 4) (by2 7)) true, by decide +kernel⟩,
    ⟨withOp (op (desc 1 16 (by1 0x50 ++ by1 2 ++ by1 4) (by2 7)) true) ((wr .mpI2cCfg 0 0 1 z).modI2c 0 fun c =>
      { c with busy := true }), 0, 9, op (desc 1 16 (by1 0x50 ++ by1 2 ++ by1 4) (by2 7)) true, by decide +kernel⟩,
    ⟨withOp (op (desc 1 16 (by1 0x50 ++ by1 2 ++ by1 4) (by2 7)) true) ((wr .mpI2cCfg 0 0 1 z).modI2c 0 fun c =>
      { c with busy := true }), 0, 9, op (desc 1 16 (by1 0x50 ++ by1 2 ++ by1 4) (by2 7)) true, by decide +kernel⟩,
    ⟨wr .mpI2cCfg 0 0 1 z, 0, by decide +kernel⟩,
    ⟨(wr .mpI2cCfg 7 0 1 z).modI2c 7 fun c => { c with held := true }, 7, 1, by simp only [RegOpen]; decide +kernel⟩⟩

/-- The hypotheses of `Obligations.TriggersLaunch` are met, those of each clause. -/
theorem met_TriggersLaunch :
    (∃ (s : State) (n : Nat) (x : DT64 × TrigSrc), s.sspLive n = true ∧ earliest (s.trigSources n) = some x ∧ (s.ssp n).up = true
        ∧ (s.ssp n).held.length < 8) ∧
    (∃ (s : State) (n : Nat) (x : DT64 × TrigSrc), s.sspLive n = true ∧ earliest (s.trigSources n) = some x ∧ 8 ≤ (s.ssp
        n).held.length) ∧
    (∃ (s : State) (n : Nat) (x : Trigger) (rest : List Trigger), (s.ssp n).held = x :: rest ∧ (s.quad (n / 4)).settling = false ∧
        (s.ssp n).up = true) ∧
    (∃ (s : State) (n : Nat) (x : Trigger) (rest : List Trigger), (s.ssp n).held = x :: rest ∧ x.late = false ∧ (s.quad (n /
        4)).settling = true) ∧
    (∃ (s : State) (o : Op), Heads s 0x02 o ∧ s.sspLive (s.sspMaster (min o.target 15)) = true ∧ (s.quad (s.sspMaster (min
        o.target 15) / 4)).fault = false) ∧
    (∃ (s : State) (o : Op), Heads s 0x02 o ∧ s.sspLive (s.sspMaster (min o.target 15)) = false) :=
  ⟨⟨wr .sspTrigCfg 0 0 1 (wr .sspTrigPitch 0 0 0x1000 (cz 0)), 0, (earliest (State.trigSources (wr .sspTrigCfg 0 0 1 (wr
      .sspTrigPitch 0 0 0x1000 (cz 0))) 0)).getD (0, .cap), by decide +kernel⟩,
    ⟨(wr .sspTrigCfg 0 0 1 (wr .sspTrigPitch 0 0 0x1000 (cz 0))).modSsp 0 fun p =>
      { p with held := List.replicate 8 ⟨0, false, none, false⟩ }, 0, (earliest (State.trigSources (wr .sspTrigCfg 0 0 1 (wr
      .sspTrigPitch 0 0 0x1000 (cz 0))) 0)).getD (0, .cap), by decide +kernel⟩,
    ⟨(cz 0).modSsp 0 fun p => { p with held := [⟨0, false, none, false⟩] }, 0, ⟨0, false, none, false⟩, [], by decide +kernel⟩,
    ⟨((cz 0).modSsp 0 fun p => { p with held := [⟨0, false, none, false⟩] }).modQuad 0 fun q => { q with settling := true }, 0,
      ⟨0, false, none, false⟩, [], by decide +kernel⟩,
    ⟨withOp (op (desc 2 15 [1, 3] (by8 77)) false) (cz 15), op (desc 2 15 [1, 3] (by8 77)) false,
      by simp only [Heads]; decide +kernel⟩,
    ⟨withOp (op (desc 2 15 [1, 3] (by8 77)) false) z, op (desc 2 15 [1, 3] (by8 77)) false, by simp only [Heads]; decide +kernel⟩⟩

/-- The hypotheses of `Obligations.SensorEthernet` are met, those of each clause. -/
theorem met_SensorEthernet :
    (∃ (s : State) (p : Nat), s.senCtrl_EN p = true ∧ (s.sen p).up = false ∧ (s.quad 4).running = true ∧ (s.quad 4).settling =
        false ∧ (s.quad 4).fault = false) ∧
    (∃ (s : State) (p : Nat), (s.sen p).up = true ∧ (s.quad 4).fault = false) ∧
    (∃ (s : State) (p : Nat) (d : Datagram), (s.sen p).up = true ∧ frameLen d ≤ 9216 ∧ d.sumOk = false) ∧
    (∃ (s : State) (p : Nat) (d : Datagram), (s.sen p).up = true ∧ frameLen d ≤ 9216 ∧ d.sumOk = true ∧ (s.senLive p).find?
        (s.senMatch p d) = none) ∧
    (∃ (d : Datagram), 9216 < frameLen d) ∧
    (∃ (s : State) (p : Nat) (d : Datagram) (q : Nat) (b : BitVec 32) (ts : Nat) (w : Nat) (h : Nat) (pf : BitVec 32) (f :
        PixFmt), (s.sen p).up = true ∧ d.sumOk = true ∧ (s.senLive p).find? (s.senMatch p d) = some q ∧ s.senStreamCfg_PROTO p q =
        false ∧ d.data = .leader b true ts w h pf ∧ (s.stream p q).stage = none ∧ pixFmt pf = some f) ∧
    (∃ (s : State) (p : Nat) (d : Datagram) (q : Nat) (b : BitVec 32) (k : Nat) (y : List Byte) (x : ImgStage) (z : ImgStage) (r :
        Rec), (s.sen p).up = true ∧ frameLen d ≤ 9216 ∧ d.sumOk = true ∧ (s.senLive p).find? (s.senMatch p d) = some q ∧
        s.senStreamCfg_PROTO p q = false ∧ d.data = .payload b k y ∧ (s.stream p q).block = some b ∧ (s.stream p q).other = false
        ∧ (s.stream p q).packet = k ∧ (s.stream p q).skip = 0 ∧ (s.stream p q).stage = some x ∧ x.row < x.height ∧ s.senHolds p q
        = true ∧ (s.slot (s.senStreamCfg_SLOT p q)).absent = false ∧ ImgStage.give (s.senStreamCfg_SLOT p q) (s.senStreamCfg_KIND
        p q) false (x.height + 1) { x with data := x.data ++ y } = ([r], z)) ∧
    (∃ (s : State) (p : Nat) (q : Nat) (x : ProfStage), (s.stream p q).prof = some x ∧ x.points.length < x.total) :=
  ⟨⟨ez.modSen 0 fun p => { p with up := false }, 0, by decide +kernel⟩,
    ⟨ez, 0, by decide +kernel⟩,
    ⟨ez, 0, { dg (.trailer 0 0) with sumOk := false }, by decide +kernel⟩,
    ⟨ez, 0, { dg (.trailer 0 0) with dport := 100 }, by decide +kernel⟩,
    ⟨dg (.payload 0 1 (List.replicate 9216 0)), by simp only [frameLen, dg, List.length_replicate]; decide⟩,
    ⟨ez, 0, dg (.leader 3 true 0 4 1 0x01080001), 1, 3, 0, 4, 1, 0x01080001, ⟨1, 0, 8, 8⟩, by decide +kernel⟩,
    ⟨ez.modStream 0 1 fun x => { x with block := some 3, packet := 1, stage := some img }, 0, dg (.payload 3 1 (zeros 4)), 1, 3,
      1, zeros 4, img, (ImgStage.give 6 false false 2 { img with data := zeros 4, pkts := 1 }).2, (ImgStage.give 6 false false 2
      { img with data := zeros 4, pkts := 1 }).1.headD (mkRec 0 0 0 0 0 []), by decide +kernel⟩,
    ⟨ez.modStream 0 1 fun x => { x with prof := some ⟨3, 2, 0, [(0, zeros 4)], 0, false, false, 7⟩ }, 0, 1, ⟨3, 2, 0,
      [(0, zeros 4)], 0, false, false, 7⟩, by decide +kernel⟩⟩

/-- The hypotheses of `Obligations.MotionPorts` are met, those of each clause. -/
theorem met_MotionPorts :
    (∃ (s : State) (n : Nat) (line : Nat) (level : Bool), s.mpEncCfg_EN n = true ∧ (s.enc n).lastCand line = none ∧ (s.enc
        n).level line ≠ level) ∧
    (∃ (s : State) (n : Nat) (c : EncCand), (s.enc n).cands = [c] ∧ c.line = 0 ∧ (∀ a ∈ (s.enc n).edgeAt, a + 160 ≤ c.at_)) ∧
    (∃ (s : State) (n : Nat) (c : EncCand) (a : Nat), (s.enc n).cands = [c] ∧ c.line = 0 ∧ (s.enc n).edgeAt = some a ∧ c.at_ < a +
        160) ∧
    (∃ (s : State) (n : Nat), s.mpEncCfg_EN n = true ∧ s.encHolds n = true ∧ (s.slot (s.mpEncCfg_SLOT n)).absent = false) ∧
    (∃ (s : State) (n : Nat) (line : Nat), s.mpEncCfg_EN n = true ∧ s.mpEncCfg_ELEC n = false ∧ bit (s.enc n).lineFault line =
        false) ∧
    (∃ (s : State) (n : Nat), s.mpEncCfg_EN n = true ∧ s.mpEncStall_EN n = true ∧ (s.enc n).absent = false ∧ s.mpEncStall_GATE_EN
        n = false ∧ s.encHolds n = true) ∧
    (∃ (s : State) (n : Nat), s.mpSpiCfg_EN n = true ∧ s.mpSpiXact_TRIG n ≠ 2 ∧ (s.spi n).run = none) ∧
    (∃ (s : State) (n : Nat) (r : SpiRun), s.mpSpiCfg_EN n = true ∧ s.mpSpiXact_TRIG n ≠ 2 ∧ (s.spi n).run = some r) ∧
    (∃ (s : State) (n : Nat), s.mpSpiCfg_EN n = true ∧ s.mpSpiXact_TRIG n = 2 ∧ (s.spi n).run = none) ∧
    (∃ (s : State) (n : Nat) (r : SpiRun), (s.spi n).run = some r ∧ s.spiHolds n = true ∧ (s.slot (s.mpSpiCfg_SLOT n)).absent =
        false) ∧
    (∃ (s : State) (n : Nat), s.mpSpiCfg_EN n = true ∧ s.mpSpiStall_EN n = true ∧ (s.spi n).absent = false ∧ s.mpSpiXact_TRIG n ≠
        2 ∧ s.spiHolds n = true) :=
  ⟨⟨mz, 2, 0, false, by decide +kernel⟩,
    ⟨mz.modEnc 2 fun x => { x with cands := [⟨0, true, 0, 100, false⟩] }, 2, ⟨0, true, 0, 100, false⟩, by decide +kernel⟩,
    ⟨mz.modEnc 2 fun x => { x with cands := [⟨0, true, 0, 100, false⟩], edgeAt := some 0 }, 2, ⟨0, true, 0, 100, false⟩, 0,
      by decide +kernel⟩,
    ⟨mz.modEnc 2 fun x => { x with edges := [⟨false, true, 5, 0, false⟩], count := 1 }, 2, by decide +kernel⟩,
    ⟨mz, 2, 1, by decide +kernel⟩,
    ⟨wr .mpEncStall 2 0 0x10032 mz, 2, by decide +kernel⟩,
    ⟨mz, 3, by decide +kernel⟩,
    ⟨mz.modSpi 3 fun x => { x with run := some ⟨0, false, false, 4⟩ }, 3, ⟨0, false, false, 4⟩, by decide +kernel⟩,
    ⟨wr .mpSpiXact 3 0 0x20401 mz, 3, by decide +kernel⟩,
    ⟨mz.modSpi 3 fun x => { x with run := some ⟨0, false, false, 4⟩ }, 3, ⟨0, false, false, 4⟩, by decide +kernel⟩,
    ⟨wr .mpSpiStall 3 0 0x10032 mz, 3, by decide +kernel⟩⟩

/-- The hypotheses of `Obligations.MotionTicks` are met, those of each clause. -/
theorem met_MotionTicks :
    (∃ (s : State) (f : Nat), let s0 := s.motDrain
      let m := s0.motion f
      let t0 := s0.devAt (40000 * m.next)
      m.enabled = true ∧ m.absent = false ∧ (s0.slot (s.motCtrl_ENC_SLOT f)).absent = false ∧ m.close.any (fun c => dtGe c (dtAdd
        t0 m.ahead)) = true ∧ 40000 * m.next ≤ s0.now ∧ m.first = true) ∧
    (∃ (s : State) (f : Nat) (k : Tick), let s0 := s.motDrain
      let m := s0.motion f
      let t0 := s0.devAt (40000 * m.next)
      m.enabled = true ∧ m.absent = false ∧ (s0.slot (s.motCtrl_ENC_SLOT f)).absent = false ∧ m.close.any (fun c => dtGe c (dtAdd
        t0 m.ahead)) = true ∧ 40000 * m.next ≤ s0.now ∧ m.first = false ∧ m.ticks.head? = some k ∧ s.motCtrl_IMU_EN f = false) ∧
    (∃ (s : State) (f : Nat) (k : Tick), let s0 := s.motDrain
      let m := s0.motion f
      let t0 := s0.devAt (40000 * m.next)
      m.enabled = true ∧ m.absent = false ∧ (s0.slot (s.motCtrl_ENC_SLOT f)).absent = false ∧ m.close.any (fun c => dtGe c (dtAdd
        t0 m.ahead)) = true ∧ 40000 * m.next ≤ s0.now ∧ m.first = false ∧ m.ticks.head? = some k ∧ s.motCtrl_IMU_EN f = false) ∧
    (∃ (s : State) (f : Nat) (k : Tick), (s.motion f).ticks.head? = some k ∧ 10 * s.motReport_DIV ≤ (s.motion f).sinceReport ∧
        s.motCtrl_REPORT f = true) ∧
    (∃ (s : State) (f : Nat) (v : Word), f < 8 ∧ RegOpen s .motCtrl f 0 ∧ bit v.toNat 0 = true ∧ s.motCtrl_EN f = false ∧
        (s.storeReg .motCtrl f 0 v.toNat).motCtrl_EN f = true) ∧
    (∃ (s : State) (f : Nat) (v : Word), f < 8 ∧ RegOpen s .motCtrl f 0 ∧ bit v.toNat 0 = false ∧ s.motCtrl_EN f = true ∧
        (s.storeReg .motCtrl f 0 v.toNat).motCtrl_EN f = false) ∧
    (∃ (s : State) (f : Nat), (s.motion f).enabled = true ∧ (s.motion f).absent = false ∧ (s.slot (s.motCtrl_ENC_SLOT f)).absent =
        true) :=
  ⟨⟨{ z with mot := [(7, { enabled := true, close := some 5 })] }, 7, by dsimp only; decide +kernel⟩,
    ⟨{ z with mot := [(0, { enabled := true, close := some 5, first := false, ticks := [⟨0, 5, 7, 8⟩] })] }, 0, ⟨0, 5, 7, 8⟩,
      by dsimp only; decide +kernel⟩,
    ⟨{ z with mot := [(0, { enabled := true, close := some 5, first := false, ticks := [⟨0, 0x100000000000, 7, 8⟩] })] }, 0, ⟨0,
      0x100000000000, 7, 8⟩, by dsimp only; decide +kernel⟩,
    ⟨{ wr .hlRingCfg 56 0 0x80080000 (wr .motReport 0 0 0xA0138 (wr .motCtrl 2 0 9 z)) with
        mot := [(2, { enabled := true, ticks := [⟨0, 5, 7, 8⟩], sinceReport := 100 })] }, 2, ⟨0, 5, 7, 8⟩, by decide +kernel⟩,
    ⟨z, 7, 1, by simp only [RegOpen]; decide +kernel⟩,
    ⟨{ wr .motCtrl 7 0 1 z with mot := [(7, { enabled := true })] }, 7, 0, by simp only [RegOpen]; decide +kernel⟩,
    ⟨({ z with mot := [(3, { enabled := true })] }).modSlot 0 fun x => { x with absent := true }, 3, by decide +kernel⟩⟩

/-- The hypotheses of `Obligations.SamplesPlaced` are met, those of each clause. -/
theorem met_SamplesPlaced :
    (∃ (s : State) (n : Nat) (e : Entry65) (u : State), s.panCtrl_EN = true ∧ s.iocSlotCfg_EN n = true ∧ s.iocSlotCfg_CONSUMER n =
        false ∧ s.panStreamCfg_EN n = true ∧ s.panFrameCfg_EN (s.panStreamCfg_FRAME n) = true ∧ s.flt.safe = false ∧ 32768 ≤
        s.storeFree ∧ (s.pf (s.panStreamCfg_FRAME n)).held < s.maxBands (s.panStreamCfg_FRAME n) ∧ s.slotTake n = some (.marker e,
        u)) ∧
    (∃ (s : State) (n : Nat) (b : List Byte) (u : State) (o : Nat) (v : State), s.panCtrl_EN = true ∧ s.iocSlotCfg_EN n = true ∧
        s.iocSlotCfg_CONSUMER n = false ∧ s.panStreamCfg_EN n = true ∧ s.panFrameCfg_EN (s.panStreamCfg_FRAME n) = true ∧
        s.flt.safe = false ∧ 32768 ≤ s.storeFree ∧ (s.pf (s.panStreamCfg_FRAME n)).held < s.maxBands (s.panStreamCfg_FRAME n) ∧
        s.slotTake n = some (.record b, u) ∧ (s.pf (s.panStreamCfg_FRAME n)).absent = false ∧ projects (recOf b) = true ∧ hasPoint
        (recOf b) = true ∧ u.storePut b = some (o, v)) ∧
    (∃ (s : State) (n : Nat) (w : Sample) (rest : List Sample) (a : Sample) (b : Sample) (k0 : BitVec 32) (lo : WP48) (j : BitVec
        32) (js : List (BitVec 32)), let f := s.panStreamCfg_FRAME n
      s.panFrameCfg_EN f = true ∧ (s.ps n).waiting = w :: rest ∧ (s.pf f).next = some k0 ∧ s.project (s.bankFor f (some k0)) w =
        some a ∧ s.rowLost f a = false ∧ s.placed f a = some b ∧ s.bankFor f (some (s.leadBand f b)) = s.bankFor f (some k0) ∧
        lowest b.coords = some lo ∧ s.joins f k0 b = j :: js) ∧
    (∃ (s : State) (n : Nat) (x : Sample) (l : List (Nat × WP48)), let f := s.panStreamCfg_FRAME n
      (s.pf f).samples.find? (fun x => decide (x.slot = n) && x.pred && s.confirmable f x) = some x ∧ x.unplaced = false ∧
        s.rowPos f x = some l ∧ (∀ y ∈ (s.pf f).samples, y.id = x.id → y = x)) ∧
    (∃ (s : State) (f : Nat) (n : Nat) (k : BitVec 32) (due : Nat), (s.pf f).next = some k ∧ s.panDue f = some due ∧ s.flt.safe =
        false ∧ n ∈ s.frameStreams f ∧ (s.slot n).fifo = [] ∧ (s.slot n).snap = none ∧ (s.ps n).waiting = [] ∧ (s.slot n).absent =
        false ∧ s.passed f n k = false ∧ bit (s.pf f).forfeit n = false) ∧
    (∃ (s : State) (a : Nat), a < 0x20000 ∧ HasRoom s 0x58) ∧
    (∃ (s : State), HasRoom s 0x58) :=
  ⟨⟨pz.modSlot 6 fun x => { x with fifo := [markerWord 1 1 0] }, 6, markerWord 1 1 0, ((State.slotTake (pz.modSlot 6 fun x =>
      { x with fifo := [markerWord 1 1 0] }) 6).map fun x => x.2).getD z, by decide +kernel⟩,
    ⟨pr, 6, recBytes lineRec, ((pr.slotTake 6).map fun x => x.2).getD z, 131072, ((pr.slotTake 6).bind fun x => (x.2.storePut
      (recBytes lineRec)).map fun y => y.2).getD z, by decide +kernel⟩,
    ⟨pw, 6, w0, [], w1, w2, 0, (lowest w2.coords).getD 0, (pw.joins 1 0 w2).headD 0, (pw.joins 1 0 w2).tail,
      by dsimp only; decide +kernel⟩,
    ⟨pz.modPf 1 fun p => { p with samples := [smp] }, 6, smp, [(0, 0)], by dsimp only; decide +kernel⟩,
    ⟨pz.modPf 1 fun p => { p with next := some 0, dues := [5] }, 1, 6, 0, 5, by decide +kernel⟩,
    ⟨pz, 0x1FFFF, by simp only [HasRoom]; decide +kernel⟩,
    ⟨hz, by simp only [HasRoom]; decide +kernel⟩⟩

/-- The hypotheses of `Obligations.BandsReleased` are met, those of each clause. -/
theorem met_BandsReleased :
    (∃ (s : State) (f : Nat) (k : BitVec 32) (e : Epoch) (u : State), let s0 := s.ticked f
      let s1 := (s0.panMark f).refreshAll f fun _ => true
      let gone := (s0.frameStreams f).filter fun n => (s0.slot n).absent
      let forf := (s0.frameStreams f).filter fun n => bit (s0.pf f).forfeit n
      s0.panCtrl_EN = true ∧ s0.panFrameCfg_EN f = true ∧ s0.flt.safe = false ∧ (s0.pf f).drain = none ∧ (s0.pf f).absent = false
        ∧ (s0.pf f).releases.any (fun r => r.again) = false ∧ (s0.pf f).next = some k ∧ (∀ n ∈ s0.frameStreams f, s0.streamDone f
        n = true) ∧ s1.nextEpoch f ((s1.pf f).samples.any fun x => x.bands.contains k && x.pred) = some e ∧ s1.releaseBand f k e
        (maskOf gone) (maskOf forf) false = some u) ∧
    (∃ (s : State) (f : Nat) (r : Release) (u : State), nextAgain (s.pf f).releases = some r ∧ s.reRelease f = some u) ∧
    (∃ (s : State) (x : BandTok) (rest : List BandTok), s.pan.sluice = x :: rest ∧ s.rly.bandq.length < 64 ∧ (∀ e t, x ≠ .rcl e
        t)) ∧
    (∃ (s : State) (o : Nat) (rest : List Nat), s.pan.credits = o :: rest) ∧
    (∃ (s : State) (f : Nat) (r : Release), let s1 := s.freshenAll f fun _ => true
      (s1.pf f).releases.find? (fun r => decide (r.settle = .pending) && r.samples.all fun x => !x.pred || s1.confirmable f x) =
        some r ∧ r.samples.any (s1.differs f (s.panFrameRecallTol_UNITS f)) = false) ∧
    (∃ (s : State) (f : Nat) (r : Release), let s1 := s.freshenAll f fun _ => true
      (s1.pf f).releases.find? (fun r => decide (r.settle = .pending) && r.samples.all fun x => !x.pred || s1.confirmable f x) =
        some r ∧ r.samples.any (s1.differs f (s.panFrameRecallTol_UNITS f)) = true) ∧
    (∃ (s : State) (f : Nat) (e : Epoch) (rest : List Epoch) (r : Release), (s.pf f).outst = e :: rest ∧ r ∈ (s.pf f).releases ∧
        r.epoch = e ∧ r.settle = .confirmable) :=
  ⟨⟨(pz.modPf 1 fun p => { p with next := some 0 }).modPs 6 fun p => { p with wm := some 20000 }, 1, 0, 0x2000,
      (State.releaseBand (((pz.modPf 1 fun p => { p with next := some 0 }).modPs 6 fun p =>
      { p with wm := some 20000 }).refreshAll 1 fun _ => true) 1 0 0x2000 0 0 false).getD z, by dsimp only; decide +kernel⟩,
    ⟨prel { rel 0x2001 .recalled [] with again := true }, 1, { rel 0x2001 .recalled [] with again := true }, (State.reRelease
      (prel { rel 0x2001 .recalled [] with again := true }) 1).getD z, by decide +kernel⟩,
    ⟨z.modPan fun p => { p with sluice := [.seal 0x2001 0] }, .seal 0x2001 0, [],
      ⟨by decide +kernel, by decide +kernel, fun _ _ h
      => by cases h⟩⟩,
    ⟨(prel { rel 0x2001 .pending [] with credit := false }).modPan fun p => { p with credits := [0] }, 0, [], by decide +kernel⟩,
    ⟨prel (rel 0x2001 .pending [smp]), 1, rel 0x2001 .pending [{ smp with fresh := some [(0, 0)] }],
      by dsimp only; decide +kernel⟩,
    ⟨prel (rel 0x2001 .pending [{ smp with pos := [(0, 99999)] }]), 1, rel 0x2001 .pending
      [{ smp with pos := [(0, 99999)], fresh := some [(0, 0)] }], by dsimp only; decide +kernel⟩,
    ⟨prel (rel 0x2001 .confirmable [smp]), 1, 0x2001, [], rel 0x2001 .confirmable [smp], by decide +kernel⟩⟩

/-- The hypotheses of `Obligations.PanCalibration` are met, those of each clause. -/
theorem met_PanCalibration :
    (∃ (s : State) (o : Op), Heads s 0x10 o ∧ bit (o.inlNat 16 1) 0 = false ∧ s.pan.swapPend = false ∧ s.swapBefore o = false) ∧
    (∃ (s : State) (o : Op), Heads s 0x11 o ∧ s.pan.swapPend = false) ∧
    (∃ (s : State) (o : Op), s.pan.swapPend = true ∧ (∀ f, f < 8 → s.changedOver f = true) ∧ s.hl.ops.find? (fun o => decide
        (o.code = 0x11) && o.taken) = some o ∧ s.hl.ops.find? (Op.is o.ring o.didx) = some o) ∧
    (∃ (s : State) (f : Nat) (v : Word), f < 8 ∧ RegOpen s .panFrameCfg f 0 ∧ bit v.toNat 0 = true ∧ s.panFrameCfg_EN f = false ∧
        (s.storeReg .panFrameCfg f 0 v.toNat).panFrameCfg_EN f = true) ∧
    (∃ (s : State) (f : Nat) (v : Word), f < 8 ∧ RegOpen s .panFrameCfg f 0 ∧ bit v.toNat 0 = false ∧ s.panFrameCfg_EN f = true ∧
        (s.storeReg .panFrameCfg f 0 v.toNat).panFrameCfg_EN f = false) :=
  ⟨⟨withOp (op (desc 0x10 0 [] (by8 0x1000 ++ by4 0xFF80 ++ by4 0x80)) false) (z.writeMem 0x1000 (by4 7)), op (desc 0x10 0 []
      (by8 0x1000 ++ by4 0xFF80 ++ by4 0x80)) false, by simp only [Heads]; decide +kernel⟩,
    ⟨withOp (op (desc 0x11 0 [] []) false) pw, op (desc 0x11 0 [] []) false, by simp only [Heads]; decide +kernel⟩,
    ⟨withOp (op (desc 0x11 0 [] []) true) (pz.modPan fun p =>
      { p with swapPend := true, frames := (upTo 8).map fun f => (f, { bank := 1 }) }), op (desc 0x11 0 [] []) true,
      by decide +kernel⟩,
    ⟨wr .panFrameCfg 1 0 0x80100 pz, 1, 0x80101, by simp only [RegOpen]; decide +kernel⟩,
    ⟨prel (rel 0x2001 .pending [smp]), 1, 0x80100, by simp only [RegOpen]; decide +kernel⟩⟩

/-- The hypotheses of `Obligations.TrackBatches` are met, those of each clause. -/
theorem met_TrackBatches :
    (∃ (s : State) (p : TrkPlace) (rest : List TrkPlace) (e : Epoch) (x : Notice), s.trk.intake = p :: rest ∧ s.trk.outq = [] ∧
        p.hand = none ∧ p.recalls = [] ∧ p.seals = [(epFrame e, x)] ∧ x.epoch = e ∧ epSeq e ≠ 0 ∧ viewOf s.trk.view e = 0) ∧
    (∃ (s : State) (p : TrkPlace) (rest : List TrkPlace) (e : Epoch) (x : Notice), s.trk.intake = p :: rest ∧ s.trk.outq = [] ∧
        p.hand = none ∧ p.seals = [] ∧ p.recalls = [(epFrame e, x)] ∧ x.epoch = e ∧ epSeq e ≠ 0 ∧ viewOf s.trk.view e = 0 ∧ (∀ c,
        c < 16 → s.trkClassCfg_FRAME c = epFrame e → (s.cls c).segs = [] ∧ (s.cls c).unjournaled = false)) ∧
    (∃ (s : State) (p : TrkPlace) (rest : List TrkPlace) (h : DetHand), let b := s.readMem h.addr (8 * u16 (s.readMem h.addr 8) 6)
      let u := s.modTrk fun k => { k with intake := rest, view := viewHand k.view h.epoch }
      s.trk.intake = p :: rest ∧ s.trk.outq = [] ∧ p.hand = some h ∧ p.recalls = [] ∧ p.seals = [] ∧ s.inDram h.addr (max 8 (8 *
        u16 (s.readMem h.addr 8) 6)) = true ∧ u8 (s.readMem h.addr 8) 0 = 0x20 ∧ 2 ≤ u16 (s.readMem h.addr 8) 6 ∧ u.batchReason h
        b = 0) ∧
    (∃ (s : State) (p : TrkPlace) (rest : List TrkPlace) (h : DetHand), let b := s.readMem h.addr (8 * u16 (s.readMem h.addr 8) 6)
      let u := s.modTrk fun k => { k with intake := rest, view := viewHand k.view h.epoch }
      s.trk.intake = p :: rest ∧ s.trk.outq = [] ∧ p.hand = some h ∧ p.recalls = [] ∧ p.seals = [] ∧ s.inDram h.addr (max 8 (8 *
        u16 (s.readMem h.addr 8) 6)) = true ∧ u8 (s.readMem h.addr 8) 0 = 0x20 ∧ 2 ≤ u16 (s.readMem h.addr 8) 6 ∧ u.batchReason h
        b ≠ 0) ∧
    (∃ (s : State) (r : Rec) (rest : List TrkOut) (o : Nat), s.rly.trackq.length < 512 ∧ s.trk.outq = .record r :: rest ∧
        s.outPlace (recBytes r).length = some o) ∧
    (∃ (s : State) (r : Rec) (rest : List TrkOut), s.rly.trackq.length < 512 ∧ s.trk.outq = .notice r :: rest) ∧
    (∃ (s : State) (o : Op), Heads s 0x18 o) ∧
    (∃ (s : State) (n : Nat) (x : Nat × Track) (c : Nat), HasRoom s 0x59 ∧ s.trk.table.find? (fun x => decide (x.1 = n)) = some x
        ∧ (upTo 16).find? (fun c => s.inCls c n) = some c) ∧
    (∃ (s : State) (n : Nat) (c : Nat), HasRoom s 0x59 ∧ (upTo 16).find? (fun c => s.inCls c n) = some c) :=
  ⟨⟨place { seals := [(1, ⟨0x2001, 0, []⟩)] } (kz.modCls 0 fun x => { x with segs := [⟨0x2001, 0, 0, [], [], 0⟩] }),
      { seals := [(1, ⟨0x2001, 0, []⟩)] }, [], 0x2001, ⟨0x2001, 0, []⟩, by decide +kernel⟩,
    ⟨place { recalls := [(1, ⟨0x2001, 0, []⟩)] } kz, { recalls := [(1, ⟨0x2001, 0, []⟩)] }, [], 0x2001, ⟨0x2001, 0, []⟩,
      by decide +kernel⟩,
    ⟨place { hand := some hand } kz, { hand := some hand }, [], hand, by dsimp only; decide +kernel⟩,
    ⟨place { hand := some hand } (wr .trkCtrl 0 0 0 kz), { hand := some hand }, [], hand, by dsimp only; decide +kernel⟩,
    ⟨kz.modTrk fun k => { k with outq := [.record (mkRec 0x21 0x59 0 0 0 (zeros 32))] }, mkRec 0x21 0x59 0 0 0 (zeros 32), [], 0,
      by decide +kernel⟩,
    ⟨kz.modTrk fun k => { k with outq := [.notice (noticeRec false 0x2001 0)] }, noticeRec false 0x2001 0, [], by decide +kernel⟩,
    ⟨withOp (op (desc 0x18 0 [] [1, 0]) false) (kz.modTrk fun k => { k with table := [(3, { state := 2 })] }), op (desc 0x18 0 []
      [1, 0]) false, by simp only [Heads]; decide +kernel⟩,
    ⟨kz.modTrk fun k => { k with table := [(3, { state := 2 })] }, 3, (3, { state := 2 }), 0,
      by simp only [HasRoom]; decide +kernel⟩,
    ⟨kz, 0, 0, by simp only [HasRoom]; decide +kernel⟩⟩

/-- The hypotheses of `Obligations.LaneCommands` are met, those of each clause. -/
theorem met_LaneCommands :
    (∃ (s : State) (n : Nat) (c : List Byte) (u : State), Issues s 0x01 .access n c ∧ loadRows n (u16 c 10) (s32 c 20) (u32 c 24)
        (u16 c 16) ((s.lane n).memAddr (u8 c 8 % 8) (s32 c 28)) (s.spAddr n c) s = .done u) ∧
    (∃ (s : State) (n : Nat) (c : List Byte) (u : State), Issues s 0x02 .access n c ∧ storeRows n (u16 c 10) (s32 c 20) (u32 c 24)
        (u16 c 16) ((s.lane n).memAddr (u8 c 8 % 8) (s32 c 28)) (s.spAddr n c) s = .done u) ∧
    (∃ (s : State) (n : Nat) (c : List Byte) (d : List Byte), Issues s 0x03 .access n c ∧ ((s.lane n).tiles (u8 c 8 % 4)).length <
        64 ∧ tileRows s n (rowBytes (u8 c 10) 32) (u32 c 16) 32 (s.spAddr n c) = some d) ∧
    (∃ (s : State) (n : Nat) (c : List Byte), Issues s 0x03 .access n c ∧ 64 ≤ ((s.lane n).tiles (u8 c 8 % 4)).length) ∧
    (∃ (s : State) (n : Nat) (c : List Byte) (x : Tile) (rest : List Tile) (u : State) (v : State), Issues s 0x04 .access n c ∧
        (s.lane n).tiles (u8 c 8 % 4) = x :: rest ∧ s.merge x.epoch x.flags = some u ∧ untileRows n (rowBytes (u8 c 10) 32) (u32 c
        16) 32 (s.spAddr n c) x.data u = some v) ∧
    (∃ (s : State) (n : Nat) (c : List Byte), let w := if u8 c 10 = 1 then 8 else 4
      let a := (s.lane n).memAddr (u8 c 9 % 8) (s64 c 16)
      Issues s 0x05 .access n c ∧ s.laneReads n a w = true) ∧
    (∃ (s : State) (n : Nat) (c : List Byte), Issues s 0x08 .access n c) ∧
    (∃ (s : State) (n : Nat) (c : List Byte), Issues s 0x09 .access n c) ∧
    (∃ (s : State) (n : Nat) (st : Stream) (c : List Byte), Issues s 0x0A st n c) ∧
    (∃ (s : State) (n : Nat) (st : Stream) (c : List Byte), Issues s 0x0B st n c) ∧
    (∃ (s : State) (n : Nat) (st : Stream) (c : List Byte), Issues s 0x0C st n c) ∧
    (∃ (s : State) (n : Nat) (c : List Byte), let d := s.desc (u16 c 12)
      Issues s 0x14 .execute n c ∧ u8 c 10 = 0 ∧ ¬(d.loc = 0 ∧ spSize < d.extent) ∧ (s.rscalarTake n d).rscalarReady n d = true) ∧
    (∃ (s : State) (n : Nat) (st : Stream) (c : List Byte), Issues s 0x2F st n c) ∧
    (∃ (s : State) (n : Nat) (st : Stream) (c : List Byte), s.laneCmd st n = some c ∧ cOp c = 0x2F ∧ cPen c = true ∧ (s.lane
        n).comp (u8 c 7 % 4) = false) ∧
    (∃ (s : State) (n : Nat) (c : List Byte) (a : Nat), s.laneCmd .access n = some c ∧ cOp c = 0x2F ∧ cPen c = false ∧ (s.lane
        n).arun + 1 < cRepeat c ∧ a < 8) :=
  ⟨⟨(la (rows 1)).writeMem 0x2000 (by4 7), 15, rows 1, ranTo (loadRows 15 8 16 8 2 0x2000 0x100 ((la (rows 1)).writeMem 0x2000
      (by4 7))), by simp only [Issues]; decide +kernel⟩,
    ⟨(la (rows 2)).writeMem (spBase + 0x100) (by4 7), 0, rows 2, ranTo (storeRows 0 8 16 8 2 0x2000 0x100 ((la (rows 2)).writeMem
      (spBase + 0x100) (by4 7))), by simp only [Issues]; decide +kernel⟩,
    ⟨la (cm 3 [(8, [3, 0, 1]), (12, by4 0x100), (16, by4 16)]), 0, cm 3 [(8, [3, 0, 1]), (12, by4 0x100), (16, by4 16)], zeros
      512, by simp only [Issues]; decide +kernel⟩,
    ⟨(la (cm 3 [(8, [3, 0, 1]), (12, by4 0x100), (16, by4 16)])).modLane 0 fun l => l.modQ 3 fun _ => List.replicate 64
      { data := [] }, 0, cm 3 [(8, [3, 0, 1]), (12, by4 0x100), (16, by4 16)], by simp only [Issues]; decide +kernel⟩,
    ⟨(la (cm 4 [(8, [3, 0, 1]), (12, by4 0x100), (16, by4 16)])).modLane 0 fun l => l.modQ 3 fun _ =>
      [{ data := zeros 512, flags := 4 }], 0, cm 4 [(8, [3, 0, 1]), (12, by4 0x100), (16, by4 16)],
      { data := zeros 512, flags := 4 }, [], (((la (cm 4 [(8, [3, 0, 1]), (12, by4 0x100), (16, by4 16)])).modLane 0 fun l =>
      l.modQ 3 fun _ => [{ data := zeros 512, flags := 4 }]).merge 0 4).getD z, (((la (cm 4
      [(8, [3, 0, 1]), (12, by4 0x100), (16, by4 16)])).modLane 0 fun l => l.modQ 3 fun _ =>
      [{ data := zeros 512, flags := 4 }]).merge 0 4).getD z, by simp only [Issues]; decide +kernel⟩,
    ⟨(la (cm 5 [(8, [7, 0, 1]), (16, by8 0x3000), (24, by8 9)])).writeMem 0x3000 (by8 0x1234567890), 0, cm 5
      [(8, [7, 0, 1]), (16, by8 0x3000), (24, by8 9)], by simp only [Issues]; decide +kernel⟩,
    ⟨la (cm 8 [(8, [7]), (12, by4 3), (16, by8 0xFFFFFFFFFF), (24, by4 5 ++ by4 6)]), 15, cm 8
      [(8, [7]), (12, by4 3), (16, by8 0xFFFFFFFFFF), (24, by4 5 ++ by4 6)], by simp only [Issues]; decide +kernel⟩,
    ⟨(la (cm 9 [(8, [7, 0xF]), (16, by8 3)])).modLane 15 fun l => l.setC 7 (-5), 15, cm 9 [(8, [7, 0xF]), (16, by8 3)],
      by simp only [Issues]; decide +kernel⟩,
    ⟨le (cm 10 [(8, [7, 8]), (12, by4 0x7FFFFFFF)]), 15, .execute, cm 10 [(8, [7, 8]), (12, by4 0x7FFFFFFF)],
      by simp only [Issues]; decide +kernel⟩,
    ⟨la (cm 11 [(8, [7, 8, 1]), (12, by4 0xFFFFFFFF)]), 15, .access, cm 11 [(8, [7, 8, 1]), (12, by4 0xFFFFFFFF)],
      by simp only [Issues]; decide +kernel⟩,
    ⟨la (cm 12 [(8, [3, 8, 0, 3]), (12, by4 1), (16, [1, 2])]), 15, .access, cm 12 [(8, [3, 8, 0, 3]), (12, by4 1), (16, [1, 2])],
      by simp only [Issues]; decide +kernel⟩,
    ⟨(lz [] [cm 0x14 [(8, [5, 0])]] [one 64]).writeMem (spBase + 64) (by4 9), 0, cm 0x14 [(8, [5, 0])],
      by simp only [Issues]; decide +kernel⟩,
    ⟨le (cm 0x2F []), 15, .execute, cm 0x2F [], by simp only [Issues]; decide +kernel⟩,
    ⟨la (cm 0x2F [(7, [9])]), 15, .access, cm 0x2F [(7, [9])], by decide +kernel⟩,
    ⟨(la (cm 0x2F [(4, [3, 0, 0x80])])).modLane 0 fun l => l.modA 7 fun _ => ⟨5, 0, 3, 7⟩, 0, cm 0x2F [(4, [3, 0, 0x80])], 7,
      by decide +kernel⟩⟩

/-- The hypotheses of `Obligations.RelayCommands` are met, those of each clause. -/
theorem met_RelayCommands :
    (∃ (s : State) (st : Stream) (n : Nat) (c : List Byte), s.laneCmd st n = some c ∧ cOp c = 0x10 ∧ u8 c 8 = 0 ∧ s.rlyBrkCtrl_EN
        0 = false ∧ s.rlyBrkCtrl_EN 1 = false ∧ s.rly.prog.stopA = false ∧ s.rly.prog.stopE = false) ∧
    (∃ (s : State) (st : Stream) (n : Nat) (c : List Byte), s.laneCmd st s.lane0 = some c ∧ s.laneCmd st n = some c ∧ cOp c = 0x10
        ∧ u8 c 8 = 3 ∧ cRepeat c ≤ (s.lane s.lane0).runs st + 1 ∧ (s.lane n).pos st = (s.lane s.lane0).pos st ∧ (s.lane n).runs st
        = (s.lane s.lane0).runs st ∧ (∀ x ∈ s.rly.loops, x.1 = st → x.2.1 ≠ (s.lane s.lane0).pos st) ∧ s.rlyBrkCtrl_EN 0 = false ∧
        s.rlyBrkCtrl_EN 1 = false ∧ s.rly.prog.stopA = false ∧ s.rly.prog.stopE = false) ∧
    (∃ (s : State) (st : Stream) (c : List Byte), AllIssue s 0x10 st c ∧ u8 c 8 = 1) ∧
    (∃ (s : State) (st : Stream) (c : List Byte), AllIssue s 0x10 st c ∧ u8 c 8 = 2) ∧
    (∃ (s : State) (st : Stream) (c : List Byte) (d : Bool) (rest : List Bool), AllIssue s 0x10 st c ∧ u8 c 8 = 4 ∧ s.rly.decq = d
        :: rest) ∧
    (∃ (s : State) (c : List Byte), AllIssue s 0x12 .execute c ∧ cPen c = false ∧ s.lanesIn ≠ [] ∧ s.rly.decq.length < 16) ∧
    (∃ (s : State) (n : Nat) (c : List Byte), s.laneCmd .execute n = some c ∧ cOp c = 0x12 ∧ s.offIn c n = true) ∧
    (∃ (s : State) (c : List Byte) (f : Nat) (k : BitVec 32) (e : Epoch) (off : Nat) (t0 : DT64) (rest : List BandEntry),
        s.rlyCtrl_EN = true ∧ s.activeImage ≠ [] ∧ s.lanesEnabled ≠ 0 ∧ AllIssue s 0x20 .access c ∧ s.rly.prog.change = none ∧
        s.rly.ctx = none ∧ s.rly.bandq = ⟨.band f k e off t0, false⟩ :: rest ∧ recalledIn s.rly.tracker e = false ∧ badHead
        (s.readMem (panBase + off) 8) = false ∧ s.rly.prog.exch = none ∧ s.rly.prog.slotFor f k = s.rly.prog.running) ∧
    (∃ (s : State) (c : List Byte) (x : Context), AllIssue s 0x21 .access c ∧ s.rly.ctx = some x) ∧
    (∃ (s : State) (c : List Byte) (i : Nat), let b := (s.rly.lastBaton + 1 + i) % 256
      AllIssue s 0x22 .access c ∧ i < 256 ∧ (s.baton b).state = 0 ∧ (∀ j, j < i → (s.baton ((s.rly.lastBaton + 1 + j) %
        256)).state ≠ 0)) ∧
    (∃ (s : State) (c : List Byte) (b : Nat), let a := (s.lane s.lane0).memAddr (u8 c 10 % 8) (s64 c 16)
      AllIssue s 0x23 .access c ∧ batonOf (s.lead (u8 c 8 % 8)) = some b ∧ (s.baton b).state = 1 ∧ u8 c 9 = 0 ∧ s.inDram a 8 =
        true) ∧
    (∃ (s : State) (c : List Byte) (b : Nat), let a := (s.lane s.lane0).memAddr (u8 c 10 % 8) (s64 c 16)
      AllIssue s 0x23 .access c ∧ batonOf (s.lead (u8 c 8 % 8)) = some b ∧ (s.baton b).state = 1 ∧ u8 c 9 = 1 ∧
        s.slv.intake.length < 32 ∧ s.inDram a 8 = true) ∧
    (∃ (s : State) (c : List Byte) (b : Nat) (u : State), AllIssue s 0x24 .access c ∧ batonOf (s.lead (u8 c 8 % 8)) = some b ∧
        (s.baton b).state = 3 ∧ badHead (s.readMem (s.baton b).addr 8) = false ∧ s.merge (BitVec.ofNat 16 (u16 (s.readMem (s.baton
        b).addr 8) 4)) (u8 (s.readMem (s.baton b).addr 8) 3) = some u) ∧
    (∃ (s : State) (c : List Byte) (b : Nat), AllIssue s 0x25 .access c ∧ batonOf (s.lead (u8 c 8 % 8)) = some b ∧ ((s.baton
        b).state = 1 ∨ (s.baton b).state = 3)) ∧
    (∃ (s : State) (n : Nat) (c : List Byte), let a := (s.lane n).memAddr (u8 c 8 % 8) (s64 c 16)
      let len := 8 * u16 (s.readMem a 8) 6
      Issues s 0x28 .access n c ∧ bit (u8 c 11) 0 = false ∧ s.ctxVoid = false ∧ s.inDram a 8 = true ∧ emitType (u8 (s.readMem a 8)
        0) = true ∧ 2 ≤ u16 (s.readMem a 8) 6 ∧ s.inDram a len = true ∧ u8 c 9 = 0 ∧ s.act.intake.length < 32) ∧
    (∃ (s : State) (n : Nat) (c : List Byte), let a := (s.lane n).memAddr (u8 c 8 % 8) (s64 c 16)
      let len := 8 * u16 (s.readMem a 8) 6
      let u := s.writeMem (a + 1) (s.emitHead n (s.readMem a 8))
      Issues s 0x28 .access n c ∧ bit (u8 c 11) 0 = false ∧ s.ctxVoid = false ∧ s.inDram a 8 = true ∧ emitType (u8 (s.readMem a 8)
        0) = true ∧ 2 ≤ u16 (s.readMem a 8) 6 ∧ s.inDram a len = true ∧ u8 c 9 = 1 ∧ PostRoom s (u8 c 10) (u.readMem a
        len).length) :=
  ⟨⟨la (cm 0x10 [(12, by4 9)]), .access, 15, cm 0x10 [(12, by4 9)], by decide +kernel⟩,
    ⟨la (cm 0x10 [(8, [3, 2]), (12, by4 9)]), .access, 15, cm 0x10 [(8, [3, 2]), (12, by4 9)], by decide +kernel⟩,
    ⟨le (cm 0x10 [(8, [1, 2]), (12, by4 9)]), .execute, cm 0x10 [(8, [1, 2]), (12, by4 9)],
      by simp only [AllIssue]; decide +kernel⟩,
    ⟨la (cm 0x10 [(8, [2, 2]), (12, by4 9)]), .access, cm 0x10 [(8, [2, 2]), (12, by4 9)],
      by simp only [AllIssue]; decide +kernel⟩,
    ⟨(la (cm 0x10 [(8, [4]), (12, by4 9)])).modRly fun r => { r with decq := [true] }, .access, cm 0x10 [(8, [4]), (12, by4 9)],
      true, [], by simp only [AllIssue]; decide +kernel⟩,
    ⟨(le (cm 0x12 [(8, [2, 1])])).modLane 15 fun l => l.setK 2 true, cm 0x12 [(8, [2, 1])],
      by simp only [AllIssue]; decide +kernel⟩,
    ⟨le (cm 0x12 [(7, [8])]), 15, cm 0x12 [(7, [8])], by decide +kernel⟩,
    ⟨((la (cm 0x20 [])).modRly fun r => { r with bandq := [⟨.band 1 5 0x2000 0 0, false⟩] }).writeMem panBase
      [0x18, 0, 0, 0, 0, 0, 6, 0], cm 0x20 [], 1, 5, 0x2000, 0, 0, [], by simp only [AllIssue]; decide +kernel⟩,
    ⟨(la (cm 0x21 [])).modRly fun r => { r with ctx := some ⟨1, 5, 0x40, 0x2000⟩ }, cm 0x21 [], ⟨1, 5, 0x40, 0x2000⟩,
      by simp only [AllIssue]; decide +kernel⟩,
    ⟨(la (cm 0x22 [(8, [3])])).modRly fun r => { r with batons := [(0, { state := 2 })] }, cm 0x22 [(8, [3])], 1,
      by simp only [AllIssue]; decide +kernel⟩,
    ⟨(la (cm 0x23 [(8, [3, 0, 1]), (16, by8 0x2000)])).modRly fun r => { r with batons := [(0, { state := 1 })] }, cm 0x23
      [(8, [3, 0, 1]), (16, by8 0x2000)], 0, by simp only [AllIssue]; decide +kernel⟩,
    ⟨(la (cm 0x23 [(8, [3, 1, 1]), (16, by8 0x2000)])).modRly fun r => { r with batons := [(0, { state := 1 })] }, cm 0x23
      [(8, [3, 1, 1]), (16, by8 0x2000)], 0, by simp only [AllIssue]; decide +kernel⟩,
    ⟨(rec60 (la (cm 0x24 [(8, [3, 7])]))).modRly fun r => { r with batons := [(0, { state := 3, addr := 0x2000 })] }, cm 0x24
      [(8, [3, 7])], 0, (State.merge ((rec60 (la (cm 0x24 [(8, [3, 7])]))).modRly fun r =>
      { r with batons := [(0, { state := 3, addr := 0x2000 })] }) 0 0).getD z, by simp only [AllIssue]; decide +kernel⟩,
    ⟨(la (cm 0x25 [(8, [3])])).modRly fun r => { r with batons := [(0, { state := 1 })] }, cm 0x25 [(8, [3])], 0,
      by simp only [AllIssue]; decide +kernel⟩,
    ⟨rec60 (la (cm 0x28 [(16, by8 0x2000)])), 0, cm 0x28 [(16, by8 0x2000)], by simp only [Issues]; decide +kernel⟩,
    ⟨wr .hlRingCfg 63 0 0x80080000 (rec60 (la (cm 0x28 [(9, [1, 63]), (16, by8 0x2000)]))), 15, cm 0x28
      [(9, [1, 63]), (16, by8 0x2000)], by simp only [Issues, PostRoom]; decide +kernel⟩⟩

/-- The hypotheses of `Obligations.RelayEvents` are met, those of each clause. -/
theorem met_RelayEvents :
    (∃ (s : State) (off : Nat) (a : Nat) (r : Rec) (rest : List TrkTok), s.rly.trackq = .record off a r :: rest ∧ badHead
        (recBytes r) = false ∧ bit r.flags.toNat 0 = true ∧ (s.baton r.baton.toNat).state = 2) ∧
    (∃ (s : State) (r : Rec) (rest : List TrkTok), s.rly.trackq = .notice r :: rest ∧ epSeq r.epoch ≠ 0) ∧
    (∃ (s : State) (e : Epoch) (t0 : DT64) (rest : List BandTok), s.pan.sluice = .rcl e t0 :: rest ∧ s.rly.bandq.length < 64 ∧
        epSeq e ≠ 0 ∧ viewOf s.rly.tracker e = 0) ∧
    (∃ (s : State) (e : Epoch) (t0 : DT64) (v : Bool) (rest : List BandEntry), s.rlyCtrl_EN = true ∧ s.rly.ctx = none ∧
        s.rly.bandq = ⟨.seal e t0, v⟩ :: rest ∧ epSeq e ≠ 0 ∧ viewOf s.rly.tracker e = 0) ∧
    (∃ (s : State) (e : Epoch) (t0 : DT64) (v : Bool) (rest : List BandEntry), s.rlyCtrl_EN = true ∧ s.rly.ctx = none ∧
        s.rly.bandq = ⟨.rcl e t0, v⟩ :: rest) ∧
    (∃ (s : State) (a : Nat) (l : List Nat) (x : Context), s.waits = a :: l ∧ s.rlyCtrl_EN = true ∧ s.rly.prog.stopA = false ∧
        s.rly.prog.stopE = false ∧ s.rly.prog.change = none ∧ s.rly.ctx = some x ∧ HasRoom s 0x5A) ∧
    (∃ (s : State) (n : Nat) (x : Context), n < 16 ∧ s.rly.ctx = some x ∧ HasRoom s (0x60 + n)) ∧
    (∃ (s : State) (n : Nat) (o : Nat), n < 16 ∧ o < spSize ∧ HasRoom s (0x60 + n)) ∧
    (∃ (s : State) (n : Nat) (o : Nat), n < 16 ∧ o < spSize ∧ HasRoom s (0x60 + n)) ∧
    (∃ (s : State) (v : Word) (failing : Nat) (n : Nat), RegOpen s .rlyLanes 0 0 ∧ n < 16 ∧ bit v.toNat (16 + n) = true ∧ bit
        s.rly.fencedNow n = true ∧ Tab.get (s.now + 1) n s.rly.fencedAt ≠ s.now ∧ bit failing n = false) :=
  ⟨⟨z.modRly fun r => { r with trackq := [.record 0 0x100 ⟨0x21, 0x59, 255, 1, 0, 0, []⟩], batons := [(255, { state := 2 })] },
      0, 0x100, ⟨0x21, 0x59, 255, 1, 0, 0, []⟩, [], by decide +kernel⟩,
    ⟨z.modRly fun r => { r with trackq := [.notice (noticeRec true 0x2001 0)] }, noticeRec true 0x2001 0, [], by decide +kernel⟩,
    ⟨(z.modPan fun p => { p with sluice := [.rcl 0x2001 0] }).modRly fun r => { r with bandq := [⟨.band 1 3 0x2002 0 0, false⟩] },
      0x2001, 0, [], by decide +kernel⟩,
    ⟨(la (cm 0x2F [])).modRly fun r => { r with bandq := [⟨.seal 0x2001 0, false⟩], sent := [(1, 0x2001)] }, 0x2001, 0, false, [],
      by decide +kernel⟩,
    ⟨(la (cm 0x2F [])).modRly fun r => { r with bandq := [⟨.rcl 0x2001 0, false⟩], sent := [(1, 0x2001)] }, 0x2001, 0, false, [],
      by decide +kernel⟩,
    ⟨((la (cm 0x21 [])).modRly fun r => { r with ctx := some ⟨1, 5, 0x40, 0x2000⟩ }).modLane 15 fun l =>
      { l with waitE := some 3 }, 3, [], ⟨1, 5, 0x40, 0x2000⟩, by simp only [HasRoom]; decide +kernel⟩,
    ⟨(la (cm 0x21 [])).modRly fun r => { r with ctx := some ⟨1, 5, 0x40, 0x2000⟩ }, 15, ⟨1, 5, 0x40, 0x2000⟩,
      by simp only [HasRoom]; decide +kernel⟩,
    ⟨(la (cm 0x21 [])).modRly fun r => { r with ctx := some ⟨1, 5, 0x40, 0x2000⟩ }, 15, 0x1FFFFF,
      by simp only [HasRoom]; decide +kernel⟩,
    ⟨hz, 15, 0x1FFFFF, by simp only [HasRoom]; decide +kernel⟩,
    ⟨(la (cm 0x21 [])).modRly fun r => { r with fenced := 0x8000 }, 0x80008001, 0, 15, by simp only [RegOpen]; decide +kernel⟩⟩

/-- The hypotheses of `Obligations.OperatorsCompute` are met, those of each clause. -/
theorem met_OperatorsCompute :
    (∃ (s : State) (n : Nat) (c : List Byte), let d := s.desc (u8 c 8)
      let a := s.desc (u8 c 9)
      let b := s.desc (u8 c 10)
      Plainly s 0x40 n c [0, 1, 3] ∧ s32 c 16 = 0 ∧ IsRow d 1 ∧ IsRow a a.d0 ∧ b.fmt = 7 ∧ b.d0 = 1 ∧ b.d1 = a.d0 ∧ b.d2 = 1 ∧
        b.d3 = 1) ∧
    (∃ (s : State) (n : Nat) (c : List Byte), let d := s.desc (u8 c 8)
      let a := s.desc (u8 c 9)
      let b := s.desc (u8 c 10)
      Plainly s 0x41 n c [0, 1, 3] ∧ s32 c 16 = 0 ∧ u8 c 26 = 1 ∧ u8 c 27 = 1 ∧ u8 c 28 = 0 ∧ IsRow d 1 ∧ a.fmt = 7 ∧ a.d3 = 1 ∧
        b.fmt = 7 ∧ b.d0 = a.d0 ∧ b.d1 ≤ a.d1 ∧ b.d2 ≤ a.d2 ∧ b.d3 = 1) ∧
    (∃ (s : State) (n : Nat) (c : List Byte) (x : Nat) (y : Nat) (fx : Nat) (fy : Nat), let d := s.desc (u8 c 8)
      let a := s.desc (u8 c 9)
      let b := s.desc (u8 c 10)
      let m := fun r k => spWord s n (b.base + r * b.s1 + 4 * k)
      let p := fun x y => spWord s n (a.base + x * a.s1 + y * a.s2)
      let sum := p x y * ((256 - fx : Nat) * (256 - fy : Nat) : Int) + p (x + 1) y * (fx * (256 - fy : Nat) : Int) + p x (y + 1) *
        ((256 - fx : Nat) * fy : Int) + p (x + 1) (y + 1) * (fx * fy : Int)
      Plainly s 0x42 n c [0, 1, 3] ∧ u8 c 14 = 1 ∧ IsRow d 1 ∧ a.fmt = 7 ∧ a.d0 = 1 ∧ a.d3 = 1 ∧ b.fmt = 0x11 ∧ b.d0 = 3 ∧ b.d1 =
        3 ∧ b.d2 = 1 ∧ b.d3 = 1 ∧ (∀ i, i < 9 → m (i / 3) (i % 3) ≠ -2147483648) ∧ 0 < m 2 2 ∧ fx < 256 ∧ fy < 256 ∧ 256 * m 0 2 =
        ((256 * x + fx : Nat) : Int) * m 2 2 ∧ 256 * m 1 2 = ((256 * y + fy : Nat) : Int) * m 2 2 ∧ x + 1 < a.d1 ∧ y + 1 < a.d2 ∧
        sum % 65536 = 0) ∧
    (∃ (s : State) (n : Nat) (c : List Byte), let d := s.desc (u8 c 8)
      let a := s.desc (u8 c 9)
      Plainly s 0x44 n c [0, 3] ∧ u8 c 16 = 0 ∧ IsRow d 1 ∧ IsRow a a.d0 ∧ 0 < a.d0) ∧
    (∃ (s : State) (n : Nat) (c : List Byte) (v : Int), let d := s.desc (u8 c 8)
      let a := s.desc (u8 c 9)
      let b := s.desc (u8 c 10)
      let x := spWord s n a.base
      let y := spWord s n b.base
      Plainly s 0x45 n c [0, 1, 3] ∧ IsRow d 1 ∧ IsRow a 1 ∧ IsRow b 1 ∧ (u8 c 14, v) ∈ [(0, x + y), (1, x - y), (2, x * y),
          (4, max x y), (5, min x y), (6, (x.natAbs : Int)), (7, -x), (10, max x 0), (12, if x < y then 1 else 0),
          (13, if x = y then 1 else 0), (15, ((x - y).natAbs : Int))]) ∧
    (∃ (s : State) (n : Nat) (c : List Byte), let d := s.desc (u8 c 8)
      let a := s.desc (u8 c 9)
      Plainly s 0x49 n c [0, 3] ∧ IsRow d 1 ∧ IsRow a 1) ∧
    (∃ (s : State) (n : Nat) (c : List Byte), let d := s.desc (u8 c 8)
      let a := s.desc (u8 c 9)
      let x := spWord s n a.base
      Plainly s 0x4A n c [0, 3] ∧ u8 c 14 = 2 ∧ IsRow d 1 ∧ IsRow a 1 ∧ x.natAbs ≤ 2 ^ 24) ∧
    (∃ (s : State) (n : Nat) (c : List Byte) (x : Int) (k : Nat), let d := s.desc (u8 c 8)
      let a := s.desc (u8 c 9)
      Plainly s 0x4A n c [0, 3] ∧ u8 c 14 = 0 ∧ u32 c 16 = 0 ∧ IsRow d 2 ∧ IsRow a 2 ∧ x.natAbs ≤ 2 ^ 22 ∧ k ≤ 22 ∧ spWord s n
        a.base = x + 2 ^ k ∧ spWord s n (a.base + 4) = x - 2 ^ k) :=
  ⟨⟨(lz [] [cm 0x40 [(8, [0, 1, 2])]] [one 64,
        cm 0 [(0, by4 128), (6, [7]), (8, by2 3 ++ by2 1 ++ by2 1 ++ by2 1), (16, by4 0 ++ by4 0 ++ by4 0)],
        cm 0 [(0, by4 256), (6, [7]), (8, by2 1 ++ by2 3 ++ by2 1 ++ by2 1), (16, by4 8 ++ by4 0 ++ by4 0)]]).writeMem (spBase +
      15 * spSize + 128) (by4 7 ++ by4i (-2) ++ by4 0x7FFFFFFF ++ zeros 116 ++ by4 3 ++ zeros 4 ++ by4 5 ++ zeros 4 ++ by4 1), 15,
      cm 0x40 [(8, [0, 1, 2])], by simp only [Plainly, Issues, InScratch, IsRow]; decide +kernel⟩,
    ⟨lz [] [cm 0x41 [(8, [0, 1, 2]), (26, [1, 1])]] [one 64,
        cm 0 [(0, by4 128), (6, [7]), (8, by2 2 ++ by2 3 ++ by2 2 ++ by2 1), (16, by4 8 ++ by4 24 ++ by4 0)],
        cm 0 [(0, by4 256), (6, [7]), (8, by2 2 ++ by2 2 ++ by2 2 ++ by2 1), (16, by4 8 ++ by4 16 ++ by4 0)]], 15, cm 0x41
      [(8, [0, 1, 2]), (26, [1, 1])], by simp only [Plainly, Issues, InScratch, IsRow]; decide +kernel⟩,
    ⟨(lz [] [cm 0x42 [(8, [0, 1, 2]), (14, [1])]] [one 64,
        cm 0 [(0, by4 128), (6, [7]), (8, by2 1 ++ by2 3 ++ by2 3 ++ by2 1), (16, by4 4 ++ by4 12 ++ by4 0)],
        cm 0 [(0, by4 256), (6, [0x11]), (8, by2 3 ++ by2 3 ++ by2 1 ++ by2 1), (16, by4 12 ++ by4 0 ++ by4 0)]]).writeMem (spBase
      + 15 * spSize + 128) (by4 65536 ++ zeros 128 ++ zeros 4 ++ by4 7 ++ zeros 8 ++ by4 7 ++ zeros 8 ++ by4 7), 15, cm 0x42
      [(8, [0, 1, 2]), (14, [1])], 1, 1, 0, 0, by simp only [Plainly, Issues, InScratch, IsRow]; decide +kernel⟩,
    ⟨(lz [] [cm 0x44 [(8, [0, 1])]] [one 64,
        cm 0 [(0, by4 128), (6, [7]), (8, by2 3 ++ by2 1 ++ by2 1 ++ by2 1), (16, by4 0 ++ by4 0 ++ by4 0)], one 256]).writeMem
      (spBase + 15 * spSize + 128) (by4 7 ++ by4i (-2) ++ by4 7), 15, cm 0x44 [(8, [0, 1])],
      by simp only [Plainly, Issues, InScratch, IsRow]; decide +kernel⟩,
    ⟨(lz [] [cm 0x45 [(8, [0, 1, 2]), (14, [15])]] [one 64, one 128, one 132]).writeMem (spBase + 15 * spSize + 128) (by4 7 ++
      by4i (-2)), 15, cm 0x45 [(8, [0, 1, 2]), (14, [15])], 9, by simp only [Plainly, Issues, InScratch, IsRow]; decide +kernel⟩,
    ⟨(lz [] [cm 0x49 [(8, [0, 1]), (16, [0xFE])]] [one 64, one 128, one 132]).writeMem (spBase + 15 * spSize + 128) (by4 8), 15,
      cm 0x49 [(8, [0, 1]), (16, [0xFE])], by simp only [Plainly, Issues, InScratch, IsRow]; decide +kernel⟩,
    ⟨(lz [] [cm 0x4A [(8, [0, 1]), (14, [2])]] [one 64, one 128, one 132]).writeMem (spBase + 15 * spSize + 128) (by4i
      (-16777216)), 15, cm 0x4A [(8, [0, 1]), (14, [2])], by simp only [Plainly, Issues, InScratch, IsRow]; decide +kernel⟩,
    ⟨(lz [] [cm 0x4A [(8, [0, 1])]] [cm 0 [(0, by4 64), (6, [7]), (8, by2 2 ++ by2 1 ++ by2 1 ++ by2 1), (16, by4 0 ++ by4 0 ++ by4 0)],
        cm 0 [(0, by4 128), (6, [7]), (8, by2 2 ++ by2 1 ++ by2 1 ++ by2 1), (16, by4 0 ++ by4 0 ++ by4 0)]]).writeMem (spBase +
      15 * spSize + 128) (by4 12 ++ by4 4), 15, cm 0x4A [(8, [0, 1])], 8, 2,
      by simp only [Plainly, Issues, InScratch, IsRow]; decide +kernel⟩⟩

/-- The hypotheses of `Obligations.KvCommands` are met, those of each clause. -/
theorem met_KvCommands :
    (∃ (s : State) (n : Nat) (c : List Byte) (k : Nat) (a : Nat), let l := u8 c 10
      let pos := (s.kvSeq a).len l
      let m := u16 c 20
      let len := m * s.kvTok k
      Issues s 0x84 .access n c ∧ KvReady s n c true k a ∧ (∀ g, g ≤ (pos + m - 1) / 256 → pos / 256 ≤ g → (s.ptGet k a (s.kvSeq
        a).bank g l).isSome = true) ∧ pos + m ≤ 256 * (4096 / s.kvpCacheCfg_NLAYER k) ∧ (s.spRead n (s.spAddr n c) len).isSome =
        true ∧ (s.spRead n ((s.spAddr n c + u32 c 16) % 2 ^ 40) len).isSome = true) ∧
    (∃ (s : State) (n : Nat) (c : List Byte) (k : Nat) (a : Nat) (p : Nat) (ks : List Byte) (vs : List Byte), let l := u8 c 10
      let q := s.kvSeq a
      let pos := q.len l
      let g := pos / 256
      Issues s 0x84 .access n c ∧ KvReady s n c true k a ∧ u16 c 20 = 1 ∧ pos + 1 ≤ 256 * (4096 / s.kvpCacheCfg_NLAYER k) ∧
        (s.ptGet k a q.bank g l = some p ∨ s.ptGet k a q.bank g l = none ∧ 0 < s.kvFree k ∧ p = lowestFree 0 ((Tab.get [] k
        s.kvp.used).map fun u => u.1)) ∧ p < 2 ^ 18 ∧ (s.ptAddr k a q.bank g l + 4 ≤ s.kvAt k p 0 0 ∨ s.kvAt k p 0 0 + s.kvPb k ≤
        s.ptAddr k a q.bank g l) ∧ s.inDram (s.ptAddr k a q.bank g l) 4 = true ∧ s.inDram (s.kvAt k p 0 0) (s.kvPb k) = true ∧
        s.spRead n (s.spAddr n c) (s.kvTok k) = some ks ∧ s.spRead n ((s.spAddr n c + u32 c 16) % 2 ^ 40) (s.kvTok k) = some vs) ∧
    (∃ (s : State) (n : Nat) (c : List Byte), Issues s 0x84 .access n c ∧ s.ctxVoid = false ∧ s.kvOn (u8 c 8 % 4) = false) ∧
    (∃ (s : State) (n : Nat) (c : List Byte) (k : Nat) (a : Nat), let prov := s.unsettled s.rly.we
      Issues s 0x85 .access n c ∧ KvReady s n c false k a ∧ (prov = true → ∀ m ∈ s.kvp.log, m.seq = a → m.final = false → ∀ x y z,
        m.kind ≠ .reset x y z)) ∧
    (∃ (s : State) (n : Nat) (c : List Byte) (k : Nat) (a : Nat), Issues s 0x86 .access n c ∧ KvReady s n c false k a) ∧
    (∃ (s : State) (n : Nat) (c : List Byte) (k : Nat) (a : Nat), Issues s 0x87 .access n c ∧ KvFinds s n c (decide (u8 c 12 = 0))
        k a) ∧
    (∃ (s : State) (o : Op), Heads s 0x28 o) :=
  ⟨⟨az (la (cm 0x84 [(9, [0]), (11, [15]), (12, by4 64), (16, by4 64), (20, by2 1)])), 0, cm 0x84
      [(9, [0]), (11, [15]), (12, by4 64), (16, by4 64), (20, by2 1)], 0, 0,
      by simp only [Issues, KvReady, KvFinds]; decide +kernel⟩,
    ⟨wr .kvpCacheBase 0 0 0x800000 (az (la (cm 0x84 [(9, [0]), (11, [15]), (12, by4 64), (16, by4 64), (20, by2 1)]))), 0, cm 0x84
      [(9, [0]), (11, [15]), (12, by4 64), (16, by4 64), (20, by2 1)], 0, 0, 0, ((wr .kvpCacheBase 0 0 0x800000 (az (la (cm 0x84
      [(9, [0]), (11, [15]), (12, by4 64), (16, by4 64), (20, by2 1)])))).spRead 0 64 32).getD [], ((wr .kvpCacheBase 0 0 0x800000
      (az (la (cm 0x84 [(9, [0]), (11, [15]), (12, by4 64), (16, by4 64), (20, by2 1)])))).spRead 0 128 32).getD [],
      by simp only [Issues, KvReady, KvFinds]; decide +kernel⟩,
    ⟨la (cm 0x84 [(8, [3]), (11, [15])]), 15, cm 0x84 [(8, [3]), (11, [15])], by simp only [Issues]; decide +kernel⟩,
    ⟨az (la (cm 0x85 [(11, [15]), (16, [15, 0, 255]), (28, by4 77)])), 0, cm 0x85 [(11, [15]), (16, [15, 0, 255]), (28, by4 77)],
      0, 0,
      ⟨by simp only [Issues]; decide +kernel, by simp only [KvReady, KvFinds]; decide +kernel, fun _ m h => by cases (h : m
      ∈ ([] : List KvMut))⟩⟩,
    ⟨(az (la (cm 0x86 [(11, [15]), (16, [15]), (28, by4 77)]))).modKvp fun x => { x with seqs := [(0, { lens := [(0, 40)] })] },
      0, cm 0x86 [(11, [15]), (16, [15]), (28, by4 77)], 0, 0, by simp only [Issues, KvReady, KvFinds]; decide +kernel⟩,
    ⟨(az (la (cm 0x87 [(11, [15]), (12, [3])]))).modKvp fun x => { x with seqs := [(0, { lens := [(0, 40)] })] }, 0, cm 0x87
      [(11, [15]), (12, [3])], 0, 0, by simp only [Issues, KvFinds]; decide +kernel⟩,
    ⟨withOp (op (desc 0x28 0 [] [5]) false) z, op (desc 0x28 0 [] [5]) false, by simp only [Heads]; decide +kernel⟩⟩

/-- The hypotheses of `Obligations.KvFollowsTracker` are met, those of each clause. -/
theorem met_KvFollowsTracker :
    (∃ (s : State) (r : Rec) (rest : List TrkTok), s.rly.trackq = .notice r :: rest ∧ epSeq r.epoch ≠ 0 ∧ viewOf s.rly.tracker
        r.epoch = 0 ∧ r.type ≠ 0x1F) ∧
    (∃ (s : State) (e : Epoch) (t0 : DT64) (rest : List BandTok), s.pan.sluice = .rcl e t0 :: rest ∧ s.rly.bandq.length < 64 ∧
        epSeq e ≠ 0 ∧ viewOf s.rly.tracker e = 0) ∧
    (∃ (s : State) (c : Nat) (a : Nat) (rest : List (Nat × Nat)), s.kvp.later = (c, a) :: rest ∧ s.attending a = false) ∧
    (∃ (s : State), (∀ x ∈ s.kvp.later, s.attending x.2 = true)) :=
  ⟨⟨z.modRly fun r => { r with trackq := [.notice (noticeRec false 0x2001 0)] }, noticeRec false 0x2001 0, [], by decide +kernel⟩,
    ⟨z.modPan fun p => { p with sluice := [.rcl 0x2001 0] }, 0x2001, 0, [], by decide +kernel⟩,
    ⟨z.modKvp fun x => { x with later := [(3, 0)], log := [⟨3, 0, 0x0001, false, .append 0 1 0, {}, true⟩] }, 3, 0, [],
      by decide +kernel⟩,
    ⟨z.modKvp fun x => { x with log := [⟨3, 0, 0x0001, false, .append 0 1 0, {}, false⟩] }, by decide +kernel⟩⟩

/-- The hypotheses of `Obligations.HeatsRun` are met, those of each clause. -/
theorem met_HeatsRun :
    (∃ (s : State) (h0 : Heat) (b : Nat), let h : Heat := { h0 with
          head := s.readMem h0.addr 64, startAt := s.now, nprob := headNprob (s.readMem h0.addr 64), order :=
            ((s.schedule (u16 (s.readMem h0.addr 64) 16)).map sdN).getD 0 }
      s.islandUp 7 = true ∧ s.slv.candidate = some h0 ∧ s.slv.heats = [] ∧ s.slv.loadFirst h0 = false ∧ s.slv.notices = [] ∧
        h0.baton = some b ∧ h0.host = none ∧ h0.results = [] ∧ s.inDram h0.addr 64 = true ∧ s.heatRefusal h = none ∧ h.nprob ≠ 0 ∧
        recalledIn s.slv.view h0.epoch = false ∧ s.slvUnits ≠ []) ∧
    (∃ (s : State) (h0 : Heat) (b : Nat), s.islandUp 7 = true ∧ s.slv.candidate = some h0 ∧ s.slv.heats = [] ∧ s.slv.loadFirst h0
        = false ∧ s.slv.notices = [] ∧ h0.baton = some b ∧ (s.baton b).state = 2 ∧ s.slvCtrl_EN = false) ∧
    (∃ (s : State) (u : Nat) (h : Heat) (p : Nat) (l : List Nat) (b : List Byte), s.slv.dealing = some h ∧ s.heat h.no = some h ∧
        s.slv.notices = [] ∧ u ∈ s.slvUnits ∧ (∀ x ∈ s.slv.units, x.1 ≠ u) ∧ s.heatStop h = none ∧ h.todeal = p :: l ∧ s.schedule
        h.sched = some b ∧ s.problemBad h b p = false) ∧
    (∃ (s : State) (u : Nat) (r : UnitRun) (h : Heat) (b : List Byte), let o := s.solve h b r.prob r.startAt
      s.slv.units.find? (fun x => decide (x.1 = u)) = some (u, r) ∧ s.slv.notices = [] ∧ s.heat r.heat = some h ∧ h.no = r.heat ∧
        h.host = none ∧ s.schedule h.sched = some b ∧ (Tab.set r.prob (o.code, o.pflags) h.results).length ≠ h.nprob) ∧
    (∃ (s : State) (u : Nat) (r : UnitRun) (h : Heat) (b : List Byte) (k : Nat), let o := s.solve h b r.prob r.startAt
      s.slv.units.find? (fun x => decide (x.1 = u)) = some (u, r) ∧ s.slv.notices = [] ∧ s.heat r.heat = some h ∧ h.no = r.heat ∧
        h.host = none ∧ s.schedule h.sched = some b ∧ (Tab.set r.prob (o.code, o.pflags) h.results).length = h.nprob ∧ h.baton =
        some k ∧ (s.baton k).state = 2) ∧
    (∃ (s : State) (h : Heat) (d : DT64), s.slv.notices = [] ∧ s.slv.heats = [h] ∧ h.undealt ≠ [] ∧ h.deadline = some d ∧
        ({ s with now := max s.now (s.whenDev d) } : State).heatLate h = true) ∧
    (∃ (s : State) (x : Notice) (rest : List (Bool × Notice)), s.slv.notices = (false, x) :: rest ∧ epSeq x.epoch ≠ 0 ∧ viewOf
        s.slv.view x.epoch = 0) ∧
    (∃ (s : State) (h : Heat) (x : Notice) (rest : List (Bool × Notice)), s.slv.notices = (true, x) :: rest ∧ epSeq x.epoch ≠ 0 ∧
        viewOf s.slv.view x.epoch = 0 ∧ s.slv.heats = [h] ∧ recalledIn (viewNotice s.slv.view true x.epoch x.named) h.epoch =
        true) :=
  ⟨⟨vz.modSlv fun v => { v with intake := [ht] }, ht, 3, by dsimp only; decide +kernel⟩,
    ⟨((wr .slvCtrl 0 0 0 vz).modSlv fun v => { v with intake := [ht] }).modRly fun r =>
      { r with batons := [(3, { state := 2 })] }, ht, 3, by decide +kernel⟩,
    ⟨vz.modSlv fun v => { v with heats := [hr] }, 15, hr, 0, [1], sched, by decide +kernel⟩,
    ⟨vz.modSlv fun v => { v with heats := [{ hr with next := 1 }], units := [(15, ⟨0, 0, 0⟩)] }, 15, ⟨0, 0, 0⟩,
      { hr with next := 1 }, sched, by dsimp only; decide +kernel⟩,
    ⟨(vz.modSlv fun v => { v with heats := [{ hr with next := 2, results := [(1, (0, 0))] }], units := [(15, ⟨0, 0, 0⟩)] }).modRly
      fun r => { r with batons := [(3, { state := 2 })] }, 15, ⟨0, 0, 0⟩, { hr with next := 2, results := [(1, (0, 0))] }, sched,
      3, by dsimp only; decide +kernel⟩,
    ⟨vz.modSlv fun v => { v with heats := [hr] }, hr, BitVec.ofNat 64 (nsToDt 900000), by decide +kernel⟩,
    ⟨vz.modSlv fun v => { v with notices := [(false, ⟨0x2001, 0, []⟩)] }, ⟨0x2001, 0, []⟩, [], by decide +kernel⟩,
    ⟨vz.modSlv fun v => { v with notices := [(true, ⟨0x2001, 0, []⟩)], heats := [{ hr with epoch := 0x2001 }] },
      { hr with epoch := 0x2001 }, ⟨0x2001, 0, []⟩, [], by decide +kernel⟩⟩

/-- The hypotheses of `Obligations.SolverUnits` are met, those of each clause. -/
theorem met_SolverUnits :
    (∃ (s : State) (o : Op), Heads s 0x22 o ∧ s.slv.load = none) ∧
    (∃ (s : State) (x : Load) (o : Op), let img := s.readMem x.addr x.len
      s.slv.load = some x ∧ s.hl.ops.find? (Op.is x.ring x.didx) = some o ∧ (∀ h ∈ s.slv.intake ++ s.slv.heats, h.sched = x.slot →
        x.heatNo ≤ h.no) ∧ schedVerify img x.len = none) ∧
    (∃ (s : State) (x : Load) (o : Op) (r : Nat) (i : Nat), let img := s.readMem x.addr x.len
      s.slv.load = some x ∧ s.hl.ops.find? (Op.is x.ring x.didx) = some o ∧ (∀ h ∈ s.slv.intake ++ s.slv.heats, h.sched = x.slot →
        x.heatNo ≤ h.no) ∧ schedVerify img x.len = some (r, i) ∧ r ≠ 0) ∧
    (∃ (s : State) (u : Nat) (r : UnitRun) (h : Heat), u < 16 ∧ HasRoom s 0x5C ∧ s.slv.notices = [] ∧ s.slv.units.find? (fun x =>
        decide (x.1 = u)) = some (u, r) ∧ s.heat r.heat = some h ∧ (∃ k ∈ s.slvUnits, k ≠ u)) ∧
    (∃ (s : State) (k : Nat), k < 64 ∧ HasRoom s 0x5C ∧ s.slv.notices = [] ∧ s.slv.heats = []) ∧
    (∃ (s : State) (k : Nat), k < 64 ∧ HasRoom s 0x5C ∧ s.slv.notices = []) ∧
    (∃ (s : State) (v : Word) (failing : Nat) (u : Nat), RegOpen s .slvUnits 0 0 ∧ u < 16 ∧ bit v.toNat (16 + u) = true ∧ bit
        s.slv.fenced u = true ∧ Tab.get (s.now + 1) u s.slv.fencedAt ≠ s.now ∧ bit failing u = false) :=
  ⟨⟨withOp (op (desc 0x22 0 [] (by8 0x8000 ++ by4 64 ++ by1 63)) false) z, op (desc 0x22 0 [] (by8 0x8000 ++ by4 64 ++ by1 63))
      false, by simp only [Heads]; decide +kernel⟩,
    ⟨((withOp (op (desc 0x22 0 [] []) true) z).writeMem 0x8000 (signed 2 (zeros 64 ++ sched))).modSlv fun v =>
      { v with load := some ⟨0x8000, 288, 63, 0, 0, 0⟩ }, ⟨0x8000, 288, 63, 0, 0, 0⟩, op (desc 0x22 0 [] []) true,
      by dsimp only; decide +kernel⟩,
    ⟨(withOp (op (desc 0x22 0 [] []) true) z).modSlv fun v =>
      { v with load := some ⟨0x8000, 288, 63, 0, 0, 0⟩, scheds := [(63, [])] }, ⟨0x8000, 288, 63, 0, 0, 0⟩, op (desc 0x22 0 [] [])
      true, 1, 0x50000000, by dsimp only; decide +kernel⟩,
    ⟨vz.modSlv fun v => { v with heats := [hr], units := [(15, ⟨0, 1, 0⟩)] }, 15, ⟨0, 1, 0⟩, hr,
      by simp only [HasRoom]; decide +kernel⟩,
    ⟨vz, 5, by simp only [HasRoom]; decide +kernel⟩,
    ⟨hz, 63, by simp only [HasRoom]; decide +kernel⟩,
    ⟨z.modSlv fun v => { v with fenced := 0x8000 }, 0x80000000, 0, 15, by simp only [RegOpen]; decide +kernel⟩⟩

/-- The hypotheses of `Obligations.ProgramsExchange` are met, those of each clause. -/
theorem met_ProgramsExchange :
    (∃ (s : State) (o : Op), Heads s 0x20 o ∧ s.rly.prog.load = none ∧ s.rly.prog.exch = none ∧ s.rly.prog.standby ≠ 3) ∧
    (∃ (s : State) (x : Load) (o : Op), let img := s.readMem x.addr x.len
      s.rly.prog.load = some x ∧ s.hl.ops.find? (Op.is x.ring x.didx) = some o ∧ progVerify img x.len = none) ∧
    (∃ (s : State) (x : Load) (o : Op) (r : Nat) (i : Nat), let img := s.readMem x.addr x.len
      s.rly.prog.load = some x ∧ s.hl.ops.find? (Op.is x.ring x.didx) = some o ∧ progVerify img x.len = some (r, i) ∧ r ≠ 0) ∧
    (∃ (s : State) (o : Op), Heads s 0x21 o ∧ s.rly.prog.exch = none ∧ s.rly.prog.standby = 2 ∧ s.rlyCtrl_EN = true ∧
        s.activeImage ≠ [] ∧ s.flt.safe = false) ∧
    (∃ (s : State) (o : Op), Heads s 0x21 o ∧ s.rly.prog.exch = none ∧ s.rly.prog.standby = 2 ∧ s.rlyCtrl_EN = false) ∧
    (∃ (s : State) (o : Op), Heads s 0x21 o ∧ s.rly.prog.exch = none ∧ s.rly.prog.standby < 2) ∧
    (∃ (s : State) (v : Word) (x : Exchange) (o : Op), RegOpen s .rlyProg 0 0 ∧ bit v.toNat 0 = true ∧ s.rly.prog.exch = some x ∧
        x.switched = false ∧ s.hl.ops.find? (Op.is x.ring x.didx) = some o) ∧
    (∃ (s : State) (k : Nat), s.rly.prog.change = some k ∧ s.rly.prog.stopA = false ∧ s.rly.prog.stopE = false ∧ s.atRest = true) ∧
    (∃ (s : State), s.rly.prog.standby = 3 ∧ s.retired = true ∧ s.rly.prog.running = s.rly.prog.active) ∧
    (∃ (s : State), s.rly.prog.standby ≠ 3 ∧ s.rly.prog.load = none ∧ s.rly.prog.exch = none ∧ HasRoom s 0x5A) ∧
    (∃ (s : State), HasRoom s 0x5A) ∧
    (∃ (s : State), HasRoom s 0x5A) :=
  ⟨⟨withOp (op (desc 0x20 0 [] (by8 0x8000 ++ by4 128)) false) z, op (desc 0x20 0 [] (by8 0x8000 ++ by4 128)) false,
      by simp only [Heads]; decide +kernel⟩,
    ⟨((withOp (op (desc 0x20 0 [] []) true) z).writeMem 0x8000 goodProg).modProg fun p =>
      { p with load := some { addr := 0x8000, len := 128, ring := 0, didx := 0 } },
      { addr := 0x8000, len := 128, ring := 0, didx := 0 }, op (desc 0x20 0 [] []) true, by dsimp only; decide +kernel⟩,
    ⟨(withOp (op (desc 0x20 0 [] []) true) z).modProg fun p =>
      { p with load := some { addr := 0x8000, len := 128, ring := 0, didx := 0 } },
      { addr := 0x8000, len := 128, ring := 0, didx := 0 }, op (desc 0x20 0 [] []) true, 1, 0, by dsimp only; decide +kernel⟩,
    ⟨withOp (op (desc 0x21 0 [] [0, 2]) false) ((la (cm 0x20 [])).modProg fun p => { p with standby := 2 }), op (desc 0x21 0 []
      [0, 2]) false, by simp only [Heads]; decide +kernel⟩,
    ⟨withOp (op (desc 0x21 0 [] [0, 2]) false) (z.modProg fun p => { p with standby := 2, slots := [(1, goodProg)] }), op (desc
      0x21 0 [] [0, 2]) false, by simp only [Heads]; decide +kernel⟩,
    ⟨withOp (op (desc 0x21 0 [] [0, 2]) false) z, op (desc 0x21 0 [] [0, 2]) false, by simp only [Heads]; decide +kernel⟩,
    ⟨withOp (op (desc 0x21 0 [] [0, 2]) true) (z.modProg fun p =>
      { p with standby := 2, exch := some { cancel := false, fmask := 2, ring := 0, didx := 0 } }), 1,
      { cancel := false, fmask := 2, ring := 0, didx := 0 }, op (desc 0x21 0 [] [0, 2]) true,
      by simp only [RegOpen]; decide +kernel⟩,
    ⟨(lz [cm 0x20 []] [cm 0x49 [(8, [0, 1])]] [one 64, oneQ]).modProg fun p =>
      { p with change := some 1, slots := p.slots ++ [(1, goodProg)] }, 1, by decide +kernel⟩,
    ⟨z.modProg fun p => { p with standby := 3, reached := 255, active := 1, running := 1, slots := [(1, goodProg)] },
      by decide +kernel⟩,
    ⟨z.modProg fun p => { p with standby := 2, slots := [(1, goodProg)] }, by simp only [HasRoom]; decide +kernel⟩,
    ⟨z.modProg fun p => { p with slots := [(0, goodProg)] }, by simp only [HasRoom]; decide +kernel⟩,
    ⟨hz, by simp only [HasRoom]; decide +kernel⟩⟩

/-- The hypotheses of `Obligations.DebugStops` are met, those of each clause. -/
theorem met_DebugStops :
    (∃ (s : State) (b : Nat), let st := if s.rlyBrkCtrl_STREAM b then Stream.execute else Stream.access
      let l0 := s.lane s.lane0
      b < 2 ∧ (if st = .access then s.rly.prog.stopA else s.rly.prog.stopE) = false ∧ s.rlyCtrl_EN = true ∧ s.lanesIn ≠ [] ∧ l0.pc
        st < imgCount s.image st ∧ (∀ n ∈ s.lanesIn, (s.lane n).pos st = l0.pos st ∧ (s.lane n).runs st = 0 ∧ s.breakHolds b st n
        (imgCmd s.image st (l0.pc st)) = true)) ∧
    (∃ (s : State) (v : Word), RegOpen s .rlyDbgCmd 0 0 ∧ bit v.toNat 3 = true ∧ bit v.toNat 2 = false) ∧
    (∃ (s : State) (v : Word), RegOpen s .rlyDbgCmd 0 0 ∧ bit v.toNat 0 = true ∧ bit v.toNat 2 = false ∧ s.rly.prog.stopA = true) ∧
    (∃ (s : State) (v : Word), RegOpen s .rlyDbgCmd 0 0 ∧ bit v.toNat 1 = true ∧ bit v.toNat 2 = false ∧ s.rly.prog.stopE = true) ∧
    (∃ (s : State) (v : Word), RegOpen s .rlyDbgCmd 0 0 ∧ bit v.toNat 2 = true) :=
  ⟨⟨wr .rlyBrkCtrl 1 0 0xE0000007 (lz [] [cm 0x2F [(2, by2 7)]] []), 1, by dsimp only; decide +kernel⟩,
    ⟨z, 8, by simp only [RegOpen]; decide +kernel⟩,
    ⟨z.modProg fun p => { p with stopA := true, stopE := true }, 1, by simp only [RegOpen]; decide +kernel⟩,
    ⟨z.modProg fun p => { p with stopA := true, stopE := true }, 2, by simp only [RegOpen]; decide +kernel⟩,
    ⟨z.modProg fun p => { p with stopA := true, stopE := true, hit := 3 }, 4, by simp only [RegOpen]; decide +kernel⟩⟩

/-- The hypotheses of `Obligations.VerdictsBind` are met, those of each clause. -/
theorem met_VerdictsBind :
    (∃ (s : State) (r : Intake) (rest : List Intake) (q : Request), let b : Bearer := ⟨BitVec.ofNat 16 (u16 r.data 4), u8 r.data
        3, BitVec.ofNat 32 (u32 r.data 16), r.slot, if r.host then .host else .verdict⟩
      let e : Entry := {
          no := s.act.entryNo, out := q.out, position := q.position, frame := q.frame, trig := q.trig, key := q.key, width :=
            s.widthOf q.out q.width, origin := b.origin, bind := some (s.bindingOf q b), nbind := 1, state := stateOf
            (some (s.bindingOf q b)) }
      s.act.intake = r :: rest ∧ s.act.notices = [] ∧ s.flt.safe = false ∧ u8 r.data 0 = 0x60 ∧ 2 ≤ u16 r.data 6 ∧ r.dead = false
        ∧ verdictRequests r.data = [q] ∧ s.refusedReq q = false ∧ (∀ x ∈ s.act.entries, s.matches q x = false) ∧ Opens s e) ∧
    (∃ (s : State) (r : Intake) (rest : List Intake) (q : Request) (e : Entry), s.act.intake = r :: rest ∧ s.act.notices = [] ∧
        s.flt.safe = false ∧ u8 r.data 0 = 0x60 ∧ 2 ≤ u16 r.data 6 ∧ r.dead = false ∧ verdictRequests r.data = [q] ∧ s.refusedReq
        q = false ∧ nearest q (s.act.entries.filter fun x => s.matches q x && !x.fixed) = some e ∧ s.entry e.no = some e) ∧
    (∃ (s : State) (r : Intake) (rest : List Intake) (q : Request) (e : Entry), s.act.intake = r :: rest ∧ s.act.notices = [] ∧
        s.flt.safe = false ∧ u8 r.data 0 = 0x60 ∧ 2 ≤ u16 r.data 6 ∧ r.dead = false ∧ verdictRequests r.data = [q] ∧ s.refusedReq
        q = false ∧ nearest q (s.act.entries.filter fun x => s.matches q x && !x.fixed) = none ∧ nearest q (s.act.entries.filter
        fun x => s.matches q x) = some e ∧ s.entry e.no = some e) ∧
    (∃ (s : State) (r : Intake) (rest : List Intake) (q : Request), s.act.intake = r :: rest ∧ s.act.notices = [] ∧ s.flt.safe =
        false ∧ u8 r.data 0 = 0x60 ∧ 2 ≤ u16 r.data 6 ∧ r.dead = false ∧ verdictRequests r.data = [q] ∧ s.refusedReq q = true) ∧
    (∃ (s : State) (r : Intake) (rest : List Intake) (q : Request), s.act.intake = r :: rest ∧ s.act.notices = [] ∧ s.flt.safe =
        false ∧ u8 r.data 0 = 0x60 ∧ 2 ≤ u16 r.data 6 ∧ r.dead = false ∧ verdictRequests r.data = [q] ∧ s.refusedReq q = false ∧
        (∀ x ∈ s.act.entries, s.matches q x = false) ∧ 4096 ≤ s.act.entries.length) ∧
    (∃ (s : State) (r : Intake) (rest : List Intake), s.act.intake = r :: rest ∧ s.act.notices = [] ∧ s.flt.safe = false ∧ u8
        r.data 0 = 0x60 ∧ 2 ≤ u16 r.data 6 ∧ r.dead = true) ∧
    (∃ (s : State) (r : Intake) (rest : List Intake), s.act.intake = r :: rest ∧ s.act.notices = [] ∧ s.flt.safe = true) ∧
    (∃ (s : State) (r : Intake) (rest : List Intake), s.act.intake = r :: rest ∧ s.act.notices = [] ∧ s.flt.safe = false ∧ (u8
        r.data 0 = 0 ∨ u16 r.data 6 < 2) ∧ HasRoom s 0x5D) ∧
    (∃ (s : State) (r : Intake) (rest : List Intake), s.act.intake = r :: rest ∧ s.act.notices = [] ∧ s.flt.safe = false ∧ u8
        r.data 0 ≠ 0 ∧ u8 r.data 0 ≠ 0x60 ∧ 2 ≤ u16 r.data 6) ∧
    (∃ (s : State) (o : Op), let q := s.armClamp (requestOf (o.inl 0 16))
      let e : Entry := {
          no := s.act.entryNo, out := q.out, position := q.position, frame := q.frame, trig := q.trig, key := q.key, width :=
            s.widthOf q.out q.width, origin := .host, bind := some (s.bindingOf q ⟨0, 0, 0, none, .host⟩), nbind := 1, state :=
            .armed }
      Heads s 0x30 o ∧ s.act.intake = [] ∧ s.act.notices = [] ∧ s.flt.safe = false ∧ u8 o.desc 8 ≤ 1 ∧ s.refusedReq q = false ∧ (∀
        x ∈ s.act.entries, s.matches q x = false) ∧ Opens s e) ∧
    (∃ (s : State) (o : Op), let q := s.armClamp (requestOf (o.inl 0 16))
      Heads s 0x30 o ∧ s.act.intake = [] ∧ s.act.notices = [] ∧ s.flt.safe = false ∧ u8 o.desc 8 ≤ 1 ∧ s.refusedReq q = true) ∧
    (∃ (s : State) (o : Op), Heads s 0x30 o ∧ s.act.intake = [] ∧ s.act.notices = [] ∧ s.flt.safe = true) ∧
    (∃ (s : State) (n : Nat) (cur : WP48) (g : WP48), let f := s.actExp_FRAME n
      let p := nextPitch g (s.actExpPhase_PHASE n) (s.actExpPitch_UNITS n)
      let e := { s.expectEntry n f p with no := s.act.entryNo }
      n < 32 ∧ s.outEnabled n = true ∧ s.actExp_MODE n = 1 ∧ (s.motion f).absent = false ∧ s.flt.safe = false ∧ (s.motion
        f).lastPos = some cur ∧ (s.outp n).genPos = some g ∧ 0 ≤ wpSub cur p ∧ Opens s e) ∧
    (∃ (s : State) (n : Nat) (x : DT64) (rest : List DT64) (c : DT64) (p : WP48), let f := s.actExp_FRAME n
      let e := { s.expectEntry n f p with no := s.act.entryNo }
      n < 32 ∧ s.outEnabled n = true ∧ s.actExp_MODE n = 2 ∧ (s.motion f).absent = false ∧ s.flt.safe = false ∧ (s.outp n).genCap
        = x :: rest ∧ (s.motion f).tconf = some c ∧ dtGe c x = true ∧ (s.motion f).confirmed x = some p ∧ Opens s e) ∧
    (∃ (s : State) (t : State) (r : Intake) (irest : List Intake) (rcl : Bool) (ep : Epoch) (rest : List (Bool × Epoch × Nat)),
        s.act.intake = r :: irest ∧ s.act.notices = (rcl, ep, 0) :: rest ∧ exec .actNotice s = .next t) ∧
    (∃ (s : State) (t : State) (r : Intake) (irest : List Intake) (rcl : Bool) (ep : Epoch) (k : Nat) (rest : List (Bool × Epoch ×
        Nat)), s.act.intake = r :: irest ∧ s.act.notices = (rcl, ep, k + 1) :: rest ∧ exec .verdictIntake s = .next t) ∧
    (∃ (s : State) (rcl : Bool) (ep : Epoch) (rest : List (Bool × Epoch × Nat)), s.act.notices = (rcl, ep, 0) :: rest ∧ s.flt.safe
        = false ∧ (epSeq ep = 0 ∨ viewOf s.act.view ep ≠ 0 ∨ Tab.get 0 (epFrame ep) s.act.sealed ≠ 0 ∧ seqGe (Tab.get 0 (epFrame
        ep) s.act.sealed) (epSeq ep) = true) ∧ HasRoom s 0x5D) ∧
    (∃ (s : State) (rcl : Bool) (ep : Epoch) (rest : List (Bool × Epoch × Nat)), s.act.notices = (rcl, ep, 0) :: rest ∧ s.flt.safe
        = false ∧ (epSeq ep = 0 ∨ viewOf s.act.view ep ≠ 0 ∨ Tab.get 0 (epFrame ep) s.act.sealed ≠ 0 ∧ seqGe (Tab.get 0 (epFrame
        ep) s.act.sealed) (epSeq ep) = true) ∧ HasRoom s 0x5D) ∧
    (∃ (s : State) (rcl : Bool) (ep : Epoch) (rest : List (Bool × Epoch × Nat)) (i : Nat) (e : Entry), s.act.notices = (rcl, ep,
        0) :: rest ∧ s.act.entries[i]? = some e ∧ s.flt.safe = false ∧ epSeq ep ≠ 0 ∧ viewOf s.act.view ep = 0 ∧ (Tab.get 0
        (epFrame ep) s.act.sealed = 0 ∨ seqGe (Tab.get 0 (epFrame ep) s.act.sealed) (epSeq ep) = false)) :=
  ⟨⟨xin (vrec 5) xz, ⟨vrec 5, some 0, false, false⟩, [], requestOf (reqB 5), by simp only [Opens]; decide +kernel⟩,
    ⟨xin (vrec 5) (xe { en with state := .opened, bind := none }), ⟨vrec 5, some 0, false, false⟩, [], requestOf (reqB 5),
      { en with state := .opened, bind := none }, by decide +kernel⟩,
    ⟨xin (vrec 5) (xe { en with state := .committed }), ⟨vrec 5, some 0, false, false⟩, [], requestOf (reqB 5),
      { en with state := .committed }, by decide +kernel⟩,
    ⟨xin (vrec 33) xz, ⟨vrec 33, some 0, false, false⟩, [], requestOf (reqB 33), by decide +kernel⟩,
    ⟨(xin (vrec 5) xz).modAct fun a => { a with entries := List.replicate 4096 { en with out := 6 } }, ⟨vrec 5, some 0, false,
      false⟩, [], requestOf (reqB 5), by decide +kernel⟩,
    ⟨(xz.modAct fun a => { a with intake := [⟨vrec 5, some 0, false, true⟩] }), ⟨vrec 5, some 0, false, true⟩, [],
      by decide +kernel⟩,
    ⟨(xin (vrec 5) xz).modFlt fun f => { f with safe := true }, ⟨vrec 5, some 0, false, false⟩, [], by decide +kernel⟩,
    ⟨xin (zeros 32) xz, ⟨zeros 32, some 0, false, false⟩, [], by simp only [HasRoom]; decide +kernel⟩,
    ⟨xin (patch (vrec 5) 0 [0x61]) xz, ⟨patch (vrec 5) 0 [0x61], some 0, false, false⟩, [], by decide +kernel⟩,
    ⟨withOp (op (desc 0x30 0 [0] (reqB 5)) false) xz, op (desc 0x30 0 [0] (reqB 5)) false,
      by simp only [Opens, Heads]; decide +kernel⟩,
    ⟨withOp (op (desc 0x30 0 [1] (reqB 33)) false) xz, op (desc 0x30 0 [1] (reqB 33)) false, by simp only [Heads]; decide +kernel⟩,
    ⟨withOp (op (desc 0x30 0 [0] (reqB 5)) false) (xz.modFlt fun f => { f with safe := true, cause := 5 }), op (desc 0x30 0 [0]
      (reqB 5)) false, by simp only [Heads]; decide +kernel⟩,
    ⟨{ wr .actExpOff 15 0 0x40000000 xz with
        mot := [(1, { enabled := true, ticks := [⟨0, 0x2000000, 0, 0⟩], tconf := some 0, first := false })] }.modOut 15 fun o =>
      { o with genPos := some 0 }, 15, 0x200, 0, by simp only [Opens]; decide +kernel⟩,
    ⟨{ wr .actExpOff 15 0 0x40000000 (wr .actExp 15 0 0x81000000 xz) with
        mot := [(1, { enabled := true, ticks := [⟨0, 0x2000000, 0, 0⟩], tconf := some 0, first := false })] }.modOut 15 fun o =>
      { o with genCap := [0] }, 15, 0, [], 0, 0x200, by simp only [Opens]; decide +kernel⟩,
    ⟨xin (vrec 5) ((xe { en with bind := some ⟨true, 0x2003, 0, 0, none, .provisional, false⟩, state := .opened }).modAct fun a =>
      { a with notices := [(true, 0x2002, 0)] }), go [execActNotice] (xin (vrec 5) ((xe
      { en with bind := some ⟨true, 0x2003, 0, 0, none, .provisional, false⟩, state := .opened }).modAct fun a =>
      { a with notices := [(true, 0x2002, 0)] })), ⟨vrec 5, some 0, false, false⟩, [], true, 0x2002, [],
      ⟨by decide +kernel,
      by decide +kernel, by rfl⟩⟩,
    ⟨xin (vrec 5) ((xe { en with bind := some ⟨true, 0x2003, 0, 0, none, .provisional, false⟩, state := .opened }).modAct fun a =>
      { a with notices := [(false, 0x2003, 1)] }), go [execVerdictIntake] (xin (vrec 5) ((xe
      { en with bind := some ⟨true, 0x2003, 0, 0, none, .provisional, false⟩, state := .opened }).modAct fun a =>
      { a with notices := [(false, 0x2003, 1)] })), ⟨vrec 5, some 0, false, false⟩, [], false, 0x2003, 0, [],
      ⟨by decide +kernel,
      by decide +kernel, by rfl⟩⟩,
    ⟨xz.modAct fun a => { a with notices := [(true, 0x2000, 0)] }, true, 0x2000, [], by simp only [HasRoom]; decide +kernel⟩,
    ⟨xz.modAct fun a => { a with notices := [(false, 0x2001, 0)], sealed := [(1, 1)] }, false, 0x2001, [],
      by simp only [HasRoom]; decide +kernel⟩,
    ⟨(xe { en with bind := some ⟨true, 0x2003, 0, 0, none, .provisional, false⟩, state := .opened }).modAct fun a =>
      { a with notices := [(false, 0x2003, 0)] }, false, 0x2003, [], 0,
      { en with bind := some ⟨true, 0x2003, 0, 0, none, .provisional, false⟩, state := .opened }, by decide +kernel⟩⟩

/-- The hypotheses of `Obligations.ScheduleFires` are met, those of each clause. -/
theorem met_ScheduleFires :
    (∃ (s : State) (no : Nat) (e : Entry) (ct : DT64), let u := s.waitUntil (s.whenDev ct)
      let d := s.decisionOf e
      s.act.intake = [] ∧ s.act.notices = [] ∧ s.entry no = some e ∧ e.fixed = false ∧ s.commitTime e = some ct ∧ (d.1 = true →
        e.skipped = false → e.out ≠ 32 → u.latenessOf e ≤ 1000 * s.actGap_LATE_US e.out)) ∧
    (∃ (s : State) (no : Nat) (e : Entry) (ct : DT64), let u := s.waitUntil (s.whenDev ct)
      let d := s.decisionOf e
      s.act.intake = [] ∧ s.act.notices = [] ∧ s.entry no = some e ∧ e.fixed = false ∧ s.commitTime e = some ct ∧ d.1 = true ∧
        e.skipped = false ∧ e.out ≠ 32 ∧ 1000 * s.actGap_LATE_US e.out < u.latenessOf e ∧ s.flooding = false) ∧
    (∃ (s : State) (no : Nat) (e : Entry) (tc : DT64), s.entry no = some e ∧ e.state = .committed ∧ e.fire = true ∧ e.mute = false
        ∧ e.out ≠ 32 ∧ s.crossing e = some tc ∧ (s.outp e.out).trip = false ∧ s.outEnabled e.out = true ∧ s.pinHeld e.out = false) ∧
    (∃ (s : State) (no : Nat) (e : Entry) (tc : DT64), s.entry no = some e ∧ e.state = .committed ∧ e.fire = true ∧ e.mute = false
        ∧ e.out = 32 ∧ s.crossing e = some tc ∧ s.pinHeld 32 = false) ∧
    (∃ (s : State) (no : Nat) (e : Entry) (tc : DT64), s.entry no = some e ∧ e.state = .committed ∧ e.fire = true ∧ e.mute = false
        ∧ e.out ≤ 32 ∧ s.crossing e = some tc ∧ (e.out ≠ 32 → (s.outp e.out).trip = false ∧ s.outEnabled e.out = true) ∧ s.pinHeld
        e.out = true) ∧
    (∃ (s : State) (n : Nat), (s.outp n).drive = .full) ∧
    (∃ (s : State) (n : Nat), (s.outp n).drive = .full) ∧
    (∃ (s : State) (n : Nat), (s.outp n).drive = .hold) ∧
    (∃ (s : State) (no : Nat) (e : Entry) (tc : DT64), s.entry no = some e ∧ e.state = .committed ∧ s.crossing e = some tc ∧
        s.flooding = false) ∧
    (∃ (s : State) (no : Nat) (e : Entry) (tc : DT64), s.entry no = some e ∧ e.state = .committed ∧ s.crossing e = some tc ∧
        s.flooding = false) ∧
    (∃ (s : State) (no : Nat) (e : Entry) (tc : DT64), s.entry no = some e ∧ e.state = .committed ∧ s.crossing e = some tc ∧
        s.flooding = false) :=
  ⟨⟨xe en, 0, en, ((xe en).commitTime en).getD 0, by dsimp only; decide +kernel⟩,
    ⟨{ xe { en with trig := 0 } with now := 8000000000 }, 0, { en with trig := 0 }, (State.commitTime
      { xe { en with trig := 0 } with now := 8000000000 } { en with trig := 0 }).getD 0, by dsimp only; decide +kernel⟩,
    ⟨xe { en with state := .committed, fire := true }, 0, { en with state := .committed, fire := true }, 0x500000000,
      by decide +kernel⟩,
    ⟨xe { en with state := .committed, fire := true, out := 32 }, 0, { en with state := .committed, fire := true, out := 32 },
      0x500000000, by decide +kernel⟩,
    ⟨(xe { en with state := .committed, fire := true }).modAct fun a => { a with state := .safe }, 0,
      { en with state := .committed, fire := true }, 0x500000000, by decide +kernel⟩,
    ⟨wr .actHold 5 0 0x80000010 (xz.modOut 5 fun o => { o with drive := .full, phaseEnd := 9 }), 5, by decide +kernel⟩,
    ⟨(xe { en with trig := 0 }).modOut 5 fun o => { o with drive := .full, phaseEnd := 9 }, 5, by decide +kernel⟩,
    ⟨(xe { en with state := .firing }).modOut 5 fun o => { o with drive := .hold, phaseEnd := 9 }, 5, by decide +kernel⟩,
    ⟨xe { en with state := .committed }, 0, { en with state := .committed }, 0x500000000, by decide +kernel⟩,
    ⟨(xe { en with state := .committed, fire := true }).modOut 5 fun o => { o with trip := true }, 0,
      { en with state := .committed, fire := true }, 0x500000000, by decide +kernel⟩,
    ⟨xe { en with state := .committed, fire := true, flood := true }, 0,
      { en with state := .committed, fire := true, flood := true }, 0x500000000, by decide +kernel⟩⟩

/-- The hypotheses of `Obligations.OutputsStop` are met, those of each clause. -/
theorem met_OutputsStop :
    (∃ (s : State) (o : Op), Heads s 0x31 o) ∧
    (∃ (s : State) (v : Word), RegOpen s .actCtrl 0 0 ∧ bit v.toNat 0 = true ∧ s.actCtrl_EN = false ∧ s.act.floodIn = false) ∧
    (∃ (s : State) (v : Word), RegOpen s .actCtrl 0 0 ∧ bit v.toNat 0 = false ∧ s.actCtrl_EN = true) ∧
    (∃ (s : State) (n : Nat) (v : Word), n < 32 ∧ RegOpen s .actCfg n 0 ∧ bit v.toNat 31 = false ∧ s.actCfg_EN n = true) ∧
    (∃ (s : State) (v : Word), RegOpen s .actCtrl 0 0 ∧ bit v.toNat 0 = true ∧ bit v.toNat 1 = true ∧ s.actCtrl_EN = true ∧
        s.act.state = .safe) ∧
    (∃ (s : State) (v : Word), RegOpen s .actLstop 0 0 ∧ bit v.toNat 8 = true) ∧
    (∃ (s : State) (n : Nat), n < 16 ∧ s.islandUp 2 = true ∧ HasRoom s 0x5D) ∧
    (∃ (s : State) (n : Nat), n < 32 ∧ s.islandUp 2 = true ∧ HasRoom s 0x5D) ∧
    (∃ (s : State) (no : Nat) (e : Entry), s.entry no = some e ∧ HasRoom s 0x5D) ∧
    (∃ (s : State) (no : Nat) (e : Entry), s.entry no = some e ∧ HasRoom s 0x5D) ∧
    (∃ (s : State) (n : Nat) (x : Nat), (s.outp n).ueUntil = some x) ∧
    (∃ (s : State), s.aon.phase ≠ .held) :=
  ⟨⟨withOp (op (desc 0x31 0 [] [255, 255]) false) (xe en), op (desc 0x31 0 [] [255, 255]) false,
      by simp only [Heads]; decide +kernel⟩,
    ⟨wr .actCtrl 0 0 0 xz, 1, by simp only [RegOpen]; decide +kernel⟩,
    ⟨xe en, 0, by simp only [RegOpen]; decide +kernel⟩,
    ⟨xe en, 5, 0x10, by simp only [RegOpen]; decide +kernel⟩,
    ⟨xz.modAct fun a => { a with state := .safe }, 3, by simp only [RegOpen]; decide +kernel⟩,
    ⟨xz, 0x100, by simp only [RegOpen]; decide +kernel⟩,
    ⟨xz, 15, by simp only [HasRoom]; decide +kernel⟩,
    ⟨xz, 31, by simp only [HasRoom]; decide +kernel⟩,
    ⟨xe en, 0, en, by simp only [HasRoom]; decide +kernel⟩,
    ⟨xe en, 0, en, by simp only [HasRoom]; decide +kernel⟩,
    ⟨xz.modOut 5 fun o => { o with ueUntil := some 9 }, 5, 9, by decide +kernel⟩,
    ⟨hz, by decide +kernel⟩⟩

/-- The hypotheses of `Obligations.SessionsOpen` are met, those of each clause. -/
theorem met_SessionsOpen :
    (∃ (s : State) (p : Nat) (peer : Peer) (f : Frame) (i : Nat), let o := u8 f.payload 17 % 16
      PortTakes s p peer f 0x01 ∧ (s.port p).helloN < 16 ∧ f.version = 1 ∧ i = u8 f.payload 16 ∧ i ≤ 7 ∧ bit s.hlPolicy_OPEN_OK i
        = true ∧ (bit o 0 = true ∨ bit s.hlPolicy_FULL_OK i = true) ∧ ((s.sess i).isOpen = false ∨ bit o 2 = true)) ∧
    (∃ (s : State) (p : Nat) (peer : Peer) (f : Frame) (r : Nat) (i : Nat), PortTakes s p peer f 0x01 ∧ (s.port p).helloN < 16 ∧
        (f.version ≠ 1 ∧ r = 6 ∧ i = 0xFF ∨ f.version = 1 ∧ u8 f.payload 16 = 0xFF ∧ (∀ k, k < 8 → (s.sess k).isOpen = true ∨
        (s.sess k).chal ≠ none) ∧ r = 1 ∧ i = 0xFF ∨ f.version = 1 ∧ u8 f.payload 16 = i ∧ i ≠ 0xFF ∧ (7 < i ∨ bit
        s.hlPolicy_OPEN_OK i = false) ∧ r = 4 ∨ f.version = 1 ∧ u8 f.payload 16 = i ∧ i ≤ 7 ∧ bit s.hlPolicy_OPEN_OK i = true ∧
        bit (u8 f.payload 17) 0 = true ∧ bit (u8 f.payload 17) 2 = false ∧ (s.sess i).isOpen = true ∧ r = 2)) ∧
    (∃ (s : State) (p : Nat) (peer : Peer) (f : Frame) (r : Nat) (i : Nat), PortTakes s p peer f 0x01 ∧ (s.port p).helloN < 16 ∧
        (f.version ≠ 1 ∧ r = 6 ∧ i = 0xFF ∨ f.version = 1 ∧ u8 f.payload 16 = 0xFF ∧ (∀ k, k < 8 → (s.sess k).isOpen = true ∨
        (s.sess k).chal ≠ none) ∧ r = 1 ∧ i = 0xFF ∨ f.version = 1 ∧ u8 f.payload 16 = i ∧ i ≠ 0xFF ∧ (7 < i ∨ bit
        s.hlPolicy_OPEN_OK i = false) ∧ r = 4 ∨ f.version = 1 ∧ u8 f.payload 16 = i ∧ i ≤ 7 ∧ bit s.hlPolicy_OPEN_OK i = true ∧
        bit (u8 f.payload 17) 0 = true ∧ bit (u8 f.payload 17) 2 = false ∧ (s.sess i).isOpen = true ∧ r = 2)) ∧
    (∃ (s : State) (p : Nat) (peer : Peer) (f : Frame) (r : Nat) (i : Nat), PortTakes s p peer f 0x01 ∧ (s.port p).helloN < 16 ∧
        (f.version ≠ 1 ∧ r = 6 ∧ i = 0xFF ∨ f.version = 1 ∧ u8 f.payload 16 = 0xFF ∧ (∀ k, k < 8 → (s.sess k).isOpen = true ∨
        (s.sess k).chal ≠ none) ∧ r = 1 ∧ i = 0xFF ∨ f.version = 1 ∧ u8 f.payload 16 = i ∧ i ≠ 0xFF ∧ (7 < i ∨ bit
        s.hlPolicy_OPEN_OK i = false) ∧ r = 4 ∨ f.version = 1 ∧ u8 f.payload 16 = i ∧ i ≤ 7 ∧ bit s.hlPolicy_OPEN_OK i = true ∧
        bit (u8 f.payload 17) 0 = true ∧ bit (u8 f.payload 17) 2 = false ∧ (s.sess i).isOpen = true ∧ r = 2)) ∧
    (∃ (s : State) (p : Nat) (peer : Peer) (f : Frame) (r : Nat) (i : Nat), PortTakes s p peer f 0x01 ∧ (s.port p).helloN < 16 ∧
        (f.version ≠ 1 ∧ r = 6 ∧ i = 0xFF ∨ f.version = 1 ∧ u8 f.payload 16 = 0xFF ∧ (∀ k, k < 8 → (s.sess k).isOpen = true ∨
        (s.sess k).chal ≠ none) ∧ r = 1 ∧ i = 0xFF ∨ f.version = 1 ∧ u8 f.payload 16 = i ∧ i ≠ 0xFF ∧ (7 < i ∨ bit
        s.hlPolicy_OPEN_OK i = false) ∧ r = 4 ∨ f.version = 1 ∧ u8 f.payload 16 = i ∧ i ≤ 7 ∧ bit s.hlPolicy_OPEN_OK i = true ∧
        bit (u8 f.payload 17) 0 = true ∧ bit (u8 f.payload 17) 2 = false ∧ (s.sess i).isOpen = true ∧ r = 2)) ∧
    (∃ (s : State) (dt : Nat) (p : Nat) (peer : Peer) (f : Frame), PortTakes s p peer f 0x01 ∧ 16 ≤ (s.port p).helloN ∧ s.now + dt
        < (s.port p).helloAt + 4000000000) ∧
    (∃ (s : State) (dt : Nat) (p : Nat) (peer : Peer) (f : Frame) (i : Nat) (c : Challenge), let k := s.proofKey (bit c.oflags 3)
      let tok := tokenBytes (c.skey k i)
      PortTakes s p peer f 0x03 ∧ i = u8 f.payload 32 ∧ (s.sess i).chal = some c ∧ s.now + dt < c.at_ + 4000000000 ∧ c.nh = sub
        f.payload 0 16 ∧ c.nd = sub f.payload 16 16 ∧ c.proofH k i = sub f.payload 44 16 ∧ (s.aon.keyBad = false ∨ bit c.oflags 3
        = true) ∧ leNat tok ≠ 0) ∧
    (∃ (s : State) (dt : Nat) (p : Nat) (peer : Peer) (f : Frame) (i : Nat), PortTakes s p peer f 0x03 ∧ i = u8 f.payload 32 ∧ (∀
        c ∈ (s.sess i).chal, c.at_ + 4000000000 ≤ s.now + dt ∨ c.nh ≠ sub f.payload 0 16 ∨ c.nd ≠ sub f.payload 16 16)) ∧
    (∃ (s : State) (dt : Nat) (p : Nat) (peer : Peer) (f : Frame) (i : Nat), PortTakes s p peer f 0x03 ∧ i = u8 f.payload 32 ∧ (∀
        c ∈ (s.sess i).chal, c.at_ + 4000000000 ≤ s.now + dt ∨ c.nh ≠ sub f.payload 0 16 ∨ c.nd ≠ sub f.payload 16 16)) ∧
    (∃ (s : State) (dt : Nat) (p : Nat) (peer : Peer) (f : Frame) (i : Nat), PortTakes s p peer f 0x03 ∧ i = u8 f.payload 32 ∧ (∀
        c ∈ (s.sess i).chal, c.at_ + 4000000000 ≤ s.now + dt ∨ c.nh ≠ sub f.payload 0 16 ∨ c.nd ≠ sub f.payload 16 16)) ∧
    (∃ (s : State) (dt : Nat) (p : Nat) (peer : Peer) (f : Frame) (i : Nat) (c : Challenge), PortTakes s p peer f 0x03 ∧ i = u8
        f.payload 32 ∧ (s.sess i).chal = some c ∧ s.now + dt < c.at_ + 4000000000 ∧ c.nh = sub f.payload 0 16 ∧ c.nd = sub
        f.payload 16 16 ∧ (c.proofH (s.proofKey (bit c.oflags 3)) i ≠ sub f.payload 44 16 ∨ s.aon.keyBad = true ∧ bit c.oflags 3 =
        false)) ∧
    (∃ (s : State) (dt : Nat) (p : Nat) (peer : Peer) (f : Frame) (i : Nat) (c : Challenge), PortTakes s p peer f 0x03 ∧ i = u8
        f.payload 32 ∧ (s.sess i).chal = some c ∧ s.now + dt < c.at_ + 4000000000 ∧ c.nh = sub f.payload 0 16 ∧ c.nd = sub
        f.payload 16 16 ∧ (c.proofH (s.proofKey (bit c.oflags 3)) i ≠ sub f.payload 44 16 ∨ s.aon.keyBad = true ∧ bit c.oflags 3 =
        false)) ∧
    (∃ (s : State) (i : Nat) (c : Challenge), (s.sess i).chal = some c) :=
  ⟨⟨hz, 0, pe, mkFrame 0x01 0xFF 0 0 false (zeros 16 ++ by1 3 ++ by1 1 ++ zeros 2 ++ by4 5), 3,
      by simp only [PortTakes]; decide +kernel⟩,
    ⟨hz, 0, pe, { mkFrame 0x01 0xFF 0 0 false (zeros 16 ++ by1 3 ++ by1 1 ++ zeros 2 ++ by4 5) with version := 2 }, 6, 0xFF,
      by simp only [PortTakes]; decide +kernel⟩,
    ⟨hz.modHl fun h => { h with sessions := (upTo 8).map fun k => (k, { ss with chal := some ch }) }, 0, pe, mkFrame 0x01 0xFF 0 0
      false (zeros 16 ++ by1 255 ++ by1 1 ++ zeros 2 ++ by4 5), 1, 0xFF, by simp only [PortTakes]; decide +kernel⟩,
    ⟨hz, 0, pe, mkFrame 0x01 0xFF 0 0 false (zeros 16 ++ by1 8 ++ by1 1 ++ zeros 2 ++ by4 5), 4, 8,
      by simp only [PortTakes]; decide +kernel⟩,
    ⟨hz, 0, pe, mkFrame 0x01 0xFF 0 0 false (zeros 16 ++ by1 2 ++ by1 1 ++ zeros 2 ++ by4 5), 2, 2,
      by simp only [PortTakes]; decide +kernel⟩,
    ⟨hz.modPort 0 fun x => { x with helloN := 16 }, 5, 0, pe, mkFrame 0x01 0xFF 0 0 false (zeros 16 ++ by1 3 ++ by1 1 ++ zeros 2
      ++ by4 5), by simp only [PortTakes]; decide +kernel⟩,
    ⟨hz.modSess 3 fun x => { x with chal := some ch }, 5, 0, pe, opn (ch.proofH (zeros 32) 3), 3, ch,
      by simp only [PortTakes]; decide +kernel⟩,
    ⟨hz.modSess 3 fun x => { x with chal := some ch }, 4000000000, 0, pe, opn (ch.proofH (zeros 32) 3), 3,
      by simp only [PortTakes]; decide +kernel⟩,
    ⟨hz.modSess 3 fun x => { x with chal := some { ch with nd := List.replicate 16 1 } }, 5, 0, pe, opn (ch.proofH (zeros 32) 3),
      3, by simp only [PortTakes]; decide +kernel⟩,
    ⟨hz, 5, 0, pe, opn (zeros 16), 3, by simp only [PortTakes]; decide +kernel⟩,
    ⟨hz.modSess 3 fun x => { x with chal := some ch }, 5, 0, pe, opn (zeros 16), 3, ch, by simp only [PortTakes]; decide +kernel⟩,
    ⟨(hz.modSess 3 fun x => { x with chal := some ch }).modAon fun a => { a with keyBad := true }, 5, 0, pe, opn (ch.proofH (zeros
      32) 3), 3, ch, by simp only [PortTakes]; decide +kernel⟩,
    ⟨hz.modSess 3 fun x => { x with chal := some ch }, 3, ch, by decide +kernel⟩⟩

/-- The hypotheses of `Obligations.HostRequestsAnswered` are met, those of each clause. -/
theorem met_HostRequestsAnswered :
    (∃ (s : State) (p : Nat) (peer : Peer) (f : Frame) (i : Nat) (a : Nat) (room : Nat), PortTakes s p peer f 0x10 ∧ NextRequest s
        f i ∧ (s.sess i).recover = false ∧ (s.sess i).place (u64 f.payload 0) = some (a, room) ∧ inSetup a = false) ∧
    (∃ (s : State) (p : Nat) (peer : Peer) (f : Frame) (i : Nat) (a : Nat) (room : Nat), PortTakes s p peer f 0x10 ∧ NextRequest s
        f i ∧ (s.sess i).recover = false ∧ (s.sess i).place (u64 f.payload 0) = some (a, room) ∧ inSetup a = false) ∧
    (∃ (s : State) (p : Nat) (peer : Peer) (f : Frame) (i : Nat) (a : Nat) (room : Nat), PortTakes s p peer f 0x10 ∧ NextRequest s
        f i ∧ ((s.sess i).recover = true ∨ (s.sess i).place (u64 f.payload 0) = some (a, room) ∧ inSetup a = true)) ∧
    (∃ (s : State) (p : Nat) (peer : Peer) (f : Frame) (i : Nat) (a : Nat) (room : Nat), PortTakes s p peer f 0x10 ∧ NextRequest s
        f i ∧ ((s.sess i).recover = true ∨ (s.sess i).place (u64 f.payload 0) = some (a, room) ∧ inSetup a = true)) ∧
    (∃ (s : State) (p : Nat) (peer : Peer) (f : Frame) (i : Nat) (a : Nat) (room : Nat), PortTakes s p peer f 0x11 ∧ NextRequest s
        f i ∧ (s.sess i).place (u64 f.payload 0) = some (a, room) ∧ inSetup a = false) ∧
    (∃ (s : State) (p : Nat) (peer : Peer) (f : Frame) (i : Nat) (a : Nat) (room : Nat), PortTakes s p peer f 0x11 ∧ NextRequest s
        f i ∧ (s.sess i).place (u64 f.payload 0) = some (a, room) ∧ inSetup a = true) ∧
    (∃ (s : State) (p : Nat) (peer : Peer) (f : Frame) (i : Nat) (a : Nat) (room : Nat), PortTakes s p peer f 0x11 ∧ NextRequest s
        f i ∧ (s.sess i).place (u64 f.payload 0) = some (a, room) ∧ inSetup a = true) ∧
    (∃ (s : State) (dt : Nat) (p : Nat) (peer : Peer) (f : Frame) (i : Nat), let off := u32 (confBody f) 4
      let u := (((s.pass dt).modSess i fun x => { x with lastFrame := s.now + dt }).heard i p peer).writeReg off (BitVec.ofNat 32
        (u32 (confBody f) 8))
      PortTakes s p peer f 0x12 ∧ NextRequest s f i ∧ (s.sess i).recover = false ∧ tagOk f (s.sess i).key = true ∧ confOp f = 1 ∧
        u8 (confBody f) 1 = 1 ∧ (confBody f).length = 12 ∧ off < 0x1000000 ∧ off % 4 = 0 ∧ u.aon.swRun = s.aon.swRun) ∧
    (∃ (s : State) (p : Nat) (peer : Peer) (f : Frame) (i : Nat), PortTakes s p peer f 0x12 ∧ InSession s f i ∧ confOp f = 1 ∧
        tagOk f (s.sess i).key = false) ∧
    (∃ (s : State) (p : Nat) (peer : Peer) (f : Frame) (i : Nat), PortTakes s p peer f 0x12 ∧ NextRequest s f i ∧ (s.sess
        i).recover = false ∧ tagOk f (s.sess i).key = true ∧ confOp f = 2 ∧ (confBody f).length = 8) ∧
    (∃ (s : State) (p : Nat) (peer : Peer) (f : Frame) (i : Nat), PortTakes s p peer f 0x12 ∧ NextRequest s f i ∧ (s.sess
        i).recover = false ∧ tagOk f (s.sess i).key = true ∧ confOp f = 2 ∧ (confBody f).length = 8) ∧
    (∃ (s : State) (p : Nat) (peer : Peer) (f : Frame) (i : Nat), PortTakes s p peer f 0x12 ∧ NextRequest s f i ∧ tagOk f (s.sess
        i).key = true ∧ confOp f = 3 ∧ (confBody f).length = 36) ∧
    (∃ (s : State) (p : Nat) (peer : Peer) (f : Frame) (i : Nat), PortTakes s p peer f 0x12 ∧ NextRequest s f i ∧ tagOk f (s.sess
        i).key = true ∧ confOp f = 4 ∧ (confBody f).length = 4) ∧
    (∃ (s : State) (p : Nat) (peer : Peer) (f : Frame) (i : Nat), PortTakes s p peer f 0x13 ∧ NextRequest s f i) ∧
    (∃ (s : State) (p : Nat) (peer : Peer) (f : Frame) (i : Nat) (r : List Byte), PortTakes s p peer f 0x13 ∧ InSession s f i ∧
        -64 ≤ ixSub f.seq (s.sess i).next ∧ ixSub f.seq (s.sess i).next < 0 ∧ (s.sess i).cache.find? (fun c => decide (c.1 =
        f.seq)) = some (f.seq, some r)) ∧
    (∃ (s : State) (p : Nat) (peer : Peer) (f : Frame) (i : Nat), PortTakes s p peer f 0x13 ∧ InSession s f i ∧ 0 < ixSub f.seq
        (s.sess i).next ∧ ixSub f.seq (s.sess i).next ≤ 63 ∧ (∀ g ∈ (s.sess i).holds, g.seq ≠ f.seq) ∧ (s.sess i).holds.length <
        16) ∧
    (∃ (s : State) (p : Nat) (peer : Peer) (f : Frame), let i := f.session.toNat
      PortTakes s p peer f 0x13 ∧ (7 < i ∨ (s.sess i).isOpen = false ∨ (s.sess i).token ≠ f.token)) ∧
    (∃ (s : State) (p : Nat) (peer : Peer) (f : Frame), let i := f.session.toNat
      PortTakes s p peer f 0x13 ∧ (7 < i ∨ (s.sess i).isOpen = false ∨ (s.sess i).token ≠ f.token)) :=
  ⟨⟨hz, 0, pe, fr 0x10 (by8 0x1000 ++ by4 3 ++ zeros 4 ++ [1, 2, 3]), 2, 0x1000, 2 ^ 40 - 0x1000,
      by simp only [NextRequest, InSession, PortTakes]; decide +kernel⟩,
    ⟨hz.modSess 2 fun x => { x with slide := true, window := 2 }, 0, pe, fr 0x10 (by8 0x1000 ++ by4 3 ++ zeros 4 ++ [1, 2, 3]), 2,
      0x8001000, 0x4000000 - 0x1000, by simp only [NextRequest, InSession, PortTakes]; decide +kernel⟩,
    ⟨hz, 0, pe, fr 0x10 (by8 setupBase ++ by4 3 ++ zeros 4 ++ [1, 2, 3]), 2, setupBase, 2 ^ 40 - setupBase,
      by simp only [NextRequest, InSession, PortTakes]; decide +kernel⟩,
    ⟨hz.modSess 2 fun x => { x with recover := true }, 0, pe, fr 0x10 (by8 0 ++ by4 3 ++ zeros 4 ++ [1, 2, 3]), 2, 0, 0,
      by simp only [NextRequest, InSession, PortTakes]; decide +kernel⟩,
    ⟨hz.writeMem 0x1000 [9, 8, 7], 0, pe, fr 0x11 (by8 0x1000 ++ by4 3 ++ zeros 4), 2, 0x1000, 2 ^ 40 - 0x1000,
      by simp only [NextRequest, InSession, PortTakes]; decide +kernel⟩,
    ⟨hz, 0, pe, fr 0x11 (by8 (setupBase + 0x20008) ++ by4 8 ++ zeros 4), 2, setupBase + 0x20008, 2 ^ 40 - (setupBase + 0x20008),
      by simp only [NextRequest, InSession, PortTakes]; decide +kernel⟩,
    ⟨hz, 0, pe, fr 0x11 (by8 (setupBase + 0x20008) ++ by4 6 ++ zeros 4), 2, setupBase + 0x20008, 2 ^ 40 - (setupBase + 0x20008),
      by simp only [NextRequest, InSession, PortTakes]; decide +kernel⟩,
    ⟨hz, 5, 0, pe, cf ([1, 1, 0, 0] ++ by4 0x20020 ++ by4 77), 2,
      by simp only [NextRequest, InSession, PortTakes]; decide +kernel⟩,
    ⟨hz, 0, pe, fr 0x12 ([1, 1, 0, 0] ++ by4 0x20020 ++ by4 77 ++ zeros 16), 2,
      by simp only [InSession, PortTakes]; decide +kernel⟩,
    ⟨hz.modSess 2 fun x => { x with slide := true }, 0, pe, cf ([2, 0, 0, 0] ++ by4 0x20020), 2,
      by simp only [NextRequest, InSession, PortTakes]; decide +kernel⟩,
    ⟨hz, 0, pe, cf ([2, 0, 0, 0] ++ by4 0x20020), 2, by simp only [NextRequest, InSession, PortTakes]; decide +kernel⟩,
    ⟨hz, 0, pe, cf ([3, 0, 0, 0] ++ zeros 32), 2, by simp only [NextRequest, InSession, PortTakes]; decide +kernel⟩,
    ⟨hz, 0, pe, cf [4, 0, 0, 0], 2, by simp only [NextRequest, InSession, PortTakes]; decide +kernel⟩,
    ⟨hz, 0, pe, fr 0x13 [], 2, by simp only [NextRequest, InSession, PortTakes]; decide +kernel⟩,
    ⟨hz.modSess 2 fun x => { x with next := 11, cache := [(10, some [1, 2])] }, 0, pe, fr 0x13 [], 2, [1, 2],
      by simp only [PortTakes, InSession]; decide +kernel⟩,
    ⟨hz.modSess 2 fun x => { x with next := 9 }, 0, pe, fr 0x13 [], 2, by simp only [InSession, PortTakes]; decide +kernel⟩,
    ⟨hz.modSess 2 fun x => { x with token := 9 }, 0, pe, fr 0x13 [], by simp only [PortTakes]; decide +kernel⟩,
    ⟨hz, 0, pe, mkFrame 0x13 8 7 10 false [], by simp only [PortTakes]; decide +kernel⟩⟩

/-- The hypotheses of `Obligations.DeviceRequests` are met, those of each clause. -/
theorem met_DeviceRequests :
    (∃ (s : State) (p : Nat) (peer : Peer) (f : Frame) (i : Nat) (r : Nat), let ix := BitVec.ofNat 32 (u64 f.payload 0)
      PortTakes s p peer f 0x30 ∧ InSession s f i ∧ f.payload.length = 12 ∧ r = u8 f.payload 8 ∧ r < 32 ∧ s.hlRingCfg_EN r = true
        ∧ s.hlRingCfg_SESSION r = i ∧ u64 f.payload 0 / 2 ^ 32 % 65536 = s.hlRingGen_GEN r ∧ 0 < ixSub ix (s.ring r).hidx ∧ ixSub
        ix ((s.ring r).own + BitVec.ofNat 32 (s.ringSize r)) ≤ 0) ∧
    (∃ (s : State) (p : Nat) (peer : Peer) (f : Frame) (i : Nat) (r : Nat), PortTakes s p peer f 0x30 ∧ InSession s f i ∧
        f.payload.length = 12 ∧ r = u8 f.payload 8 ∧ (32 ≤ r ∨ s.hlRingCfg_EN r = false ∨ s.hlRingCfg_SESSION r ≠ i)) ∧
    (∃ (s : State) (p : Nat) (peer : Peer) (f : Frame) (i : Nat) (r : Nat), PortTakes s p peer f 0x30 ∧ InSession s f i ∧
        f.payload.length = 12 ∧ r = u8 f.payload 8 ∧ (32 ≤ r ∨ s.hlRingCfg_EN r = false ∨ s.hlRingCfg_SESSION r ≠ i)) ∧
    (∃ (s : State) (p : Nat) (peer : Peer) (f : Frame), PortTakes s p peer f 0x31 ∧ (s.port p).probeN < 10) ∧
    (∃ (s : State) (dt : Nat) (p : Nat) (peer : Peer) (f : Frame), PortTakes s p peer f 0x31 ∧ 10 ≤ (s.port p).probeN ∧ s.now + dt
        < (s.port p).probeAt + 4000000000) ∧
    (∃ (s : State) (p : Nat) (peer : Peer) (f : Frame) (i : Nat) (q : DevReq), let ix := BitVec.ofNat 32 (u64 f.payload 8)
      PortTakes s p peer f 0x28 ∧ InSession s f i ∧ (s.sess i).outst.find? (fun q => decide (q.seq = f.seq) && decide
        (q.kind.fetches = true)) = some q ∧ q.kind = .doorbell ∧ q.dead = false ∧ q.len = 8 ∧ u8 f.payload 0 = 0 ∧ u32 f.payload 4
        = 8 ∧ f.payload.length = 16 ∧ q.ring < 32 ∧ u64 f.payload 8 / 2 ^ 32 % 65536 = s.hlRingGen_GEN q.ring ∧ 0 < ixSub ix
        (s.ring q.ring).hidx ∧ ixSub ix ((s.ring q.ring).own + BitVec.ofNat 32 (s.ringSize q.ring)) ≤ 0) ∧
    (∃ (s : State) (p : Nat) (peer : Peer) (f : Frame) (i : Nat) (q : DevReq) (ix : BitVec 32), PortTakes s p peer f 0x28 ∧
        InSession s f i ∧ (s.sess i).outst.find? (fun q => decide (q.seq = f.seq) && decide (q.kind.fetches = true)) = some q ∧
        q.kind = .descriptors ix 1 ∧ q.dead = false ∧ q.len = 64 ∧ u8 f.payload 0 = 0 ∧ u32 f.payload 4 = 64 ∧ f.payload.length =
        72 ∧ (s.ring q.ring).staging = [] ∧ (s.ring q.ring).own = ix) ∧
    (∃ (s : State) (p : Nat) (peer : Peer) (f : Frame) (i : Nat) (q : DevReq) (id : Nat) (e : PostEntry) (rest : List PostEntry),
        PortTakes s p peer f 0x29 ∧ InSession s f i ∧ (s.sess i).outst.find? (fun q => decide (q.seq = f.seq) && decide
        (q.kind.fetches = false)) = some q ∧ q.kind = .record id ∧ q.dead = false ∧ u8 f.payload 0 = 0 ∧ Tab.get [] i s.hl.posts =
        e :: rest ∧ e.id = id ∧ (∀ x ∈ rest, x.id ≠ id)) ∧
    (∃ (s : State) (p : Nat) (peer : Peer) (f : Frame) (i : Nat) (q : DevReq) (id : Nat) (e : PostEntry) (rest : List PostEntry),
        PortTakes s p peer f 0x29 ∧ InSession s f i ∧ (s.sess i).outst.find? (fun q => decide (q.seq = f.seq) && decide
        (q.kind.fetches = false)) = some q ∧ q.kind = .record id ∧ q.dead = false ∧ u8 f.payload 0 = 0 ∧ Tab.get [] i s.hl.posts =
        e :: rest ∧ e.id = id ∧ (∀ x ∈ rest, x.id ≠ id)) ∧
    (∃ (s : State) (p : Nat) (peer : Peer) (f : Frame) (i : Nat) (q : DevReq), PortTakes s p peer f 0x29 ∧ InSession s f i ∧
        (s.sess i).outst.find? (fun q => decide (q.seq = f.seq) && decide (q.kind.fetches = false)) = some q ∧ q.dead = false ∧ u8
        f.payload 0 = 1) ∧
    (∃ (s : State) (i : Nat) (q : DevReq) (rest : List DevReq), let x := s.sess i
      x.outst = q :: rest ∧ (s.port x.port).settling = false ∧ (s.port x.port).up = true ∧ (∀ y ∈ rest, q.due ≤ y.due) ∧ q.tries <
        s.hlRetx_MAX_TRY) ∧
    (∃ (s : State) (i : Nat) (q : DevReq) (rest : List DevReq), let x := s.sess i
      x.outst = q :: rest ∧ (s.port x.port).settling = false ∧ (∀ y ∈ rest, q.due ≤ y.due) ∧ s.hlRetx_MAX_TRY ≤ q.tries) ∧
    (∃ (s : State) (i : Nat), (s.sess i).isOpen = true) ∧
    (∃ (s : State) (p : Nat), s.aon.sl1 = true ∧ s.hlCtrl_BEACON_S ≠ 0 ∧ s.portOn p = true ∧ (s.port p).up = true ∧ (s.port
        p).settling = false ∧ s.hlPAddr4_ADDR4 p = 0) ∧
    (∃ (s : State), s.aon.sl1 = false ∧ s.aon.rail = true ∧ s.hlPAddr4_ADDR4 0 = 0) ∧
    (∃ (s : State), s.aon.sl1 = false ∧ s.aon.rail = true ∧ s.hlPAddr4_ADDR4 0 = 0) :=
  ⟨⟨rz (dr .index 8), 0, pe, fr 0x30 (by4 16 ++ by4 0 ++ by1 4 ++ zeros 3), 2, 4,
      by simp only [InSession, PortTakes]; decide +kernel⟩,
    ⟨rz (dr .index 8), 0, pe, fr 0x30 (by4 16 ++ by4 0 ++ by1 32 ++ zeros 3), 2, 32,
      by simp only [InSession, PortTakes]; decide +kernel⟩,
    ⟨rz (dr .index 8), 0, pe, fr 0x30 (by4 16 ++ by4 0 ++ by1 5 ++ zeros 3), 2, 5,
      by simp only [InSession, PortTakes]; decide +kernel⟩,
    ⟨hz, 0, pe, fr 0x31 [], by simp only [PortTakes]; decide +kernel⟩,
    ⟨hz.modPort 0 fun x => { x with probeN := 10 }, 5, 0, pe, fr 0x31 [], by simp only [PortTakes]; decide +kernel⟩,
    ⟨rz (dr .doorbell 8), 0, pe, fr 0x28 (zeros 4 ++ by4 8 ++ by4 16 ++ zeros 4), 2, dr .doorbell 8,
      by simp only [PortTakes, InSession]; decide +kernel⟩,
    ⟨rz (dr (.descriptors 0 1) 64), 0, pe, fr 0x28 (zeros 4 ++ by4 64 ++ zeros 64), 2, dr (.descriptors 0 1) 64, 0,
      by simp only [PortTakes, InSession]; decide +kernel⟩,
    ⟨(rz (dr (.record 3) 64)).modHl fun h => { h with posts := [(2, [⟨3, 4, zeros 64, some 0, 2⟩])] }, 0, pe, fr 0x29 (zeros 8),
      2, dr (.record 3) 64, 3, ⟨3, 4, zeros 64, some 0, 2⟩, [], by simp only [PortTakes, InSession]; decide +kernel⟩,
    ⟨(rz (dr (.record 3) 64)).modHl fun h => { h with posts := [(2, [⟨3, 4, zeros 64, some 0, 1⟩])] }, 0, pe, fr 0x29 (zeros 8),
      2, dr (.record 3) 64, 3, ⟨3, 4, zeros 64, some 0, 1⟩, [], by simp only [PortTakes, InSession]; decide +kernel⟩,
    ⟨rz (dr .index 8), 0, pe, fr 0x29 (by1 1 ++ zeros 7), 2, dr .index 8, by simp only [PortTakes, InSession]; decide +kernel⟩,
    ⟨rz (dr .index 8), 2, dr .index 8, [], by dsimp only; decide +kernel⟩,
    ⟨rz { dr .index 8 with tries := 8 }, 2, { dr .index 8 with tries := 8 }, [], by dsimp only; decide +kernel⟩,
    ⟨hz, 2, by decide +kernel⟩,
    ⟨hz, 0, by decide +kernel⟩,
    ⟨hz.modAon fun a => { a with sl1 := false, lastRate := 1 }, by decide +kernel⟩,
    ⟨hz.modAon fun a => { a with sl1 := false }, by decide +kernel⟩⟩

/-- The hypotheses of `Obligations.HostPorts` are met, those of each clause. -/
theorem met_HostPorts :
    (∃ (s : State) (p : Nat), s.portOn p = true ∧ (s.port p).up = false ∧ (s.port p).settling = true ∧ s.portsStarted = true) ∧
    (∃ (s : State) (p : Nat), (s.port p).settling = true ∧ s.hlPCfg_SPEED p ≠ 0) ∧
    (∃ (s : State) (p : Nat), (s.port p).settling = true ∧ s.hlPCfg_SPEED p = 0) ∧
    (∃ (s : State) (p : Nat), (s.port p).fault = true ∧ (s.port p).settling = false ∧ s.portOn p = true) ∧
    (∃ (s : State) (p : Nat), (s.port p).up = false ∧ s.hlPCfg_SPEED p = 0 ∧ s.portOn p = true ∧ s.portsStarted = true) ∧
    (∃ (s : State) (p : Nat), (s.port p).up = true) ∧
    (∃ (s : State) (p : Nat), (s.port p).up = true) ∧
    (∃ (s : State) (p : Nat), (s.port p).up = false ∧ (s.port p).settling = false ∧ (s.port p).fault = false ∧ s.portOn p = true ∧
        s.portsStarted = true) ∧
    (∃ (s : State) (p : Nat) (r : NetRequest), r.sensor = false ∧ s.portOn p = true ∧ (s.port p).up = true ∧ (s.port p).settling =
        false ∧ s.plain p r.via = true ∧ (r.kind = .arp ∨ r.kind = .nd ∨ r.kind = .echo4 ∨ r.kind = .echo6)) ∧
    (∃ (s : State) (p : Nat) (r : NetRequest), r.sensor = true ∧ (s.sen p).up = true ∧ (s.quad 4).settling = false ∧ reqFrameLen r
        ≤ 9216 ∧ r.via.odd = false ∧ r.via.tags = [] ∧ (r.kind = .arp ∨ r.kind = .nd ∨ r.kind = .echo4 ∨ r.kind = .echo6)) ∧
    (∃ (s : State) (p : Nat) (r : NetRequest), r.sensor = false ∧ s.portOn p = true ∧ (s.port p).up = true ∧ s.plain p r.via =
        false) :=
  ⟨⟨hz.modPort 0 fun x => { x with up := false, settling := true, tryRate := 2 }, 0, by decide +kernel⟩,
    ⟨(wr .hlPCfg 0 0 5 hz).modPort 0 fun x => { x with up := false, settling := true, tryRate := 2, lockedSince := true }, 0,
      by decide +kernel⟩,
    ⟨hz.modPort 0 fun x => { x with up := false, settling := true, tryRate := 2 }, 0, by decide +kernel⟩,
    ⟨hz.modPort 0 fun x => { x with up := false, fault := true }, 0, by decide +kernel⟩,
    ⟨hz.modPort 0 fun x => { x with up := false, tryRate := 3 }, 0, by decide +kernel⟩,
    ⟨hz, 0, by decide +kernel⟩,
    ⟨wr .hlPCfg 0 0 5 hz, 0, by decide +kernel⟩,
    ⟨hz.modPort 0 fun x => { x with up := false }, 0, by decide +kernel⟩,
    ⟨wr .hlPAddr4 0 0 0x0100000A hz, 0, ⟨false, .arp, 0xFFFF0A000001, 6, [], {}⟩, by decide +kernel⟩,
    ⟨ez, 0, ⟨true, .echo4, 0xFFFF0A000001, 6, [1], {}⟩, by decide +kernel⟩,
    ⟨hz, 0, ⟨false, .echo6, 9, 6, [1], { tags := [5] }⟩, by decide +kernel⟩⟩

/-- The hypotheses of `Obligations.RingsRun` are met, those of each clause. -/
theorem met_RingsRun :
    (∃ (s : State) (r : Nat), let i := s.hlRingCfg_SESSION r
      let x := s.sess i
      r < 32 ∧ s.ringLive r = true ∧ x.todo = [] ∧ x.outst.length < 32 ∧ (s.port x.port).up = true ∧ (s.port x.port).settling =
        false) ∧
    (∃ (s : State) (r : Nat) (idx : BitVec 32) (d0 : List Byte) (rest : List (BitVec 32 × List Byte)), let d := s.clampDesc d0
      (∀ k, k < r → ∀ e ∈ s.headDesc k, s.descEngine e ≠ s.descEngine d) ∧ (s.ring r).staging = (idx, d0) :: rest ∧ s.hlRingCfg_EN
        r = true ∧ (s.ring r).stopped = false ∧ 0 < ixSub (s.ring r).own idx ∧ s.roomFor d = true ∧ (bit (u8 d 1) 2 = true → ∀ x ∈
        s.hl.ops, x.subRing ≠ r)) ∧
    (∃ (s : State) (r : Nat) (idx : BitVec 32) (d0 : List Byte) (rest : List (BitVec 32 × List Byte)), let d := s.clampDesc d0
      (∀ k, k < r → ∀ e ∈ s.headDesc k, s.descEngine e ≠ s.descEngine d) ∧ (s.ring r).staging = (idx, d0) :: rest ∧ s.hlRingCfg_EN
        r = true ∧ (s.ring r).stopped = false ∧ 0 < ixSub (s.ring r).own idx ∧ s.roomFor d = true ∧ (bit (u8 d 1) 2 = true → ∀ x ∈
        s.hl.ops, x.subRing ≠ r)) ∧
    (∃ (s : State) (r : Nat) (idx : BitVec 32) (d0 : List Byte) (rest : List (BitVec 32 × List Byte)), (s.ring r).staging = (idx,
        d0) :: rest ∧ s.roomFor (s.clampDesc d0) = false) ∧
    (∃ (s : State) (r : Nat) (k : Nat) (d : List Byte) (e : List Byte), k < r ∧ s.headDesc r = some d ∧ s.headDesc k = some e ∧
        s.descEngine e = s.descEngine d ∧ (∀ j, j < k → ∀ x ∈ s.headDesc j, s.descEngine x ≠ s.descEngine d)) ∧
    (∃ (s : State) (r : Nat) (e : PostEntry), 32 ≤ r ∧ s.waiting r = some e ∧ e.bad = true ∧ HasRoom s 0x70) ∧
    (∃ (s : State) (r : Nat) (e : PostEntry), 32 ≤ r ∧ s.waiting r = some e ∧ e.bad = false ∧ s.ringLive r = true ∧ s.fits e =
        true ∧ e.idx = none) ∧
    (∃ (s : State) (r : Nat) (e : PostEntry) (k : BitVec 32), 32 ≤ r ∧ s.waiting r = some e ∧ e.bad = false ∧ s.ringLive r = true
        ∧ e.idx = some k) ∧
    (∃ (s : State) (r : Nat) (d : BitVec 32) (o : Op) (a : Nat), s.hl.ops.filter (fun x => decide (x.subRing = r ∧ x.didx = d ∧
        x.jstate = 1) && x.jsw.isSome) = [o] ∧ s.hl.ops.find? (Op.is o.ring d) = some o ∧ o.jsw = some a) ∧
    (∃ (s : State) (r : Nat) (v : Word), r < 64 ∧ RegOpen s .hlRingCfg r 0 ∧ s.hlRingCfg_EN r = false ∧ bit v.toNat 31 = true) ∧
    (∃ (s : State) (r : Nat) (v : Word), r < 64 ∧ RegOpen s .hlRingCfg r 0 ∧ s.hlRingCfg_EN r = true ∧ bit v.toNat 31 = false) :=
  ⟨⟨wr .hlRingCfg 4 0 0x82040000 hz, 4, by dsimp only; decide +kernel⟩,
    ⟨(wr .hlRingCfg 4 0 0x82040000 hz).modRing 4 fun x => { x with own := 1, staging := [(0, desc 0 0 [] [])] }, 4, 0, desc 0 0 []
      [], [], by dsimp only; decide +kernel⟩,
    ⟨(wr .hlRingCfg 4 0 0x82040000 hz).modRing 4 fun x =>
      { x with own := 1, staging := [(0, patch (pd 0 4 0x5000 64) 1 (by1 5 ++ zeros 6 ++ by8 0x3000))] }, 4, 0, patch (pd 0 4
      0x5000 64) 1 (by1 5 ++ zeros 6 ++ by8 0x3000), [], by dsimp only; decide +kernel⟩,
    ⟨(withOp (op (desc 0x20 0 [] []) true) hz).modRing 4 fun x => { x with own := 1, staging := [(0, desc 0x20 0 [] [])] }, 4, 0,
      desc 0x20 0 [] [], [], by decide +kernel⟩,
    ⟨((wr .hlRingCfg 0 0 0x82000000 (wr .hlRingCfg 4 0 0x82040000 hz)).modRing 0 fun x =>
      { x with own := 1, staging := [(0, pd 0 4 0x5000 64)] }).modRing 4 fun x =>
      { x with own := 1, staging := [(0, pd 1 4 0x5000 64)] }, 4, 0, pd 1 4 0x5000 64, pd 0 4 0x5000 64, by decide +kernel⟩,
    ⟨(wr .hlRingCfg 56 0 0x82040000 hz).modHl fun h => { h with posts := [(2, [⟨3, 56, [0x78], none, 0⟩])] }, 56, ⟨3, 56, [0x78],
      none, 0⟩, by simp only [HasRoom]; decide +kernel⟩,
    ⟨(wr .hlRingCfg 56 0 0x82040000 hz).modHl fun h =>
      { h with posts := [(2, [⟨3, 56, recBytes (mkRec 0x78 0x5F 2 0 0 (zeros 16)), none, 0⟩])] }, 56, ⟨3, 56, recBytes (mkRec 0x78
      0x5F 2 0 0 (zeros 16)), none, 0⟩, by decide +kernel⟩,
    ⟨(wr .hlRingCfg 56 0 0x82040000 hz).modHl fun h =>
      { h with posts := [(2, [⟨3, 56, recBytes (mkRec 0x78 0x5F 2 0 0 (zeros 16)), some 9, 0⟩])] }, 56, ⟨3, 56, recBytes (mkRec
      0x78 0x5F 2 0 0 (zeros 16)), some 9, 0⟩, 9, by decide +kernel⟩,
    ⟨withOp (opJ (desc 0x20 0 [] [])) hz, 0, 0, opJ (desc 0x20 0 [] []), 0x3000, by decide +kernel⟩,
    ⟨wr .hlRingCfg 4 0 0x02040000 hz, 4, 0x82040000, by simp only [RegOpen]; decide +kernel⟩,
    ⟨wr .hlRingCfg 4 0 0x82040000 hz, 4, 0x02040000, by simp only [RegOpen]; decide +kernel⟩⟩

/-- The hypotheses of `Obligations.DescriptorsDone` are met, those of each clause. -/
theorem met_DescriptorsDone :
    (∃ (s : State) (o : Op), Heads s 0x00 o) ∧
    (∃ (s : State) (o : Op), Heads s 0x23 o ∧ s.flt.safe = false ∧ s.slv.intake.length < 32 ∧ (s.slv.intake.filter fun h =>
        h.host.isSome).length < s.slvHost_MAX) ∧
    (∃ (s : State) (o : Op), Heads s 0x23 o ∧ s.flt.safe = true) ∧
    (∃ (s : State) (o : Op) (b : List Byte), s.nextOp 0x38 (fun o => !bit (u8 o.desc 8) 0) = some o ∧ s.hl.ops.find? (Op.is o.ring
        o.didx) = some o ∧ s.injected o = .ok b) ∧
    (∃ (s : State) (o : Op) (b : List Byte), s.nextOp 0x38 (fun o => !bit (u8 o.desc 8) 0) = some o ∧ s.hl.ops.find? (Op.is o.ring
        o.didx) = some o ∧ s.injected o = .ok b) ∧
    (∃ (s : State) (o : Op) (n : Nat), s.nextOp 0x38 (fun o => !bit (u8 o.desc 8) 0) = some o ∧ s.hl.ops.find? (Op.is o.ring
        o.didx) = some o ∧ s.injected o = .error n) ∧
    (∃ (s : State) (o : Op) (n : Nat), s.nextOp 0x38 (fun o => !bit (u8 o.desc 8) 0) = some o ∧ s.hl.ops.find? (Op.is o.ring
        o.didx) = some o ∧ s.injected o = .error n) ∧
    (∃ (s : State) (o : Op) (b : List Byte), s.nextOp 0x38 (fun o => bit (u8 o.desc 8) 0) = some o ∧ s.hl.ops.find? (Op.is o.ring
        o.didx) = some o ∧ s.flt.safe = false ∧ s.act.intake.length < 32 ∧ s.injected o = .ok b) ∧
    (∃ (s : State) (o : Op) (n : Nat), s.nextOp 0x38 (fun o => bit (u8 o.desc 8) 0) = some o ∧ s.hl.ops.find? (Op.is o.ring
        o.didx) = some o ∧ s.flt.safe = false ∧ s.act.intake.length < 32 ∧ s.injected o = .error n) ∧
    (∃ (s : State) (o : Op), s.nextOp 0x38 (fun o => bit (u8 o.desc 8) 0) = some o ∧ s.hl.ops.find? (Op.is o.ring o.didx) = some o
        ∧ s.flt.safe = true) ∧
    (∃ (s : State) (o : Op) (c : Instr) (k : Nat), (c = .profileRead ∧ k = 0 ∨ c = .profileWrite ∧ k = 1 ∨ c = .profileErase ∧ k =
        2 ∨ c = .profileSelectBoot ∧ k = 3) ∧ Heads s 0x48 o ∧ (∀ x ∈ s.hl.ops, x.code = 0x48 → x.taken = false) ∧ profAction o =
        k) ∧
    (∃ (s : State) (o : Op), s.hl.ops.find? (fun o => decide (o.code = 0x48) && o.taken) = some o ∧ s.hl.ops.find? (Op.is o.ring
        o.didx) = some o) ∧
    (∃ (s : State) (o : Op), s.hl.ops.find? (fun o => decide (o.code = 0x48) && o.taken) = some o ∧ s.hl.ops.find? (Op.is o.ring
        o.didx) = some o) ∧
    (∃ (s : State) (o : Op), s.hl.ops.find? (fun o => decide (o.code = 0x48) && o.taken) = some o ∧ s.hl.ops.find? (Op.is o.ring
        o.didx) = some o) ∧
    (∃ (s : State) (o : Op), s.hl.ops.find? (fun o => decide (o.code = 0x48) && o.taken) = some o ∧ s.hl.ops.find? (Op.is o.ring
        o.didx) = some o) ∧
    (∃ (s : State) (o : Op), s.hl.ops.find? (fun o => decide (o.code = 0x48) && o.taken) = some o ∧ s.hl.ops.find? (Op.is o.ring
        o.didx) = some o) ∧
    (∃ (s : State) (o : Op), s.hl.ops.find? (fun o => decide (o.code = 0x48) && o.taken) = some o ∧ s.hl.ops.find? (Op.is o.ring
        o.didx) = some o) :=
  ⟨⟨withOp (op (desc 0 0 [] []) false) hz, op (desc 0 0 [] []) false, by simp only [Heads]; decide +kernel⟩,
    ⟨withOp (op (desc 0x23 0 [] (by8 0x8000)) false) (vz.modAon fun a => { a with zeroed := true }), op (desc 0x23 0 [] (by8
      0x8000)) false, by simp only [Heads]; decide +kernel⟩,
    ⟨withOp (op (desc 0x23 0 [] (by8 0x8000)) false) (vz.modFlt fun f => { f with safe := true, cause := 5 }), op (desc 0x23 0 []
      (by8 0x8000)) false, by simp only [Heads]; decide +kernel⟩,
    ⟨withOp (op (patch (desc 0x38 0 [0, 56] ([0x70, 0x78, 0, 0, 0, 0, 2, 0] ++ zeros 8)) 1 [2]) false) (wr .hlRingCfg 56 0
      0x82040000 hz), op (patch (desc 0x38 0 [0, 56] ([0x70, 0x78, 0, 0, 0, 0, 2, 0] ++ zeros 8)) 1 [2]) false,
      [0x70, 0x78, 0, 0, 0, 0, 2, 0] ++ zeros 8, ⟨by decide +kernel, by decide +kernel, by rfl⟩⟩,
    ⟨withOp (op (desc 0x38 0 [0, 56] ([0x70, 0x78, 0, 0, 0, 0, 2, 0] ++ zeros 8)) false) hz, op (desc 0x38 0 [0, 56]
      ([0x70, 0x78, 0, 0, 0, 0, 2, 0] ++ zeros 8)) false, [0x70, 0x78, 0, 0, 0, 0, 2, 0] ++ zeros 8,
      ⟨by decide +kernel,
      by decide +kernel, by rfl⟩⟩,
    ⟨withOp (op (desc 0x38 0 [0, 56] ([0x70, 0x79, 0, 0, 0, 0, 2, 0] ++ zeros 8)) false) hz, op (desc 0x38 0 [0, 56]
      ([0x70, 0x79, 0, 0, 0, 0, 2, 0] ++ zeros 8)) false, 3, ⟨by decide +kernel, by decide +kernel, by rfl⟩⟩,
    ⟨withOp (op (desc 0x38 0 [0, 56, 1] (by8 0x800000000)) false) hz, op (desc 0x38 0 [0, 56, 1] (by8 0x800000000)) false, 4,
      ⟨by decide +kernel, by decide +kernel, by rfl⟩⟩,
    ⟨withOp (op (desc 0x38 0 [1, 56] ([0x60, 0x78, 0, 0, 0, 0, 2, 0] ++ zeros 8)) false) hz, op (desc 0x38 0 [1, 56]
      ([0x60, 0x78, 0, 0, 0, 0, 2, 0] ++ zeros 8)) false, [0x60, 0x78, 0, 0, 0, 0, 2, 0] ++ zeros 8,
      ⟨by decide +kernel,
      by decide +kernel, by decide +kernel, by decide +kernel, by rfl⟩⟩,
    ⟨withOp (op (desc 0x38 0 [1, 56] (zeros 16)) false) hz, op (desc 0x38 0 [1, 56] (zeros 16)) false, 1,
      ⟨by decide +kernel,
      by decide +kernel, by decide +kernel, by decide +kernel, by rfl⟩⟩,
    ⟨withOp (op (desc 0x38 0 [1, 56] ([0x60, 0x78, 0, 0, 0, 0, 2, 0] ++ zeros 8)) false) (hz.modFlt fun f =>
      { f with safe := true, cause := 5 }), op (desc 0x38 0 [1, 56] ([0x60, 0x78, 0, 0, 0, 0, 2, 0] ++ zeros 8)) false,
      by decide +kernel⟩,
    ⟨withOp (op (pd 1 4 0x5000 24) false) hz, op (pd 1 4 0x5000 24) false, .profileWrite, 1, by simp only [Heads]; decide +kernel⟩,
    ⟨(withOp (op (pd 0 4 0x5000 24) true) hz).modAon fun a => { a with slots := [(4, [1, 2, 3])] }, op (pd 0 4 0x5000 24) true,
      by decide +kernel⟩,
    ⟨withOp (op (pd 1 4 0x5000 24) true) (hz.writeMem 0x5000 (profB [(0x20020, 7)])), op (pd 1 4 0x5000 24) true,
      by decide +kernel⟩,
    ⟨withOp (op (pd 1 4 0x5000 24) true) hz, op (pd 1 4 0x5000 24) true, by decide +kernel⟩,
    ⟨(withOp (op (pd 2 4 0x5000 24) true) hz).modAon fun a => { a with slots := [(4, [1, 2, 3])], boot := some 4 }, op (pd 2 4
      0x5000 24) true, by decide +kernel⟩,
    ⟨(withOp (op (pd 3 4 0x5000 24) true) hz).modAon fun a => { a with slots := [(4, profB [(0x20020, 7)])] }, op (pd 3 4 0x5000
      24) true, by decide +kernel⟩,
    ⟨(withOp (op (pd 3 4 0x5000 24) true) hz).modAon fun a => { a with slots := [(4, [1, 2, 3])] }, op (pd 3 4 0x5000 24) true,
      by decide +kernel⟩⟩

/-- The hypotheses of `Obligations.FaultsClassified` are met, those of each clause. -/
theorem met_FaultsClassified :
    (∃ (s : State) (m : Msg), s.nextMsg = some m ∧ s.flt.dead = false ∧ m.loss = false ∧ islandOf m.source m.unit ∉ s.flt.lossOf) ∧
    (∃ (s : State) (m : Msg), s.nextMsg = some m ∧ s.flt.dead = false ∧ m.loss = false ∧ islandOf m.source m.unit ∉ s.flt.lossOf) ∧
    (∃ (s : State) (m : Msg), s.nextMsg = some m ∧ s.flt.dead = false ∧ m.loss = false ∧ islandOf m.source m.unit ∉ s.flt.lossOf) ∧
    (∃ (s : State) (island : Nat) (code : Nat), s.aon.phase ≠ .held ∧ s.flt.dead = false ∧ faultClass code = 2 ∧ code < 256 ∧
        (s.flt.bufs.flatMap fun e => e.2).find? (fun m => decide (m.source = island ∧ faultClass m.code = 2)) = none ∧ (island,
        code) ∉ s.flt.lined) ∧
    (∃ (s : State) (island : Nat) (code : Nat), s.aon.phase ≠ .held ∧ faultClass code = 2 ∧ (s.flt.bufs.flatMap fun e =>
        e.2).find? (fun m => decide (m.source = island ∧ faultClass m.code = 2)) = none ∧ (island, code) ∈ s.flt.lined) ∧
    (∃ (s : State) (island : Nat) (m : Msg), s.flt.dead = false ∧ faultClass m.code = 2 ∧ (s.flt.bufs.flatMap fun e => e.2).find?
        (fun m => decide (m.source = island ∧ faultClass m.code = 2)) = some m) ∧
    (∃ (s : State) (v : Word), RegOpen s .fltCtrl 0 0 ∧ bit v.toNat 0 = true) ∧
    (∃ (s : State) (island : Nat), coreIsland island = true ∧ s.aon.phase ≠ .held) ∧
    (∃ (s : State) (a : Nat), s.dramAt a = true ∧ s.aon.zeroed = true ∧ HasRoom s 0x5F 0xE0) ∧
    (∃ (s : State) (a : Nat), s.dramAt a = true ∧ s.aon.zeroed = true ∧ HasRoom s 0x5F 0xE0) ∧
    (∃ (s : State), HasRoom s 0x5F) ∧
    (∃ (s : State) (a : Nat) (c : Nat), HasRoom s 0x5B ∧ c < 4 ∧ s.kvFirst c ≤ a ∧ a < s.kvFirst c + s.kvpCacheSeqs_NSEQ c) ∧
    (∃ (s : State) (a : Nat) (c : Nat), HasRoom s 0x5B ∧ c < 4 ∧ s.kvFirst c ≤ a ∧ a < s.kvFirst c + s.kvpCacheSeqs_NSEQ c) ∧
    (∃ (s : State), HasRoom s 0x5C ∧ s.slv.notices = []) ∧
    (∃ (s : State), HasRoom s 0x5C ∧ s.slv.notices = []) ∧
    (∃ (s : State), HasRoom s 0x70) ∧
    (∃ (s : State) (i : Nat) (k : Nat) (e : PostEntry), HasRoom s 0x70 ∧ (Tab.get [] i s.hl.posts)[k]? = some e) ∧
    (∃ (s : State) (i : Nat) (k : Nat) (x : EccAt), HasRoom s 0x70 ∧ (x = .hlHold i k ∨ x = .hlPost i k)) ∧
    (∃ (s : State) (i : Nat) (k : Nat) (x : EccAt), HasRoom s 0x70 ∧ (x = .hlHold i k ∨ x = .hlPost i k)) ∧
    (∃ (s : State), HasRoom s 0x70) ∧
    (∃ (s : State) (c : Nat), c < 4 ∧ s.chanFailed c = false ∧ s.aon.zeroed = true ∧ s.aon.phase ≠ .held) ∧
    (∃ (s : State), s.fltAuto_MS ≠ 0 ∧ s.flt.unackC ≠ 0 ∧ s.flt.dead = false) ∧
    (∃ (s : State) (o : Op), Heads s 0x40 o ∧ s.nextMsg = none ∧ o.inlNat 4 4 = 0 ∧ s.flt.dead = false) ∧
    (∃ (s : State) (o : Op), let x := BitVec.ofNat 32 (o.inlNat 4 4)
      Heads s 0x40 o ∧ s.nextMsg = none ∧ x ≠ 0 ∧ o.inlNat 0 1 = 4 ∧ ixSub x s.flt.latestF < 0) ∧
    (∃ (s : State) (t : State) (o : Op), s.nextOp 0x40 (fun _ => true) = some o ∧ s.msgCount = 1 ∧ exec .faultClassify s = .next t
        ∧ t.nextMsg = none ∧ t.nextOp 0x40 (fun _ => true) = some o) ∧
    (∃ (s : State), s.aliveRun = true) :=
  ⟨⟨fm (msg 0x64) (wr .fltReport 0 0 0x138 (wr .hlRingCfg 56 0 0x82040000 hz)), msg 0x64, by decide +kernel⟩,
    ⟨fm (msg 0x91) hz, msg 0x91, by decide +kernel⟩,
    ⟨(fm (msg 0x64) hz).modFlt fun f => { f with unackU := 1 }, msg 0x64, by decide +kernel⟩,
    ⟨hz, 0x5D, 0x66, by decide +kernel⟩,
    ⟨hz.modFlt fun f => { f with lined := [(0x5D, 0x66)] }, 0x5D, 0x66, by decide +kernel⟩,
    ⟨fm (msg 0x66) hz, 0x5D, msg 0x66, by decide +kernel⟩,
    ⟨hz, 1, by simp only [RegOpen]; decide +kernel⟩,
    ⟨hz, 0x61, by decide +kernel⟩,
    ⟨hz, 0x1234, by simp only [HasRoom]; decide +kernel⟩,
    ⟨hz.writeMem 0x1220 [1, 2, 3], 0x1234, by simp only [HasRoom]; decide +kernel⟩,
    ⟨hz, by simp only [HasRoom]; decide +kernel⟩,
    ⟨az z, 3, 0, by simp only [HasRoom]; decide +kernel⟩,
    ⟨az z, 3, 0, by simp only [HasRoom]; decide +kernel⟩,
    ⟨hz, by simp only [HasRoom]; decide +kernel⟩,
    ⟨hz, by simp only [HasRoom]; decide +kernel⟩,
    ⟨hz, by simp only [HasRoom]; decide +kernel⟩,
    ⟨hz.modHl fun h => { h with posts := [(2, [⟨3, 4, zeros 64, some 0, 1⟩])] }, 2, 0, ⟨3, 4, zeros 64, some 0, 1⟩,
      by simp only [HasRoom]; decide +kernel⟩,
    ⟨hz, 7, 15, .hlHold 7 15, by simp only [HasRoom]; decide +kernel⟩,
    ⟨hz, 7, 0, .hlPost 7 0, by simp only [HasRoom]; decide +kernel⟩,
    ⟨hz, by simp only [HasRoom]; decide +kernel⟩,
    ⟨hz.writeMem 0x200000000 [1, 2, 3], 1, by decide +kernel⟩,
    ⟨(wr .fltAuto 0 0 100 hz).modFlt fun f => { f with unackC := 2 }, by decide +kernel⟩,
    ⟨(withOp (op (desc 0x40 0 [] [3]) false) hz).modFlt fun f => { f with unackC := 2, unackU := 1, unackF := 1, safe := true },
      op (desc 0x40 0 [] [3]) false, by simp only [Heads]; decide +kernel⟩,
    ⟨(withOp (op (desc 0x40 0 [] [4, 0, 0, 0, 1]) false) hz).modFlt fun f => { f with unackF := 1, latestF := 3 }, op (desc 0x40 0
      [] [4, 0, 0, 0, 1]) false, by simp only [Heads]; decide +kernel⟩,
    ⟨fm (msg 0x5D) (withOp (op (desc 0x40 0 [] []) false) hz), go [execFaultClassify] (fm (msg 0x5D) (withOp (op (desc 0x40 0 []
      []) false) hz)), op (desc 0x40 0 [] []) false,
      ⟨by decide +kernel, by decide +kernel, by rfl, by decide +kernel,
      by decide +kernel⟩⟩,
    ⟨goodLevel, by decide +kernel⟩⟩

/-- The hypotheses of `Obligations.SafeStateHolds` are met, those of each clause. -/
theorem met_SafeStateHolds :
    (∃ (s : State) (m : Msg), s.nextMsg = some m ∧ s.flt.dead = false ∧ (escalate (faultClass m.code) s.flt.unackC s.flt.unackU).1
        = 2 ∧ s.flt.safe = false) ∧
    (∃ (s : State) (m : Msg), s.nextMsg = some m ∧ s.flt.dead = false ∧ (escalate (faultClass m.code) s.flt.unackC s.flt.unackU).1
        = 2 ∧ s.flt.safe = false) ∧
    (∃ (s : State), s.flt.dead = false ∧ s.aon.sl1 = true) ∧
    (∃ (s : State), s.flt.safe = true ∧ s.flt.sticky = false ∧ s.flt.unackF = 0 ∧ s.nextMsg = none ∧ s.flt.silent = []) ∧
    (∃ (s : State), s.flt.safe = true ∧ (s.flt.sticky = true ∨ s.flt.unackF ≠ 0)) ∧
    (∃ (s : State), s.flt.safe = true ∧ (s.flt.sticky = true ∨ s.flt.unackF ≠ 0)) :=
  ⟨⟨fm (msg 0x91) (xe en), msg 0x91, by decide +kernel⟩,
    ⟨(fm (msg 0x66) (lz [] [] [])).modRly fun r => { r with batons := [(3, { state := 2 })] }, msg 0x66, by decide +kernel⟩,
    ⟨hz, by decide +kernel⟩,
    ⟨(wr .panFrameCfg 1 0 0x80101 (wr .fltReport 0 0 0x138 (wr .hlRingCfg 56 0 0x82040000 hz))).modFlt fun f =>
      { f with safe := true, cause := 0x66 }, by decide +kernel⟩,
    ⟨hz.modFlt fun f => { f with safe := true, cause := 0x66, unackF := 1 }, by decide +kernel⟩,
    ⟨hz.modFlt fun f => { f with safe := true, cause := 0x91, sticky := true }, by decide +kernel⟩⟩

/-- The hypotheses of `Obligations.ResetTaken` are met, those of each clause. -/
theorem met_ResetTaken :
    (∃ (s : State), s.aon.rail = true) ∧
    (∃ (s : State), s.aon.rail = true) ∧
    (∃ (s : State), s.aon.rail = true) ∧
    (∃ (s : State) (dt : Nat) (c : Instr) (k : Cause), (c = .brownout dt ∧ k = Cause.brownout ∨ c = .overvolt dt ∧ k =
        Cause.overvolt ∨ c = .overtemp dt ∧ k = Cause.thermal) ∧ s.aon.rail = true) ∧
    (∃ (s : State), s.aon.rail = true ∧ s.aon.powerGood = true) ∧
    (∃ (s : State), s.aon.rail = true ∧ s.aon.phase ≠ .held) ∧
    (∃ (s : State) (dt : Nat) (c : Instr) (k : Cause), (c = .resetNChange dt false ∧ k = Cause.resetN ∨ c = .buttonChange dt true
        ∧ k = Cause.button) ∧ s.aon.rail = true ∧ s.aon.phase = .held) ∧
    (∃ (s : State), s.aon.rail = true) ∧
    (∃ (s : State), s.aon.rail = true ∧ s.aon.phase ≠ .held) ∧
    (∃ (s : State), s.aon.rail = true) ∧
    (∃ (s : State) (v : Word), RegOpen s .aonSwreset 0 0 ∧ v = 0xD00D ∧ s.aon.swRun = false) ∧
    (∃ (s : State), s.aon.swRun = true ∧ s.aon.phase = .held) ∧
    (∃ (s : State), s.aon.phase = .held ∧ s.aon.free = true) ∧
    (∃ (s : State), s.aon.phase = .held ∧ s.aon.free = true) ∧
    (∃ (s : State), s.aon.phase = .held ∧ s.aon.free = false) ∧
    (∃ (s : State), s.aon.rail = false) :=
  ⟨⟨(wr .sspPocxp 3 0 1 hz).modAon fun a => { a with powerGood := false, supply := [.brownout] }, by decide +kernel⟩,
    ⟨hz, by decide +kernel⟩,
    ⟨hz, by decide +kernel⟩,
    ⟨hz, 5, .brownout 5, .brownout, by decide +kernel⟩,
    ⟨hz.modAon fun a => { a with supply := [.thermal] }, by decide +kernel⟩,
    ⟨xe en, by decide +kernel⟩,
    ⟨hz.modAon fun a => { a with phase := .held, heldAt := 3 }, 5, .buttonChange 5 true, Cause.button,
      ⟨Or.inr ⟨rfl, rfl⟩,
      by decide +kernel, by decide +kernel⟩⟩,
    ⟨hz, by decide +kernel⟩,
    ⟨xe en, by decide +kernel⟩,
    ⟨hz, by decide +kernel⟩,
    ⟨xe en, 0xD00D, by simp only [RegOpen]; decide +kernel⟩,
    ⟨hz.modAon fun a => { a with swRun := true, phase := .held, heldAt := 3 }, by decide +kernel⟩,
    ⟨{ hz with now := 90000000, aon := { hz.aon with phase := .held, heldCause := .resetN, heldAt := 3 } }, by decide +kernel⟩,
    ⟨hz.modAon fun a => { a with phase := .held, heldAt := 3 }, by decide +kernel⟩,
    ⟨hz.modAon fun a => { a with phase := .held, supply := [.thermal] }, by decide +kernel⟩,
    ⟨z.modAon fun a => { a with rail := false, phase := .held, supply := [.powerOn] }, by decide +kernel⟩⟩

/-- The hypotheses of `Obligations.StartUp` are met, those of each clause. -/
theorem met_StartUp :
    (∃ (s : State), s.aon.phase = .released) ∧
    (∃ (s : State), s.aon.phase = .released) ∧
    (∃ (s : State) (k : Nat), s.aon.phase = .profile ∧ s.aon.profWait = none ∧ (s.aon.boot = none ∧ k = 0 ∨ ∃ n, s.aon.boot = some
        n ∧ profValid (s.slotBytes n) = false ∧ k = 2)) ∧
    (∃ (s : State) (k : Nat), s.aon.phase = .profile ∧ s.aon.profWait = none ∧ (s.aon.boot = none ∧ k = 0 ∨ ∃ n, s.aon.boot = some
        n ∧ profValid (s.slotBytes n) = false ∧ k = 2)) ∧
    (∃ (s : State) (n : Nat) (b : List Byte) (off : Nat) (v : Nat), s.aon.phase = .profile ∧ s.aon.profWait = none ∧ s.aon.boot =
        some n ∧ b = s.slotBytes n ∧ profValid b = true ∧ u32 b 8 = 1 ∧ s.aon.profIdx = 0 ∧ off = u32 b 16 ∧ v = u32 b 20 ∧ off <
        2 ^ 31 ∧ profSkips off = false ∧ off % 4 = 0) ∧
    (∃ (s : State) (n : Nat) (b : List Byte), s.aon.phase = .profile ∧ s.aon.profWait = none ∧ s.aon.boot = some n ∧ b =
        s.slotBytes n ∧ profValid b = true ∧ s.aon.profIdx < u32 b 8 ∧ 2 ^ 31 ≤ u32 b (16 + 8 * s.aon.profIdx)) ∧
    (∃ (s : State) (n : Nat) (x : Nat), s.aon.phase = .profile ∧ s.aon.profWait = some x ∧ s.aon.boot = some n ∧ profValid
        (s.slotBytes n) = true ∧ u32 (s.slotBytes n) 8 ≤ s.aon.profIdx) ∧
    (∃ (s : State) (c : Nat), s.aon.phase = .training ∧ c < 4) ∧
    (∃ (s : State), s.aon.phase = .zeroing) :=
  ⟨⟨z, by decide +kernel⟩,
    ⟨z, by decide +kernel⟩,
    ⟨z.modAon fun a => { a with phase := .profile }, 0, by decide +kernel⟩,
    ⟨fz 0 none [1, 2], 2, by simp only; exact ⟨by decide +kernel, by decide +kernel, Or.inr ⟨4, by decide +kernel⟩⟩⟩,
    ⟨fz 0 none (profB [(0x20020, 7)]), 4, profB [(0x20020, 7)], 0x20020, 7, by decide +kernel⟩,
    ⟨fz 0 none (profB [(0x80000000, 7)]), 4, profB [(0x80000000, 7)], by decide +kernel⟩,
    ⟨fz 1 (some 900) (profB [(0x80000000, 7)]), 4, 900, by decide +kernel⟩,
    ⟨z.modAon fun a => { a with phase := .training }, 1, by decide +kernel⟩,
    ⟨(z.modAon fun a => { a with phase := .zeroing }).modPort 0 fun x => { x with up := true }, by decide +kernel⟩⟩

/-- The hypotheses of `Obligations.StepsRunCommands` are met. -/
theorem met_StepsRunCommands :
    ∃ (s : State), s.pending = [] :=
  ⟨hz, by decide +kernel⟩

/-- The hypotheses of `Obligations.MemoryStaysCanonical` are met. -/
theorem met_MemoryStaysCanonical :
    ∃ (s : State) (t : State), MemOk s ∧ step s = .next t :=
  ⟨{ hz with pending := [.write 5 0 pe (fr 0x10 (by8 0x1000 ++ by4 3 ++ zeros 4 ++ [1, 2, 3]))] }, _,
      ⟨by simp only [MemOk]; decide +kernel, rfl⟩⟩

/-- The hypotheses of `Obligations.ScheduleStaysNumbered` are met. -/
theorem met_ScheduleStaysNumbered :
    ∃ (s : State) (t : State), Numbered s ∧ step s = .next t :=
  ⟨{ xe en with pending := [.verdictIntake] }, _, ⟨by simp only [Numbered]; decide +kernel, rfl⟩⟩

/-- The hypotheses of `Obligations.ResetTime` are met, those of each clause. -/
theorem met_ResetTime :
    (∃ (s : State), s.aon.phase = .held ∧ s.aon.free = true) ∧
    (∃ (s : State), s.aon.phase ≠ .held) ∧
    (∃ (s : State) (n : Nat), s.aon.phase ≠ .held ∧ n < 32) ∧
    (∃ (n : Nat), n < 32) :=
  ⟨⟨hz.modAon fun a => { a with phase := .held }, by decide +kernel⟩,
    ⟨hz, by decide +kernel⟩,
    ⟨hz, 31, by decide +kernel⟩,
    ⟨31, by decide +kernel⟩⟩

/-- The hypotheses of `Obligations.StickySafeStateStays` are met, those of each clause. -/
theorem met_StickySafeStateStays :
    (∃ (c : Instr) (s : State) (t : State), s.flt.safe = true ∧ s.flt.sticky = true ∧ exec c s = .next t ∧ t.aon.phase ≠ .held) ∧
    (∃ (s : State), RegOpen s .aonSwreset 0 0 ∧ s.aon.swRun = false) :=
  ⟨⟨.safeStateRelease, hz.modFlt fun f => { f with safe := true, sticky := true }, _,
      ⟨by decide +kernel, by decide +kernel, rfl,
      by decide +kernel⟩⟩,
    ⟨hz.modFlt fun f => { f with safe := true, sticky := true }, by simp only [RegOpen]; decide +kernel⟩⟩

/-- The hypotheses of `Obligations.LineStopLatched` are met, those of each clause. -/
theorem met_LineStopLatched :
    (∃ (c : Instr) (s : State) (t : State), s.act.lstop = true ∧ s.flt.safe = true ∧ exec c s = .next t) ∧
    (∃ (c : Instr) (s : State) (t : State), s.act.lstop = true ∧ exec c s = .next t ∧ (∀ v, c ≠ .lstopRelease v) ∧ (∀ off v, c ≠
        .setupRegisterWrite off v) ∧ (∀ dt p peer f, c ≠ .write dt p peer f ∧ c ≠ .read dt p peer f ∧ c ≠ .regwrite dt p peer f ∧
        c ≠ .window dt p peer f ∧ c ≠ .keyset dt p peer f ∧ c ≠ .close dt p peer f ∧ c ≠ .ping dt p peer f)) :=
  ⟨⟨.lstopRelease 0x100, hz.modFlt fun f => { f with safe := true }, _, ⟨by decide +kernel, by decide +kernel, rfl⟩⟩,
    ⟨.safeStateRelease, hz.modFlt fun f => { f with safe := true }, go [execSafeStateRelease] (hz.modFlt fun f =>
      { f with safe := true }),
      ⟨by decide +kernel, by rfl, nofun, nofun, fun _ _ _ _ => ⟨nofun, nofun, nofun, nofun, nofun,
      nofun, nofun⟩⟩⟩⟩

/-- The hypotheses of `Obligations.ClassCAcknowledged` are met, those of each clause. -/
theorem met_ClassCAcknowledged :
    (∃ (s : State), s.fltAuto_MS ≠ 0 ∧ s.flt.unackC ≠ 0 ∧ s.flt.dead = false) ∧
    (∃ (s : State), s.fltAuto_MS = 0) ∧
    (∃ (c : Instr) (s : State) (t : State), c ≠ .fltAck ∧ exec c s = .next t ∧ t.aon.phase ≠ .held ∧ s.flt.unackU ≤ 1023 ∧
        s.flt.unackF ≤ 1023) :=
  ⟨⟨(wr .fltAuto 0 0 100 hz).modFlt fun f => { f with unackC := 2 }, by decide +kernel⟩,
    ⟨wr .fltAuto 0 0 0 hz, by decide +kernel⟩,
    ⟨.autoAck, (wr .fltAuto 0 0 100 hz).modFlt fun f => { f with unackC := 2, unackU := 1023, unackF := 1 }, _,
      ⟨nofun, rfl,
      by decide +kernel, by decide +kernel, by decide +kernel⟩⟩⟩

/-- The hypotheses of `Obligations.LanesKeepRest` are met, those of each clause. -/
theorem met_LanesKeepRest :
    (∃ (s : State) (n : Nat) (c : List Byte), Issues s 0x08 .access n c ∨ Issues s 0x09 .access n c) ∧
    (∃ (s : State) (n : Nat) (c : List Byte), Issues s 0x08 .access n c ∨ Issues s 0x09 .access n c) ∧
    (∃ (s : State) (n : Nat) (c : List Byte), Issues s 0x05 .access n c ∧ s.laneReads n ((s.lane n).memAddr (u8 c 9 % 8) (s64 c
        16)) (if u8 c 10 = 1 then 8 else 4) = true) ∧
    (∃ (s : State) (n : Nat) (st : Stream) (c : List Byte), Issues s 0x0A st n c ∨ Issues s 0x0B st n c) ∧
    (∃ (s : State) (n : Nat) (st : Stream) (c : List Byte), Issues s 0x0A st n c ∨ Issues s 0x0B st n c) ∧
    (∃ (s : State) (n : Nat) (st : Stream) (c : List Byte), Issues s 0x0C st n c) ∧
    (∃ (s : State) (n : Nat) (st : Stream) (c : List Byte), Issues s 0x2F st n c) ∧
    (∃ (s : State) (n : Nat) (c : List Byte) (d : List Byte), Issues s 0x03 .access n c ∧ ((s.lane n).tiles (u8 c 8 % 4)).length <
        64 ∧ tileRows s n (rowBytes (u8 c 10) 32) (u32 c 16) 32 (s.spAddr n c) = some d) ∧
    (∃ (s : State) (n : Nat) (c : List Byte) (u : State), Issues s 0x01 .access n c ∧ loadRows n (u16 c 10) (s32 c 20) (u32 c 24)
        (u16 c 16) ((s.lane n).memAddr (u8 c 8 % 8) (s32 c 28)) (s.spAddr n c) s = .done u) :=
  ⟨⟨la (cm 8 [(8, [7]), (12, by4 3), (16, by8 0xFFFFFFFFFF), (24, by4 5 ++ by4 6)]), 15, cm 8
      [(8, [7]), (12, by4 3), (16, by8 0xFFFFFFFFFF), (24, by4 5 ++ by4 6)], by simp only [Issues]; decide +kernel⟩,
    ⟨la (cm 9 [(8, [7, 0xF]), (16, by8 3)]), 15, cm 9 [(8, [7, 0xF]), (16, by8 3)], by simp only [Issues]; decide +kernel⟩,
    ⟨(la (cm 5 [(8, [7, 0, 1]), (16, by8 0x3000), (24, by8 9)])).writeMem 0x3000 (by8 0x1234567890), 0, cm 5
      [(8, [7, 0, 1]), (16, by8 0x3000), (24, by8 9)], by simp only [Issues]; decide +kernel⟩,
    ⟨le (cm 10 [(8, [7, 8]), (12, by4 0x7FFFFFFF)]), 15, .execute, cm 10 [(8, [7, 8]), (12, by4 0x7FFFFFFF)],
      by simp only [Issues]; decide +kernel⟩,
    ⟨la (cm 11 [(8, [7, 8, 1]), (12, by4 0xFFFFFFFF)]), 15, .access, cm 11 [(8, [7, 8, 1]), (12, by4 0xFFFFFFFF)],
      by simp only [Issues]; decide +kernel⟩,
    ⟨la (cm 12 [(8, [3, 8, 0, 3]), (12, by4 1), (16, [1, 2])]), 15, .access, cm 12 [(8, [3, 8, 0, 3]), (12, by4 1), (16, [1, 2])],
      by simp only [Issues]; decide +kernel⟩,
    ⟨le (cm 0x2F []), 0, .execute, cm 0x2F [], by simp only [Issues]; decide +kernel⟩,
    ⟨la (cm 3 [(8, [3, 0, 1]), (12, by4 0x100), (16, by4 16)]), 0, cm 3 [(8, [3, 0, 1]), (12, by4 0x100), (16, by4 16)], zeros
      512, by simp only [Issues]; decide +kernel⟩,
    ⟨(la (rows 1)).writeMem 0x2000 (by4 7), 15, rows 1, ranTo (loadRows 15 8 16 8 2 0x2000 0x100 ((la (rows 1)).writeMem 0x2000
      (by4 7))), by simp only [Issues]; decide +kernel⟩⟩

/-- The hypotheses of `Obligations.StoresStayInPlace` are met, those of each clause. -/
theorem met_StoresStayInPlace :
    (∃ (s : State) (n : Nat) (c : List Byte), s.laneCmd .access n = some c) ∧
    (∃ (s : State) (n : Nat) (c : List Byte), s.laneCmd .access n = some c) ∧
    (∃ (s : State) (n : Nat) (c : List Byte), s.laneCmd .access n = some c) ∧
    (∃ (s : State) (c : List Byte), s.barrier .access = some c) ∧
    (∃ (s : State) (o : Op), s.nextOp 0x23 (fun _ => true) = some o ∧ s.flt.safe = false) ∧
    (∃ (s : State) (n : Nat) (c : List Byte) (k : Nat) (a : Nat) (p : Nat), let q := s.kvSeq a
      let pos := q.len (u8 c 10)
      let e := s.ptAddr k a q.bank (pos / 256) (u8 c 10)
      s.laneCmd .access n = some c ∧ KvFinds s n c false k a ∧ s.aon.ueUnits = [] ∧ pos % 256 + u16 c 20 ≤ 256 ∧ (s.ptGet k a
        q.bank (pos / 256) (u8 c 10) = some p ∨ s.ptGet k a q.bank (pos / 256) (u8 c 10) = none ∧ p = lowestFree 0 ((Tab.get [] k
        s.kvp.used).map fun u => u.1)) ∧ p < 2 ^ 18 ∧ (e + 4 ≤ s.kvAt k p 0 0 ∨ s.kvAt k p 0 0 + s.kvPb k ≤ e)) ∧
    (∃ (s : State) (n : Nat) (c : List Byte) (k : Nat) (a : Nat), s.laneCmd .access n = some c ∧ KvFinds s n c false k a ∧
        s.aon.ueUnits = []) ∧
    (∃ (s : State) (k : Nat) (a : Nat), s.kvp.later.find? (fun y => !s.attending y.2) = some (k, a)) ∧
    (∃ (s : State) (n : Nat) (c : List Byte) (u : Instr), s.laneCmd .execute n = some c ∧ (u = .matmul n ∨ u = .conv2d n ∨ u =
        .warp n ∨ u = .meshi n ∨ u = .reduce n ∨ u = .eltwise n ∨ u = .hist n ∨ u = .gather n ∨ u = .scatter n ∨ u = .convert n ∨
        u = .norm n)) ∧
    (∃ (n : Nat) (st : Stream) (c : Instr), (c = .push n ∨ c = .lda n ∨ c = .seta n ∨ c = .adda n ∨ c = .setc n st ∨ c = .addc n
        st ∨ c = .cmp n st ∨ c = .nop n st ∨ c = .rscalar n ∨ c = .br st ∨ c = .decide ∨ c = .bandEnd ∨ c = .takeb ∨ c = .waitb ∨
        c = .freeb)) :=
  ⟨⟨la (rows 1), 15, rows 1, by decide +kernel⟩,
    ⟨la (cm 4 [(8, [3, 0, 1]), (12, by4 0x100), (16, by4 16)]), 0, cm 4 [(8, [3, 0, 1]), (12, by4 0x100), (16, by4 16)],
      by decide +kernel⟩,
    ⟨rec60 (la (cm 0x28 [(16, by8 0x2000)])), 0, cm 0x28 [(16, by8 0x2000)], by decide +kernel⟩,
    ⟨(la (cm 0x23 [(8, [3, 0, 1]), (16, by8 0x2000)])).modRly fun r => { r with batons := [(0, { state := 1 })] }, cm 0x23
      [(8, [3, 0, 1]), (16, by8 0x2000)], by decide +kernel⟩,
    ⟨withOp (op (desc 0x23 0 [] (by8 0x8000)) false) vz, op (desc 0x23 0 [] (by8 0x8000)) false, by decide +kernel⟩,
    ⟨wr .kvpCacheBase 0 0 0x800000 (az (la (cm 0x84 [(9, [0]), (11, [15]), (12, by4 64), (16, by4 64), (20, by2 1)]))), 0, cm 0x84
      [(9, [0]), (11, [15]), (12, by4 64), (16, by4 64), (20, by2 1)], 0, 0, 0, by simp only [KvFinds]; decide +kernel⟩,
    ⟨wr .kvpCacheBase 0 0 0x800000 (az (la (cm 0x84 [(9, [0]), (11, [15]), (12, by4 64), (16, by4 64), (20, by2 1)]))), 0, cm 0x84
      [(9, [0]), (11, [15]), (12, by4 64), (16, by4 64), (20, by2 1)], 0, 0, by simp only [KvFinds]; decide +kernel⟩,
    ⟨z.modKvp fun x => { x with later := [(3, 5)] }, 3, 5, by decide +kernel⟩,
    ⟨lz [] [cm 0x40 [(8, [0, 1, 1, 1])]] [one 64, one 128], 15, cm 0x40 [(8, [0, 1, 1, 1])], .matmul 15,
      ⟨by decide +kernel,
      Or.inl rfl⟩⟩,
    ⟨0, .access, .push 0, Or.inl rfl⟩⟩

/-- The hypotheses of `Obligations.WritesKeepOtherRegisters` are met. -/
theorem met_WritesKeepOtherRegisters :
    ∃ (s : State) (off : Nat) (r : Reg) (i : Nat) (j : Nat) (w : Nat), regAt off = some ⟨r, i, j, w⟩ ∧ r ≠ .aonSwreset ∧ RegOpen s
        r i j :=
  ⟨hz, Reg.off .hlPoll 0 0, .hlPoll, 0, 0, 0, by simp only [RegOpen]; decide +kernel⟩

/-- The hypotheses of `Obligations.CommandsKeepOtherParts` are met, those of each clause. -/
theorem met_CommandsKeepOtherParts :
    (∃ (c : Instr), (c = .holdTimeout ∨ c = .announceTimeout)) ∧
    (∃ (c : Instr), (c = .portXactCxpWrite ∨ c = .portXactCxpRead)) ∧
    (∃ (c : Instr), (c = .sluiceTokenPlace ∨ c = .bandqRecallEnter)) ∧
    (∃ (c : Instr), (c = .panLoad ∨ c = .panSwap ∨ c = .panSwapCopyDone)) ∧
    (∃ (c : Instr), (c = .trkNotice ∨ c = .trackBatchProcess)) ∧
    (∃ (c : Instr), (c = .decide ∨ c = .programRetire)) ∧
    (∃ (c : Instr), (c = .bandEnd ∨ c = .takeb ∨ c = .waitb ∨ c = .freeb)) ∧
    (∃ (c : Instr), (c = .slvNotice ∨ c = .heatStart)) ∧
    (∃ (c : Instr), (c = .slvLoad ∨ c = .slvHeat)) ∧
    (∃ (c : Instr), (c = .progLoad ∨ c = .progVerifyDone)) ∧
    (∃ (c : Instr), (c = .actClear ∨ c = .injectActuation)) ∧
    (∃ (c : Instr), (c = .nopDescriptor ∨ c = .injectReport ∨ c = .profileRead ∨ c = .profileWrite ∨ c = .profileErase ∨ c =
        .profileSelectBoot ∨ c = .profileComplete)) ∧
    (∃ (s : State) (t : State), s.nextMsg = none ∧ exec .fltAck s = .next t) ∧
    (∃ (s : State) (t : State), s.nextMsg = none ∧ exec .autoAck s = .next t) ∧
    (∃ (s : State) (t : State), s.nextMsg = none ∧ exec .safeStateRelease s = .next t) :=
  ⟨⟨.holdTimeout, Or.inl rfl⟩,
    ⟨.portXactCxpWrite, Or.inl rfl⟩,
    ⟨.sluiceTokenPlace, Or.inl rfl⟩,
    ⟨.panLoad, Or.inl rfl⟩,
    ⟨.trkNotice, Or.inl rfl⟩,
    ⟨.decide, Or.inl rfl⟩,
    ⟨.bandEnd, Or.inl rfl⟩,
    ⟨.slvNotice, Or.inl rfl⟩,
    ⟨.slvLoad, Or.inl rfl⟩,
    ⟨.progLoad, Or.inl rfl⟩,
    ⟨.actClear, Or.inl rfl⟩,
    ⟨.nopDescriptor, Or.inl rfl⟩,
    ⟨hz, go [execFltAck] hz, ⟨by decide +kernel, by rfl⟩⟩,
    ⟨hz, go [execAutoAck] hz, ⟨by decide +kernel, by rfl⟩⟩,
    ⟨hz, go [execSafeStateRelease] hz, ⟨by decide +kernel, by rfl⟩⟩⟩

/-- The hypotheses of `ScratchRun` for a macro-operation, and of `TileRun`. -/
def ScratchMet (o : Nat) (mk : Nat → State → List Byte → MacroOp) : Prop :=
  ∃ (s : State) (n : Nat) (c : List Byte), Issues s o .execute n c ∧ s.aon.ueUnits = [] ∧ s.kvp.rebuilding = [] ∧
    InScratch s c ((mk n s c).srcs ++ [3]) ∧ (mk n s c).stop (s.operandsOf n c) = none
def TileMet (o : Nat) (mk : Nat → State → List Byte → MacroOp) : Prop :=
  ∃ (s : State) (n : Nat) (c : List Byte), let d := s.desc (u8 c 8)
    Issues s o .execute n c ∧ InScratch s c (mk n s c).srcs ∧ d.loc = 1 ∧ d.t0 = 1 ∧ d.t1 = 1 ∧ d.d2 = 1 ∧ d.d3 = 1 ∧
      (s.lane n).run = none ∧ (mk n s c).stop (s.operandsOf n c) = none ∧ ((s.lane n).tiles d.queue).length < 64

/-- A macro-operation on elements at 64 and 128 of the scratchpad, D first; and one whose D is a tile of queue 2. -/
def mop (o : Nat) : List Byte := cm o [(8, [0, 1, 1, 1])]
def ms (o : Nat) : State := lz [] [mop o] [one 64, one 128]
def mt (o : Nat) : State := lz [] [mop o] [oneQ, one 128]

/-- The hypotheses of `Obligations.OpsRun` are met. -/
theorem met_OpsRun :
    ScratchMet 0x40 (fun _ => matmulOp) ∧ ScratchMet 0x41 (fun _ => conv2dOp) ∧ ScratchMet 0x42 (fun _ => warpOp) ∧
      ScratchMet 0x43 (fun _ => meshiOp) ∧ ScratchMet 0x44 (fun _ => reduceOp) ∧ ScratchMet 0x45 (fun _ => eltwiseOp) ∧
      ScratchMet 0x46 (fun _ => histOp) ∧ ScratchMet 0x47 (fun _ => gatherOp) ∧ ScratchMet 0x48 (fun _ => scatterOp) ∧
      ScratchMet 0x49 (fun _ => convertOp) ∧ ScratchMet 0x4A (fun _ => normOp) ∧ TileMet 0x40 (fun _ => matmulOp) ∧ TileMet
      0x41 (fun _ => conv2dOp) ∧ TileMet 0x42 (fun _ => warpOp) ∧ TileMet 0x43 (fun _ => meshiOp) ∧ TileMet 0x44 (fun _ =>
      reduceOp) ∧ TileMet 0x45 (fun _ => eltwiseOp) ∧ TileMet 0x46 (fun _ => histOp) ∧ TileMet 0x47 (fun _ => gatherOp) ∧
      TileMet 0x48 (fun _ => scatterOp) ∧ TileMet 0x49 (fun _ => convertOp) ∧ TileMet 0x4A (fun _ => normOp) :=
  ⟨⟨ms 0x40, 15, mop 0x40, by simp only [Issues, InScratch]; decide +kernel⟩,
    ⟨ms 0x41, 15, mop 0x41, by simp only [Issues, InScratch]; decide +kernel⟩,
    ⟨ms 0x42, 15, mop 0x42, by simp only [Issues, InScratch]; decide +kernel⟩,
    ⟨ms 0x43, 15, mop 0x43, by simp only [Issues, InScratch]; decide +kernel⟩,
    ⟨ms 0x44, 15, mop 0x44, by simp only [Issues, InScratch]; decide +kernel⟩,
    ⟨ms 0x45, 15, mop 0x45, by simp only [Issues, InScratch]; decide +kernel⟩,
    ⟨ms 0x46, 15, mop 0x46, by simp only [Issues, InScratch]; decide +kernel⟩,
    ⟨ms 0x47, 15, mop 0x47, by simp only [Issues, InScratch]; decide +kernel⟩,
    ⟨ms 0x48, 15, mop 0x48, by simp only [Issues, InScratch]; decide +kernel⟩,
    ⟨ms 0x49, 15, mop 0x49, by simp only [Issues, InScratch]; decide +kernel⟩,
    ⟨ms 0x4A, 15, mop 0x4A, by simp only [Issues, InScratch]; decide +kernel⟩,
    ⟨mt 0x40, 0, mop 0x40, by simp only [Issues, InScratch]; decide +kernel⟩,
    ⟨mt 0x41, 0, mop 0x41, by simp only [Issues, InScratch]; decide +kernel⟩,
    ⟨mt 0x42, 0, mop 0x42, by simp only [Issues, InScratch]; decide +kernel⟩,
    ⟨mt 0x43, 0, mop 0x43, by simp only [Issues, InScratch]; decide +kernel⟩,
    ⟨mt 0x44, 0, mop 0x44, by simp only [Issues, InScratch]; decide +kernel⟩,
    ⟨mt 0x45, 0, mop 0x45, by simp only [Issues, InScratch]; decide +kernel⟩,
    ⟨mt 0x46, 0, mop 0x46, by simp only [Issues, InScratch]; decide +kernel⟩,
    ⟨mt 0x47, 0, mop 0x47, by simp only [Issues, InScratch]; decide +kernel⟩,
    ⟨mt 0x48, 0, mop 0x48, by simp only [Issues, InScratch]; decide +kernel⟩,
    ⟨mt 0x49, 0, mop 0x49, by simp only [Issues, InScratch]; decide +kernel⟩,
    ⟨mt 0x4A, 0, mop 0x4A, by simp only [Issues, InScratch]; decide +kernel⟩⟩

/-- An ATTEND of one query of 32 FP16 elements in cache 0, whose list names sequence 0. -/
def matt : List Byte := cm 0x80 [(8, [0, 0, 0, 1])]

/-- The hypotheses of the clause of `Obligations.KvCommands` on ATTEND are met. -/
theorem met_attend : ScratchMet 0x80 attendOp :=
  ⟨az (lz [] [matt] [cm 0 [(0, by4 64), (6, [10]), (8, by2 32 ++ by2 1 ++ by2 1 ++ by2 1)],
      cm 0 [(0, by4 512), (6, [7]), (8, by2 2 ++ by2 1 ++ by2 1 ++ by2 1)]]), 0, matt, by simp only [Issues, InScratch]; decide +kernel⟩

end Sys2Proof.Tests
end

/-! PROOFS. Which operations neither ask for a software reset nor end one: all that a register write does, but for the write of
AON.SWRESET itself (15_startup.md R532). -/

section

-- One theorem at a time: a thread a theorem would be too many.
set_option Elab.async false

namespace Sys2Proof.Machine

open Sys2Proof

/-- Going from `s` to `t` neither asks for a software reset nor ends one. -/
def SwKept (s t : State) : Prop := t.aon.swRun = s.aon.swRun

theorem SwKept.refl (s : State) : SwKept s s := rfl

theorem SwKept.trans {s t u : State} (h : SwKept s t) (g : SwKept t u) : SwKept s u := Eq.trans g h

theorem Stays.swKept {l : List Part} {s t : State} (h : Stays l s t) (n : Part.aon ∉ l := by decide) : SwKept s t :=
  congrArg Aon.swRun (h.only .aon n)

theorem SwKept.ite {s a b : State} {c : Prop} [Decidable c] (h : SwKept s a) (g : SwKept s b) :
    SwKept s (if c then a else b) := by split <;> assumption

theorem SwKept.each {α : Type} {f : α → State → State} (g : ∀ a t, SwKept t (f a t)) :
    ∀ (as : List α) (s : State), SwKept s (eachOf as f s)
  | [], s => .refl s
  | a :: as, s => (g a s).trans (SwKept.each g as (f a s))

theorem SwKept.elim {α : Type} {s t : State} {o : Option α} {f : α → State} (h : SwKept s t)
    (g : ∀ a, o = some a → SwKept s (f a)) : SwKept s (o.elim t f) := by
  cases o with
  | none => exact h
  | some a => exact g a rfl

/-! ### Memory, jobs and the service level -/

theorem State.writeByte_swKept (s : State) (a : Nat) (b : Byte) : SwKept s (s.writeByte a b) := by
  unfold State.writeByte
  exact .ite rfl (.refl s)

theorem State.writeMem_swKept (s : State) (a : Nat) (l : List Byte) : SwKept s (s.writeMem a l) := by
  induction l generalizing s a with
  | nil => exact .refl s
  | cons b t ih => exact (s.writeByte_swKept a b).trans (ih _ _)

theorem State.jsw_swKept (s : State) (r : Nat) (d : BitVec 32) (cstatus : Nat) (f : Op → Op) : SwKept s (s.jsw r d cstatus f) := by
  unfold State.jsw
  split
  · exact .refl s
  · dsimp only
    split
    · exact (State.modHl_stays ..).swKept.trans (State.writeMem_swKept ..)
    · exact (State.modHl_stays ..).swKept

theorem State.complete_swKept (s : State) (r : Nat) (d : BitVec 32) (cstatus reason : Nat) (result : List Byte) :
    SwKept s (s.complete r d cstatus reason result) := by
  unfold State.complete
  split
  · exact .refl s
  · have h := (State.jsw_swKept s r d cstatus fun o => { o with jstate := 2 }).trans
      (State.modHl_stays _ fun h => { h with ops := dropFirst (Op.is r d) h.ops }).swKept
    exact .ite h (h.trans (State.post_stays ..).swKept)

theorem State.relevel_swKept (s : State) : SwKept s s.relevel := by
  unfold State.relevel
  refine .ite (.refl s) (.trans ?_ (.each (fun p t => (State.sendStatus_stays t p).swKept) _ _))
  exact rfl

/-! ### Ports and buses that are disabled -/

theorem State.shotDone_swKept (s : State) (shot : Option Nat) (cstatus : Nat) (result : List Byte) :
    SwKept s (s.shotDone shot cstatus result) := by
  cases shot with
  | none => exact .refl s
  | some k => exact State.complete_swKept ..

theorem State.trigDrop_swKept (s : State) (n : Nat) (shot : Option Nat) : SwKept s (s.trigDrop n shot) :=
  (State.modSsp_stays ..).swKept.trans ((State.notify_stays ..).swKept.trans (State.shotDone_swKept ..))

theorem State.trigsGo_swKept (s : State) (n : Nat) (count : Bool) (cstatus : Nat) : SwKept s (s.trigsGo n count cstatus) := by
  have h : SwKept s (eachOf (s.ssp n).held (fun t s => if count then s.trigDrop n t.shot else s.shotDone t.shot cstatus [])
      (s.modSsp n fun p => { p with held := [] })) :=
    (State.modSsp_stays ..).swKept.trans (.each (fun _ _ => .ite (State.trigDrop_swKept ..) (State.shotDone_swKept ..)) _ _)
  unfold State.trigsGo
  exact .ite h (h.trans ((State.modSsp_stays ..).swKept.trans (.each (fun _ _ => State.shotDone_swKept ..) _ _)))

theorem State.xactsFail_swKept (s : State) (port : Nat) (running : Bool) : SwKept s (s.xactsFail port running) :=
  .each (fun _ _ => State.complete_swKept ..) _ _

theorem State.sspOff_swKept (s : State) (n : Nat) : SwKept s (s.sspOff n) :=
  (State.trigsGo_swKept s n false 2).trans <| (State.xactsFail_swKept _ n true).trans <|
    (State.modSsp_stays ..).swKept.trans <| (State.detach_stays ..).swKept.trans (State.quadEnable_stays ..).swKept

theorem State.sspRegroup_swKept (s : State) (q : Nat) (was : List Nat) : SwKept s (s.sspRegroup q was) :=
  (SwKept.each (fun k t => State.sspOff_swKept t k) _ s).trans <|
    (SwKept.each (fun k t => (State.sspOn_stays t k).swKept) _ _).trans <|
      .each (fun _ _ => (State.modSsp_stays ..).swKept) _ _

theorem State.i2cEnd_swKept (s : State) (n cstatus reason : Nat) (result : List Byte) : SwKept s (s.i2cEnd n cstatus reason result) := by
  unfold State.i2cEnd
  split
  · exact .refl s
  · exact (State.modI2c_stays ..).swKept.trans (State.complete_swKept ..)

theorem State.i2cOff_swKept (s : State) (n : Nat) : SwKept s (s.i2cOff n) := by
  unfold State.i2cOff
  refine .trans (.ite ?_ (.refl s)) (State.modI2c_stays ..).swKept
  exact State.i2cEnd_swKept ..

/-! ### Program exchanges -/

theorem State.abortExchange_swKept (s : State) : SwKept s s.abortExchange := by
  unfold State.abortExchange
  split
  · exact .ite (.refl s) ((State.modProg_stays ..).swKept.trans (State.complete_swKept ..))
  · exact .refl s

theorem State.switchNow_swKept (s : State) (x : Exchange) : SwKept s (s.switchNow x) := by
  unfold State.switchNow
  extract_lets p old s1 s2
  have h1 : SwKept s s1 := (State.modRly_stays s _).swKept
  have h2 : SwKept s1 s2 := .ite (State.actCancel_stays s1 old).swKept (.refl s1)
  exact h1.trans <| h2.trans <| (State.restartStreams_stays s2 _).swKept.trans <|
    (State.complete_swKept ..).trans (State.relevel_swKept _)

theorem State.switchIdle_swKept (s : State) : SwKept s s.switchIdle := by
  unfold State.switchIdle
  split
  · exact .ite (.refl s) (State.switchNow_swKept ..)
  · exact .refl s

/-! ### The Pan and a motion frame that becomes absent -/

theorem State.storePut_swKept {s : State} {b : List Byte} {x : Nat × State} (h : s.storePut b = some x) : SwKept s x.2 := by
  obtain ⟨o, -, rfl⟩ := Option.map_eq_some_iff.mp h
  exact (State.modPan_stays ..).swKept.trans (State.writeMem_swKept ..)

theorem State.writePlaces_swKept {e : Epoch} {r : Bool} {l : List Sample} :
    ∀ {s : State} {x : List Sample × State}, s.writePlaces e r l = some x → SwKept s x.2 := by
  induction l with
  | nil =>
    rintro s x ⟨⟩
    exact .refl s
  | cons y t ih =>
    intro s x h
    unfold State.writePlaces at h
    split at h
    · obtain ⟨z, hz, rfl⟩ := Option.map_eq_some_iff.mp h
      exact (ih hz :)
    · dsimp only at h
      split at h
      · exact nomatch h
      · next hp =>
        obtain ⟨z, hz, rfl⟩ := Option.map_eq_some_iff.mp h
        exact (State.storePut_swKept hp).trans (ih hz :)

theorem State.writeRelease_swKept {s : State} {h : RelHead} {m : List Sample} {x : List Sample × State}
    (e : s.writeRelease h m = some x) : SwKept s x.2 := by
  unfold State.writeRelease at e
  dsimp only at e
  split at e
  · exact nomatch e
  · next hw =>
    split at e
    · exact nomatch e
    · next hp =>
      obtain rfl := Option.some.inj e
      exact (State.writePlaces_swKept hw).trans <| (State.storePut_swKept hp).trans <|
        (State.modPf_stays ..).swKept.trans (State.modPan_stays ..).swKept

theorem State.releaseBand_swKept {s : State} {f : Nat} {k : BitVec 32} {e : Epoch} {a g : Nat} {m : Bool} {t : State}
    (h : s.releaseBand f k e a g m = some t) : SwKept s t := by
  obtain ⟨_, hw, rfl⟩ := Option.map_eq_some_iff.mp h
  exact (State.changeOver_stays s f k).swKept.trans <| (State.writeRelease_swKept hw).trans <|
    (State.modPf_stays ..).swKept.trans <| (State.panMark_stays ..).swKept.trans (State.panSweep_stays ..).swKept

theorem State.drainOne_swKept {s : State} {f : Nat} {t : State} (h : s.drainOne f = some t) : SwKept s t := by
  unfold State.drainOne at h
  split at h
  · split at h
    · obtain rfl := Option.some.inj h
      exact (State.modPf_stays ..).swKept
    · exact State.releaseBand_swKept h
  · exact nomatch h

theorem State.reRelease_swKept {s : State} {f : Nat} {t : State} (h : s.reRelease f = some t) : SwKept s t := by
  unfold State.reRelease at h
  split at h
  · exact nomatch h
  · obtain ⟨_, -, h⟩ := Option.bind_eq_some_iff.mp h
    obtain ⟨_, -, h⟩ := Option.bind_eq_some_iff.mp h
    obtain ⟨_, hw, rfl⟩ := Option.map_eq_some_iff.mp h
    exact (State.writeRelease_swKept hw).trans <| (State.modPf_stays ..).swKept.trans <|
      (SwKept.each (fun (x : Sample) t => (State.panLate_stays t x.slot).swKept) _ _).trans (State.panSweep_stays ..).swKept

theorem State.panDrain_swKept (s : State) (f n : Nat) : SwKept s (s.panDrain f n) := by
  induction n generalizing s with
  | zero => exact .refl s
  | succ n ih =>
    exact .ite (.elim (.refl s) fun _ h => (State.reRelease_swKept h).trans (ih _))
      (.elim (.refl s) fun _ h => (State.drainOne_swKept h).trans (ih _))

theorem State.panAbsent_swKept (s : State) (f : Nat) : SwKept s (s.panAbsent f) := by
  unfold State.panAbsent
  refine SwKept.ite ?_ ?_
  · exact (State.modPf_stays ..).swKept
  extract_lets s0 sr s1 s2 late s3 s4 hi s5 todo
  have h0 : SwKept s s0 := .each (fun n t => (State.placeAll_stays t n _).swKept) _ _
  have hr : SwKept s0 sr := by
    unfold sr
    split
    · exact (State.panRecall_stays ..).swKept
    · exact .refl s0
  have h2 : SwKept sr s2 :=
    (State.modPf_stays sr f _).swKept.trans <| (State.freshenAll_stays s1 f _).swKept.trans (State.refreshAll_stays _ f _).swKept
  have h3 : SwKept s2 s3 :=
    .trans (State.modPf_stays ..).swKept (SwKept.each (fun (x : Sample) t => (State.panLate_stays t x.slot).swKept) late _)
  have h4 : SwKept s3 s4 := .each (fun n t => (State.dropWaiting_stays t n _).swKept) _ _
  have h5 : SwKept s4 s5 := (State.modPf_stays s4 f _).swKept.trans (State.panSweep_stays _).swKept
  exact h0.trans <| hr.trans <| h2.trans <| h3.trans <| h4.trans <| h5.trans (State.panDrain_swKept s5 f todo)

theorem State.motAbsent_swKept (s : State) (f cause : Nat) : SwKept s (s.motAbsent f cause) :=
  (State.edgesDue_stays s f).swKept.trans <| (State.modMotion_stays ..).swKept.trans <| (State.frameState_stays ..).swKept.trans <|
    (State.panAbsent_swKept ..).trans <| (State.actAbsent_stays ..).swKept.trans (State.gate_stays ..).swKept

theorem State.motOff_swKept (s : State) (f : Nat) : SwKept s (s.motOff f) :=
  (SwKept.ite (State.frameState_stays s f 1 4 s.dev).swKept (State.motAbsent_swKept s f 4)).trans (State.modMotion_stays ..).swKept

/-! ### What a register write does to its unit -/

theorem State.onEdge_swKept {s t : State} {was is : Bool} {rise fall : State → State} (b : SwKept s t)
    (hr : SwKept s (rise t)) (hf : SwKept s (fall t)) : SwKept s (t.onEdge was is rise fall) :=
  .ite hr (.ite hf b)

theorem State.linkWrite_swKept (s old : State) {r : Reg} (i v : Nat) (h : r ≠ .aonSwreset) : SwKept s (s.linkWrite old r i v) := by
  unfold State.linkWrite
  split
  case h_1 => exact State.onEdge_swKept (.refl s) (State.ringOn_stays s i).swKept (State.ringOff_stays s i).swKept
  case h_2 => exact .ite (State.raise_stays ..).swKept (.refl s)
  case h_3 => exact rfl
  case h_4 => exact absurd rfl h
  case h_5 => exact .refl s

theorem State.tkWrite_swKept (s old : State) (r : Reg) (i v : Nat) : SwKept s (s.tkWrite old r i v) :=
  (State.tkWrite_stays s old r i v).swKept

theorem State.sensorWrite_swKept (s old : State) (r : Reg) (i j v : Nat) : SwKept s (s.sensorWrite old r i j v) := by
  unfold State.sensorWrite
  split
  case h_1 =>
    have h := State.sspRegroup_swKept s (i / 4) ((quadPorts (i / 4)).filter fun k => old.sspLive k)
    exact .ite (h.trans (State.quadSettle_stays ..).swKept) h
  case h_2 => exact State.onEdge_swKept (.refl s) (State.pocxpEnable_stays ..).swKept (State.pocxpEnable_stays ..).swKept
  case h_3 => exact (State.trigWrite_stays ..).swKept
  case h_4 =>
    have h : SwKept s (s.onEdge (old.senCtrl_EN i) (s.senCtrl_EN i) (fun s => s.senOn i) fun s => s.senOff i) :=
      State.onEdge_swKept (.refl s) (State.senOn_stays ..).swKept (State.senOff_stays ..).swKept
    exact .ite (h.trans (State.quadSettle_stays ..).swKept) h
  case h_5 => exact .ite (State.onEdge_swKept (.refl s) (State.streamOn_stays ..).swKept (State.streamOff_stays ..).swKept) (.refl s)
  case h_6 => exact State.onEdge_swKept (.refl s) (State.encOn_stays ..).swKept (State.encOff_stays ..).swKept
  case h_7 => exact (State.encStallWrite_stays ..).swKept
  case h_8 => exact State.onEdge_swKept (.refl s) (State.spiOn_stays ..).swKept (State.spiOff_stays ..).swKept
  case h_9 => exact State.onEdge_swKept (.refl s) (State.modSpi_stays ..).swKept (.refl s)
  case h_10 => exact State.onEdge_swKept (.refl s) (State.i2cOn_stays ..).swKept (State.i2cOff_swKept ..)
  case h_11 => exact .ite (State.i2cReenable_stays ..).swKept (.refl s)
  case h_12 =>
    exact .trans (State.onEdge_swKept (.refl s) (State.slotOn_stays ..).swKept (State.slotOff_stays ..).swKept)
      (State.onEdge_swKept (.refl _) (State.modSlot_stays ..).swKept (.refl _))
  case h_13 => exact (State.quadRetry_stays ..).swKept
  case h_14 => exact State.onEdge_swKept (.refl s) (State.i2cOn_stays ..).swKept (State.i2cOff_swKept ..)
  case h_15 => exact .ite (State.i2cReenable_stays ..).swKept (.refl s)
  case h_16 => exact .refl s

theorem State.engineWrite_swKept (s old : State) (r : Reg) (i v : Nat) (told : Option Nat) :
    SwKept s (s.engineWrite old r i v told) := by
  unfold State.engineWrite
  split
  case h_1 => exact State.onEdge_swKept (.refl s) (State.motOn_stays ..).swKept (State.motOff_swKept ..)
  case h_2 =>
    exact State.onEdge_swKept (.refl s) (State.panFrameOn_stays ..).swKept
      ((State.panFrameOff_stays ..).swKept.trans (State.fenceOff_stays ..).swKept)
  case h_3 => exact State.onEdge_swKept (.refl s) (State.panStreamOn_stays ..).swKept (State.panStreamOff_stays ..).swKept
  case h_4 => exact State.onEdge_swKept (.refl s) (.refl s) ((State.relayOff_stays s).swKept.trans (State.switchIdle_swKept _))
  case h_5 => exact (State.failing_stays ..).swKept.trans (State.laneSelfTest_stays ..).swKept
  case h_6 => exact .ite (State.abortExchange_swKept s) (.refl s)
  case h_7 => exact (State.dbgCmd_stays ..).swKept
  case h_8 => exact (State.failing_stays ..).swKept.trans (State.unitSelfTest_stays ..).swKept
  case h_9 =>
    have h : SwKept s (s.onEdge old.actCtrl_EN s.actCtrl_EN (fun s => s.unitOn) fun s => s.unitOff) :=
      State.onEdge_swKept (.refl s) (State.unitOn_stays s).swKept (State.unitOff_stays s).swKept
    exact .ite (h.trans (State.actResume_stays _).swKept) h
  case h_10 => exact .trans (SwKept.ite (State.actRelease_stays s).swKept (.refl s)) (State.lineHold_stays _).swKept
  case h_11 => exact State.onEdge_swKept (.refl s) (State.outputOn_stays ..).swKept (State.clearOutput_stays ..).swKept
  case h_12 => exact .refl s

/-- Only a write of AON.SWRESET asks for a software reset (15_startup.md R532). -/
theorem State.regEffect_swKept (s old : State) {p : RegAt} (v : Nat) (told : Option Nat) (h : p.reg ≠ .aonSwreset) :
    SwKept s (s.regEffect old p v told) := by
  unfold State.regEffect
  split
  case h_1 => exact State.linkWrite_swKept s old p.i v h
  case h_2 => exact State.tkWrite_swKept s old p.reg p.i v
  case h_3 => exact State.linkWrite_swKept s old p.i v h
  case h_4 => exact State.sensorWrite_swKept s old p.reg p.i p.j v
  case h_5 => exact State.sensorWrite_swKept s old p.reg p.i p.j v
  case h_6 => exact State.sensorWrite_swKept s old p.reg p.i p.j v
  case h_7 => exact State.sensorWrite_swKept s old p.reg p.i p.j v
  case h_8 => exact State.linkWrite_swKept s old p.i v h
  case h_9 => exact State.engineWrite_swKept s old p.reg p.i v told

end Sys2Proof.Machine
end

/-! PROOFS. Where the words of a register lie, and the latch of a 64-bit register's high half (00_scope.md R14, R15). -/

section

-- One theorem at a time: a thread a theorem would be too many.
set_option Elab.async false

namespace Sys2Proof.Machine

open Sys2Proof

/-! ### Where a register's words lie -/

/-- A register's words are whole words of setup space, and there is at least one of it. -/
def Reg.shaped (r : Reg) : Bool :=
  decide (r.info.base % 4 = 0 ∧ r.info.step1 % 4 = 0 ∧ r.info.step2 % 4 = 0 ∧ r.info.width % 32 = 0 ∧ 0 < r.info.count1 ∧
    0 < r.info.count2)

/-- Read off the list of each block. One block at a time: a kernel evaluation over all of them at once would hold several GB. -/
theorem Reg.shaped_apart_of_mem {b : Nat} {r : Reg} (h : r ∈ Reg.ofBlock b) : r.shaped = true ∧ r.apart = true := by
  unfold Reg.ofBlock at h
  split at h <;> revert r <;> decide +kernel

theorem Reg.shaped_of_mem {b : Nat} {r : Reg} (h : r ∈ Reg.ofBlock b) : r.shaped = true :=
  (Reg.shaped_apart_of_mem h).1

theorem Reg.apart_of_mem {b : Nat} {r : Reg} (h : r ∈ Reg.ofBlock b) : r.apart = true :=
  (Reg.shaped_apart_of_mem h).2

/-- The words of an instance of a register that lies apart are its own. -/
theorem Reg.regAt_of_apart {r : Reg} (h : r.apart = true) {i j k : Nat} (hi : i < r.info.count1) (hj : j < r.info.count2)
    (hk : k < r.info.width / 32) : regAt (r.off i j + 4 * k) = some ⟨r, i, j, k⟩ := by
  simp only [Reg.apart, List.all_eq_true] at h
  exact of_decide_eq_true (h i (mem_upTo hi) j (mem_upTo hj) k (mem_upTo hk))

/-- The number of the instance in which a distance lies: there is such an instance, and it begins no later. -/
theorem instance_bounds (d step : Nat) {n : Nat} (h : 0 < n) :
    (if step = 0 then 0 else min (d / step) (n - 1)) < n ∧ step * (if step = 0 then 0 else min (d / step) (n - 1)) ≤ d := by
  split
  · exact ⟨h, by simp⟩
  · exact ⟨by omega, Nat.le_trans (Nat.mul_le_mul_left step (Nat.min_le_left _ _)) (Nat.mul_div_le d step)⟩

/-- The instance and the word in which an offset lies. -/
theorem Reg.place_eq_some {r : Reg} (sh : r.shaped = true) {off i j w : Nat} (h : r.place off = some (i, j, w)) :
    i < r.info.count1 ∧ j < r.info.count2 ∧ w < r.info.width / 32 ∧ (off % 4 = 0 → off = r.off i j + 4 * w) := by
  unfold Reg.place at h
  extract_lets x d i' d1 j' d2 at h
  obtain ⟨hb, h1, h2, hw, c1, c2⟩ : x.base % 4 = 0 ∧ x.step1 % 4 = 0 ∧ x.step2 % 4 = 0 ∧ x.width % 32 = 0 ∧ 0 < x.count1 ∧ 0 < x.count2 :=
    of_decide_eq_true sh
  rw [Option.ite_none_left_eq_some, Option.ite_none_right_eq_some] at h
  obtain ⟨hlow, hin, h⟩ := h
  obtain ⟨rfl, rfl, rfl⟩ : i' = i ∧ j' = j ∧ d2 / 4 = w := by simpa using h
  obtain ⟨hi, hid⟩ : i' < x.count1 ∧ x.step1 * i' ≤ d := instance_bounds d x.step1 c1
  obtain ⟨hj, hjd⟩ : j' < x.count2 ∧ x.step2 * j' ≤ d1 := instance_bounds d1 x.step2 c2
  have m1 : x.step1 * i' % 4 = 0 := by rw [Nat.mul_mod, h1, Nat.zero_mul]
  have m2 : x.step2 * j' % 4 = 0 := by rw [Nat.mul_mod, h2, Nat.zero_mul]
  change i' < x.count1 ∧ j' < x.count2 ∧ d2 / 4 < x.width / 32 ∧
    (off % 4 = 0 → off = x.base + x.step1 * i' + x.step2 * j' + 4 * (d2 / 4))
  exact ⟨hi, hj, by omega, by omega⟩

/-- A listed offset lies in a word of an instance of its register; a whole word's offset is that word's. -/
theorem regAt_eq_some {off : Nat} {p : RegAt} (h : regAt off = some p) :
    p.reg.apart = true ∧ p.i < p.reg.info.count1 ∧ p.j < p.reg.info.count2 ∧ p.word < p.reg.info.width / 32 ∧
      (off % 4 = 0 → off = p.reg.off p.i p.j + 4 * p.word) := by
  obtain ⟨r, hr, hp⟩ := List.exists_of_findSome?_eq_some h
  obtain ⟨⟨i, j, w⟩, hw, rfl⟩ := Option.map_eq_some_iff.mp hp
  exact ⟨Reg.apart_of_mem hr, Reg.place_eq_some (Reg.shaped_of_mem hr) hw⟩

/-- The words of the instance in which an offset lies. -/
theorem regAt_words {off : Nat} {p : RegAt} (h : regAt off = some p) {k : Nat} (hk : k < p.reg.info.width / 32) :
    regAt (p.reg.off p.i p.j + 4 * k) = some { p with word := k } := by
  obtain ⟨ap, hi, hj, -, -⟩ := regAt_eq_some h
  exact Reg.regAt_of_apart ap hi hj hk

/-! ### Low and high halves (00_scope.md R15) -/

theorem isLow_iff {off : Nat} : isLow off = true ↔ ∃ p, regAt off = some p ∧ p.reg.info.width = 64 ∧ p.word = 0 := by
  unfold isLow
  cases regAt off <;> simp

theorem isHigh_iff {off : Nat} : isHigh off = true ↔ ∃ p, regAt off = some p ∧ p.reg.info.width = 64 ∧ p.word = 1 := by
  unfold isHigh
  cases regAt off <;> simp

theorem isLow_eq_false_of_isHigh {off : Nat} (h : isHigh off = true) : isLow off = false := by
  obtain ⟨p, hp, -, hw⟩ := isHigh_iff.mp h
  simp [isLow, hp, hw]

/-- The word after a low half is its high half. -/
theorem regAt_high_of_low {off : Nat} {p : RegAt} (h : regAt off = some p) (w64 : p.reg.info.width = 64) (w : p.word = 0)
    (a : off % 4 = 0) : regAt (off + 4) = some { p with word := 1 } := by
  obtain ⟨-, -, -, -, ho⟩ := regAt_eq_some h
  have hk := regAt_words h (k := 1) (by omega)
  rwa [show p.reg.off p.i p.j + 4 * 1 = off + 4 by have := ho a; omega] at hk

theorem isHigh_of_isLow {off : Nat} (h : isLow off = true) (a : off % 4 = 0) : isHigh (off + 4) = true := by
  obtain ⟨p, hp, w64, w⟩ := isLow_iff.mp h
  exact isHigh_iff.mpr ⟨_, regAt_high_of_low hp w64 w a, w64, rfl⟩

/-! ### The latch -/

theorem State.hostRead_low {s : State} {off : Nat} (h : isLow off = true) :
    s.hostRead off = (s.readWord off, { s with latchHi := Tab.set off (s.readWord (off + 4)) s.latchHi }) := by
  rw [State.hostRead, if_pos h]

theorem State.hostRead_high_unlatched {s : State} {off : Nat} (h : isHigh off = true) (n : ∀ x ∈ s.latchHi, x.1 ≠ off - 4) :
    s.hostRead off = (s.readWord off, s) := by
  have f : s.latchHi.find? (fun x => decide (x.1 = off - 4)) = none := by simpa using fun a b m => n (a, b) m
  simp [State.hostRead, isLow_eq_false_of_isHigh h, h, f]

theorem State.hostRead_high_latched {s : State} {off : Nat} {x : Nat × Word} (h : isHigh off = true)
    (f : s.latchHi.find? (fun x => decide (x.1 = off - 4)) = some x) :
    s.hostRead off = (x.2, { s with latchHi := Tab.erase (off - 4) s.latchHi }) := by
  simp [State.hostRead, isLow_eq_false_of_isHigh h, h, f]

/-- What a register reads does not depend on the latch. -/
theorem State.readWord_latchHi (s : State) (l : Tab Word) (off : Nat) : ({ s with latchHi := l } : State).readWord off = s.readWord off :=
  rfl

theorem Tab.find?_set {α : Type} (k : Nat) (v : α) : ∀ t : Tab α, (Tab.set k v t).find? (fun x => decide (x.1 = k)) = some (k, v)
  | [] => by simp [Tab.set]
  | (j, x) :: t => by
    unfold Tab.set
    split
    · simp
    · split
      · simp
      · next h _ => simpa [Ne.symm h] using Tab.find?_set k v t

theorem Tab.ne_of_mem_erase {α : Type} {k : Nat} {t : Tab α} {x : Nat × α} (h : x ∈ Tab.erase k t) : x.1 ≠ k := by
  simpa using (List.mem_filter.mp h).2

/-- The read of a high half after its low half was read: the latched word, and then the current one. -/
theorem State.hostRead_high_of_latch {u : State} {off : Nat} {v : Word} {t : Tab Word} (h : isHigh (off + 4) = true)
    (e : u.latchHi = Tab.set off v t) :
    (u.hostRead (off + 4)).1 = v ∧ ((u.hostRead (off + 4)).2.hostRead (off + 4)).1 = u.readWord (off + 4) := by
  have f : u.latchHi.find? (fun x => decide (x.1 = off + 4 - 4)) = some (off, v) := by
    rw [e, Nat.add_sub_cancel, Tab.find?_set]
  rw [State.hostRead_high_latched h f, State.hostRead_high_unlatched h fun x m => Tab.ne_of_mem_erase m]
  exact ⟨rfl, State.readWord_latchHi ..⟩

end Sys2Proof.Machine
end

/-! PROOFS. What a register write stores, what it holds and what it leaves as it was (00_scope.md R12 to R15, 01_line.md R47, R51). -/

section

-- One theorem at a time: a thread a theorem would be too many.
set_option Elab.async false

namespace Sys2Proof.Machine

open Sys2Proof

/-! ### What a write stores -/

theorem lt_of_mem_upTo {n k : Nat} (h : k ∈ upTo n) : k < n := by
  induction n with
  | zero => exact absurd h List.not_mem_nil
  | succ n ih =>
    simp only [upTo, List.mem_append, List.mem_singleton] at h
    rcases h with h | rfl
    · exact Nat.lt_trans (ih h) n.lt_succ_self
    · exact k.lt_succ_self

/-- What every step of a loop keeps, the loop keeps. -/
theorem eachOf_kept {α σ β : Type} {g : σ → β} {f : α → σ → σ} :
    ∀ {as : List α}, (∀ a ∈ as, ∀ t, g (f a t) = g t) → ∀ s, g (eachOf as f s) = g s
  | [], _, _ => rfl
  | a :: _, h, s =>
    (eachOf_kept (fun b m => h b (List.mem_cons_of_mem a m)) (f a s)).trans (h a List.mem_cons_self s)

/-- A loop whose every step leaves a state as it is. -/
theorem eachOf_fixed {α σ : Type} {f : α → σ → σ} {s : σ} : ∀ {as : List α}, (∀ a ∈ as, f a s = s) → eachOf as f s = s
  | [], _ => rfl
  | a :: as, h => by
    have e : eachOf (a :: as) f s = eachOf as f (f a s) := rfl
    rw [e, h a List.mem_cons_self, eachOf_fixed fun b m => h b (List.mem_cons_of_mem a m)]

theorem State.regW_setWord (s : State) (k : Nat) (v : Word) (off : Nat) :
    (s.setWord k v).regW off = if off = k then v else s.regW off := by
  unfold State.setWord State.regW
  dsimp only
  split
  · next hv =>
    split
    · next e => rw [e, hv, Tab.get_erase_same]
    · next n => exact Tab.get_erase_other _ n _
  · exact Tab.get_set ..

/-- An instance of a register whose words are its own. -/
structure Reg.Has (r : Reg) (i j : Nat) : Prop where
  apart : r.apart = true
  fst : i < r.info.count1
  snd : j < r.info.count2

theorem Reg.Has.of_regAt {off : Nat} {p : RegAt} (h : regAt off = some p) : p.reg.Has p.i p.j := by
  obtain ⟨ap, hi, hj, -, -⟩ := regAt_eq_some h
  exact ⟨ap, hi, hj⟩

theorem Reg.Has.of_mem (b : Nat) (r : Reg) {i j : Nat} (hi : i < r.info.count1) (m : r ∈ Reg.ofBlock b := by decide)
    (hj : j < r.info.count2 := by decide) : r.Has i j :=
  ⟨Reg.apart_of_mem m, hi, hj⟩

/-- The dependents of an instance are instances themselves. -/
theorem Reg.Has.of_dependents {r : Reg} {i j : Nat} (h : r.Has i j) {x : Reg × Nat} (m : x ∈ dependents r i) : x.1.Has x.2 0 := by
  obtain ⟨-, hi, -⟩ := h
  unfold dependents at m
  split at m
  case h_1 => obtain rfl := List.mem_singleton.mp m; exact .of_mem 1 .tkLockCfg (by decide)
  case h_2 => obtain rfl := List.mem_singleton.mp m; exact .of_mem 3 .sspTrigPitch hi
  case h_3 => obtain rfl := List.mem_singleton.mp m; exact .of_mem 3 .sspTrigPitch hi
  case h_4 => obtain rfl := List.mem_singleton.mp m; exact .of_mem 8 .trkOutBase (by decide)
  case h_5 => obtain rfl := List.mem_singleton.mp m; exact .of_mem 8 .trkJbase (by decide)
  case h_6 =>
    rcases List.mem_cons.mp m with rfl | m
    · exact .of_mem 11 .kvpCacheNpages hi
    · obtain rfl := List.mem_singleton.mp m
      exact .of_mem 11 .kvpCacheBase hi
  case h_7 => obtain rfl := List.mem_singleton.mp m; exact .of_mem 11 .kvpCacheBase hi
  case h_8 =>
    obtain ⟨k, hk, rfl⟩ := List.mem_map.mp m
    exact .of_mem 14 .iocSlotCfg (lt_of_mem_upTo (List.mem_filter.mp hk).1)
  case h_9 => exact absurd m List.not_mem_nil

section Others

variable {off : Nat} {p : RegAt} {r : Reg} {i j : Nat}

theorem State.regW_setRegFull_of_ne (hp : regAt off = some p) (hr : r.Has i j) (n : (p.reg, p.i, p.j) ≠ (r, i, j)) (s : State)
    (v : Nat) : (s.setRegFull r i j v).regW off = s.regW off := by
  refine eachOf_kept (g := fun t : State => t.regW off) (fun k hk t => ?_) s
  rw [State.regW_setWord, if_neg]
  rintro rfl
  have e := Reg.regAt_of_apart hr.apart hr.fst hr.snd (lt_of_mem_upTo hk)
  obtain rfl := Option.some.inj (hp.symm.trans e)
  exact n rfl

theorem State.regW_refix_of_ne (hp : regAt off = some p) (hr : r.Has i j) (n : (p.reg, p.i, p.j) ≠ (r, i, j)) (s : State)
    (old : Nat) : (s.refix r i j old).regW off = s.regW off :=
  eachOf_kept (g := fun t : State => t.regW off) (fun _ _ t => State.regW_setRegFull_of_ne hp hr n t _) s

/-- The value of a register is stored in it and in the registers whose ranges it sets. -/
theorem State.regW_storeReg_of_ne (hp : regAt off = some p) (hr : r.Has i j) (n : (p.reg, p.i, p.j) ≠ (r, i, j))
    (d : (p.reg, p.i) ∉ dependents r i) (s : State) (v : Nat) : (s.storeReg r i j v).regW off = s.regW off := by
  unfold State.storeReg
  split
  · rfl
  split
  · exact State.regW_setRegFull_of_ne hp hr n s v
  · have own : ((s.setRegFull r i j (s.fieldsOf r i j (s.regFull r i j) v)).refix r i j (s.regFull r i j)).regW off = s.regW off := by
      rw [State.regW_refix_of_ne hp hr n, State.regW_setRegFull_of_ne hp hr n]
    refine (eachOf_kept (g := fun t : State => t.regW off) (fun x hx t => ?_) _).trans own
    refine State.regW_refix_of_ne hp (hr.of_dependents hx) (fun e => ?_) t _
    obtain ⟨e1, e2, -⟩ : p.reg = x.1 ∧ p.i = x.2 ∧ p.j = 0 := by simpa using e
    exact d (by rwa [e1, e2])

end Others

/-! ### What a write does besides -/

theorem State.writeRegWith_held {s : State} {off : Nat} {p : RegAt} (h : regAt off = some p) (o : s.aon.phase ≠ .held)
    (b : s.inResetBlock off = false) (w : p.word + 1 < p.reg.info.width / 32) (told : Option Nat) (v : Word) :
    s.writeRegWith told off v = { s with holdLow := Tab.set off v s.holdLow } := by
  rw [State.writeRegWith, if_neg (by simp [o, b]), h]
  exact if_pos w

/-- The value that a write of a register's last word makes: the words held, the lowest first, and the word written (R15). -/
def State.heldWith (s : State) (off : Nat) (p : RegAt) (v : Word) : Nat :=
  (upTo p.word).foldl (fun n k =>
    n + 2 ^ (32 * k) * (Tab.get (resetWord (off - 4 * p.word + 4 * k)) (off - 4 * p.word + 4 * k) s.holdLow).toNat) 0 +
    2 ^ (32 * p.word) * v.toNat

theorem State.writeRegWith_last {s : State} {off : Nat} {p : RegAt} (h : regAt off = some p) (o : s.aon.phase ≠ .held)
    (b : s.inResetBlock off = false) (w : ¬p.word + 1 < p.reg.info.width / 32) (told : Option Nat) (v : Word) :
    s.writeRegWith told off v =
      ((s.storeReg p.reg p.i p.j (s.heldWith off p v)).regEffect s p (s.heldWith off p v) told).relevel := by
  rw [State.writeRegWith, if_neg (by simp [o, b]), h]
  exact if_neg w

/-- What a write can do: nothing, hold its word, or store the register and let the store take its effect. -/
theorem State.writeRegWith_cases {s : State} {off : Nat} {p : RegAt} (h : regAt off = some p) (told : Option Nat) (v : Word) :
    s.writeRegWith told off v = s ∨ s.writeRegWith told off v = { s with holdLow := Tab.set off v s.holdLow } ∨
      s.writeRegWith told off v =
        ((s.storeReg p.reg p.i p.j (s.heldWith off p v)).regEffect s p (s.heldWith off p v) told).relevel := by
  by_cases c : s.aon.phase = .held ∨ s.inResetBlock off = true
  · exact .inl (by rw [State.writeRegWith, if_pos c])
  · obtain ⟨o, b⟩ := not_or.mp c
    by_cases w : p.word + 1 < p.reg.info.width / 32
    · exact .inr (.inl (State.writeRegWith_held h o (by simpa using b) w told v))
    · exact .inr (.inr (State.writeRegWith_last h o (by simpa using b) w told v))

theorem State.regEffect_relevel_stays (s old : State) (p : RegAt) (v : Nat) (told : Option Nat) :
    Stays [.mem, .freeCtr, .out, .hl, .flt, .aon, .tk, .ing, .mot, .pan, .trk, .rly, .slv, .act] s (s.regEffect old p v told).relevel :=
  (State.regEffect_stays s old p v told).step (State.relevel_stays _) (by decide)

/-- Only a write of AON.SWRESET asks for a software reset. -/
theorem State.writeRegWith_swKept {s : State} {off : Nat} {p : RegAt} (h : regAt off = some p) (n : p.reg ≠ .aonSwreset)
    (told : Option Nat) (v : Word) : SwKept s (s.writeRegWith told off v) := by
  rcases State.writeRegWith_cases h told v with e | e | e
  · rw [e]; exact .refl s
  · rw [e]; exact .refl s
  · rw [e]
    exact (State.storeReg_stays ..).swKept.trans <| (State.regEffect_swKept _ s _ told n).trans (State.relevel_swKept _)

/-- After a write that asks for no software reset only the host ports follow. -/
theorem State.settleWrite_stays_of_swKept {s old : State} (h : SwKept old s) : Stays [.hl, .tk] s (s.settleWrite old) := by
  have f : Stays [.hl, .tk] s (if s.portsStarted then s.portsFollow old else s) := .ite (State.portsFollow_stays s old) (.refl _ s)
  have k : SwKept old (if s.portsStarted then s.portsFollow old else s) := h.trans f.swKept
  unfold State.settleWrite
  rw [if_neg (by rw [k]; simp)]
  exact f

theorem State.hostWrite_stays_writeRegWith {s : State} {off : Nat} {p : RegAt} (h : regAt off = some p) (n : p.reg ≠ .aonSwreset)
    (told : Option Nat) (v : Word) : Stays [.hl, .tk] (s.writeRegWith told off v) (s.hostWrite told off v) :=
  State.settleWrite_stays_of_swKept (State.writeRegWith_swKept h n told v)

theorem State.portsFollow_of_regs_eq {s old : State} (h : s.regs = old.regs) : s.portsFollow old = s := by
  have w (off : Nat) : s.regW off = old.regW off := by rw [State.regW, State.regW, h]
  have on (p : Nat) : s.portOn p = old.portOn p := by
    simp only [State.portOn, State.hlCtrl_PORT_EN, State.fld, w]
  have sp (p : Nat) : s.hlPCfg_SPEED p = old.hlPCfg_SPEED p := by
    simp only [State.hlPCfg_SPEED, State.fld, w]
  refine eachOf_fixed fun p _ => ?_
  cases e : old.portOn p <;> simp [on, sp, e]

/-- After a change of no register that asks for no software reset nothing follows. -/
theorem State.settleWrite_of_regs_eq {s old : State} (h : s.regs = old.regs) (k : SwKept old s) : s.settleWrite old = s := by
  have f : (if s.portsStarted then s.portsFollow old else s) = s := by rw [State.portsFollow_of_regs_eq h, ite_self]
  unfold State.settleWrite
  rw [f, if_neg (by rw [k]; simp)]

/-- A write of a word that is not its register's last is held and does nothing else. -/
theorem State.hostWrite_held {s : State} {off : Nat} {p : RegAt} (h : regAt off = some p) (o : s.aon.phase ≠ .held)
    (b : s.inResetBlock off = false) (w : p.word + 1 < p.reg.info.width / 32) (told : Option Nat) (v : Word) :
    s.hostWrite told off v = { s with holdLow := Tab.set off v s.holdLow } := by
  rw [State.hostWrite, State.writeRegWith_held h o b w]
  exact State.settleWrite_of_regs_eq rfl rfl

theorem State.holdLow_stays (s : State) (h : Tab Word) : Stays [.holdLow] s { s with holdLow := h } :=
  Stays.mk_of id fun p => by cases p <;> simp [Part.same]

/-- A write of a register's last word: beyond the values that it stores it changes no register, held word or latch. -/
theorem State.hostWrite_last_stays {s : State} {off : Nat} {p : RegAt} (h : regAt off = some p) (n : p.reg ≠ .aonSwreset)
    (o : s.aon.phase ≠ .held) (b : s.inResetBlock off = false) (w : ¬p.word + 1 < p.reg.info.width / 32) (told : Option Nat) (v : Word) :
    Stays [.mem, .freeCtr, .out, .hl, .flt, .aon, .tk, .ing, .mot, .pan, .trk, .rly, .slv, .act]
      (s.storeReg p.reg p.i p.j (s.heldWith off p v)) (s.hostWrite told off v) := by
  have ht := State.hostWrite_stays_writeRegWith (s := s) h n told v
  rw [State.writeRegWith_last h o b w] at ht
  exact (State.regEffect_relevel_stays ..).step ht (by decide)

theorem State.heldWith_high (s : State) (off : Nat) (r : Reg) (i j : Nat) (v : Word) :
    s.heldWith off ⟨r, i, j, 1⟩ v = (Tab.get (resetWord (off - 4)) (off - 4) s.holdLow).toNat + 2 ^ 32 * v.toNat := by
  simp [State.heldWith, upTo]

/-- A register of two words is not AON.SWRESET. -/
theorem ne_aonSwreset_of_width {r : Reg} (h : r.info.width = 64) : r ≠ .aonSwreset := by
  rintro rfl
  exact absurd h (by decide)

theorem State.regPairs_latchHi (n : Nat) (b : List Byte) (s : State) : (State.regPairs n b s).s.latchHi = s.latchHi :=
  (State.regPairs_stays n b s).only .latchHi (by decide)

/-- A host's write of a register other than AON.SWRESET leaves the registers that do not depend on it. -/
theorem State.regW_hostWrite_of_ne {s : State} {off off2 : Nat} {a p : RegAt} (h : regAt off = some a) (n : a.reg ≠ .aonSwreset)
    (hp : regAt off2 = some p) (ne : (p.reg, p.i, p.j) ≠ (a.reg, a.i, a.j)) (d : (p.reg, p.i) ∉ dependents a.reg a.i)
    (told : Option Nat) (v : Word) : (s.hostWrite told off v).regW off2 = s.regW off2 := by
  have regW_of {t u : State} (e : u.regs = t.regs) : u.regW off2 = t.regW off2 := by rw [State.regW, State.regW, e]
  rw [regW_of ((State.hostWrite_stays_writeRegWith h n told v).only .regs (by decide))]
  rcases State.writeRegWith_cases h told v with e | e | e
  · rw [e]
  · rw [e]; rfl
  · rw [e, regW_of ((State.regEffect_relevel_stays ..).only .regs (by decide))]
    exact State.regW_storeReg_of_ne hp (.of_regAt h) ne d s _

theorem Reg.off_aligned {r : Reg} (h : r.shaped = true) (i j : Nat) : r.off i j % 4 = 0 := by
  obtain ⟨hb, h1, h2, -⟩ := of_decide_eq_true h
  simp [Reg.off, Nat.add_mod, Nat.mul_mod, hb, h1, h2]

/-- A command that writes one register is the general command at its offset. -/
theorem exec_eq_setupRegisterWrite {c : Instr} {s : State} {v : Word} (b : Nat) {r : Reg} {i j : Nat}
    (e : exec c s = .next (s.writeOf none r i j v)) (hi : i < r.info.count1 := by decide) (hj : j < r.info.count2 := by decide)
    (m : r ∈ Reg.ofBlock b := by decide) : exec c s = exec (.setupRegisterWrite (r.off i j) v) s := by
  have g : exec (.setupRegisterWrite (r.off i j) v) s = .next (s.hostWrite none (r.off i j) v) :=
    congrArg Host.Outcome.next (if_pos (Reg.off_aligned (Reg.shaped_of_mem m) i j))
  rw [e, g, State.writeOf, if_pos ⟨hi, hj⟩]

/-- The same for a command that asks for a bit of the value to be set. -/
theorem exec_eq_setupRegisterWrite_of_bit {c : Instr} {s : State} {v : Word} (b : Nat) {r : Reg} {i j k : Nat}
    (e : exec c s = .next (if bit v.toNat k then s.writeOf none r i j v else s)) (h : bit v.toNat k = true)
    (hi : i < r.info.count1 := by decide) (hj : j < r.info.count2 := by decide)
    (m : r ∈ Reg.ofBlock b := by decide) : exec c s = exec (.setupRegisterWrite (r.off i j) v) s :=
  exec_eq_setupRegisterWrite b (e.trans (by rw [if_pos h])) hi hj m

/-- The same for a command that asks for a bit of the value to be clear. -/
theorem exec_eq_setupRegisterWrite_of_not_bit {c : Instr} {s : State} {v : Word} (b : Nat) {r : Reg} {i j k : Nat}
    (e : exec c s = .next (if bit v.toNat k then s else s.writeOf none r i j v)) (h : bit v.toNat k = false)
    (hi : i < r.info.count1 := by decide) (hj : j < r.info.count2 := by decide)
    (m : r ∈ Reg.ofBlock b := by decide) : exec c s = exec (.setupRegisterWrite (r.off i j) v) s :=
  exec_eq_setupRegisterWrite b (e.trans (by rw [h]; rfl)) hi hj m

end Sys2Proof.Machine
end

section

-- One theorem at a time: a thread a theorem would be too many.
set_option Elab.async false

open Sys2Proof Sys2Proof.Machine

/-- Settles O1: the latch of the high half and the holding register of the low half, a write of the high half taking both. -/
theorem halvesGoTogether : Obligations.HalvesGoTogether := by
  unfold Obligations.HalvesGoTogether
  refine ⟨fun s off lo a o => ?_, fun s off hi n => State.hostRead_high_unlatched hi n, State.regPairs_latchHi,
    fun s off v lo a o b => ?_, fun s off v r i j hr w64 a o b => ?_⟩
  · have e : exec (.lowHalfRead off) s = .next (s.hostRead off).2 := congrArg Host.Outcome.next (if_pos (by simp [lo, a, o]))
    refine ⟨_, e, (State.hostRead_stays s off).only, fun u hu => ?_⟩
    rw [State.hostRead_low lo] at hu
    exact State.hostRead_high_of_latch (isHigh_of_isLow lo a) hu
  · obtain ⟨p, hp, w64, w⟩ := isLow_iff.mp lo
    have e : exec (.lowHalfWrite off v) s = .next (s.hostWrite none off v) := congrArg Host.Outcome.next (if_pos (by simp [lo, a]))
    rw [State.hostWrite_held hp o b (by omega)] at e
    exact ⟨_, e, (State.holdLow_stays ..).only, Tab.get_set_same ..⟩
  · have hi : isHigh off = true := isHigh_iff.mpr ⟨_, hr, w64, rfl⟩
    have e : exec (.highHalfWrite off v) s = .next (s.hostWrite none off v) := congrArg Host.Outcome.next (if_pos (by simp [hi, a]))
    have hs := State.storeReg_stays s r i j (s.heldWith off ⟨r, i, j, 1⟩ v)
    have ht := State.hostWrite_last_stays hr (ne_aonSwreset_of_width w64) o b (by simp [w64]) none v
    rw [← State.heldWith_high s off r i j v]
    exact ⟨_, e, ht.only .regs (by decide), (ht.only .holdLow (by decide)).trans (hs.only .holdLow (by decide)),
      (ht.only .latchHi (by decide)).trans (hs.only .latchHi (by decide))⟩

/-- Settles O59: the words that a write stores are those of its register and of the registers that depend on it, and no write but that
of AON.SWRESET takes reset; a command of one register is by definition that register's write. -/
theorem writesKeepOtherRegisters : Obligations.WritesKeepOtherRegisters := by
  unfold Obligations.WritesKeepOtherRegisters
  refine ⟨fun s off v r i j w h n _ => ?_, fun s v => ?_, fun s n v => ?_⟩
  · by_cases a : off % 4 = 0
    · exact ⟨_, congrArg Host.Outcome.next (if_pos a), fun off2 p hp ne d => State.regW_hostWrite_of_ne h n hp ne d none v⟩
    · exact ⟨s, congrArg Host.Outcome.next (if_neg a), fun _ _ _ _ _ => rfl⟩
  · exact ⟨exec_eq_setupRegisterWrite 1 rfl, exec_eq_setupRegisterWrite 1 rfl, exec_eq_setupRegisterWrite 1 rfl,
      exec_eq_setupRegisterWrite 14 rfl, exec_eq_setupRegisterWrite 9 rfl, exec_eq_setupRegisterWrite 15 rfl,
      exec_eq_setupRegisterWrite 0 rfl,
      fun h => ⟨exec_eq_setupRegisterWrite_of_bit 9 rfl h, exec_eq_setupRegisterWrite_of_bit 13 rfl h⟩,
      fun h => ⟨exec_eq_setupRegisterWrite_of_bit 9 rfl h, exec_eq_setupRegisterWrite_of_bit 13 rfl h⟩,
      exec_eq_setupRegisterWrite_of_bit 9 rfl, exec_eq_setupRegisterWrite_of_bit 9 rfl,
      exec_eq_setupRegisterWrite_of_bit 13 rfl, exec_eq_setupRegisterWrite_of_not_bit 13 rfl⟩
  · exact ⟨fun hn => exec_eq_setupRegisterWrite 14 rfl hn,
      fun hn => ⟨exec_eq_setupRegisterWrite 3 rfl hn, exec_eq_setupRegisterWrite 3 rfl hn⟩,
      fun hn => exec_eq_setupRegisterWrite 4 rfl hn,
      fun hn => ⟨exec_eq_setupRegisterWrite 5 rfl hn, exec_eq_setupRegisterWrite 5 rfl hn⟩,
      fun hn => exec_eq_setupRegisterWrite 2 rfl hn,
      fun hn h => exec_eq_setupRegisterWrite_of_not_bit 1 rfl h hn, fun hn h => exec_eq_setupRegisterWrite_of_not_bit 13 rfl h hn,
      fun hn h => ⟨exec_eq_setupRegisterWrite_of_bit 6 rfl h hn, exec_eq_setupRegisterWrite_of_bit 7 rfl h hn⟩,
      fun hn h => ⟨exec_eq_setupRegisterWrite_of_not_bit 6 rfl h hn, exec_eq_setupRegisterWrite_of_not_bit 7 rfl h hn⟩⟩

end

/-! PROOFS. The refutation of O60: among its frames, the one of the release of the safe state leaves out what the reset of a silent
island changes (14_faults.md R505, R517; log 188). -/

section

-- One theorem at a time: a thread a theorem would be too many.
set_option Elab.async false

open Sys2Proof

namespace Sys2Proof.Machine

/-- The frame that `Obligations.CommandsKeepOtherParts` gives the release of the safe state while no message waits. -/
def SafeReleaseFrame : Prop :=
  ∀ s t, s.nextMsg = none → exec .safeStateRelease s = .next t → Only [.now, .hl, .flt, .pan, .rly] s t

/-- A state in the safe state, neither sticky nor with an unacknowledged fault of class F, in which the Actuation Unit (SOURCE 0x5D)
is silent and an actuation waits in its intake. -/
def silentActuation : State :=
  { State.reset with
    flt := { State.reset.flt with safe := true, silent := [0x5D] }
    act := { State.reset.act with intake := [{ data := [], slot := none, host := true }] } }

theorem silentActuation_nextMsg : silentActuation.nextMsg = none := by
  decide +kernel

/-- The release of the safe state resets the silent Actuation Unit, whose intake is emptied. -/
theorem safeStateRelease_silentActuation : Gives .safeStateRelease silentActuation fun t => t.act.intake = [] :=
  ⟨_, rfl, by decide +kernel⟩

/-- The release changes the part of the Actuation Unit, which the frame does not list. -/
theorem not_safeReleaseFrame : ¬ SafeReleaseFrame := by
  intro hframe
  obtain ⟨t, hexec, hempty⟩ := safeStateRelease_silentActuation
  have hsame : t.act = silentActuation.act := hframe _ t silentActuation_nextMsg hexec .act (by decide)
  have hwaits : silentActuation.act.intake ≠ [] := List.cons_ne_nil _ _
  exact hwaits (hsame ▸ hempty)

/-- Refutes O60: from `silentActuation` the release of the safe state empties the intake of the Actuation Unit, a part its frame
`[.now, .hl, .flt, .pan, .rly]` does not name. The frame lacks the hypothesis that no island is silent. -/
theorem not_commandsKeepOtherParts : ¬ Obligations.CommandsKeepOtherParts := by
  unfold Obligations.CommandsKeepOtherParts
  intro h
  repeat obtain ⟨_, h⟩ := h
  have hframe : SafeReleaseFrame := by assumption
  exact not_safeReleaseFrame hframe

end Sys2Proof.Machine

end

/-! PROOFS. The refutation of O28: read back, a result is what was written only while memory is in canonical form (log 12), which the
statement does not ask of its states. -/

section

-- One theorem at a time: a thread a theorem would be too many.
set_option Elab.async false

open Sys2Proof

namespace Sys2Proof.Machine

/-- CONVERT of the tensor of handle 1 into that of handle 0, with exponent 0 and no flags (07_aurik_ops.md R280, R295). -/
def convertCmd : List Byte := [0x49] ++ zeros 7 ++ [0, 1] ++ zeros 22

/-- The descriptor of one INT32 element at an offset of the scratchpad (06_aurik_machine.md R239). -/
def wordDesc (base : Nat) : List Byte := by4 base ++ [0, 0, 7, 0] ++ by2 1 ++ by2 1 ++ by2 1 ++ by2 1 ++ zeros 16

/-- A program whose execute stream is `convertCmd`: D at offset 64 of the scratchpad, A at 128. -/
def convertProg : List Byte :=
  zeros 16 ++ by4 0 ++ by4 1 ++ by2 2 ++ zeros 38 ++ convertCmd ++ wordDesc 64 ++ wordDesc 128

/-- The Relay is enabled and Lane 0 is about to run `convertProg`; A is 0, and the memory list names the first byte of D twice. -/
def doubledCell : State :=
  { State.reset with
    regs := [(Reg.rlyCtrl.off 0 0, 1)]
    mem := [(spBase + 64, 1), (spBase + 64, 2)]
    rly := { State.reset.rly with prog := { State.reset.rly.prog with slots := [(0, convertProg)] } } }

/-- The missing hypothesis: the memory of `doubledCell` is not in canonical form. -/
theorem not_memOk_doubledCell : ¬ MemOk doubledCell := by
  unfold MemOk
  decide +kernel

/-- What the statement asks of a CONVERT, `doubledCell` meets. -/
theorem doubledCell_plainly :
    Plainly doubledCell 0x49 0 convertCmd [0, 3] ∧ IsRow (doubledCell.desc (u8 convertCmd 8)) 1 ∧
      IsRow (doubledCell.desc (u8 convertCmd 9)) 1 := by
  simp only [Plainly, Issues, InScratch, IsRow]
  decide +kernel

/-- The element that `doubledCell` converts, times 2^0, is 0. -/
theorem doubledCell_result :
    clip32 (spWord doubledCell 0 (doubledCell.desc (u8 convertCmd 9)).base * 2 ^ (signed 8 (u8 convertCmd 16)).toNat) = 0 := by
  decide +kernel

/-- Its four bytes 0 are written to D; the first takes one of the two cells of its address out of the list, and the other is read. -/
theorem convert_doubledCell :
    Gives (.convert 0) doubledCell fun t => spWord t 0 (doubledCell.desc (u8 convertCmd 8)).base = 2 :=
  ⟨_, rfl, by decide +kernel⟩

/-- Refutes O28: from `doubledCell` CONVERT of an element 0 leaves a D that reads 2. Every clause reads its result back from device
memory, and the statement lacks the hypothesis that memory is in canonical form (`MemOk`). -/
theorem not_operatorsCompute : ¬ Obligations.OperatorsCompute := by
  unfold Obligations.OperatorsCompute
  intro h
  obtain ⟨-, -, -, -, -, hconvert, -⟩ := h
  obtain ⟨hplain, hd, ha⟩ := doubledCell_plainly
  obtain ⟨t, ht, hword, -⟩ := hconvert doubledCell 0 convertCmd hplain hd ha
  obtain ⟨u, hu, htwo⟩ := convert_doubledCell
  obtain rfl : t = u := by simpa [ht] using hu
  have hzero : spWord t 0 (doubledCell.desc (u8 convertCmd 8)).base = 0 := (hword (by decide)).trans doubledCell_result
  exact absurd (hzero.symm.trans htwo) (by decide)

end Sys2Proof.Machine

end
